-- ==== Sys2Proof/Word.lean ====
section
/-!
DEFINITION. The word types of the HV-G9A (R3, R4) and nothing else: bit fields, extensions and byte
order live in `Sys2Proof/Machine/Bits.lean`.
-/

namespace Sys2Proof

/-- One byte of any memory. -/
abbrev Byte := BitVec 8

/-- A 32-bit word: the unit in which instructions and descriptors are stored (R4). -/
abbrev Word := BitVec 32

/-- A 64-bit word: a scalar register, a control register, a tagged scratchpad word (R80). -/
abbrev DWord := BitVec 64

/-- A vector register: 1,024 bits (R171, with VLB = 128). -/
abbrev VWord := BitVec 1024

/-- A predicate: one bit for each byte of a vector register (R172). -/
abbrev PWord := BitVec 128

/-- An 18-bit local address (R20, R21). -/
abbrev LAddr := BitVec 18

end Sys2Proof
end

