-- ==== Sys2Proof/Syntax.lean ====
section
/-!
DEFINITION. The instructions and engine events of the HV-G9A as syntax: one constructor of `Instr` for
each row of the opcode table (R71 for the encodable ones; the step table of
`spec/95_what_each_step_holds.md` for the events of the engines, the hub, the hosts and the package).
No meaning stands here.
-/

namespace Sys2Proof

/-! ## Operand kinds of encodable instructions -/

/-- A scalar register number, s0 to s31 (R12). -/
abbrev SReg := BitVec 5
/-- A vector register number, v0 to v31. -/
abbrev VReg := BitVec 5
/-- A predicate number, p0 to p7. -/
abbrev PReg := BitVec 3
/-- An accumulator tile name, a0 to a15 (R206). -/
abbrev Acc := BitVec 4
/-- A bank name of the Bezel (R206). -/
abbrev BankName := BitVec 4

/-- The element formats a format field can name (R67): codes 000 to 101. -/
inductive Fmt where
  | f32 | bf16 | i32 | i16 | i8 | ts8
  deriving DecidableEq, Repr

/-- Rounding codes of an encoding (R52): 000 dynamic, then the five modes. -/
inductive Rnd where
  | dyn | rne | rtz | rdn | rup | rna
  deriving DecidableEq, Repr

/-- Branch and compare conditions (R68). -/
inductive Cond where
  | eq | ne | lt | ge | ltn | gen | al
  deriving DecidableEq, Repr

/-- Ordering scopes (R25, Table 01.7). -/
inductive Scope where
  | core | die | device | pod | system
  deriving DecidableEq, Repr

/-- Load variants of Table 03.14. -/
inductive LdW where
  | d | s32 | z32 | s16 | z16 | s8 | z8
  deriving DecidableEq, Repr

/-- Store variants of Table 03.14. -/
inductive StW where
  | d | b32 | b16 | b8
  deriving DecidableEq, Repr

/-- The extensions EXT selects with g (R105). -/
inductive ExtKind where
  | s8 | s16 | s32 | z8 | z16 | z32
  deriving DecidableEq, Repr

/-- The counter WAITC selects with g (R103). -/
inductive WaitSel where
  | loads | stores | copies | bezel | all | rep
  deriving DecidableEq, Repr

/-- OPS of the atomics and reductions (Table 09.1). -/
inductive AmoOp where
  | add | and | or | xor | min | max | minn | maxn | swap
  deriving DecidableEq, Repr

/-- ORD of the atomics (Table 09.1). -/
inductive Ord where
  | relaxed | acquire | release | acqRel
  deriving DecidableEq, Repr

/-- The operation of VREDUCE and VSCAN (R192); also OP of a strand entry (Table 04.5). -/
inductive RedOp where
  | add | min | max | and | or | xor
  deriving DecidableEq, Repr

/-- The condition of VCMP (R185). -/
inductive VCond where
  | eq | ne | lt | ge | le | gt
  deriving DecidableEq, Repr

/-- The variant of VSEL (R186). -/
inductive SelKind where
  | pred | pres | lt | gt
  deriving DecidableEq, Repr

/-- The direction of CPY (Table 05.3). -/
inductive CpyDir where
  | gl | lg | lr | ll
  deriving DecidableEq, Repr

/-- The page sizes of TLBINV.page and of a TLB entry (Table 12.4). -/
inductive PageSize where
  | k4 | k64 | m2 | g1
  deriving DecidableEq, Repr

/-- The selector of MSTAT (R223). -/
inductive StatSel where
  | tile | seq | err
  deriving DecidableEq, Repr

/-- The lane predicate of a vector form: word 0's guard, or a prefix word (R69, R70, Table 02.9).
A prefix replaces the guard, which is then 000. -/
inductive Guard where
  | plain (g : PReg)
  | pfx (ax : Bool) (d4 : VReg) (rnd : Rnd) (z : Bool) (mask : PReg)
  deriving DecidableEq, Repr

/-- Source of VBCAST (R189): a scalar register, or element k of a vector register. -/
inductive BcastSrc where
  | scalar (a : SReg)
  | elem (a : VReg) (k : BitVec 7)
  deriving DecidableEq, Repr

/-- CPY's fields (Table 05.3); b, a and d are used as the direction says. -/
structure CpyF where
  dir : CpyDir
  scope : Scope
  b : SReg
  a : SReg
  d : SReg
  nwm1 : BitVec 15
  aq : Bool
  rl : Bool
  dec : Bool
  tf : Bool
  inv : Bool
  disp : Word
  deriving DecidableEq, Repr

/-- CPY2's fields (Table 05.5); `lg` is DIR = 1. -/
structure Cpy2F where
  fmt : Fmt
  scope : Scope
  b : SReg
  a : SReg
  d : SReg
  rowsM1 : BitVec 8
  rwdM1 : BitVec 9
  lg : Bool
  aq : Bool
  rl : Bool
  dec : Bool
  tf : Bool
  inv : Bool
  bnd : Bool
  gs : Word
  ls : BitVec 18
  deriving DecidableEq, Repr

/-- SEND's fields (R162); LAST is told by the constructor. -/
structure SendF where
  scope : Scope
  a : SReg
  k : BitVec 2
  rl : Bool
  aq : Bool
  len : Word
  deriving DecidableEq, Repr

/-- MDRAIN's fields (Table 07.5); b and c are used when `sc` and `cn` say so. -/
structure MdrainF where
  fmt : Fmt
  scope : Scope
  d : Acc
  a : SReg
  b : SReg
  c : SReg
  rnd : Rnd
  cn : Bool
  cl : Bool
  sc : Bool
  nm : Bool
  aq : Bool
  rl : Bool
  deriving DecidableEq, Repr

/-- SPAWN's fields (Table 10.2). -/
structure SpawnF where
  d : SReg
  a : SReg
  b : SReg
  k : BitVec 8
  c : SReg
  lk : Bool
  mn : Bool
  all : Bool
  tag : Word
  deriving DecidableEq, Repr

/-! ## Who and what an engine event concerns -/

/-- A core that executes instructions: a work core by its position (1024 × die + 32 y + x, R14), the
translation core of a cluster (16 × die + cluster, R16), a service core, the root monitor core. -/
inductive CoreId where
  | work (pos : Nat)
  | transl (c : Nat)
  | service (p : Nat)
  | root
  deriving DecidableEq, Repr

/-- The two queues of a copy engine (R147). -/
inductive CopyQueue where
  | transfer | tile
  deriving DecidableEq, Repr

/-- An actor: context number and index in that context's actor table (R269). -/
structure ActorId where
  ctx : Nat
  idx : Nat
  deriving DecidableEq, Repr

/-- A node of a die's strand tree: a router by position, or the die's base-tier node (R118, R435). -/
inductive StrandNode where
  | router (pos : Nat)
  | base (die : Nat)
  deriving DecidableEq, Repr

/-- A register a plain REGISTER_WRITE names: a control register of a core, or a control-space
address (R6, R410). -/
inductive RegRef where
  | cr (num : BitVec 12)
  | ctl (pa : Nat) (priv : Nat)
  /-- the boot software has Hallmark extend measurement register i by the digest of an object (R422, R424) -/
  | extend (i : Nat) (object : List Byte)
  /-- a signature check of the boot has failed (R425) -/
  | signatureFailed
  /-- Zaran writes certificate slot 1 (R420) -/
  | ownerCert (chain : List Byte)
  /-- Zaran enables the CXL link (R424 step 7) -/
  | linkEnable
  /-- the management interface writes the boot flash, reads it, or reads the thermal-trip and recovery status (R430) -/
  | flashWrite (a : Nat) (bytes : List Byte)
  | flashRead (a n : Nat)
  | manageStatus
  deriving DecidableEq, Repr

/-- Who writes a host-attach register (R413). -/
inductive Writer where
  | root
  | service (p : Nat)
  /-- other code at privilege 2 or 3: a translation core, a die's boot program -/
  | other
  deriving DecidableEq, Repr

/-- How a host memory request ends (R417). -/
inductive HostEnd where
  | data (bytes : List Byte)
  | unsupported
  | poison
  deriving DecidableEq, Repr

/-- How the fabric answers a request (R396, R399, R400). -/
inductive FabricEnd where
  | ack
  | data (bytes : List Byte)
  | gone
  | refused
  | poison
  /-- the target lies outside the contexts that the operation may name (R271) -/
  | denied
  deriving DecidableEq, Repr

/-- What a memory request carries: MODE and CMP of the requester's page, and its context (R255, R264, R392). -/
structure PageUse where
  mode : BitVec 2
  cmp : BitVec 2
  ctx : Nat
  deriving DecidableEq, Repr

/-- A request that arrives from another device (R391, R392, R399): its kind and operands. -/
inductive FabricReq where
  | load (pa n : Nat) (via : PageUse)
  | store (pa : Nat) (bytes : List Byte) (via : PageUse)
  /-- a store of some of the bytes: those at the offsets listed -/
  | masked (pa : Nat) (bytes : List Byte) (mask : List Nat) (via : PageUse)
  | amo (pa n : Nat) (op : AmoOp) (y : DWord) (via : PageUse)
  | cas (pa n : Nat) (y z : DWord) (via : PageUse)
  | amobnd (pa n : Nat) (y z : DWord) (via : PageUse)
  | elem (pa : Nat) (op : RedOp) (fmt : Fmt) (cnt : Bool) (rm : Rnd) (elems : List (Nat × Nat)) (via : PageUse)
  | tile (dest : DWord) (port : Nat) (bytes : List Byte)
  | message (dest : DWord) (bytes : List Byte) (scope : Scope)
  /-- `timer` is the number of the timer it comes from (R286), `link` says that a link carried it (R290 step 4) -/
  | exitSignal (dest frm : DWord) (reason : Nat) (tag : Word) (timer : Option Nat) (link : Bool) (scope : Scope)
  | link (dest frm : DWord)
  | unlink (dest frm : DWord)
  | watch (dest frm : DWord) (tag : Word)
  | unwatch (dest frm : DWord) (tag : Word)
  | kill (dest frm : DWord) (reason : Nat)
  | portcfg (dest frm : DWord) (port : Nat)
  /-- MIGRATE of an actor to s[b] (R296) -/
  | migrate (dest frm place : DWord)
  /-- an actor moves to a core of the receiving device (R296 step 3): its control block and link table, FILLED and HEAD of its
  rings, and the bytes and tags of its beads -/
  | move (name : DWord) (core : Nat) (block links : List Byte) (rings : List (Nat × Nat)) (bytes : List Byte) (tags : List Bool)
  /-- an operation on the record of a supervisor that is on another device than its name's, which keeps the record: 0 to 2 as f of
  Table 11.3, 4 RESTART.child, 5 the reservations of SUPCFG.add, 6 their release -/
  | supcfg (name : DWord) (f : Nat) (x y : DWord) (bytes : List Byte)
  /-- an actor has died on another device than its name's (R290 step 6) -/
  | died (name : DWord) (reason : Nat)
  /-- an actor now stands at a place of a device: 2²⁰ × device + 64 × core index + slot (R296 step 4) -/
  | located (name : DWord) (place : Nat)
  | strandValue (k op fmt : Nat) (lanes : List (BitVec 32)) (counts : List Nat) (conds : BitVec 6)
  | strandResult (k : Nat) (lanes : List (BitVec 32)) (counts : List Nat) (conds : BitVec 6)
  | migrationNotice (p : Nat) (bytes : List Byte)
  /-- a granule of a Locket stream, or its poison record, towards a safe tier -/
  | granule (stream offset : Nat) (bytes : List Byte) (poison : Bool)
  deriving DecidableEq, Repr

/-- How a Locket stream ends (R407). -/
inductive StreamEnd where
  | done | stopped | failed
  deriving DecidableEq, Repr

/-- What a patrol or an access meets in the array (R260). -/
inductive EccKind where
  | clean | correctable | uncorrectable
  deriving DecidableEq, Repr

/-- A service state that an uncorrectable error can hit (R384). -/
inductive ServiceUnit where
  | service (p : Nat)
  | root
  deriving DecidableEq, Repr

/-- Where an SPDM request arrives (R420): the DOE mailbox of a physical function, or MCTP. -/
inductive SpdmPort where
  | doe (pf : Nat)
  | mctp
  deriving DecidableEq, Repr

/-! ## The instructions and events -/

/-- One constructor for each row of the opcode table, in families; those without operands stand last. Field order is destination, sources,
then immediates; `d`, `a`, `b` and `c` are the manual's register fields. -/
inductive Instr where
  -- ENCODED INSTRUCTIONS
  -- Class 0: integer (R104, R105)
  /-- ADD. -/
  | add (w : Bool) (d a b : SReg)
  /-- ADD, immediate form. -/
  | addImm (w : Bool) (d a : SReg) (imm : Word)
  /-- SUB. -/
  | sub (w : Bool) (d a b : SReg)
  /-- SUB, immediate form. -/
  | subImm (w : Bool) (d a : SReg) (imm : Word)
  /-- MUL. -/
  | mul (w : Bool) (d a b : SReg)
  /-- MUL, immediate form. -/
  | mulImm (w : Bool) (d a : SReg) (imm : Word)
  /-- MULH. -/
  | mulh (w : Bool) (d a b : SReg)
  /-- MULH, immediate form. -/
  | mulhImm (w : Bool) (d a : SReg) (imm : Word)
  /-- MULHN. -/
  | mulhn (w : Bool) (d a b : SReg)
  /-- MULHN, immediate form. -/
  | mulhnImm (w : Bool) (d a : SReg) (imm : Word)
  /-- DIV. -/
  | div (w : Bool) (d a b : SReg)
  /-- DIV, immediate form. -/
  | divImm (w : Bool) (d a : SReg) (imm : Word)
  /-- DIVN. -/
  | divn (w : Bool) (d a b : SReg)
  /-- DIVN, immediate form. -/
  | divnImm (w : Bool) (d a : SReg) (imm : Word)
  /-- REM. -/
  | rem (w : Bool) (d a b : SReg)
  /-- REM, immediate form. -/
  | remImm (w : Bool) (d a : SReg) (imm : Word)
  /-- REMN. -/
  | remn (w : Bool) (d a b : SReg)
  /-- REMN, immediate form. -/
  | remnImm (w : Bool) (d a : SReg) (imm : Word)
  /-- AND. -/
  | and (w : Bool) (d a b : SReg)
  /-- AND, immediate form. -/
  | andImm (w : Bool) (d a : SReg) (imm : Word)
  /-- OR. -/
  | or (w : Bool) (d a b : SReg)
  /-- OR, immediate form. -/
  | orImm (w : Bool) (d a : SReg) (imm : Word)
  /-- XOR. -/
  | xor (w : Bool) (d a b : SReg)
  /-- XOR, immediate form. -/
  | xorImm (w : Bool) (d a : SReg) (imm : Word)
  /-- ANDN. -/
  | andn (w : Bool) (d a b : SReg)
  /-- ANDN, immediate form. -/
  | andnImm (w : Bool) (d a : SReg) (imm : Word)
  /-- SHL. -/
  | shl (w : Bool) (d a b : SReg)
  /-- SHL, immediate form. -/
  | shlImm (w : Bool) (d a : SReg) (imm : Word)
  /-- SHR. -/
  | shr (w : Bool) (d a b : SReg)
  /-- SHR, immediate form. -/
  | shrImm (w : Bool) (d a : SReg) (imm : Word)
  /-- SAR. -/
  | sar (w : Bool) (d a b : SReg)
  /-- SAR, immediate form. -/
  | sarImm (w : Bool) (d a : SReg) (imm : Word)
  /-- MIN. -/
  | min (w : Bool) (d a b : SReg)
  /-- MIN, immediate form. -/
  | minImm (w : Bool) (d a : SReg) (imm : Word)
  /-- MAX. -/
  | max (w : Bool) (d a b : SReg)
  /-- MAX, immediate form. -/
  | maxImm (w : Bool) (d a : SReg) (imm : Word)
  /-- MINN. -/
  | minn (w : Bool) (d a b : SReg)
  /-- MINN, immediate form. -/
  | minnImm (w : Bool) (d a : SReg) (imm : Word)
  /-- MAXN. -/
  | maxn (w : Bool) (d a b : SReg)
  /-- MAXN, immediate form. -/
  | maxnImm (w : Bool) (d a : SReg) (imm : Word)
  /-- CMP. -/
  | cmp (w : Bool) (cond : Cond) (d a b : SReg)
  /-- CMP, immediate form. -/
  | cmpImm (w : Bool) (cond : Cond) (d a : SReg) (imm : Word)
  /-- SEL. -/
  | sel (d a b c : SReg)
  /-- CLZ. -/
  | clz (w : Bool) (d a : SReg)
  /-- CTZ. -/
  | ctz (w : Bool) (d a : SReg)
  /-- POPC. -/
  | popc (w : Bool) (d a : SReg)
  /-- EXT. -/
  | ext (k : ExtKind) (d a : SReg)
  /-- BFX. -/
  | bfx (sgn : Bool) (pos lenM1 : BitVec 6) (d a : SReg)
  /-- BFI. -/
  | bfi (pos lenM1 : BitVec 6) (d a : SReg)
  /-- LI. -/
  | li (d : SReg) (lit : DWord)
  /-- ADDPC. -/
  | addpc (d : SReg) (imm : Word)
  -- Class 1: control (R93, R103, R106 to R111) and the pad word (R62)
  /-- BR. -/
  | br (w : Bool) (cond : Cond) (a b : SReg) (off : Word)
  /-- BRI. -/
  | bri (w : Bool) (cond : Cond) (a : SReg) (y off : Word)
  /-- JMP. -/
  | jmp (off : Word)
  /-- JAL. -/
  | jal (d : SReg) (off : Word)
  /-- JR. -/
  | jr (a : SReg) (imm : Word)
  /-- JALR. -/
  | jalr (d a : SReg) (imm : Word)
  /-- REGION, 64-bit form. -/
  | region (smask : Word)
  /-- REGION, 96-bit form. -/
  | regionVec (smask vmask : Word)
  /-- WAITC. -/
  | waitc (sel : WaitSel) (n : Word)
  /-- REP: n − 1, the four strides, the count. -/
  | rep (nM1 : BitVec 4) (sd sa sb sc : BitVec 5) (count : BitVec 16)
  /-- TRAPI. -/
  | trapi (imm : Word)
  -- Class 2: scalar, tagged and vector memory (R112 to R115, R197)
  /-- LDL. -/
  | ldl (k : LdW) (d a : SReg) (imm : Word)
  /-- STL. -/
  | stl (k : StW) (a b : SReg) (imm : Word)
  /-- LDG. -/
  | ldg (k : LdW) (inv : Bool) (d a : SReg) (imm : Word)
  /-- STG. -/
  | stg (k : StW) (a b : SReg) (imm : Word)
  /-- LDAQ. -/
  | ldaq (k : LdW) (scope : Scope) (d a : SReg) (imm : Word)
  /-- STRL. -/
  | strl (k : StW) (scope : Scope) (a b : SReg) (imm : Word)
  /-- LDF; `tgt` names the target of the remote variant. -/
  | ldf (tgt : Option SReg) (d a : SReg) (imm : Word)
  /-- LDFP. -/
  | ldfp (tgt : Option SReg) (d a : SReg) (imm : Word)
  /-- STE, local variant. -/
  | ste (a b : SReg) (imm : Word)
  /-- STE, remote variant: b the target, c the data. -/
  | steRem (a b c : SReg)
  /-- TAGW. -/
  | tagw (full : Bool) (tgt : Option SReg) (a : SReg) (imm : Word)
  /-- TAGR. -/
  | tagr (tgt : Option SReg) (d a : SReg) (imm : Word)
  /-- VLDL. -/
  | vldl (fmt : Fmt) (gd : Guard) (d : VReg) (a : SReg) (imm : Word)
  /-- VSTL. -/
  | vstl (fmt : Fmt) (gd : Guard) (d : VReg) (a : SReg) (imm : Word)
  /-- VLDG. -/
  | vldg (fmt : Fmt) (gd : Guard) (d : VReg) (a : SReg) (imm : Word)
  /-- VSTG. -/
  | vstg (fmt : Fmt) (gd : Guard) (d : VReg) (a : SReg) (imm : Word)
  /-- VLDS. -/
  | vlds (fmt : Fmt) (gd : Guard) (d : VReg) (a b : SReg) (imm : Word)
  /-- VSTS. -/
  | vsts (fmt : Fmt) (gd : Guard) (d : VReg) (a b : SReg) (imm : Word)
  /-- VGATH. -/
  | vgath (fmt : Fmt) (gd : Guard) (loc : Bool) (sh : BitVec 5) (d : VReg) (a : SReg) (b : VReg)
  /-- VSCAT. -/
  | vscat (fmt : Fmt) (gd : Guard) (loc : Bool) (sh : BitVec 5) (d : VReg) (a : SReg) (b : VReg)
  -- Class 3: atomics, reductions, FENCE and clasps (R243 to R253, R139)
  /-- AMO; `w` is the 32-bit form. -/
  | amo (op : AmoOp) (ord : Ord) (w : Bool) (scope : Scope) (d a b : SReg)
  /-- CAS. -/
  | cas (ord : Ord) (w : Bool) (scope : Scope) (d a b c : SReg)
  /-- AMOBND. -/
  | amobnd (ord : Ord) (w : Bool) (scope : Scope) (d a b c : SReg)
  /-- RED. -/
  | red (op : AmoOp) (rl : Bool) (w : Bool) (scope : Scope) (a b : SReg)
  /-- REDF. -/
  | redf (op : AmoOp) (cnt rl : Bool) (scope : Scope) (fmt : Fmt) (a b : SReg)
  /-- VRED. -/
  | vred (op : AmoOp) (cnt rl : Bool) (scope : Scope) (fmt : Fmt) (gd : Guard) (a : SReg) (b : VReg)
  /-- FENCE. -/
  | fence (scope : Scope)
  /-- CLINIT. -/
  | clinit (a b : SReg)
  /-- ARRIVE. -/
  | arrive (scope : Scope) (d a b : SReg)
  /-- ARRIVEW. -/
  | arrivew (scope : Scope) (d a b : SReg)
  /-- CLWAIT. -/
  | clwait (scope : Scope) (a b c : SReg)
  -- Class 4: vector arithmetic (R179 to R187)
  /-- VADD. -/
  | vadd (fmt : Fmt) (gd : Guard) (d a b : VReg)
  /-- VSUB. -/
  | vsub (fmt : Fmt) (gd : Guard) (d a b : VReg)
  /-- VMUL. -/
  | vmul (fmt : Fmt) (gd : Guard) (d a b : VReg)
  /-- VFMA. -/
  | vfma (fmt : Fmt) (gd : Guard) (d a b c : VReg)
  /-- VFMS. -/
  | vfms (fmt : Fmt) (gd : Guard) (d a b c : VReg)
  /-- VMIN. -/
  | vmin (fmt : Fmt) (gd : Guard) (d a b : VReg)
  /-- VMAX. -/
  | vmax (fmt : Fmt) (gd : Guard) (d a b : VReg)
  /-- VDIV. -/
  | vdiv (fmt : Fmt) (gd : Guard) (d a b : VReg)
  /-- VSQRT. -/
  | vsqrt (fmt : Fmt) (gd : Guard) (d a : VReg)
  /-- VMAG. -/
  | vmag (fmt : Fmt) (gd : Guard) (d a : VReg)
  /-- VNEG. -/
  | vneg (fmt : Fmt) (gd : Guard) (d a : VReg)
  /-- VAND. -/
  | vand (fmt : Fmt) (gd : Guard) (d a b : VReg)
  /-- VOR. -/
  | vor (fmt : Fmt) (gd : Guard) (d a b : VReg)
  /-- VXOR. -/
  | vxor (fmt : Fmt) (gd : Guard) (d a b : VReg)
  /-- VSHL. -/
  | vshl (fmt : Fmt) (gd : Guard) (d a b : VReg)
  /-- VSHR. -/
  | vshr (fmt : Fmt) (g : PReg) (d a b : VReg)
  /-- VSAR. -/
  | vsar (fmt : Fmt) (g : PReg) (d a b : VReg)
  /-- VADDS. -/
  | vadds (fmt : Fmt) (g : PReg) (d a b : VReg)
  /-- VSUBS. -/
  | vsubs (fmt : Fmt) (g : PReg) (d a b : VReg)
  /-- VCVT. -/
  | vcvt (dst src : Fmt) (rnd : Rnd) (part : BitVec 2) (g : PReg) (d a : VReg)
  /-- VCMP. -/
  | vcmp (fmt : Fmt) (cond : VCond) (g d : PReg) (a b : VReg)
  /-- VSEL. -/
  | vsel (fmt : Fmt) (k : SelKind) (g : PReg) (d a b : VReg) (c : PReg)
  /-- VEXP2 (BF16 only). -/
  | vexp2 (g : PReg) (d a : VReg)
  /-- VLOG2 (BF16 only). -/
  | vlog2 (g : PReg) (d a : VReg)
  /-- VRCP (BF16 only). -/
  | vrcp (g : PReg) (d a : VReg)
  /-- VRSQ (BF16 only). -/
  | vrsq (g : PReg) (d a : VReg)
  /-- VSCA; b names a scalar register, or a vector register when `sv`. -/
  | vsca (fmt : Fmt) (sv : Bool) (rnd : Rnd) (g : PReg) (d a : VReg) (b : BitVec 5)
  /-- VVOID. -/
  | vvoid (fmt : Fmt) (g : PReg) (d : VReg)
  /-- VPRES. -/
  | vpres (fmt : Fmt) (g d : PReg) (a : VReg)
  -- Class 5: movement, predicates and network (R188 to R196, R134 to R137)
  /-- VMOV. -/
  | vmov (fmt : Fmt) (gd : Guard) (d a : VReg)
  /-- VBCAST. -/
  | vbcast (fmt : Fmt) (gd : Guard) (d : VReg) (src : BcastSrc)
  /-- VEXTR. -/
  | vextr (fmt : Fmt) (gd : Guard) (d : SReg) (a : VReg) (b : SReg)
  /-- VINS. -/
  | vins (fmt : Fmt) (gd : Guard) (d : VReg) (a b : SReg)
  /-- VPERM. -/
  | vperm (fmt : Fmt) (gd : Guard) (d a b : VReg)
  /-- VSLIDE. -/
  | vslide (fmt : Fmt) (gd : Guard) (dn : Bool) (d a : VReg) (b : SReg)
  /-- VZIP. -/
  | vzip (fmt : Fmt) (gd : Guard) (hi : Bool) (d a b : VReg)
  /-- VUNZIP. -/
  | vunzip (fmt : Fmt) (gd : Guard) (od : Bool) (d a b : VReg)
  /-- VCOMPR. -/
  | vcompr (fmt : Fmt) (gd : Guard) (d a : VReg)
  /-- VEXPQ4. -/
  | vexpq4 (gd : Guard) (part : Bool) (d a : VReg)
  /-- QTLD. -/
  | qtld (gd : Guard) (a : VReg)
  /-- VREDUCE. -/
  | vreduce (fmt : Fmt) (gd : Guard) (op : RedOp) (d a : VReg)
  /-- VSCAN. -/
  | vscan (fmt : Fmt) (gd : Guard) (op : RedOp) (ex : Bool) (d a : VReg)
  /-- VCOUNT. -/
  | vcount (fmt : Fmt) (gd : Guard) (d : SReg) (a : VReg)
  /-- WHILELT. -/
  | whilelt (fmt : Fmt) (gd : Guard) (d : PReg) (a b : SReg)
  /-- VLQ. -/
  | vlq (fmt : Fmt) (d : SReg)
  /-- PAND. -/
  | pand (d a b : PReg)
  /-- POR. -/
  | por (d a b : PReg)
  /-- PNOT. -/
  | pnot (d a : PReg)
  /-- PCNT. -/
  | pcnt (fmt : Fmt) (d : SReg) (a : PReg)
  /-- PFIRST. -/
  | pfirst (fmt : Fmt) (d : SReg) (a : PReg)
  /-- PSET. -/
  | pset (fmt : Fmt) (d : PReg) (k : BitVec 9)
  /-- NRED. -/
  | nred (fmt : Fmt) (g : PReg) (a : VReg) (b : SReg) (k : BitVec 4)
  /-- NSEND, message form. -/
  | nsend (scope : Scope) (a : SReg) (b : VReg) (tag : Word)
  /-- NSEND, raw form. -/
  | nsendRaw (scope : Scope) (a : SReg) (b : VReg)
  /-- NRECV. -/
  | nrecv (d : VReg)
  /-- MCAST. -/
  | mcast (a : SReg) (k : BitVec 4)
  -- Class 6: Bezel and copy engine (R211 to R225, R157 to R165)
  /-- BLD. -/
  | bld (scope : Scope) (fmt : Fmt) (a : SReg) (k : BankName) (aq rl : Bool)
  /-- MMA. -/
  | mma (scope : Scope) (fmt : Fmt) (d : Acc) (a : SReg) (k : BankName) (nbm1 : BitVec 4) (aq rl : Bool)
  /-- MZERO. -/
  | mzero (scope : Scope) (fmt : Fmt) (d : Acc) (aq rl : Bool)
  /-- MDRAIN. -/
  | mdrain (f : MdrainF)
  /-- MSTAT. -/
  | mstat (sel : StatSel) (d : SReg) (c : Acc)
  /-- MSAVE. -/
  | msave (scope : Scope) (d : Acc) (a : SReg) (aq rl : Bool)
  /-- MREST. -/
  | mrest (scope : Scope) (fmt : Fmt) (d : Acc) (a : SReg) (aq rl : Bool)
  /-- CPY. -/
  | cpy (f : CpyF)
  /-- CPY2. -/
  | cpy2 (f : Cpy2F)
  /-- SEND with LAST = 0. -/
  | send (f : SendF)
  /-- SEND with LAST = 1. -/
  | sendLast (f : SendF)
  -- Store drains, ordering points and memory ports (R96, R239, R260, R432)
  /-- POISONCLR. -/
  | poisonclr (a : SReg)
  -- Class 7: actors (R280 to R299)
  /-- SPAWN. -/
  | spawn (f : SpawnF)
  /-- EXIT. -/
  | exit (a : SReg)
  /-- KILL. -/
  | kill (a : SReg)
  /-- LINK. -/
  | link (a : SReg)
  /-- UNLINK. -/
  | unlink (a : SReg)
  /-- MONITOR. -/
  | monitor (a b : SReg)
  /-- UNMON. -/
  | unmon (a b : SReg)
  /-- SIGNAL.msg. -/
  | signalMsg (scope : Scope) (a b c : SReg)
  /-- SIGNAL.exit. -/
  | signalExit (scope : Scope) (a b : SReg)
  /-- SELF. -/
  | self (d : SReg)
  /-- SELF.stable. -/
  | selfStable (d : SReg)
  /-- SELF.tx. -/
  | selfTx (a : SReg)
  /-- TIMER. -/
  | timer (k : Bool) (a b : SReg)
  /-- TIMER.kill. -/
  | timerKill (k : Bool) (a b : SReg)
  /-- CAPCALL. -/
  | capcall (a b c : SReg)
  /-- MIGRATE. -/
  | migrate (a b : SReg)
  /-- PORTCFG. -/
  | portcfg (k : BitVec 2) (a b : SReg)
  /-- CONSUME. -/
  | consume (k : BitVec 2) (a : SReg)
  -- Supervision (R307 to R326)
  /-- SUPCFG.policy. -/
  | supcfgPolicy (a b : SReg)
  /-- SUPCFG.add. -/
  | supcfgAdd (d a : SReg)
  /-- SUPCFG.remove. -/
  | supcfgRemove (a : SReg)
  /-- SUPCFG.launch. -/
  | supcfgLaunch (a : SReg)
  /-- RESTART.child. -/
  | restartChild (a : SReg)
  /-- RESTART.job. -/
  | restartJob (a : SReg)
  -- Translation (R332 to R349)
  /-- GETC of MISSB. -/
  | getcMissb (d : SReg)
  /-- TLBW. -/
  | tlbw (d a b c : SReg) (rsp : Bool)
  /-- TLBINV.page. -/
  | tlbinvPage (a b : SReg) (sz : PageSize)
  /-- TLBINV.ctx. -/
  | tlbinvCtx (b : SReg)
  /-- TLBPROBE. -/
  | tlbprobe (e1 : Bool) (d a b : SReg)
  -- Control registers and register writes (R83, R126, R128, R206, R6)
  /-- GETC. -/
  | getc (d : SReg) (num : BitVec 12)
  /-- SETC, register form. -/
  | setc (num : BitVec 12) (a : SReg)
  /-- SETC, immediate form. -/
  | setcImm (num : BitVec 12) (imm : BitVec 20)
  -- Contexts (R361 to R385)
  /-- CTXNEW. -/
  | ctxnew (d a : SReg) (ovr : Word) (num : BitVec 12) (rq : Bool)
  /-- CTXSET. -/
  | ctxset (a b c : SReg)
  /-- CTXREVOKE. -/
  | ctxrevoke (a : SReg)
  /-- CTXSTAT. -/
  | ctxstat (d a : SReg) (k : BitVec 5)
  /-- CTXDONE. -/
  | ctxdone (a : SReg)
  /-- the root monitor writes SCRUN. -/
  | scrunWrite (p : Nat) (v : DWord)
  -- Locket and the Beyma fabric (R395 to R407)
  /-- LOCKET.start. -/
  | locketStart (d a : SReg)
  /-- LOCKET.stat. -/
  | locketStat (d a : SReg)
  /-- LOCKET.stop. -/
  | locketStop (a : SReg)
  -- EVENTS OF THE ENGINES, which `enabled` finds in the state
  -- Class 2: scalar, tagged and vector memory (R112 to R115, R197)
  /-- event: the waiting LDF, LDFP or STE of a core performs. -/
  | taggedWaitComplete (c : CoreId)
  /-- event: the pending remote access of core c reaches its target. -/
  | remoteAccessRequest (c : CoreId)
  -- Class 3: atomics, reductions, FENCE and clasps (R243 to R253, R139)
  /-- event: the home core answers the clasp wait of core c. -/
  | claspReleaseAnswer (c : CoreId)
  -- Class 5: movement, predicates and network (R188 to R196, R134 to R137)
  /-- event: the message at the head of core c's drain reaches its target's receive queue. -/
  | nsendDelivery (c : CoreId)
  /-- event: a node has its contributions and combines them. -/
  | strandNodeCombine (n : StrandNode) (k : Nat)
  /-- event: a member writes a round's result. -/
  | strandResultWrite (c : CoreId) (k : Nat)
  /-- event: the next pending multicast write of member c. -/
  | mcastMemberWrite (c : CoreId)
  /-- event: every acknowledgement of core c's oldest MCAST has arrived. -/
  | mcastComplete (c : CoreId)
  /-- event: a DISCOVER packet reaches a router. -/
  | discover (pos : Nat)
  /-- event: the oldest acknowledgement of a die is written at core (0,0). -/
  | discoverAck (die : Nat)
  /-- event: the oldest ASSIGN packet of a die reaches its router. -/
  | assign (die : Nat)
  -- Class 6: Bezel and copy engine (R211 to R225, R157 to R165)
  /-- event: the arbiter of an octet (128 × die + octet) starts a head operation. -/
  | bezelOpStart (oct : Nat)
  /-- event: the operation in flight completes. -/
  | bezelOpComplete (oct : Nat)
  /-- event: the next queued command of a copy engine starts. -/
  | copyCommandStart (c : CoreId) (q : CopyQueue)
  /-- event: the started command at place i of a queue completes. -/
  | copyCommandComplete (c : CoreId) (q : CopyQueue) (n : Nat)
  /-- event: the reservation request of core c's head SEND reaches its port. -/
  | reservationRequest (c : CoreId)
  /-- event: a returned request is sent again. -/
  | reservationResend (c : CoreId)
  /-- event: the tile of core c's oldest granted SEND is written and its slot published. -/
  | slotPublication (c : CoreId)
  -- Store drains, ordering points and memory ports (R96, R239, R260, R432)
  /-- event: the committed entry at the head drains. -/
  | storeBufferDrain (c : CoreId)
  /-- event: operation n waiting at a die's ordering point passes to its port. -/
  | orderingPointPass (die n : Nat)
  /-- event: a port applies its oldest operation. -/
  | writeQueueApply (port : Nat)
  /-- event: a port serves its oldest queued read. -/
  | portRead (port : Nat)
  -- Class 7: actors (R280 to R299)
  /-- event: steps 2 to 6 of a death. -/
  | deathSignals (x : ActorId)
  /-- event: step 7 of a death. -/
  | slotReclaim (x : ActorId)
  /-- event: a requested migration begins its wait. -/
  | migrationStart (x : ActorId)
  /-- event: the move. -/
  | migrationMove (x : ActorId)
  /-- event: traffic that reached an old slot is redirected. -/
  | forwardingRedirect (c : CoreId)
  -- Supervision (R307 to R326)
  /-- event: the restart engine takes the oldest death handed to supervisor x. -/
  | restartEvent (x : ActorId)
  /-- event: entry e of supervisor x is restarted. -/
  | restartSequence (x : ActorId) (e : Nat)
  /-- event: every member of job j has died. -/
  | jobTeardown (j : Nat)
  /-- event: the shadows of a job that ended normally are committed. -/
  | jobShadowCommit (j : Nat)
  -- Translation (R332 to R349)
  /-- event: a miss message is sent again. -/
  | missResend (c : CoreId)
  /-- event: the answer to core c's oldest miss arrives. -/
  | tlbMissAnswer (c : CoreId)
  /-- event: the hub takes the page request of core c's miss. -/
  | pageRequest (c : CoreId)
  /-- event: a returned page request is offered again. -/
  | pageRequestRetry (c : CoreId)
  -- Control registers and register writes (R83, R126, R128, R206, R6)
  /-- event: the firing unit of a core chooses and starts. -/
  | firingChoice (c : CoreId)
  -- Contexts (R361 to R385)
  /-- event: steps 3 to 6 of a revocation. -/
  | revocationComplete (x : Nat)
  /-- event: a drained change of word 1 runs. -/
  | resize (x : Nat)
  /-- event: an error is charged to context x. -/
  | contextFailed (x : Nat)
  /-- event: the core reaches its save point. -/
  | savePoint (c : CoreId)
  /-- event: the departing tenant is scrubbed. -/
  | scrub (c : CoreId)
  -- Locket and the Beyma fabric (R395 to R407)
  /-- event: the hub combines a cross-device round. -/
  | hubStrandCombine (k : Nat)
  -- Host attach (R411 to R419)
  /-- event: a posted message is delivered. -/
  | hostMessageDelivery (n : Nat)
  -- WRITES AND EVENTS that come from outside, as inputs
  -- Class 6: Bezel and copy engine (R211 to R225, R157 to R165)
  /-- event: a slot of the isolation pattern begins. -/
  | bezelIsolationSlot (oct : Nat)
  -- Store drains, ordering points and memory ports (R96, R239, R260, R432)
  /-- event: the patrol reads a block. -/
  | patrolRead (block : Nat) (e : EccKind)
  -- Class 7: actors (R280 to R299)
  /-- event: an armed timer reaches zero. -/
  | timerExpiry (x : ActorId) (k : Bool)
  -- Translation (R332 to R349)
  /-- a write of PRQDONE by core c. -/
  | prqdoneWrite (c : CoreId) (v : DWord)
  -- Control registers and register writes (R83, R126, R128, R206, R6)
  /-- a write of WIN0 to WIN7 by the running code. -/
  | windowWrite (k : BitVec 3) (v : DWord)
  /-- a write of BZMAP by the running code. -/
  | bzmapWrite (v : DWord)
  /-- a write of STRAND0 to STRAND15 by the running code. -/
  | strandWrite (k : BitVec 4) (v : DWord)
  /-- a write of a plain register. -/
  | registerWrite (r : RegRef) (v : DWord)
  -- Contexts (R361 to R385)
  /-- event: a slice of the core ends. -/
  | sliceEnd (c : CoreId)
  /-- event: S + PBUD passes. -/
  | preemptionBudgetExpiry (c : CoreId)
  /-- event: the watchdog limit passes. -/
  | watchdog (c : CoreId)
  /-- event: a function's reset runs. -/
  | functionReset (n : Nat)
  /-- event: a service core faults. -/
  | serviceCoreFault (p : Nat) (code : Nat)
  /-- event: an uncorrectable error in service state. -/
  | serviceUncorrectable (u : ServiceUnit)
  -- Locket and the Beyma fabric (R395 to R407)
  /-- event: a stream ends. -/
  | locketStreamEnd (t : Nat) (how : StreamEnd)
  /-- event: a request arrives from a device. -/
  | fabricRequestArrival (dev flow seq pidx : Nat) (r : FabricReq)
  /-- event: an unacknowledged request is sent again. -/
  | endToEndResend (flow : Nat)
  /-- event: a link-level replay. -/
  | linkReplay (p : Nat)
  /-- event: a port retrains. -/
  | portRetrain (p : Nat) (ok : Bool) (lanes peer : Nat)
  /-- event: a device is declared lost. -/
  | deviceLost (d : Nat)
  -- Host attach (R411 to R419)
  /-- event: a host request has no completion within 50 ms. -/
  | hostCompletionTimeout (c : CoreId)
  /-- event: the host writes slots, then MBTAIL; number 64, which no slot has, stands for a write of FSTAT. -/
  | mbtailWrite (n : Nat) (v : DWord) (slots : List (Nat × List Byte))
  /-- event: the host writes FRESET. -/
  | fresetWrite (n : Nat) (v : DWord)
  /-- a write of VFBIND. -/
  | vfbindWrite (w : Writer) (n : Nat) (v : DWord)
  /-- a write of VFIRQ. -/
  | vfirqWrite (v : DWord)
  /-- event: TDISP LOCK_INTERFACE. -/
  | lockInterface (n : Nat)
  /-- event: TDISP START_INTERFACE. -/
  | startInterface (n : Nat)
  /-- event: TDISP STOP_INTERFACE. -/
  | stopInterface (n : Nat)
  /-- event: TDISP report request. -/
  | getDeviceInterfaceReport (n : Nat)
  -- SPDM and Hallmark (R420 to R422)
  /-- SPDM GET_VERSION. -/
  | getVersion (p : SpdmPort)
  /-- SPDM GET_CAPABILITIES. -/
  | getCapabilities (p : SpdmPort)
  /-- SPDM NEGOTIATE_ALGORITHMS. -/
  | negotiateAlgorithms (p : SpdmPort)
  /-- SPDM GET_DIGESTS. -/
  | getDigests (p : SpdmPort)
  /-- SPDM GET_CERTIFICATE. -/
  | getCertificate (p : SpdmPort) (slot : Nat)
  /-- SPDM CHALLENGE. -/
  | challenge (p : SpdmPort) (slot : Nat)
  /-- SPDM GET_MEASUREMENTS. -/
  | getMeasurements (p : SpdmPort) (idx : Nat)
  /-- SPDM KEY_EXCHANGE. -/
  | keyExchange (p : SpdmPort)
  /-- SPDM FINISH. -/
  | finish (p : SpdmPort)
  /-- SPDM END_SESSION. -/
  | endSession (p : SpdmPort)
  /-- any other SPDM request. -/
  | unsupportedRequest (p : SpdmPort)
  -- Boot and package (R145, R423 to R429)
  /-- event: the hub prepares and starts a die's corner core. -/
  | cornerCoreStart (die : Nat) (prog image : List Byte)
  /-- a write of HBOOT. -/
  | bendWrite (v : DWord)
  /-- event: a die's END is missing. -/
  | bootTimeout (die : Nat)
  /-- event: the clocks are scaled. -/
  | thermalThrottle (steps : Nat)
  -- Rows added at the table's end
  /-- event: an acknowledgement or reply arrives. -/
  | fabricReplyArrival (flow seq : Nat) (r : FabricEnd)
  /-- event: a host request completes. -/
  | hostCompletion (c : CoreId) (r : HostEnd)
  /-- event: a forwarding entry is released. -/
  | directoryUpdateAcknowledged (c : CoreId)
  /-- event: a message window of a cluster begins. -/
  | messageWindow (cl : Nat)
  /-- a write of 1 to FBDOM.LOST. -/
  | fbdomLostClear (d : Nat) (priv : Nat)
  /-- event: a logical device is bound to a host. -/
  | fabricManagerBind (ld host : Nat)
  -- THE ROWS WITHOUT OPERANDS
  -- Class 1: control (R93, R103, R106 to R111) and the pad word (R62)
  /-- END. -/
  | endF
  /-- ERET. -/
  | eret
  /-- NOP. -/
  | nop
  /-- the pad word. -/
  | padWord
  -- Class 7: actors (R280 to R299)
  /-- event: the oldest exit signal in flight arrives. -/
  | exitSignalArrival
  /-- event: the oldest control message in flight arrives. -/
  | controlMessageArrival
  /-- event: the oldest service result arrives. -/
  | capcallReply
  -- Translation (R332 to R349)
  /-- event: the oldest started TLBINV completes. -/
  | tlbinvComplete
  -- Contexts (R361 to R385)
  /-- event: the oldest deliverable trap message is delivered. -/
  | trapMessageDelivery
  -- Locket and the Beyma fabric (R395 to R407)
  /-- event: a token interval begins. -/
  | tokenInterval
  -- Boot and package (R145, R423 to R429)
  /-- event: the device leaves reset. -/
  | deviceReset
  /-- event: 115 °C. -/
  | thermalTrip
  -- Rows added at the table's end
  /-- event: the rails are removed. -/
  | powerRemoval
  deriving DecidableEq, Repr

end Sys2Proof
end

