-- ==== Sys2Proof/WellFormed.lean ====
section
/-!
DEFINITION. Which instructions of the syntax the encoding rules admit (R66 to R70 and the entry of each
instruction): operand ranges, formats, and the fields of a prefix word. Events are always well formed.
-/

namespace Sys2Proof

/-- One of the five formats vector forms compute on: TS8 is a storage format (R67). -/
def Fmt.elem (f : Fmt) : Bool := f != .ts8
/-- F32 or BF16. -/
def Fmt.isFloat : Fmt → Bool
  | .f32 | .bf16 => true
  | _ => false
/-- I32, I16 or I8. -/
def Fmt.isInt : Fmt → Bool
  | .i32 | .i16 | .i8 => true
  | _ => false
/-- A format of a Bezel operand (Table 07.1). -/
def Fmt.bezel : Fmt → Bool
  | .bf16 | .i8 | .ts8 => true
  | _ => false
/-- Element width in bytes (Table 02.1). -/
def Fmt.width : Fmt → Nat
  | .f32 | .i32 => 4
  | .bf16 | .i16 => 2
  | .i8 | .ts8 => 1
/-- Elements of a vector register: N = W / (8w) with W = 1,024 (R171). -/
def Fmt.lanes : Fmt → Nat
  | .f32 | .i32 => 32
  | .bf16 | .i16 => 64
  | .i8 | .ts8 => 128

/-- An element reduction of memory on this format: ADD, AND, OR, XOR, MIN, MAX; logical ones on integer
formats only (Table 09.2). -/
def AmoOp.element (op : AmoOp) (fmt : Fmt) : Bool :=
  match op with
  | .add | .min | .max => true
  | .and | .or | .xor => fmt.isInt
  | _ => false

/-- A register reduction on this format: logical ones on integer formats only (R192). -/
def RedOp.element (op : RedOp) (fmt : Fmt) : Bool :=
  match op with
  | .add | .min | .max => true
  | .and | .or | .xor => fmt.isInt

/-- The prefix fields an instruction admits (R70): RND if it rounds, D4 if it has a fourth operand, Z, AX. -/
def Guard.ok (rounds d4ok zok axok : Bool) : Guard → Bool
  | .plain _ => true
  | .pfx ax d4 rnd z _ => (rounds || rnd == .dyn) && (d4ok || d4 == 0) && (zok || !z) && (axok || !ax)

/-- An unpredicated member (R188): g, MASK and AX are zero. -/
def Guard.unpred : Guard → Bool
  | .plain g => g == 0
  | .pfx ax d4 rnd _ mask => !ax && d4 == 0 && rnd == .dyn && mask == 0

/-- D4 of VREDUCE and VSCAN, when it names a count register, is not d (R193). -/
def Guard.countReg (d : VReg) : Guard → Bool
  | .plain _ => true
  | .pfx _ d4 _ _ _ => d4 == 0 || d4 != d

/-- k of VBCAST.e names an element of the format (R189). -/
def BcastSrc.inRange (fmt : Fmt) : BcastSrc → Bool
  | .scalar _ => true
  | .elem _ k => decide (k.toNat < fmt.lanes)

/-- MDRAIN (Table 07.4, R219): destination format, and unused address fields zero. -/
def MdrainF.wf (f : MdrainF) : Bool :=
  (f.fmt == .f32 || f.fmt == .bf16 || f.fmt == .i32) && (f.sc || f.b == 0) && (f.cn || f.c == 0)

/-- CPY (R157). -/
def CpyF.wf (f : CpyF) : Bool :=
  (f.dir == .gl || (!f.dec && !f.inv)) && (f.dir != .lg || !f.tf) &&
  (f.dir != .ll || (!f.aq && !f.rl && f.scope == .core)) && (f.dir == .lr || f.d == 0) &&
  (f.dir == .gl || f.dir == .lg || f.disp == 0)

/-- CPY2 (R160). -/
def Cpy2F.wf (f : Cpy2F) : Bool :=
  f.fmt.elem && (f.bnd || (f.fmt == .f32 && f.d == 0)) && (!f.lg || (!f.dec && !f.tf && !f.inv)) &&
  decide (f.gs.toNat % 8 = 0) && decide (f.ls.toNat % 8 = 0)

/-- SEND (R162): LEN is 0 or a multiple of 64 from 64 to 512. -/
def SendF.wf (f : SendF) : Bool := decide (f.len.toNat % 64 = 0 ∧ f.len.toNat ≤ 512)

/-- Is the instruction one the encoding rules admit? -/
def Instr.wf (i : Instr) : Bool :=
  match i with
  | .add _ _ _ _ => true
  | .addImm _ _ _ _ => true
  | .sub _ _ _ _ => true
  | .subImm _ _ _ _ => true
  | .mul _ _ _ _ => true
  | .mulImm _ _ _ _ => true
  | .mulh _ _ _ _ => true
  | .mulhImm _ _ _ _ => true
  | .mulhn _ _ _ _ => true
  | .mulhnImm _ _ _ _ => true
  | .div _ _ _ _ => true
  | .divImm _ _ _ _ => true
  | .divn _ _ _ _ => true
  | .divnImm _ _ _ _ => true
  | .rem _ _ _ _ => true
  | .remImm _ _ _ _ => true
  | .remn _ _ _ _ => true
  | .remnImm _ _ _ _ => true
  | .and _ _ _ _ => true
  | .andImm _ _ _ _ => true
  | .or _ _ _ _ => true
  | .orImm _ _ _ _ => true
  | .xor _ _ _ _ => true
  | .xorImm _ _ _ _ => true
  | .andn _ _ _ _ => true
  | .andnImm _ _ _ _ => true
  | .shl _ _ _ _ => true
  | .shlImm w _ _ imm => decide (imm.toNat < (if w then 32 else 64))
  | .shr _ _ _ _ => true
  | .shrImm w _ _ imm => decide (imm.toNat < (if w then 32 else 64))
  | .sar _ _ _ _ => true
  | .sarImm w _ _ imm => decide (imm.toNat < (if w then 32 else 64))
  | .min _ _ _ _ => true
  | .minImm _ _ _ _ => true
  | .max _ _ _ _ => true
  | .maxImm _ _ _ _ => true
  | .minn _ _ _ _ => true
  | .minnImm _ _ _ _ => true
  | .maxn _ _ _ _ => true
  | .maxnImm _ _ _ _ => true
  | .cmp _ _ _ _ _ => true
  | .cmpImm _ _ _ _ _ => true
  | .sel _ _ _ _ => true
  | .clz _ _ _ => true
  | .ctz _ _ _ => true
  | .popc _ _ _ => true
  | .ext _ _ _ => true
  | .bfx _ pos lenM1 _ _ => decide (pos.toNat + lenM1.toNat + 1 ≤ 64)
  | .bfi pos lenM1 _ _ => decide (pos.toNat + lenM1.toNat + 1 ≤ 64)
  | .li _ _ => true
  | .addpc _ _ => true
  | .br _ _ _ _ _ => true
  | .bri _ _ _ _ _ => true
  | .jmp _ => true
  | .jal _ _ => true
  | .jr _ _ => true
  | .jalr _ _ _ => true
  | .region m => !m.getLsbD 0
  | .regionVec m _ => !m.getLsbD 0
  | .waitc ks n => decide (n.toNat ≤ 63) && (ks != .rep || n == 0)
  | .rep _ _ _ _ _ count => count != 0
  | .trapi _ => true
  | .ldl _ _ _ _ => true
  | .stl _ _ _ _ => true
  | .ldg _ _ _ _ _ => true
  | .stg _ _ _ _ => true
  | .ldaq _ _ _ _ _ => true
  | .strl _ _ _ _ _ => true
  | .ldf _ _ _ _ => true
  | .ldfp _ _ _ _ => true
  | .ste _ _ _ => true
  | .steRem _ _ _ => true
  | .tagw _ _ _ _ => true
  | .tagr _ _ _ _ => true
  | .vldl fmt gd _ _ _ => fmt.elem && gd.ok false false true false
  | .vstl fmt gd _ _ _ => fmt.elem && gd.ok false false false true
  | .vldg fmt gd _ _ _ => fmt.elem && gd.ok false false true false
  | .vstg fmt gd _ _ _ => fmt.elem && gd.ok false false false true
  | .vlds fmt gd _ _ _ _ => fmt.elem && gd.ok false false true false
  | .vsts fmt gd _ _ _ _ => fmt.elem && gd.ok false false false true
  | .vgath fmt gd _ _ _ _ _ => fmt.elem && gd.ok false false true false
  | .vscat fmt gd _ _ _ _ _ => fmt.elem && gd.ok false false false true
  | .amo _ ord _ _ d _ _ => d != 0 || ord == .relaxed || ord == .release
  | .cas _ _ _ _ _ _ _ => true
  | .amobnd _ _ _ _ _ _ _ => true
  | .red op _ _ _ _ _ => op != .swap
  | .redf op _ _ _ fmt _ _ => fmt.elem && op.element fmt
  | .vred op _ _ _ fmt gd _ _ => fmt.elem && op.element fmt && gd.ok (op == .add && fmt.isFloat) false false true
  | .fence _ => true
  | .clinit _ _ => true
  | .arrive _ _ _ _ => true
  | .arrivew _ _ _ _ => true
  | .clwait _ _ _ _ => true
  | .vadd fmt gd _ _ _ => fmt.elem && gd.ok fmt.isFloat false true true
  | .vsub fmt gd _ _ _ => fmt.elem && gd.ok fmt.isFloat false true true
  | .vmul fmt gd _ _ _ => fmt.elem && gd.ok fmt.isFloat false true true
  | .vfma fmt gd _ _ _ _ => fmt.isFloat && gd.ok true false true true
  | .vfms fmt gd _ _ _ _ => fmt.isFloat && gd.ok true false true true
  | .vmin fmt gd _ _ _ => fmt.elem && gd.ok false false true true
  | .vmax fmt gd _ _ _ => fmt.elem && gd.ok false false true true
  | .vdiv fmt gd _ _ _ => fmt.isFloat && gd.ok true false true true
  | .vsqrt fmt gd _ _ => fmt.isFloat && gd.ok true false true true
  | .vmag fmt gd _ _ => fmt.elem && gd.ok false false true true
  | .vneg fmt gd _ _ => fmt.elem && gd.ok false false true true
  | .vand fmt gd _ _ _ => fmt.isInt && gd.ok false false true true
  | .vor fmt gd _ _ _ => fmt.isInt && gd.ok false false true true
  | .vxor fmt gd _ _ _ => fmt.isInt && gd.ok false false true true
  | .vshl fmt gd _ _ _ => fmt.isInt && gd.ok false false true true
  | .vshr fmt _ _ _ _ => fmt.isInt
  | .vsar fmt _ _ _ _ => fmt.isInt
  | .vadds fmt _ _ _ _ => fmt.isInt
  | .vsubs fmt _ _ _ _ => fmt.isInt
  | .vcvt dst src _ part _ _ _ => src.elem && decide (part.toNat < Nat.max dst.width src.width / Nat.min dst.width src.width)
  | .vcmp fmt _ _ _ _ _ => fmt.elem
  | .vsel fmt k _ _ _ _ c => fmt.elem && (k == .pred || c == 0)
  | .vexp2 _ _ _ => true
  | .vlog2 _ _ _ => true
  | .vrcp _ _ _ => true
  | .vrsq _ _ _ => true
  | .vsca fmt _ _ _ _ _ _ => fmt.elem
  | .vvoid fmt _ _ => fmt.elem
  | .vpres fmt _ _ _ => fmt.elem
  | .vmov fmt gd _ _ => fmt.elem && gd.ok false false true true
  | .vbcast fmt gd _ src => fmt.elem && gd.ok false false true true && src.inRange fmt
  | .vextr fmt gd _ _ _ => fmt.elem && gd.unpred
  | .vins fmt gd _ _ _ => fmt.elem && gd.unpred
  | .vperm fmt gd _ _ _ => fmt.elem && gd.ok false false true true
  | .vslide fmt gd _ _ _ _ => fmt.elem && gd.ok false false true true
  | .vzip fmt gd _ _ _ _ => fmt.elem && gd.ok false false true true
  | .vunzip fmt gd _ _ _ _ => fmt.elem && gd.ok false false true true
  | .vcompr fmt gd _ _ => fmt.elem && gd.ok false false false true
  | .vexpq4 gd _ _ _ => gd.ok false false true true
  | .qtld gd _ => gd.unpred
  | .vreduce fmt gd op d _ => fmt.elem && op.element fmt && gd.ok false true false true && gd.countReg d
  | .vscan fmt gd op _ d _ => fmt.elem && op.element fmt && gd.ok false true false true && gd.countReg d
  | .vcount fmt gd _ _ => fmt.elem && gd.ok false false false true
  | .whilelt fmt gd _ _ _ => fmt.elem && gd.unpred
  | .vlq fmt _ => fmt.elem
  | .pand _ _ _ => true
  | .por _ _ _ => true
  | .pnot _ _ => true
  | .pcnt fmt _ _ => fmt.elem
  | .pfirst fmt _ _ => fmt.elem
  | .pset fmt _ k => fmt.elem && decide (k.toNat ≤ 256)
  | .nred fmt _ _ _ _ => fmt.elem && fmt != .i8
  | .nsend _ _ _ _ => true
  | .nsendRaw _ _ _ => true
  | .nrecv _ => true
  | .mcast _ _ => true
  | .bld _ fmt _ _ _ _ => fmt.bezel
  | .mma _ fmt _ _ _ nbm1 _ _ => fmt.bezel && (fmt == .ts8 || nbm1 == 0)
  | .mzero _ fmt _ _ _ => fmt == .f32 || fmt == .i32
  | .mdrain f => f.wf
  | .mstat ks _ c => ks == .tile || c == 0
  | .msave _ _ _ _ _ => true
  | .mrest _ fmt _ _ _ _ => fmt == .f32 || fmt == .i32
  | .cpy f => f.wf
  | .cpy2 f => f.wf
  | .send f => f.wf
  | .sendLast f => f.wf
  | .poisonclr _ => true
  | .spawn f => !f.all || f.k == 0
  | .exit _ => true
  | .kill _ => true
  | .link _ => true
  | .unlink _ => true
  | .monitor _ _ => true
  | .unmon _ _ => true
  | .signalMsg _ _ _ _ => true
  | .signalExit _ _ _ => true
  | .self _ => true
  | .selfStable _ => true
  | .selfTx _ => true
  | .timer _ _ _ => true
  | .timerKill _ _ _ => true
  | .capcall _ _ _ => true
  | .migrate _ _ => true
  | .portcfg _ _ _ => true
  | .consume _ _ => true
  | .supcfgPolicy _ _ => true
  | .supcfgAdd _ _ => true
  | .supcfgRemove _ => true
  | .supcfgLaunch _ => true
  | .restartChild _ => true
  | .restartJob _ => true
  | .getcMissb _ => true
  | .tlbw _ _ _ _ _ => true
  | .tlbinvPage _ _ _ => true
  | .tlbinvCtx _ => true
  | .tlbprobe _ _ _ _ => true
  | .getc _ num => num != 0x12B
  | .setc _ _ => true
  | .setcImm _ _ => true
  | .ctxnew _ _ _ _ _ => true
  | .ctxset _ _ _ => true
  | .ctxrevoke _ => true
  | .ctxstat _ _ _ => true
  | .ctxdone _ => true
  | .scrunWrite _ _ => true
  | .locketStart _ _ => true
  | .locketStat _ _ => true
  | .locketStop _ => true
  | .taggedWaitComplete _ => true
  | .remoteAccessRequest _ => true
  | .claspReleaseAnswer _ => true
  | .nsendDelivery _ => true
  | .strandNodeCombine _ _ => true
  | .strandResultWrite _ _ => true
  | .mcastMemberWrite _ => true
  | .mcastComplete _ => true
  | .discover _ => true
  | .discoverAck _ => true
  | .assign _ => true
  | .bezelOpStart _ => true
  | .bezelOpComplete _ => true
  | .copyCommandStart _ _ => true
  | .copyCommandComplete _ _ _ => true
  | .reservationRequest _ => true
  | .reservationResend _ => true
  | .slotPublication _ => true
  | .storeBufferDrain _ => true
  | .orderingPointPass _ _ => true
  | .writeQueueApply _ => true
  | .portRead _ => true
  | .deathSignals _ => true
  | .slotReclaim _ => true
  | .migrationStart _ => true
  | .migrationMove _ => true
  | .forwardingRedirect _ => true
  | .restartEvent _ => true
  | .restartSequence _ _ => true
  | .jobTeardown _ => true
  | .jobShadowCommit _ => true
  | .missResend _ => true
  | .tlbMissAnswer _ => true
  | .pageRequest _ => true
  | .pageRequestRetry _ => true
  | .firingChoice _ => true
  | .revocationComplete _ => true
  | .resize _ => true
  | .contextFailed _ => true
  | .savePoint _ => true
  | .scrub _ => true
  | .hubStrandCombine _ => true
  | .hostMessageDelivery _ => true
  | .bezelIsolationSlot _ => true
  | .patrolRead _ _ => true
  | .timerExpiry _ _ => true
  | .prqdoneWrite _ _ => true
  | .windowWrite _ _ => true
  | .bzmapWrite _ => true
  | .strandWrite _ _ => true
  | .registerWrite _ _ => true
  | .sliceEnd _ => true
  | .preemptionBudgetExpiry _ => true
  | .watchdog _ => true
  | .functionReset _ => true
  | .serviceCoreFault _ _ => true
  | .serviceUncorrectable _ => true
  | .locketStreamEnd _ _ => true
  | .fabricRequestArrival _ _ _ _ _ => true
  | .endToEndResend _ => true
  | .linkReplay _ => true
  | .portRetrain _ _ _ _ => true
  | .deviceLost _ => true
  | .hostCompletionTimeout _ => true
  | .mbtailWrite _ _ _ => true
  | .fresetWrite _ _ => true
  | .vfbindWrite _ _ _ => true
  | .vfirqWrite _ => true
  | .lockInterface _ => true
  | .startInterface _ => true
  | .stopInterface _ => true
  | .getDeviceInterfaceReport _ => true
  | .getVersion _ => true
  | .getCapabilities _ => true
  | .negotiateAlgorithms _ => true
  | .getDigests _ => true
  | .getCertificate _ _ => true
  | .challenge _ _ => true
  | .getMeasurements _ _ => true
  | .keyExchange _ => true
  | .finish _ => true
  | .endSession _ => true
  | .unsupportedRequest _ => true
  | .cornerCoreStart _ _ _ => true
  | .bendWrite _ => true
  | .bootTimeout _ => true
  | .thermalThrottle _ => true
  | .fabricReplyArrival _ _ _ => true
  | .hostCompletion _ _ => true
  | .directoryUpdateAcknowledged _ => true
  | .messageWindow _ => true
  | .fbdomLostClear _ _ => true
  | .fabricManagerBind _ _ => true
  | .endF => true
  | .eret => true
  | .nop => true
  | .padWord => true
  | .exitSignalArrival => true
  | .controlMessageArrival => true
  | .capcallReply => true
  | .tlbinvComplete => true
  | .trapMessageDelivery => true
  | .tokenInterval => true
  | .deviceReset => true
  | .thermalTrip => true
  | .powerRemoval => true

end Sys2Proof
end

