-- ==== Sys2Proof/Decode.lean ====
section
/-!
DEFINITION. The decoder and, after it, the encoder of instruction words (R60 to R71 and the encoding tables of the
owning chapters). `decode` reads the candidate fields of an opcode and then admits the words only if the
candidate is well formed and the encoder writes exactly these words for it: so every reserved or unassigned bit
is refused in one place (R65, R66, R72).
-/

namespace Sys2Proof

/-! ## Field codes -/

/-- The code of a field of this kind (R67). -/
def Fmt.code : Fmt → BitVec 3
  | .f32 => 0
  | .bf16 => 1
  | .i32 => 2
  | .i16 => 3
  | .i8 => 4
  | .ts8 => 5

/-- Its inverse: `none` on a reserved code. -/
def Fmt.ofCode (c : BitVec 3) : Option Fmt :=
  match c.toNat with
  | 0 => some .f32
  | 1 => some .bf16
  | 2 => some .i32
  | 3 => some .i16
  | 4 => some .i8
  | 5 => some .ts8
  | _ => none

/-- The code of a field of this kind (R52). -/
def Rnd.code : Rnd → BitVec 3
  | .dyn => 0
  | .rne => 1
  | .rtz => 2
  | .rdn => 3
  | .rup => 4
  | .rna => 5

/-- Its inverse: `none` on a reserved code. -/
def Rnd.ofCode (c : BitVec 3) : Option Rnd :=
  match c.toNat with
  | 0 => some .dyn
  | 1 => some .rne
  | 2 => some .rtz
  | 3 => some .rdn
  | 4 => some .rup
  | 5 => some .rna
  | _ => none

/-- The code of a field of this kind (R68). -/
def Cond.code : Cond → BitVec 3
  | .eq => 0
  | .ne => 1
  | .lt => 2
  | .ge => 3
  | .ltn => 4
  | .gen => 5
  | .al => 6

/-- Its inverse: `none` on a reserved code. -/
def Cond.ofCode (c : BitVec 3) : Option Cond :=
  match c.toNat with
  | 0 => some .eq
  | 1 => some .ne
  | 2 => some .lt
  | 3 => some .ge
  | 4 => some .ltn
  | 5 => some .gen
  | 6 => some .al
  | _ => none

/-- The code of a field of this kind (R25). -/
def Scope.code : Scope → BitVec 3
  | .core => 0
  | .die => 1
  | .device => 2
  | .pod => 3
  | .system => 4

/-- Its inverse: `none` on a reserved code. -/
def Scope.ofCode (c : BitVec 3) : Option Scope :=
  match c.toNat with
  | 0 => some .core
  | 1 => some .die
  | 2 => some .device
  | 3 => some .pod
  | 4 => some .system
  | _ => none

/-- The code of a field of this kind (Table 03.14). -/
def LdW.code : LdW → BitVec 3
  | .d => 0
  | .s32 => 1
  | .z32 => 2
  | .s16 => 3
  | .z16 => 4
  | .s8 => 5
  | .z8 => 6

/-- Its inverse: `none` on a reserved code. -/
def LdW.ofCode (c : BitVec 3) : Option LdW :=
  match c.toNat with
  | 0 => some .d
  | 1 => some .s32
  | 2 => some .z32
  | 3 => some .s16
  | 4 => some .z16
  | 5 => some .s8
  | 6 => some .z8
  | _ => none

/-- The code of a field of this kind (Table 03.14). -/
def StW.code : StW → BitVec 3
  | .d => 0
  | .b32 => 1
  | .b16 => 3
  | .b8 => 5

/-- Its inverse: `none` on a reserved code. -/
def StW.ofCode (c : BitVec 3) : Option StW :=
  match c.toNat with
  | 0 => some .d
  | 1 => some .b32
  | 3 => some .b16
  | 5 => some .b8
  | _ => none

/-- The code of a field of this kind (R105). -/
def ExtKind.code : ExtKind → BitVec 3
  | .s8 => 0
  | .s16 => 1
  | .s32 => 2
  | .z8 => 4
  | .z16 => 5
  | .z32 => 6

/-- Its inverse: `none` on a reserved code. -/
def ExtKind.ofCode (c : BitVec 3) : Option ExtKind :=
  match c.toNat with
  | 0 => some .s8
  | 1 => some .s16
  | 2 => some .s32
  | 4 => some .z8
  | 5 => some .z16
  | 6 => some .z32
  | _ => none

/-- The code of a field of this kind (R103). -/
def WaitSel.code : WaitSel → BitVec 3
  | .loads => 0
  | .stores => 1
  | .copies => 2
  | .bezel => 3
  | .all => 4
  | .rep => 5

/-- Its inverse: `none` on a reserved code. -/
def WaitSel.ofCode (c : BitVec 3) : Option WaitSel :=
  match c.toNat with
  | 0 => some .loads
  | 1 => some .stores
  | 2 => some .copies
  | 3 => some .bezel
  | 4 => some .all
  | 5 => some .rep
  | _ => none

/-- The code of a field of this kind (Table 09.1). -/
def AmoOp.code : AmoOp → BitVec 4
  | .add => 0
  | .and => 1
  | .or => 2
  | .xor => 3
  | .min => 4
  | .max => 5
  | .minn => 6
  | .maxn => 7
  | .swap => 8

/-- Its inverse: `none` on a reserved code. -/
def AmoOp.ofCode (c : BitVec 4) : Option AmoOp :=
  match c.toNat with
  | 0 => some .add
  | 1 => some .and
  | 2 => some .or
  | 3 => some .xor
  | 4 => some .min
  | 5 => some .max
  | 6 => some .minn
  | 7 => some .maxn
  | 8 => some .swap
  | _ => none

/-- The code of a field of this kind (R192). -/
def RedOp.code : RedOp → BitVec 3
  | .add => 0
  | .min => 1
  | .max => 2
  | .and => 3
  | .or => 4
  | .xor => 5

/-- Its inverse: `none` on a reserved code. -/
def RedOp.ofCode (c : BitVec 3) : Option RedOp :=
  match c.toNat with
  | 0 => some .add
  | 1 => some .min
  | 2 => some .max
  | 3 => some .and
  | 4 => some .or
  | 5 => some .xor
  | _ => none

/-- The code of a field of this kind (R185). -/
def VCond.code : VCond → BitVec 3
  | .eq => 0
  | .ne => 1
  | .lt => 2
  | .ge => 3
  | .le => 4
  | .gt => 5

/-- Its inverse: `none` on a reserved code. -/
def VCond.ofCode (c : BitVec 3) : Option VCond :=
  match c.toNat with
  | 0 => some .eq
  | 1 => some .ne
  | 2 => some .lt
  | 3 => some .ge
  | 4 => some .le
  | 5 => some .gt
  | _ => none

/-- The code of a field of this kind (R186). -/
def SelKind.code : SelKind → BitVec 3
  | .pred => 0
  | .pres => 1
  | .lt => 2
  | .gt => 3

/-- Its inverse: `none` on a reserved code. -/
def SelKind.ofCode (c : BitVec 3) : Option SelKind :=
  match c.toNat with
  | 0 => some .pred
  | 1 => some .pres
  | 2 => some .lt
  | 3 => some .gt
  | _ => none

/-- The code of a field of this kind (Table 05.3). -/
def CpyDir.code : CpyDir → BitVec 3
  | .gl => 0
  | .lg => 1
  | .lr => 2
  | .ll => 3

/-- Its inverse: `none` on a reserved code. -/
def CpyDir.ofCode (c : BitVec 3) : Option CpyDir :=
  match c.toNat with
  | 0 => some .gl
  | 1 => some .lg
  | 2 => some .lr
  | 3 => some .ll
  | _ => none

/-- The code of a field of this kind (R223). -/
def StatSel.code : StatSel → BitVec 3
  | .tile => 0
  | .seq => 1
  | .err => 2

/-- Its inverse: `none` on a reserved code. -/
def StatSel.ofCode (c : BitVec 3) : Option StatSel :=
  match c.toNat with
  | 0 => some .tile
  | 1 => some .seq
  | 2 => some .err
  | _ => none

/-- ORD's code (Table 09.1). -/
def Ord.code : Ord → BitVec 2
  | .relaxed => 0
  | .acquire => 1
  | .release => 2
  | .acqRel => 3

/-- ORD's inverse: every code is assigned. -/
def Ord.ofCode (c : BitVec 2) : Ord :=
  match c.toNat with
  | 0 => .relaxed
  | 1 => .acquire
  | 2 => .release
  | _ => .acqRel

/-- SZ's code (Table 12.5, as SIZE of Table 12.4). -/
def PageSize.code : PageSize → BitVec 2
  | .k4 => 0
  | .k64 => 1
  | .m2 => 2
  | .g1 => 3

/-- SZ's inverse: every code is assigned. -/
def PageSize.ofCode (c : BitVec 2) : PageSize :=
  match c.toNat with
  | 0 => .k4
  | 1 => .k64
  | 2 => .m2
  | _ => .g1

/-! ## Words and fields -/

/-- Field of n bits at bit `lo` of a word (R4). -/
def fld (n lo : Nat) (w : Word) : BitVec n := BitVec.ofNat n (w.toNat / 2 ^ lo)

/-- One bit of a word. -/
def bit (i : Nat) (w : Word) : Bool := w.getLsbD i

/-- A word from its value. -/
def w32 (n : Nat) : Word := BitVec.ofNat 32 n

/-- A word whose bits [4:0] hold the c field (shape F64.R, Table 02.8). -/
def word5 (c : BitVec 5) : Word := w32 c.toNat

/-- The low word of a 64-bit literal (R4). -/
def loWord (x : DWord) : Word := w32 (x.toNat % 2 ^ 32)
/-- The high word of a 64-bit literal (R4). -/
def hiWord (x : DWord) : Word := w32 (x.toNat / 2 ^ 32)
/-- A 64-bit literal from its two words, low word first (R4). -/
def joinWords (lo hi : Word) : DWord := BitVec.ofNat 64 (lo.toNat + 2 ^ 32 * hi.toNat)

/-- A 5-bit register field that names a predicate (R66). -/
def pReg (p : PReg) : BitVec 5 := p.setWidth 5
/-- The predicate a register field names. -/
def lowP (r : BitVec 5) : PReg := r.setWidth 3
/-- A 5-bit register field that names a tile or a strand (R66, R134). -/
def kReg (p : BitVec 4) : BitVec 5 := p.setWidth 5
/-- The tile or strand a register field names. -/
def lowK (r : BitVec 5) : BitVec 4 := r.setWidth 4

/-- The fields of word 0 (Table 02.7). -/
structure Head where
  f : BitVec 3
  g : BitVec 3
  b : BitVec 5
  a : BitVec 5
  d : BitVec 5
  op : BitVec 8
  p : Bool
  len : BitVec 2
  deriving DecidableEq, Repr

/-- Word 0 from its fields (R61). -/
def Head.pack (h : Head) : Word :=
  w32 (h.len.toNat + 4 * h.p.toNat + 8 * h.op.toNat + 2048 * h.d.toNat + 65536 * h.a.toNat
    + 2097152 * h.b.toNat + 67108864 * h.g.toNat + 536870912 * h.f.toNat)

/-- The fields of word 0 (R61). -/
def Head.unpack (w : Word) : Head where
  f := fld 3 29 w
  g := fld 3 26 w
  b := fld 5 21 w
  a := fld 5 16 w
  d := fld 5 11 w
  op := fld 8 3 w
  p := bit 2 w
  len := fld 2 0 w

/-- W of an integer form: f bits [31:30] = 01 (R67). -/
def Head.w (h : Head) : Bool := h.f.getLsbD 1
/-- f of an integer form from W. -/
def wBits (w : Bool) : BitVec 3 := if w then 2 else 0
/-- f of an atomic form: 000 64-bit, 010 32-bit (Table 09.2). -/
def aBits (w : Bool) : BitVec 3 := if w then 2 else 0
/-- ORD of a form that only knows release (Table 09.2). -/
def rlOrd (rl : Bool) : Ord := if rl then .release else .relaxed
/-- Word 1 of class 3, indices 0 to 5 (Table 09.1), less CNT and SCOPE. -/
def word3 (c : SReg) (op : AmoOp) (ord : Ord) : Word :=
  w32 (c.toNat + 32 * op.code.toNat + 512 * ord.code.toNat)
/-- g of a tagged instruction: bit 26 selects the remote variant (R114). -/
def tgtBits : Option SReg → BitVec 3
  | none => 0
  | some _ => 1
/-- b of a tagged instruction: the target's register in the remote variant (R114). -/
def tgtReg : Option SReg → SReg
  | none => 0
  | some r => r
/-- The target of a tagged instruction (R114). -/
def Head.tgt (h : Head) : Option SReg := if h.g.getLsbD 0 then some h.b else none

/-- The register of VBCAST's source. -/
def BcastSrc.reg : BcastSrc → BitVec 5
  | .scalar a => a
  | .elem a _ => a
/-- Word 1 of VBCAST (Table 06.3). -/
def BcastSrc.word : BcastSrc → Word
  | .scalar _ => 0
  | .elem _ k => w32 (32 + 64 * k.toNat)

/-- Word 1 of MDRAIN (Table 07.5). -/
def MdrainF.word (f : MdrainF) : Word :=
  w32 (f.c.toNat + 32 * f.nm.toNat + 64 * f.sc.toNat + 128 * f.cl.toNat + 256 * f.cn.toNat
    + 512 * f.rnd.code.toNat + 65536 * f.aq.toNat + 131072 * f.rl.toNat)
/-- MDRAIN's fields from its words. -/
def MdrainF.ofFields (h : Head) (fmt : Fmt) (sc : Scope) (rnd : Rnd) (w1 : Word) : MdrainF :=
  ⟨fmt, sc, lowK h.d, h.a, h.b, fld 5 0 w1, rnd, bit 8 w1, bit 7 w1, bit 6 w1, bit 5 w1, bit 16 w1, bit 17 w1⟩

/-- Word 1 of CPY (Table 05.3). -/
def CpyF.word (f : CpyF) : Word :=
  w32 (f.nwm1.toNat + 65536 * f.aq.toNat + 131072 * f.rl.toNat + 262144 * f.dec.toNat
    + 524288 * f.tf.toNat + 1048576 * f.inv.toNat)
/-- CPY's fields from its words. -/
def CpyF.ofFields (h : Head) (dir : CpyDir) (sc : Scope) (w1 w2 : Word) : CpyF :=
  ⟨dir, sc, h.b, h.a, h.d, fld 15 0 w1, bit 16 w1, bit 17 w1, bit 18 w1, bit 19 w1, bit 20 w1, w2⟩

/-- Word 1 of CPY2 (Table 05.5). -/
def Cpy2F.word (f : Cpy2F) : Word :=
  w32 (f.rowsM1.toNat + 256 * f.rwdM1.toNat + 131072 * f.lg.toNat + 262144 * f.aq.toNat
    + 524288 * f.rl.toNat + 1048576 * f.dec.toNat + 2097152 * f.tf.toNat + 4194304 * f.inv.toNat
    + 8388608 * f.bnd.toNat)
/-- CPY2's fields from its words. -/
def Cpy2F.ofFields (h : Head) (fmt : Fmt) (sc : Scope) (w1 w2 w3 : Word) : Cpy2F :=
  ⟨fmt, sc, h.b, h.a, h.d, fld 8 0 w1, fld 9 8 w1, bit 17 w1, bit 18 w1, bit 19 w1, bit 20 w1, bit 21 w1,
    bit 22 w1, bit 23 w1, w2, fld 18 0 w3⟩

/-- Word 1 of SEND (R162). -/
def SendF.word (f : SendF) (last : Bool) : Word :=
  w32 (f.k.toNat + 4 * last.toNat + 8 * f.rl.toNat + 16 * f.aq.toNat)
/-- SEND's fields from its words. -/
def SendF.ofFields (h : Head) (sc : Scope) (w1 w2 : Word) : SendF :=
  ⟨sc, h.a, fld 2 0 w1, bit 3 w1, bit 4 w1, w2⟩

/-- Word 1 of SPAWN (Table 10.2). -/
def SpawnF.word (f : SpawnF) : Word :=
  w32 (f.k.toNat + 256 * f.c.toNat + 8192 * f.lk.toNat + 16384 * f.mn.toNat + 32768 * f.all.toNat)
/-- SPAWN's fields from its words. -/
def SpawnF.ofFields (h : Head) (w1 w2 : Word) : SpawnF :=
  ⟨h.d, h.a, h.b, fld 8 0 w1, fld 5 8 w1, bit 13 w1, bit 14 w1, bit 15 w1, w2⟩

/-- A prefix word (Table 02.9). -/
def pfxWord (ax : Bool) (d4 : VReg) (rnd : Rnd) (z : Bool) (mask : PReg) : Word :=
  w32 (mask.toNat + 8 * z.toNat + 16 * rnd.code.toNat + 128 * d4.toNat + 4096 * ax.toNat)

/-! ## The encoder -/

/-- Words of an instruction without a prefix word: LEN tells the number of words (R64). -/
def mk (f g : BitVec 3) (b a d : BitVec 5) (op : BitVec 8) (ws : List Word) : List Word :=
  Head.pack ⟨f, g, b, a, d, op, false, BitVec.ofNat 2 (ws.length - 1)⟩ :: ws

/-- Words of an instruction that accepts a prefix word, which is the last word; with it g is 000 (R70). -/
def mkG (f : BitVec 3) (gd : Guard) (b a d : BitVec 5) (op : BitVec 8) (ws : List Word) : List Word :=
  match gd with
  | .plain g => mk f g b a d op ws
  | .pfx ax d4 rnd z mask =>
    Head.pack ⟨f, 0, b, a, d, op, true, BitVec.ofNat 2 ws.length⟩ :: (ws ++ [pfxWord ax d4 rnd z mask])

/-- The words of an instruction, word 0 first; an event has none. -/
def encode (i : Instr) : List Word :=
  match i with
  | .add w d a b => mk (wBits w) 0 b a d 0 [0]
  | .addImm w d a imm => mk (wBits w ||| 1) 0 0 a d 0 [imm]
  | .sub w d a b => mk (wBits w) 0 b a d 1 [0]
  | .subImm w d a imm => mk (wBits w ||| 1) 0 0 a d 1 [imm]
  | .mul w d a b => mk (wBits w) 0 b a d 2 [0]
  | .mulImm w d a imm => mk (wBits w ||| 1) 0 0 a d 2 [imm]
  | .mulh w d a b => mk (wBits w) 0 b a d 3 [0]
  | .mulhImm w d a imm => mk (wBits w ||| 1) 0 0 a d 3 [imm]
  | .mulhn w d a b => mk (wBits w) 0 b a d 4 [0]
  | .mulhnImm w d a imm => mk (wBits w ||| 1) 0 0 a d 4 [imm]
  | .div w d a b => mk (wBits w) 0 b a d 5 [0]
  | .divImm w d a imm => mk (wBits w ||| 1) 0 0 a d 5 [imm]
  | .divn w d a b => mk (wBits w) 0 b a d 6 [0]
  | .divnImm w d a imm => mk (wBits w ||| 1) 0 0 a d 6 [imm]
  | .rem w d a b => mk (wBits w) 0 b a d 7 [0]
  | .remImm w d a imm => mk (wBits w ||| 1) 0 0 a d 7 [imm]
  | .remn w d a b => mk (wBits w) 0 b a d 8 [0]
  | .remnImm w d a imm => mk (wBits w ||| 1) 0 0 a d 8 [imm]
  | .and w d a b => mk (wBits w) 0 b a d 9 [0]
  | .andImm w d a imm => mk (wBits w ||| 1) 0 0 a d 9 [imm]
  | .or w d a b => mk (wBits w) 0 b a d 10 [0]
  | .orImm w d a imm => mk (wBits w ||| 1) 0 0 a d 10 [imm]
  | .xor w d a b => mk (wBits w) 0 b a d 11 [0]
  | .xorImm w d a imm => mk (wBits w ||| 1) 0 0 a d 11 [imm]
  | .andn w d a b => mk (wBits w) 0 b a d 12 [0]
  | .andnImm w d a imm => mk (wBits w ||| 1) 0 0 a d 12 [imm]
  | .shl w d a b => mk (wBits w) 0 b a d 13 [0]
  | .shlImm w d a imm => mk (wBits w ||| 1) 0 0 a d 13 [imm]
  | .shr w d a b => mk (wBits w) 0 b a d 14 [0]
  | .shrImm w d a imm => mk (wBits w ||| 1) 0 0 a d 14 [imm]
  | .sar w d a b => mk (wBits w) 0 b a d 15 [0]
  | .sarImm w d a imm => mk (wBits w ||| 1) 0 0 a d 15 [imm]
  | .min w d a b => mk (wBits w) 0 b a d 16 [0]
  | .minImm w d a imm => mk (wBits w ||| 1) 0 0 a d 16 [imm]
  | .max w d a b => mk (wBits w) 0 b a d 17 [0]
  | .maxImm w d a imm => mk (wBits w ||| 1) 0 0 a d 17 [imm]
  | .minn w d a b => mk (wBits w) 0 b a d 18 [0]
  | .minnImm w d a imm => mk (wBits w ||| 1) 0 0 a d 18 [imm]
  | .maxn w d a b => mk (wBits w) 0 b a d 19 [0]
  | .maxnImm w d a imm => mk (wBits w ||| 1) 0 0 a d 19 [imm]
  | .cmp w cond d a b => mk (wBits w) cond.code b a d 20 [0]
  | .cmpImm w cond d a imm => mk (wBits w ||| 1) cond.code 0 a d 20 [imm]
  | .sel d a b c => mk 0 0 b a d 21 [word5 c]
  | .clz w d a => mk (wBits w) 0 0 a d 22 [0]
  | .ctz w d a => mk (wBits w) 0 0 a d 23 [0]
  | .popc w d a => mk (wBits w) 0 0 a d 24 [0]
  | .ext k d a => mk 0 k.code 0 a d 25 [0]
  | .bfx sgn pos lenM1 d a => mk 0 0 0 a d 26 [w32 (32 * pos.toNat + 2048 * lenM1.toNat + 131072 * sgn.toNat)]
  | .bfi pos lenM1 d a => mk 0 0 0 a d 27 [w32 (32 * pos.toNat + 2048 * lenM1.toNat)]
  | .li d lit => mk 0 0 0 0 d 28 [loWord lit, hiWord lit]
  | .addpc d imm => mk 1 0 0 0 d 29 [imm]
  | .br w cond a b off => mk (wBits w) cond.code b a 0 0x20 [off]
  | .bri w cond a y off => mk (wBits w) cond.code 0 a 0 0x21 [y, off]
  | .jmp off => mk 0 0 0 0 0 0x22 [off]
  | .jal d off => mk 0 0 0 0 d 0x23 [off]
  | .jr a imm => mk 0 0 0 a 0 0x24 [imm]
  | .jalr d a imm => mk 0 0 0 a d 0x25 [imm]
  | .region smask => mk 0 0 0 0 0 0x26 [smask]
  | .regionVec smask vmask => mk 0 0 0 0 0 0x26 [smask, vmask]
  | .endF => mk 0 0 0 0 0 0x27 [0]
  | .waitc ks n => mk 0 ks.code 0 0 0 0x28 [n]
  | .rep nM1 sd sa sb sc count => mk (fld 3 3 (w32 nM1.toNat)) (fld 3 0 (w32 nM1.toNat)) sb sa sd 0x29 [w32 (sc.toNat + 65536 * count.toNat)]
  | .trapi imm => mk 0 0 0 0 0 0x2A [imm]
  | .eret => mk 0 0 0 0 0 0x2B [0]
  | .nop => mk 0 0 0 0 0 0x2C [0]
  | .padWord => [3]
  | .ldl k d a imm => mk k.code 0 0 a d 0x40 [imm]
  | .stl k a b imm => mk k.code 0 b a 0 0x41 [imm]
  | .ldg k inv d a imm => mk k.code (BitVec.ofNat 3 inv.toNat) 0 a d 0x42 [imm]
  | .stg k a b imm => mk k.code 0 b a 0 0x43 [imm]
  | .ldaq k scope d a imm => mk k.code scope.code 0 a d 0x44 [imm]
  | .strl k scope a b imm => mk k.code scope.code b a 0 0x45 [imm]
  | .vldl fmt gd d a imm => mkG fmt.code gd 0 a d 0x46 [imm]
  | .vldg fmt gd d a imm => mkG fmt.code gd 0 a d 0x48 [imm]
  | .vstl fmt gd d a imm => mkG fmt.code gd 0 a d 0x47 [imm]
  | .vstg fmt gd d a imm => mkG fmt.code gd 0 a d 0x49 [imm]
  | .vlds fmt gd d a b imm => mkG fmt.code gd b a d 0x4a [imm]
  | .vsts fmt gd d a b imm => mkG fmt.code gd b a d 0x4b [imm]
  | .vgath fmt gd loc sh d a b => mkG fmt.code gd b a d 0x4c [w32 (32 * sh.toNat + 1024 * loc.toNat)]
  | .vscat fmt gd loc sh d a b => mkG fmt.code gd b a d 0x4d [w32 (32 * sh.toNat + 1024 * loc.toNat)]
  | .ldf tgt d a imm => mk 0 (tgtBits tgt) (tgtReg tgt) a d 0x4e [imm]
  | .ldfp tgt d a imm => mk 0 (tgtBits tgt) (tgtReg tgt) a d 0x4f [imm]
  | .ste a b imm => mk 0 0 b a 0 0x50 [imm]
  | .steRem a b c => mk 0 1 b a 0 0x50 [word5 c]
  | .tagw full tgt a imm => mk 0 (tgtBits tgt ||| BitVec.ofNat 3 (2 * full.toNat)) (tgtReg tgt) a 0 0x51 [imm]
  | .tagr tgt d a imm => mk 0 (tgtBits tgt) (tgtReg tgt) a d 0x52 [imm]
  | .amo op ord w scope d a b => mk (aBits w) scope.code b a d 0x60 [word3 0 op ord]
  | .cas ord w scope d a b c => mk (aBits w) scope.code b a d 0x61 [word3 c .add ord]
  | .amobnd ord w scope d a b c => mk (aBits w) scope.code b a d 0x62 [word3 c .add ord]
  | .red op rl w scope a b => mk (aBits w) scope.code b a 0 0x63 [word3 0 op (rlOrd rl)]
  | .redf op cnt rl scope fmt a b => mk fmt.code scope.code b a 0 0x64 [word3 0 op (rlOrd rl) + w32 (2048 * cnt.toNat)]
  | .vred op cnt rl scope fmt gd a b => mkG fmt.code gd b a 0 0x65 [word3 0 op (rlOrd rl) + w32 (2048 * cnt.toNat + 4096 * scope.code.toNat)]
  | .fence scope => mk 0 scope.code 0 0 0 0x66 [0]
  | .clinit a b => mk 0 0 b a 0 0x67 [0]
  | .arrive scope d a b => mk scope.code 0 b a d 0x68 [0]
  | .arrivew scope d a b => mk scope.code 0 b a d 0x69 [0]
  | .clwait scope a b c => mk scope.code 0 b a 0 0x6A [word5 c]
  | .vadd fmt gd d a b => mkG fmt.code gd b a d 0x80 [0]
  | .vsub fmt gd d a b => mkG fmt.code gd b a d 0x81 [0]
  | .vmul fmt gd d a b => mkG fmt.code gd b a d 0x82 [0]
  | .vmin fmt gd d a b => mkG fmt.code gd b a d 0x85 [0]
  | .vmax fmt gd d a b => mkG fmt.code gd b a d 0x86 [0]
  | .vdiv fmt gd d a b => mkG fmt.code gd b a d 0x87 [0]
  | .vand fmt gd d a b => mkG fmt.code gd b a d 0x8b [0]
  | .vor fmt gd d a b => mkG fmt.code gd b a d 0x8c [0]
  | .vxor fmt gd d a b => mkG fmt.code gd b a d 0x8d [0]
  | .vshl fmt gd d a b => mkG fmt.code gd b a d 0x8e [0]
  | .vfma fmt gd d a b c => mkG fmt.code gd b a d 0x83 [word5 c]
  | .vfms fmt gd d a b c => mkG fmt.code gd b a d 0x84 [word5 c]
  | .vsqrt fmt gd d a => mkG fmt.code gd 0 a d 0x88 [0]
  | .vmag fmt gd d a => mkG fmt.code gd 0 a d 0x89 [0]
  | .vneg fmt gd d a => mkG fmt.code gd 0 a d 0x8a [0]
  | .vshr fmt g d a b => mk fmt.code g b a d 0x8f [0]
  | .vsar fmt g d a b => mk fmt.code g b a d 0x90 [0]
  | .vadds fmt g d a b => mk fmt.code g b a d 0x91 [0]
  | .vsubs fmt g d a b => mk fmt.code g b a d 0x92 [0]
  | .vcvt dst src rnd part g d a => mk dst.code g 0 a d 0x93 [w32 (32 * src.code.toNat + 256 * rnd.code.toNat + 2048 * part.toNat)]
  | .vcmp fmt cond g d a b => mk fmt.code g b a (pReg d) 0x94 [w32 (32 * cond.code.toNat)]
  | .vsel fmt k g d a b c => mk fmt.code g b a d 0x95 [w32 (c.toNat + 32 * k.code.toNat)]
  | .vexp2 g d a => mk Fmt.bf16.code g 0 a d 0x96 [0]
  | .vlog2 g d a => mk Fmt.bf16.code g 0 a d 0x97 [0]
  | .vrcp g d a => mk Fmt.bf16.code g 0 a d 0x98 [0]
  | .vrsq g d a => mk Fmt.bf16.code g 0 a d 0x99 [0]
  | .vsca fmt sv rnd g d a b => mk fmt.code g b a d 0x9A [w32 (32 * sv.toNat + 64 * rnd.code.toNat)]
  | .vvoid fmt g d => mk fmt.code g 0 0 d 0x9B [0]
  | .vpres fmt g d a => mk fmt.code g 0 a (pReg d) 0x9C [0]
  | .vmov fmt gd d a => mkG fmt.code gd 0 a d 0xA0 [0]
  | .vbcast fmt gd d src => mkG fmt.code gd 0 src.reg d 0xA1 [src.word]
  | .vextr fmt gd d a b => mkG fmt.code gd b a d 0xA2 [0]
  | .vins fmt gd d a b => mkG fmt.code gd b a d 0xA3 [0]
  | .vperm fmt gd d a b => mkG fmt.code gd b a d 0xA4 [0]
  | .vslide fmt gd dn d a b => mkG fmt.code gd b a d 0xa5 [w32 (32 * dn.toNat)]
  | .vzip fmt gd hi d a b => mkG fmt.code gd b a d 0xa6 [w32 (32 * hi.toNat)]
  | .vunzip fmt gd od d a b => mkG fmt.code gd b a d 0xa7 [w32 (32 * od.toNat)]
  | .vcompr fmt gd d a => mkG fmt.code gd 0 a d 0xA8 [0]
  | .vexpq4 gd part d a => mkG Fmt.i8.code gd 0 a d 0xA9 [w32 (32 * part.toNat)]
  | .qtld gd a => mkG 0 gd 0 a 0 0xAA [0]
  | .vreduce fmt gd op d a => mkG fmt.code gd 0 a d 0xAB [w32 (32 * op.code.toNat)]
  | .vscan fmt gd op ex d a => mkG fmt.code gd 0 a d 0xAC [w32 (32 * op.code.toNat + 256 * ex.toNat)]
  | .vcount fmt gd d a => mkG fmt.code gd 0 a d 0xAD [0]
  | .whilelt fmt gd d a b => mkG fmt.code gd b a (pReg d) 0xAE [0]
  | .vlq fmt d => mk fmt.code 0 0 0 d 0xAF [0]
  | .pand d a b => mk 0 0 (pReg b) (pReg a) (pReg d) 0xb0 [0]
  | .por d a b => mk 0 0 (pReg b) (pReg a) (pReg d) 0xb1 [0]
  | .pnot d a => mk 0 0 0 (pReg a) (pReg d) 0xB2 [0]
  | .pcnt fmt d a => mk fmt.code 0 0 (pReg a) d 0xb3 [0]
  | .pfirst fmt d a => mk fmt.code 0 0 (pReg a) d 0xb4 [0]
  | .pset fmt d k => mk fmt.code 0 0 0 (pReg d) 0xB5 [w32 (32 * k.toNat)]
  | .nred fmt g a b k => mk fmt.code g b a (kReg k) 0xB6 [0]
  | .nsend scope a b tag => mk 0 scope.code b a 0 0xB7 [tag]
  | .nsendRaw scope a b => mk 1 scope.code b a 0 0xB7 [0]
  | .nrecv d => mk 0 0 0 0 d 0xB8 [0]
  | .mcast a k => mk 0 0 0 a (kReg k) 0xB9 [0]
  | .bld scope fmt a k aq rl => mk fmt.code scope.code 0 a 0 0xC0 [w32 (k.toNat + 65536 * aq.toNat + 131072 * rl.toNat)]
  | .mma scope fmt d a k nbm1 aq rl => mk fmt.code scope.code 0 a (kReg d) 0xC1 [w32 (k.toNat + 32 * nbm1.toNat + 65536 * aq.toNat + 131072 * rl.toNat)]
  | .mzero scope fmt d aq rl => mk fmt.code scope.code 0 0 (kReg d) 0xC2 [w32 (65536 * aq.toNat + 131072 * rl.toNat)]
  | .mdrain f => mk f.fmt.code f.scope.code f.b f.a (kReg f.d) 0xC3 [f.word]
  | .mstat ks d c => mk ks.code 0 0 0 d 0xC4 [w32 c.toNat]
  | .msave scope d a aq rl => mk 0 scope.code 0 a (kReg d) 0xC5 [w32 (65536 * aq.toNat + 131072 * rl.toNat)]
  | .mrest scope fmt d a aq rl => mk fmt.code scope.code 0 a (kReg d) 0xC6 [w32 (65536 * aq.toNat + 131072 * rl.toNat)]
  | .cpy f => mk f.dir.code f.scope.code f.b f.a f.d 0xC8 [f.word, f.disp]
  | .cpy2 f => mk f.fmt.code f.scope.code f.b f.a f.d 0xC9 [f.word, f.gs, w32 f.ls.toNat]
  | .send f => mk 0 f.scope.code 0 f.a 0 0xCA [f.word false, f.len]
  | .sendLast f => mk 0 f.scope.code 0 f.a 0 0xCA [f.word true, f.len]
  | .spawn f => mk 0 0 f.b f.a f.d 0xE0 [f.word, f.tag]
  | .exit a => mk 0 0 0 a 0 0xe1 [0]
  | .kill a => mk 0 0 0 a 0 0xe2 [0]
  | .link a => mk 0 0 0 a 0 0xe3 [0]
  | .unlink a => mk 0 0 0 a 0 0xe4 [0]
  | .monitor a b => mk 0 0 b a 0 0xe5 [0]
  | .unmon a b => mk 0 0 b a 0 0xe6 [0]
  | .migrate a b => mk 0 0 b a 0 0xeb [0]
  | .signalMsg scope a b c => mk 0 scope.code b a 0 0xE7 [word5 c]
  | .signalExit scope a b => mk 1 scope.code b a 0 0xE7 [0]
  | .self d => mk 0 0 0 0 d 0xE8 [0]
  | .selfStable d => mk 1 0 0 0 d 0xE8 [0]
  | .selfTx a => mk 2 0 0 a 0 0xE8 [0]
  | .timer k a b => mk 0 0 b a 0 0xE9 [w32 (32 * k.toNat)]
  | .timerKill k a b => mk 1 0 b a 0 0xE9 [w32 (32 * k.toNat)]
  | .capcall a b c => mk 0 0 b a 0 0xEA [word5 c]
  | .portcfg k a b => mk 0 0 b a 0 0xEC [w32 (32 * k.toNat)]
  | .consume k a => mk 0 0 0 a 0 0xED [w32 (32 * k.toNat)]
  | .supcfgPolicy a b => mk 0 0 b a 0 0xEE [0]
  | .supcfgAdd d a => mk 1 0 0 a d 0xEE [0]
  | .supcfgRemove a => mk 2 0 0 a 0 0xEE [0]
  | .supcfgLaunch a => mk 3 0 0 a 0 0xEE [0]
  | .restartChild a => mk 0 0 0 a 0 0xEF [0]
  | .restartJob a => mk 1 0 0 a 0 0xEF [0]
  | .ctxnew d a ovr num rq => mk 0 0 0 a d 0xF0 [ovr, w32 (num.toNat + 4096 * rq.toNat), 0]
  | .ctxset a b c => mk 0 0 b a 0 0xF1 [word5 c]
  | .ctxrevoke a => mk 0 0 0 a 0 0xF2 [0]
  | .ctxstat d a k => mk 0 0 0 a d 0xF3 [w32 (32 * k.toNat)]
  | .ctxdone a => mk 0 0 0 a 0 0xF4 [0]
  | .tlbw d a b c rsp => mk 0 0 b a d 0xF5 [w32 (c.toNat + 32 * rsp.toNat), 0, 0]
  | .tlbinvPage a b sz => mk 0 0 b a 0 0xF6 [w32 sz.code.toNat]
  | .tlbinvCtx b => mk 1 0 b 0 0 0xF6 [0]
  | .tlbprobe e1 d a b => mk (BitVec.ofNat 3 e1.toNat) 0 b a d 0xF7 [0]
  | .getc d num => mk 0 0 0 0 d 0xF8 [w32 num.toNat]
  | .getcMissb d => mk 0 0 0 0 d 0xF8 [0x12B]
  | .setc num a => mk 0 0 0 a 0 0xF9 [w32 num.toNat]
  | .setcImm num imm => mk 1 0 0 0 0 0xF9 [w32 (num.toNat + 4096 * imm.toNat)]
  | .poisonclr a => mk 0 0 0 a 0 0xFA [0]
  | .locketStart d a => mk 0 0 0 a d 0xFB [0]
  | .locketStat d a => mk 1 0 0 a d 0xFB [0]
  | .locketStop a => mk 2 0 0 a 0 0xFB [0]
  | .scrunWrite _ _ => []
  | .taggedWaitComplete _ => []
  | .remoteAccessRequest _ => []
  | .claspReleaseAnswer _ => []
  | .nsendDelivery _ => []
  | .strandNodeCombine _ _ => []
  | .strandResultWrite _ _ => []
  | .mcastMemberWrite _ => []
  | .mcastComplete _ => []
  | .discover _ => []
  | .discoverAck _ => []
  | .assign _ => []
  | .bezelOpStart _ => []
  | .bezelOpComplete _ => []
  | .copyCommandStart _ _ => []
  | .copyCommandComplete _ _ _ => []
  | .reservationRequest _ => []
  | .reservationResend _ => []
  | .slotPublication _ => []
  | .storeBufferDrain _ => []
  | .orderingPointPass _ _ => []
  | .writeQueueApply _ => []
  | .portRead _ => []
  | .deathSignals _ => []
  | .slotReclaim _ => []
  | .migrationStart _ => []
  | .migrationMove _ => []
  | .forwardingRedirect _ => []
  | .restartEvent _ => []
  | .restartSequence _ _ => []
  | .jobTeardown _ => []
  | .jobShadowCommit _ => []
  | .missResend _ => []
  | .tlbMissAnswer _ => []
  | .pageRequest _ => []
  | .pageRequestRetry _ => []
  | .firingChoice _ => []
  | .revocationComplete _ => []
  | .resize _ => []
  | .contextFailed _ => []
  | .savePoint _ => []
  | .scrub _ => []
  | .hubStrandCombine _ => []
  | .hostMessageDelivery _ => []
  | .bezelIsolationSlot _ => []
  | .patrolRead _ _ => []
  | .timerExpiry _ _ => []
  | .prqdoneWrite _ _ => []
  | .windowWrite _ _ => []
  | .bzmapWrite _ => []
  | .strandWrite _ _ => []
  | .registerWrite _ _ => []
  | .sliceEnd _ => []
  | .preemptionBudgetExpiry _ => []
  | .watchdog _ => []
  | .functionReset _ => []
  | .serviceCoreFault _ _ => []
  | .serviceUncorrectable _ => []
  | .locketStreamEnd _ _ => []
  | .fabricRequestArrival _ _ _ _ _ => []
  | .endToEndResend _ => []
  | .linkReplay _ => []
  | .portRetrain _ _ _ _ => []
  | .deviceLost _ => []
  | .hostCompletionTimeout _ => []
  | .mbtailWrite _ _ _ => []
  | .fresetWrite _ _ => []
  | .vfbindWrite _ _ _ => []
  | .vfirqWrite _ => []
  | .lockInterface _ => []
  | .startInterface _ => []
  | .stopInterface _ => []
  | .getDeviceInterfaceReport _ => []
  | .getVersion _ => []
  | .getCapabilities _ => []
  | .negotiateAlgorithms _ => []
  | .getDigests _ => []
  | .getCertificate _ _ => []
  | .challenge _ _ => []
  | .getMeasurements _ _ => []
  | .keyExchange _ => []
  | .finish _ => []
  | .endSession _ => []
  | .unsupportedRequest _ => []
  | .cornerCoreStart _ _ _ => []
  | .bendWrite _ => []
  | .bootTimeout _ => []
  | .thermalThrottle _ => []
  | .fabricReplyArrival _ _ _ => []
  | .hostCompletion _ _ => []
  | .directoryUpdateAcknowledged _ => []
  | .messageWindow _ => []
  | .fbdomLostClear _ _ => []
  | .fabricManagerBind _ _ => []
  | .exitSignalArrival => []
  | .controlMessageArrival => []
  | .capcallReply => []
  | .tlbinvComplete => []
  | .trapMessageDelivery => []
  | .tokenInterval => []
  | .deviceReset => []
  | .thermalTrip => []
  | .powerRemoval => []

/-! ## The decoder -/

/-- Why the decoder refuses words; each reason is one illegal encoding of R72. -/
inductive DecodeError where
  /-- no word to decode -/
  | empty
  /-- LEN = 11 with another bit set (R62) -/
  | badPad
  /-- LEN, P and the number of words disagree (R64) -/
  | badLength
  /-- a prefix word where none is accepted (R69) -/
  | pfxRefused
  /-- a reserved code of a format, condition, scope, rounding or selector field -/
  | reservedCode
  /-- an index the opcode map does not assign (R71) -/
  | unassigned
  /-- a reserved or unassigned bit is not zero (R65, R66) -/
  | reservedBits
  /-- the field values break a rule of the instruction's entry -/
  | illFormed
  deriving DecidableEq, Repr

/-- Go on with the value of a field, or refuse its reserved code. -/
def need {α β : Type} (o : Option α) (k : α → Except DecodeError β) : Except DecodeError β :=
  match o with
  | some a => k a
  | none => .error .reservedCode

/-- An instruction of 64 bits without a prefix. -/
def one {β : Type} (h : Head) (ws : List Word) (k : Word → Except DecodeError β) : Except DecodeError β :=
  if h.p then .error .pfxRefused else
  match ws with
  | [w1] => k w1
  | _ => .error .badLength

/-- An instruction of 96 bits without a prefix. -/
def two {β : Type} (h : Head) (ws : List Word) (k : Word → Word → Except DecodeError β) : Except DecodeError β :=
  if h.p then .error .pfxRefused else
  match ws with
  | [w1, w2] => k w1 w2
  | _ => .error .badLength

/-- An instruction of 128 bits without a prefix. -/
def three {β : Type} (h : Head) (ws : List Word) (k : Word → Word → Word → Except DecodeError β) :
    Except DecodeError β :=
  if h.p then .error .pfxRefused else
  match ws with
  | [w1, w2, w3] => k w1 w2 w3
  | _ => .error .badLength

/-- An instruction of 64 bits that accepts a prefix word (R69, R70). -/
def guarded {β : Type} (h : Head) (ws : List Word) (k : Guard → Word → Except DecodeError β) :
    Except DecodeError β :=
  if h.p then
    match ws with
    | [w1, pw] => need (Rnd.ofCode (fld 3 4 pw)) fun rnd =>
        k (.pfx (bit 12 pw) (fld 5 7 pw) rnd (bit 3 pw) (fld 3 0 pw)) w1
    | _ => .error .badLength
  else
    match ws with
    | [w1] => k (.plain h.g) w1
    | _ => .error .badLength

/-- OPS, ORD and the scope of a scalar atomic (Tables 09.1 and 09.2). -/
def atomicFields {β : Type} (h : Head) (w1 : Word) (k : AmoOp → Ord → Scope → Except DecodeError β) :
    Except DecodeError β :=
  need (AmoOp.ofCode (fld 4 5 w1)) fun op => need (Scope.ofCode h.g) fun sc => k op (Ord.ofCode (fld 2 9 w1)) sc

/-- The format and scope of a Bezel or CPY2 form. -/
def bezelFields {β : Type} (h : Head) (k : Fmt → Scope → Except DecodeError β) : Except DecodeError β :=
  need (Fmt.ofCode h.f) fun fmt => need (Scope.ofCode h.g) fun sc => k fmt sc

/-- The candidate an opcode's fields name (Table 02.11), the words after word 0 in `ws`. -/
def candidate (h : Head) (ws : List Word) : Except DecodeError Instr :=
  match h.op.toNat with
  | 0 => one h ws fun w1 => .ok (if h.f.getLsbD 0 then .addImm h.w h.d h.a w1 else .add h.w h.d h.a h.b)
  | 1 => one h ws fun w1 => .ok (if h.f.getLsbD 0 then .subImm h.w h.d h.a w1 else .sub h.w h.d h.a h.b)
  | 2 => one h ws fun w1 => .ok (if h.f.getLsbD 0 then .mulImm h.w h.d h.a w1 else .mul h.w h.d h.a h.b)
  | 3 => one h ws fun w1 => .ok (if h.f.getLsbD 0 then .mulhImm h.w h.d h.a w1 else .mulh h.w h.d h.a h.b)
  | 4 => one h ws fun w1 => .ok (if h.f.getLsbD 0 then .mulhnImm h.w h.d h.a w1 else .mulhn h.w h.d h.a h.b)
  | 5 => one h ws fun w1 => .ok (if h.f.getLsbD 0 then .divImm h.w h.d h.a w1 else .div h.w h.d h.a h.b)
  | 6 => one h ws fun w1 => .ok (if h.f.getLsbD 0 then .divnImm h.w h.d h.a w1 else .divn h.w h.d h.a h.b)
  | 7 => one h ws fun w1 => .ok (if h.f.getLsbD 0 then .remImm h.w h.d h.a w1 else .rem h.w h.d h.a h.b)
  | 8 => one h ws fun w1 => .ok (if h.f.getLsbD 0 then .remnImm h.w h.d h.a w1 else .remn h.w h.d h.a h.b)
  | 9 => one h ws fun w1 => .ok (if h.f.getLsbD 0 then .andImm h.w h.d h.a w1 else .and h.w h.d h.a h.b)
  | 10 => one h ws fun w1 => .ok (if h.f.getLsbD 0 then .orImm h.w h.d h.a w1 else .or h.w h.d h.a h.b)
  | 11 => one h ws fun w1 => .ok (if h.f.getLsbD 0 then .xorImm h.w h.d h.a w1 else .xor h.w h.d h.a h.b)
  | 12 => one h ws fun w1 => .ok (if h.f.getLsbD 0 then .andnImm h.w h.d h.a w1 else .andn h.w h.d h.a h.b)
  | 13 => one h ws fun w1 => .ok (if h.f.getLsbD 0 then .shlImm h.w h.d h.a w1 else .shl h.w h.d h.a h.b)
  | 14 => one h ws fun w1 => .ok (if h.f.getLsbD 0 then .shrImm h.w h.d h.a w1 else .shr h.w h.d h.a h.b)
  | 15 => one h ws fun w1 => .ok (if h.f.getLsbD 0 then .sarImm h.w h.d h.a w1 else .sar h.w h.d h.a h.b)
  | 16 => one h ws fun w1 => .ok (if h.f.getLsbD 0 then .minImm h.w h.d h.a w1 else .min h.w h.d h.a h.b)
  | 17 => one h ws fun w1 => .ok (if h.f.getLsbD 0 then .maxImm h.w h.d h.a w1 else .max h.w h.d h.a h.b)
  | 18 => one h ws fun w1 => .ok (if h.f.getLsbD 0 then .minnImm h.w h.d h.a w1 else .minn h.w h.d h.a h.b)
  | 19 => one h ws fun w1 => .ok (if h.f.getLsbD 0 then .maxnImm h.w h.d h.a w1 else .maxn h.w h.d h.a h.b)
  | 20 => one h ws fun w1 => need (Cond.ofCode h.g) fun cond =>
      .ok (if h.f.getLsbD 0 then .cmpImm h.w cond h.d h.a w1 else .cmp h.w cond h.d h.a h.b)
  | 21 => one h ws fun w1 => .ok (.sel h.d h.a h.b (fld 5 0 w1))
  | 22 => one h ws fun _ => .ok (.clz h.w h.d h.a)
  | 23 => one h ws fun _ => .ok (.ctz h.w h.d h.a)
  | 24 => one h ws fun _ => .ok (.popc h.w h.d h.a)
  | 25 => one h ws fun _ => need (ExtKind.ofCode h.g) fun k => .ok (.ext k h.d h.a)
  | 26 => one h ws fun w1 => .ok (.bfx (bit 17 w1) (fld 6 5 w1) (fld 6 11 w1) h.d h.a)
  | 27 => one h ws fun w1 => .ok (.bfi (fld 6 5 w1) (fld 6 11 w1) h.d h.a)
  | 28 => two h ws fun w1 w2 => .ok (.li h.d (joinWords w1 w2))
  | 29 => one h ws fun w1 => .ok (.addpc h.d w1)
  | 32 => one h ws fun w1 => need (Cond.ofCode h.g) fun cond => .ok (.br h.w cond h.a h.b w1)
  | 33 => two h ws fun w1 w2 => need (Cond.ofCode h.g) fun cond => .ok (.bri h.w cond h.a w1 w2)
  | 34 => one h ws fun w1 => .ok (.jmp w1)
  | 35 => one h ws fun w1 => .ok (.jal h.d w1)
  | 36 => one h ws fun w1 => .ok (.jr h.a w1)
  | 37 => one h ws fun w1 => .ok (.jalr h.d h.a w1)
  | 38 => if ws.length = 1 then one h ws fun w1 => .ok (.region w1)
      else two h ws fun w1 w2 => .ok (.regionVec w1 w2)
  | 39 => one h ws fun _ => .ok .endF
  | 40 => one h ws fun w1 => need (WaitSel.ofCode h.g) fun k => .ok (.waitc k w1)
  | 41 => one h ws fun w1 => .ok (.rep (BitVec.ofNat 4 (h.g.toNat + 8 * h.f.toNat)) h.d h.a h.b (fld 5 0 w1) (fld 16 16 w1))
  | 42 => one h ws fun w1 => .ok (.trapi w1)
  | 43 => one h ws fun _ => .ok .eret
  | 44 => one h ws fun _ => .ok .nop
  | 64 => one h ws fun w1 => need (LdW.ofCode h.f) fun k => .ok (.ldl k h.d h.a w1)
  | 65 => one h ws fun w1 => need (StW.ofCode h.f) fun k => .ok (.stl k h.a h.b w1)
  | 66 => one h ws fun w1 => need (LdW.ofCode h.f) fun k => .ok (.ldg k (h.g.getLsbD 0) h.d h.a w1)
  | 67 => one h ws fun w1 => need (StW.ofCode h.f) fun k => .ok (.stg k h.a h.b w1)
  | 68 => one h ws fun w1 => need (LdW.ofCode h.f) fun k => need (Scope.ofCode h.g) fun sc => .ok (.ldaq k sc h.d h.a w1)
  | 69 => one h ws fun w1 => need (StW.ofCode h.f) fun k => need (Scope.ofCode h.g) fun sc => .ok (.strl k sc h.a h.b w1)
  | 70 => guarded h ws fun gd w1 => need (Fmt.ofCode h.f) fun fmt => .ok (.vldl fmt gd h.d h.a w1)
  | 71 => guarded h ws fun gd w1 => need (Fmt.ofCode h.f) fun fmt => .ok (.vstl fmt gd h.d h.a w1)
  | 72 => guarded h ws fun gd w1 => need (Fmt.ofCode h.f) fun fmt => .ok (.vldg fmt gd h.d h.a w1)
  | 73 => guarded h ws fun gd w1 => need (Fmt.ofCode h.f) fun fmt => .ok (.vstg fmt gd h.d h.a w1)
  | 74 => guarded h ws fun gd w1 => need (Fmt.ofCode h.f) fun fmt => .ok (.vlds fmt gd h.d h.a h.b w1)
  | 75 => guarded h ws fun gd w1 => need (Fmt.ofCode h.f) fun fmt => .ok (.vsts fmt gd h.d h.a h.b w1)
  | 76 => guarded h ws fun gd w1 => need (Fmt.ofCode h.f) fun fmt =>
      .ok (.vgath fmt gd (bit 10 w1) (fld 5 5 w1) h.d h.a h.b)
  | 77 => guarded h ws fun gd w1 => need (Fmt.ofCode h.f) fun fmt =>
      .ok (.vscat fmt gd (bit 10 w1) (fld 5 5 w1) h.d h.a h.b)
  | 78 => one h ws fun w1 => .ok (.ldf h.tgt h.d h.a w1)
  | 79 => one h ws fun w1 => .ok (.ldfp h.tgt h.d h.a w1)
  | 80 => one h ws fun w1 => .ok (if h.g.getLsbD 0 then .steRem h.a h.b (fld 5 0 w1) else .ste h.a h.b w1)
  | 81 => one h ws fun w1 => .ok (.tagw (h.g.getLsbD 1) h.tgt h.a w1)
  | 82 => one h ws fun w1 => .ok (.tagr h.tgt h.d h.a w1)
  | 96 => one h ws fun w1 => atomicFields h w1 fun op ord sc => .ok (.amo op ord (h.f.getLsbD 1) sc h.d h.a h.b)
  | 97 => one h ws fun w1 => atomicFields h w1 fun _ ord sc => .ok (.cas ord (h.f.getLsbD 1) sc h.d h.a h.b (fld 5 0 w1))
  | 98 => one h ws fun w1 => atomicFields h w1 fun _ ord sc => .ok (.amobnd ord (h.f.getLsbD 1) sc h.d h.a h.b (fld 5 0 w1))
  | 99 => one h ws fun w1 => atomicFields h w1 fun op ord sc => .ok (.red op (ord == .release) (h.f.getLsbD 1) sc h.a h.b)
  | 100 => one h ws fun w1 => atomicFields h w1 fun op ord sc => need (Fmt.ofCode h.f) fun fmt =>
      .ok (.redf op (bit 11 w1) (ord == .release) sc fmt h.a h.b)
  | 101 => guarded h ws fun gd w1 => need (AmoOp.ofCode (fld 4 5 w1)) fun op => need (Scope.ofCode (fld 3 12 w1)) fun sc =>
      need (Fmt.ofCode h.f) fun fmt => .ok (.vred op (bit 11 w1) (Ord.ofCode (fld 2 9 w1) == .release) sc fmt gd h.a h.b)
  | 102 => one h ws fun _ => need (Scope.ofCode h.g) fun sc => .ok (.fence sc)
  | 103 => one h ws fun _ => .ok (.clinit h.a h.b)
  | 104 => one h ws fun _ => need (Scope.ofCode h.f) fun sc => .ok (.arrive sc h.d h.a h.b)
  | 105 => one h ws fun _ => need (Scope.ofCode h.f) fun sc => .ok (.arrivew sc h.d h.a h.b)
  | 106 => one h ws fun w1 => need (Scope.ofCode h.f) fun sc => .ok (.clwait sc h.a h.b (fld 5 0 w1))
  | 128 => guarded h ws fun gd _ => need (Fmt.ofCode h.f) fun fmt => .ok (.vadd fmt gd h.d h.a h.b)
  | 129 => guarded h ws fun gd _ => need (Fmt.ofCode h.f) fun fmt => .ok (.vsub fmt gd h.d h.a h.b)
  | 130 => guarded h ws fun gd _ => need (Fmt.ofCode h.f) fun fmt => .ok (.vmul fmt gd h.d h.a h.b)
  | 131 => guarded h ws fun gd w1 => need (Fmt.ofCode h.f) fun fmt => .ok (.vfma fmt gd h.d h.a h.b (fld 5 0 w1))
  | 132 => guarded h ws fun gd w1 => need (Fmt.ofCode h.f) fun fmt => .ok (.vfms fmt gd h.d h.a h.b (fld 5 0 w1))
  | 133 => guarded h ws fun gd _ => need (Fmt.ofCode h.f) fun fmt => .ok (.vmin fmt gd h.d h.a h.b)
  | 134 => guarded h ws fun gd _ => need (Fmt.ofCode h.f) fun fmt => .ok (.vmax fmt gd h.d h.a h.b)
  | 135 => guarded h ws fun gd _ => need (Fmt.ofCode h.f) fun fmt => .ok (.vdiv fmt gd h.d h.a h.b)
  | 136 => guarded h ws fun gd _ => need (Fmt.ofCode h.f) fun fmt => .ok (.vsqrt fmt gd h.d h.a)
  | 137 => guarded h ws fun gd _ => need (Fmt.ofCode h.f) fun fmt => .ok (.vmag fmt gd h.d h.a)
  | 138 => guarded h ws fun gd _ => need (Fmt.ofCode h.f) fun fmt => .ok (.vneg fmt gd h.d h.a)
  | 139 => guarded h ws fun gd _ => need (Fmt.ofCode h.f) fun fmt => .ok (.vand fmt gd h.d h.a h.b)
  | 140 => guarded h ws fun gd _ => need (Fmt.ofCode h.f) fun fmt => .ok (.vor fmt gd h.d h.a h.b)
  | 141 => guarded h ws fun gd _ => need (Fmt.ofCode h.f) fun fmt => .ok (.vxor fmt gd h.d h.a h.b)
  | 142 => guarded h ws fun gd _ => need (Fmt.ofCode h.f) fun fmt => .ok (.vshl fmt gd h.d h.a h.b)
  | 143 => one h ws fun _ => need (Fmt.ofCode h.f) fun fmt => .ok (.vshr fmt h.g h.d h.a h.b)
  | 144 => one h ws fun _ => need (Fmt.ofCode h.f) fun fmt => .ok (.vsar fmt h.g h.d h.a h.b)
  | 145 => one h ws fun _ => need (Fmt.ofCode h.f) fun fmt => .ok (.vadds fmt h.g h.d h.a h.b)
  | 146 => one h ws fun _ => need (Fmt.ofCode h.f) fun fmt => .ok (.vsubs fmt h.g h.d h.a h.b)
  | 147 => one h ws fun w1 => need (Fmt.ofCode h.f) fun dst => need (Fmt.ofCode (fld 3 5 w1)) fun src => need (Rnd.ofCode (fld 3 8 w1)) fun rnd =>
      .ok (.vcvt dst src rnd (fld 2 11 w1) h.g h.d h.a)
  | 148 => one h ws fun w1 => need (Fmt.ofCode h.f) fun fmt => need (VCond.ofCode (fld 3 5 w1)) fun cond => .ok (.vcmp fmt cond h.g (lowP h.d) h.a h.b)
  | 149 => one h ws fun w1 => need (Fmt.ofCode h.f) fun fmt => need (SelKind.ofCode (fld 3 5 w1)) fun k => .ok (.vsel fmt k h.g h.d h.a h.b (fld 3 0 w1))
  | 150 => one h ws fun _ => .ok (.vexp2 h.g h.d h.a)
  | 151 => one h ws fun _ => .ok (.vlog2 h.g h.d h.a)
  | 152 => one h ws fun _ => .ok (.vrcp h.g h.d h.a)
  | 153 => one h ws fun _ => .ok (.vrsq h.g h.d h.a)
  | 154 => one h ws fun w1 => need (Fmt.ofCode h.f) fun fmt => need (Rnd.ofCode (fld 3 6 w1)) fun rnd => .ok (.vsca fmt (bit 5 w1) rnd h.g h.d h.a h.b)
  | 155 => one h ws fun _ => need (Fmt.ofCode h.f) fun fmt => .ok (.vvoid fmt h.g h.d)
  | 156 => one h ws fun _ => need (Fmt.ofCode h.f) fun fmt => .ok (.vpres fmt h.g (lowP h.d) h.a)
  | 160 => guarded h ws fun gd w1 => need (Fmt.ofCode h.f) fun fmt => .ok (.vmov fmt gd h.d h.a)
  | 161 => guarded h ws fun gd w1 => need (Fmt.ofCode h.f) fun fmt =>
      .ok (.vbcast fmt gd h.d (if bit 5 w1 then .elem h.a (fld 7 6 w1) else .scalar h.a))
  | 162 => guarded h ws fun gd w1 => need (Fmt.ofCode h.f) fun fmt => .ok (.vextr fmt gd h.d h.a h.b)
  | 163 => guarded h ws fun gd w1 => need (Fmt.ofCode h.f) fun fmt => .ok (.vins fmt gd h.d h.a h.b)
  | 164 => guarded h ws fun gd w1 => need (Fmt.ofCode h.f) fun fmt => .ok (.vperm fmt gd h.d h.a h.b)
  | 165 => guarded h ws fun gd w1 => need (Fmt.ofCode h.f) fun fmt => .ok (.vslide fmt gd (bit 5 w1) h.d h.a h.b)
  | 166 => guarded h ws fun gd w1 => need (Fmt.ofCode h.f) fun fmt => .ok (.vzip fmt gd (bit 5 w1) h.d h.a h.b)
  | 167 => guarded h ws fun gd w1 => need (Fmt.ofCode h.f) fun fmt => .ok (.vunzip fmt gd (bit 5 w1) h.d h.a h.b)
  | 168 => guarded h ws fun gd w1 => need (Fmt.ofCode h.f) fun fmt => .ok (.vcompr fmt gd h.d h.a)
  | 169 => guarded h ws fun gd w1 => .ok (.vexpq4 gd (bit 5 w1) h.d h.a)
  | 170 => guarded h ws fun gd _ => .ok (.qtld gd h.a)
  | 171 => guarded h ws fun gd w1 => need (Fmt.ofCode h.f) fun fmt => need (RedOp.ofCode (fld 3 5 w1)) fun op => .ok (.vreduce fmt gd op h.d h.a)
  | 172 => guarded h ws fun gd w1 => need (Fmt.ofCode h.f) fun fmt => need (RedOp.ofCode (fld 3 5 w1)) fun op => .ok (.vscan fmt gd op (bit 8 w1) h.d h.a)
  | 173 => guarded h ws fun gd w1 => need (Fmt.ofCode h.f) fun fmt => .ok (.vcount fmt gd h.d h.a)
  | 174 => guarded h ws fun gd w1 => need (Fmt.ofCode h.f) fun fmt => .ok (.whilelt fmt gd (lowP h.d) h.a h.b)
  | 175 => one h ws fun _ => need (Fmt.ofCode h.f) fun fmt => .ok (.vlq fmt h.d)
  | 176 => one h ws fun _ => .ok (.pand (lowP h.d) (lowP h.a) (lowP h.b))
  | 177 => one h ws fun _ => .ok (.por (lowP h.d) (lowP h.a) (lowP h.b))
  | 178 => one h ws fun _ => .ok (.pnot (lowP h.d) (lowP h.a))
  | 179 => one h ws fun _ => need (Fmt.ofCode h.f) fun fmt => .ok (.pcnt fmt h.d (lowP h.a))
  | 180 => one h ws fun _ => need (Fmt.ofCode h.f) fun fmt => .ok (.pfirst fmt h.d (lowP h.a))
  | 181 => one h ws fun w1 => need (Fmt.ofCode h.f) fun fmt => .ok (.pset fmt (lowP h.d) (fld 9 5 w1))
  | 182 => one h ws fun _ => need (Fmt.ofCode h.f) fun fmt => .ok (.nred fmt h.g h.a h.b (lowK h.d))
  | 183 => one h ws fun w1 => need (Scope.ofCode h.g) fun sc => .ok (if h.f.getLsbD 0 then .nsendRaw sc h.a h.b else .nsend sc h.a h.b w1)
  | 184 => one h ws fun _ => .ok (.nrecv h.d)
  | 185 => one h ws fun _ => .ok (.mcast h.a (lowK h.d))
  | 192 => one h ws fun w1 => bezelFields h fun fmt sc => .ok (.bld sc fmt h.a (fld 4 0 w1) (bit 16 w1) (bit 17 w1))
  | 193 => one h ws fun w1 => bezelFields h fun fmt sc => .ok (.mma sc fmt (lowK h.d) h.a (fld 4 0 w1) (fld 4 5 w1) (bit 16 w1) (bit 17 w1))
  | 194 => one h ws fun w1 => bezelFields h fun fmt sc => .ok (.mzero sc fmt (lowK h.d) (bit 16 w1) (bit 17 w1))
  | 195 => one h ws fun w1 => bezelFields h fun fmt sc => need (Rnd.ofCode (fld 3 9 w1)) fun rnd =>
      .ok (.mdrain (MdrainF.ofFields h fmt sc rnd w1))
  | 196 => one h ws fun w1 => need (StatSel.ofCode h.f) fun k => .ok (.mstat k h.d (fld 4 0 w1))
  | 197 => one h ws fun w1 => need (Scope.ofCode h.g) fun sc => .ok (.msave sc (lowK h.d) h.a (bit 16 w1) (bit 17 w1))
  | 198 => one h ws fun w1 => bezelFields h fun fmt sc => .ok (.mrest sc fmt (lowK h.d) h.a (bit 16 w1) (bit 17 w1))
  | 200 => two h ws fun w1 w2 => need (CpyDir.ofCode h.f) fun dir => need (Scope.ofCode h.g) fun sc => .ok (.cpy (CpyF.ofFields h dir sc w1 w2))
  | 201 => three h ws fun w1 w2 w3 => bezelFields h fun fmt sc => .ok (.cpy2 (Cpy2F.ofFields h fmt sc w1 w2 w3))
  | 202 => two h ws fun w1 w2 => need (Scope.ofCode h.g) fun sc =>
      .ok (if bit 2 w1 then .sendLast (SendF.ofFields h sc w1 w2) else .send (SendF.ofFields h sc w1 w2))
  | 224 => two h ws fun w1 w2 => .ok (.spawn (SpawnF.ofFields h w1 w2))
  | 225 => one h ws fun _ => .ok (.exit h.a)
  | 226 => one h ws fun _ => .ok (.kill h.a)
  | 227 => one h ws fun _ => .ok (.link h.a)
  | 228 => one h ws fun _ => .ok (.unlink h.a)
  | 229 => one h ws fun _ => .ok (.monitor h.a h.b)
  | 230 => one h ws fun _ => .ok (.unmon h.a h.b)
  | 231 => one h ws fun w1 => need (Scope.ofCode h.g) fun sc => .ok (if h.f.getLsbD 0 then .signalExit sc h.a h.b else .signalMsg sc h.a h.b (fld 5 0 w1))
  | 232 => one h ws fun _ => .ok (if h.f = 0 then .self h.d else if h.f = 1 then .selfStable h.d else .selfTx h.a)
  | 233 => one h ws fun w1 => .ok (if h.f.getLsbD 0 then .timerKill (bit 5 w1) h.a h.b else .timer (bit 5 w1) h.a h.b)
  | 234 => one h ws fun w1 => .ok (.capcall h.a h.b (fld 5 0 w1))
  | 235 => one h ws fun _ => .ok (.migrate h.a h.b)
  | 236 => one h ws fun w1 => .ok (.portcfg (fld 2 5 w1) h.a h.b)
  | 237 => one h ws fun w1 => .ok (.consume (fld 2 5 w1) h.a)
  | 238 => one h ws fun _ => .ok (if h.f = 0 then .supcfgPolicy h.a h.b else if h.f = 1 then .supcfgAdd h.d h.a
      else if h.f = 2 then .supcfgRemove h.a else .supcfgLaunch h.a)
  | 239 => one h ws fun _ => .ok (if h.f = 0 then .restartChild h.a else .restartJob h.a)
  | 240 => three h ws fun w1 w2 _ => .ok (.ctxnew h.d h.a w1 (fld 12 0 w2) (bit 12 w2))
  | 241 => one h ws fun w1 => .ok (.ctxset h.a h.b (fld 5 0 w1))
  | 242 => one h ws fun _ => .ok (.ctxrevoke h.a)
  | 243 => one h ws fun w1 => .ok (.ctxstat h.d h.a (fld 5 5 w1))
  | 244 => one h ws fun _ => .ok (.ctxdone h.a)
  | 245 => three h ws fun w1 _ _ => .ok (.tlbw h.d h.a h.b (fld 5 0 w1) (bit 5 w1))
  | 246 => one h ws fun w1 => .ok (if h.f.getLsbD 0 then .tlbinvCtx h.b else .tlbinvPage h.a h.b (PageSize.ofCode (fld 2 0 w1)))
  | 247 => one h ws fun _ => .ok (.tlbprobe (h.f.getLsbD 0) h.d h.a h.b)
  | 248 => one h ws fun w1 => .ok (if w1 = 0x12B then .getcMissb h.d else .getc h.d (fld 12 0 w1))
  | 249 => one h ws fun w1 => .ok (if h.f.getLsbD 0 then .setcImm (fld 12 0 w1) (fld 20 12 w1) else .setc (fld 12 0 w1) h.a)
  | 250 => one h ws fun _ => .ok (.poisonclr h.a)
  | 251 => one h ws fun _ => .ok (if h.f = 0 then .locketStart h.d h.a else if h.f = 1 then .locketStat h.d h.a else .locketStop h.a)
  | _ => .error .unassigned

/-- The instruction that a list of words is, all of it: total, refusing by name. -/
def decode (ws : List Word) : Except DecodeError Instr :=
  match ws with
  | [] => .error .empty
  | w0 :: rest =>
    let h := Head.unpack w0
    if h.len = 3 then (if w0 = 3 then (if rest = [] then .ok .padWord else .error .badLength) else .error .badPad)
    else if rest.length ≠ h.len.toNat + 1 then .error .badLength
    else match candidate h rest with
      | .error e => .error e
      | .ok i =>
        if i.wf = false then .error .illFormed
        else if encode i = ws then .ok i
        else .error .reservedBits

/-- The number of words an instruction takes, read from its word 0 (R61). -/
def wordCount (w0 : Word) : Nat :=
  if (Head.unpack w0).len = 3 then 1 else (Head.unpack w0).len.toNat + 2

/-- Bytes of one word, little-endian (R4). -/
def wordBytes (w : Word) : List Byte :=
  [w.extractLsb' 0 8, w.extractLsb' 8 8, w.extractLsb' 16 8, w.extractLsb' 24 8]

/-- Words of a list of bytes, little-endian (R4). -/
def bytesWords : List Byte → List Word
  | b0 :: b1 :: b2 :: b3 :: rest => (b3 ++ b2 ++ b1 ++ b0) :: bytesWords rest
  | _ => []

/-- The length of an instruction in bytes (R60, R64). -/
def Instr.size (i : Instr) : Nat := 4 * (encode i).length

/-- The words of a table instruction whose bits are w: word k is bits [32k + 31 : 32k]. -/
def tableWords (w : Nat) : List Word :=
  (List.range (wordCount (w32 (w % 2 ^ 32)))).map fun k => w32 (w / 2 ^ (32 * k) % 2 ^ 32)

/-- The instruction the decoder reads from a table word; bits above `nbits` are zero. -/
def decodeTableWord (nbits w : Nat) : Option Instr :=
  match decode (tableWords (w % 2 ^ nbits)) with
  | .ok i => some i
  | .error _ => none

end Sys2Proof
end

