-- ==== Sys2Proof/Config.lean ====
section
/-!
DEFINITION. What the spec leaves open and an implementation fixes: free values. Each is an opaque constant, so no
proof can learn a value of it; a statement that holds, holds whatever the value. `tick` below is the counter of
`State` that gives a fresh value each time.
-/

namespace Sys2Proof.Config

/-- A free choice the spec leaves to the device, by tick: which unit moves next (R19), which TLB entry a fill
replaces (R331), and other orders no rule fixes. -/
opaque freeChoice : Nat → Nat

/-- A free 64-bit value, by tick: cycle counts that no rule fixes (R5, R19). -/
opaque freeWord : Nat → DWord

/-- A free truth value, by tick: whether an engine meets one of two outcomes the spec leaves open. -/
opaque freeBool : Nat → Bool

/-- The hash SM3 over bytes (R420 to R422): the spec names the algorithm only. -/
opaque sm3 : List Byte → List Byte

/-- The vendor signing key digest of the fuse block (R431). -/
opaque vendorKeyDigest : List Byte
/-- The identity seed of the fuse block (R431). -/
opaque identitySeed : List Byte
/-- The stepping of the fuse block (R431). -/
opaque stepping : List Byte
/-- A signature over bytes under the identity key that derives from a seed (R420 to R422): the spec names the algorithms only. -/
opaque signUnder : List Byte → List Byte → List Byte
/-- Hallmark's signature under the device's identity key (R420 to R422). -/
def hallmarkSign (bs : List Byte) : List Byte := signUnder identitySeed bs

/-- The certificate chain of slot 0, in the fuse block (R420, R431). -/
opaque certChain : List Byte
/-- The bytes of the fuse block as Hallmark measures them (R422, R431): the fused-off positions and what else it holds, in a layout that the
spec leaves open. -/
opaque fuseLayout : List Nat → List Byte → List Byte → List Byte → List Byte → List Byte
/-- The fuse block of a device with some positions fused off (R431). -/
def fuseBlock (fused : List Nat) : List Byte := fuseLayout fused vendorKeyDigest certChain identitySeed stepping

/-- Bytes of an SPDM response that the spec leaves to DSP0274 (R420), by request and tick. -/
opaque spdmBytes : Nat → Nat → List Byte

/-- The bytes of the boot ROM, which the hub measures into register 1 (R422, R424). -/
opaque bootRom : List Byte

/-- The local address at which the hub starts the root monitor core (R424): the spec names none. -/
opaque bootEntry : BitVec 16

/-- The 64 B request-ring entry of a CAPCALL forwarded to a service core (R299, R360), from the caller's name, the tag
and the argument block: the spec gives no layout. -/
opaque serviceRequest : DWord → Word → List Byte → List Byte

/-- What a service core answers to a forwarded CAPCALL (R299), by tick: the service core defines it. -/
opaque serviceResult : Nat → DWord × List Byte

end Sys2Proof.Config
end

