-- ==== Sys2Proof/Machine/Bits.lean ====
section
/-!
DEFINITION. Bit fields, extensions, byte order and local addresses (R3, R4, R10, R21): the helpers every
other file of the machine uses.
-/

namespace Sys2Proof.Machine

/-- SignExt of Table 00.2 for a 32-bit immediate. -/
def sext32 (w : Word) : DWord := w.signExtend 64
/-- ZeroExt of a natural number to 64 bits. -/
def dw (n : Nat) : DWord := BitVec.ofNat 64 n
/-- SignExt(x, n) of the low n bits of a 64-bit value. -/
def sextLow (n : Nat) (x : DWord) : DWord := (x.setWidth n).signExtend 64
/-- ZeroExt(x, n) of the low n bits of a 64-bit value. -/
def zextLow (n : Nat) (x : DWord) : DWord := (x.setWidth n).setWidth 64

/-- x[hi:lo] as a number, given its width (R4). -/
def bitsAt (lo n : Nat) (x : DWord) : Nat := x.toNat / 2 ^ lo % 2 ^ n
/-- One bit of a 64-bit value. -/
def bitAt (i : Nat) (x : DWord) : Bool := x.getLsbD i
/-- x with the n-bit field at bit `lo` replaced by `v`. -/
def setBits (lo n v : Nat) (x : DWord) : DWord :=
  dw (x.toNat % 2 ^ lo + 2 ^ lo * (v % 2 ^ n) + 2 ^ (lo + n) * (x.toNat / 2 ^ (lo + n)))

/-- The n low bytes of a number, least significant first (R4). -/
def bytesOf : Nat → Nat → List Byte
  | 0, _ => []
  | n + 1, v => BitVec.ofNat 8 v :: bytesOf n (v / 256)

/-- The number n bytes hold, least significant first (R4). -/
def natOf : List Byte → Nat
  | [] => 0
  | b :: bs => b.toNat + 256 * natOf bs

/-- A 64-bit value from its bytes. -/
def dwOf (bs : List Byte) : DWord := dw (natOf bs)

/-- A local address from a 64-bit one: bits [17:0] (R21). -/
def la (x : DWord) : Nat := x.toNat % 2 ^ 18
/-- Local address arithmetic wraps modulo 2¹⁸ (R21). -/
def laAdd (a n : Nat) : Nat := (a + n) % 2 ^ 18
/-- The bead of a local address (R84). -/
def beadOf (a : Nat) : Nat := a / 512

/-- The 32-bit words of a list of bytes. -/
def wordsOf (bs : List Byte) : List Nat := (bytesWords bs).map (·.toNat)
/-- The 64-bit values of a list of bytes. -/
def dwordsOf : List Byte → List DWord
  | b0 :: b1 :: b2 :: b3 :: b4 :: b5 :: b6 :: b7 :: rest => dwOf [b0, b1, b2, b3, b4, b5, b6, b7] :: dwordsOf rest
  | _ => []
/-- The bytes of 64-bit values in order. -/
def dwordBytes (ds : List DWord) : List Byte := ds.flatMap fun d => bytesOf 8 d.toNat

/-- v if the number is one. -/
def isPow2 (n : Nat) : Bool := n != 0 && 2 ^ Nat.log2 n == n

/-- The indices of the 1 bits of a mask of n bits, rising. -/
def maskBits (n m : Nat) : List Nat := (List.range n).filter fun i => m.testBit i

/-- The least number of k-sized parts that hold n. -/
def ceilDiv (n k : Nat) : Nat := (n + k - 1) / k

end Sys2Proof.Machine
end

