-- ==== Sys2Proof/Machine/Flags.lean ====
section
/-!
DEFINITION. The sticky flags of FLAGS (Table 03.4, R51) as a 6-bit pattern, in the register's own bit order.
The conditions that set them are computed in `Sys2Proof/Machine/Num.lean`.
-/

namespace Sys2Proof.Machine

/-- A set of sticky conditions, laid out as FLAGS[5:0] (Table 03.4). -/
abbrev FlagSet := BitVec 6

/-- inexact, FLAGS[0]. -/
def flagNX : FlagSet := 1
/-- overflow, FLAGS[1]. -/
def flagOF : FlagSet := 2
/-- saturation, FLAGS[2]. -/
def flagSA : FlagSet := 4
/-- invalid, FLAGS[3]. -/
def flagNV : FlagSet := 8
/-- absent-produced, FLAGS[4]. -/
def flagAP : FlagSet := 16
/-- scope-clamped, FLAGS[5]. -/
def flagSC : FlagSet := 32

/-- A condition's flag when it holds. -/
def flagIf (c : Bool) (f : FlagSet) : FlagSet := if c then f else 0

/-- The OR of the conditions of several elements (R174). -/
def flagOr (fs : List FlagSet) : FlagSet := fs.foldl (· ||| ·) 0

end Sys2Proof.Machine
end

