-- ==== Sys2Proof/Machine/Num.lean ====
section
/-!
DEFINITION. Element formats and their arithmetic (R38 to R59): exact values, rounding, absent codes, the
propagation classes, conversions, TS8, and the nodes of reductions. Elements are patterns held in a `Nat`
below 2^(width); every function returns the pattern and the flags it sets.
-/

namespace Sys2Proof.Machine

/-- The bits of an element (Table 02.1). -/
abbrev Elem := Nat

/-- A rounding mode (Table 02.5); RM always holds one of these (R52). -/
inductive RMode where
  | rne | rtz | rdn | rup | rna
  deriving DecidableEq, Repr

/-- The code of a rounding mode (R52). -/
def RMode.code : RMode → Nat
  | .rne => 1
  | .rtz => 2
  | .rdn => 3
  | .rup => 4
  | .rna => 5

/-- The mode of a code from 001 to 101 (R52). -/
def RMode.ofCode (n : Nat) : Option RMode :=
  match n with
  | 1 => some .rne
  | 2 => some .rtz
  | 3 => some .rdn
  | 4 => some .rup
  | 5 => some .rna
  | _ => none

/-- The mode an encoding selects; dynamic reads RM (R52). -/
def rndMode (r : Rnd) (rm : RMode) : RMode :=
  match r with
  | .dyn => rm
  | .rne => .rne
  | .rtz => .rtz
  | .rdn => .rdn
  | .rup => .rup
  | .rna => .rna

/-! ## Formats -/

/-- Element width in bits (Table 02.1). -/
def fmtBits (f : Fmt) : Nat := 8 * f.width

/-- Absent(fmt) of Table 00.2. -/
def absentOf : Fmt → Elem
  | .f32 => 0xFFFFFFFF
  | .bf16 => 0xFFFF
  | .i32 => 0x80000000
  | .i16 => 0x8000
  | .i8 => 0x80
  | .ts8 => 0xFF

/-- Present(fmt, x) of Table 00.2. -/
def present (f : Fmt) (x : Elem) : Bool := x != absentOf f

/-- Fraction bits of a floating format. -/
def fracBits : Fmt → Nat
  | .f32 => 23
  | _ => 7

/-- The default NaN of a floating format (R41). -/
def defaultNaN : Fmt → Elem
  | .f32 => 0x7FC00000
  | _ => 0x7FC0

/-- The pattern of an infinity. -/
def infPat (f : Fmt) (neg : Bool) : Elem :=
  (if neg then 2 ^ (fmtBits f - 1) else 0) + 255 * 2 ^ fracBits f

/-- The pattern of the largest finite value. -/
def maxPat (f : Fmt) (neg : Bool) : Elem := infPat f neg - 1

/-- The largest value of an integer format (R43). -/
def intMax (f : Fmt) : Int := 2 ^ (fmtBits f - 1) - 1

/-- The two's complement value of a pattern. -/
def intVal (f : Fmt) (x : Elem) : Int :=
  if x < 2 ^ (fmtBits f - 1) then (x : Int) else (x : Int) - 2 ^ fmtBits f

/-- The low bits of an integer as a pattern (R9). -/
def intPat (f : Fmt) (i : Int) : Elem := (i % 2 ^ fmtBits f).toNat

/-! ## Exact values -/

/-- An exact value (−1)^neg × num / den with den > 0; a zero keeps its sign. -/
structure Exact where
  neg : Bool
  num : Nat
  den : Nat
  deriving DecidableEq, Repr

/-- What a floating pattern stands for (R40). -/
inductive FVal where
  | nan (signalling : Bool)
  | inf (neg : Bool)
  | fin (x : Exact)
  deriving DecidableEq, Repr

/-- M × 2^(e − b) as an exact value. -/
def scaled (neg : Bool) (m e b : Nat) : Exact :=
  if b ≤ e then ⟨neg, m * 2 ^ (e - b), 1⟩ else ⟨neg, m, 2 ^ (b - e)⟩

/-- The value of a present F32 or BF16 pattern (R38, R40). -/
def fval (f : Fmt) (x : Elem) : FVal :=
  let m := fracBits f
  let neg := decide (2 ^ (fmtBits f - 1) ≤ x)
  let e := x / 2 ^ m % 256
  let fr := x % 2 ^ m
  if e = 255 then (if fr = 0 then .inf neg else .nan (decide (fr < 2 ^ (m - 1))))
  else if e = 0 then .fin (scaled neg fr 1 (127 + m))
  else .fin (scaled neg (2 ^ m + fr) e (127 + m))

/-- An integer as an exact value. -/
def Exact.ofInt (i : Int) : Exact := ⟨decide (i < 0), i.natAbs, 1⟩

/-- −x. -/
def Exact.negate (x : Exact) : Exact := { x with neg := !x.neg }

/-- x × y. -/
def Exact.mul (x y : Exact) : Exact := ⟨x.neg != y.neg, x.num * y.num, x.den * y.den⟩

/-- x / y, for y ≠ 0. -/
def Exact.div (x y : Exact) : Exact := ⟨x.neg != y.neg, x.num * y.den, x.den * y.num⟩

/-- The signed numerator over den. -/
def Exact.top (x : Exact) : Int := if x.neg then -(x.num : Int) else x.num

/-- x + y; a zero sum of unlike zeros is +0, or −0 under RDN (IEEE 754-2019 by R41). -/
def Exact.add (rm : RMode) (x y : Exact) : Exact :=
  let s := x.top * y.den + y.top * x.den
  if s = 0 then
    if x.neg = y.neg then ⟨x.neg, 0, 1⟩ else ⟨decide (rm = .rdn), 0, 1⟩
  else ⟨decide (s < 0), s.natAbs, x.den * y.den⟩

/-- x < y. -/
def Exact.lt (x y : Exact) : Bool := decide (x.top * y.den < y.top * x.den)
/-- x = y as numbers. -/
def Exact.eq (x y : Exact) : Bool := decide (x.top * y.den = y.top * x.den)

/-- floor of the base-2 logarithm of num / den, both positive. -/
def floorLog2 (num den : Nat) : Int :=
  let l : Int := (Nat.log2 num : Int) - Nat.log2 den
  let ge : Bool := if 0 ≤ l then decide (den * 2 ^ l.toNat ≤ num) else decide (den ≤ num * 2 ^ (-l).toNat)
  if ge then l else l - 1

/-- Whether a magnitude n + r/b, 0 ≤ r < b, is moved up to n + 1 (Table 02.5). -/
def roundsUp (rm : RMode) (neg : Bool) (n r b : Nat) : Bool :=
  match rm with
  | .rne => decide (b < 2 * r) || (decide (2 * r = b) && n % 2 == 1)
  | .rtz => false
  | .rdn => neg && r != 0
  | .rup => !neg && r != 0
  | .rna => decide (b ≤ 2 * r)

/-- Round(f, x, rm) for a floating format (R53), with inexact and overflow (R51). -/
def roundF (f : Fmt) (rm : RMode) (x : Exact) : Elem × FlagSet :=
  let m := fracBits f
  let sgn := if x.neg then 2 ^ (fmtBits f - 1) else 0
  if x.num = 0 then (sgn, 0)
  else
    let e := max (floorLog2 x.num x.den) (-126)
    let q := e - m
    let a := if 0 ≤ q then x.num else x.num * 2 ^ (-q).toNat
    let b := if 0 ≤ q then x.den * 2 ^ q.toNat else x.den
    let n := a / b
    let r := a % b
    let n' := if roundsUp rm x.neg n r b then n + 1 else n
    -- the biased exponent field of 2^m × 2^q is e + 127; a denormal has n' < 2^m
    let pat := if n' < 2 ^ m then n' else n' - 2 ^ m + (e + 127).toNat * 2 ^ m
    if 255 * 2 ^ m ≤ pat then
      let toInf := match rm with
        | .rne | .rna => true
        | .rtz => false
        | .rdn => x.neg
        | .rup => !x.neg
      (if toInf then infPat f x.neg else maxPat f x.neg, flagOF ||| flagNX)
    else (sgn + pat, flagIf (r != 0) flagNX)

/-- Round-to-integer: the integer and whether a fraction was discarded (R53). -/
def roundInt (rm : RMode) (x : Exact) : Int × Bool :=
  let n := x.num / x.den
  let r := x.num % x.den
  let n' := if roundsUp rm x.neg n r x.den then n + 1 else n
  (if x.neg then -(n' : Int) else n', r != 0)

/-- Sat(f, x) of Table 00.2. -/
def satI (f : Fmt) (i : Int) : Elem × FlagSet :=
  if intMax f < i then (intPat f (intMax f), flagSA)
  else if i < -intMax f then (intPat f (-intMax f), flagSA)
  else (intPat f i, 0)

/-- A wrapped integer result of present inputs (R43). -/
def wrapI (f : Fmt) (i : Int) : Elem × FlagSet :=
  if intPat f i = absentOf f then (intPat f (-intMax f), flagSA) else (intPat f i, 0)

/-! ## TS8 -/

/-- The value of one TS8 term (R44). -/
def tsTerm (s : Bool) (e : Nat) : Int := if e = 7 then 0 else if s then -(2 ^ e) else 2 ^ e

/-- The value of a present TS8 pattern (R44). -/
def tsVal (x : Elem) : Int := tsTerm (x.testBit 7) (x / 16 % 8) + tsTerm (x.testBit 3) (x % 8)

/-- The representable magnitudes of TS8, rising (R44). -/
def tsMags : List Nat :=
  (List.range 129).filter fun n =>
    (List.range 64).any fun k => (tsTerm false (k / 8) + tsTerm false (k % 8)).natAbs == n
      || (tsTerm false (k / 8) - tsTerm false (k % 8)).natAbs == n

/-- The exponent of term 1 of a magnitude: the nearest power of two, ties towards the larger (R45). -/
def tsExp1 (n : Nat) : Nat :=
  let k := Nat.log2 n
  if 6 ≤ k then 6 else if 2 ^ (k + 1) - n ≤ n - 2 ^ k then k + 1 else k

/-- The canonical pattern of a representable value (R45). -/
def tsPat (v : Int) : Elem :=
  if v = 0 then 0x77
  else
    let e1 := tsExp1 v.natAbs
    let t1 : Int := if v < 0 then -(2 ^ e1) else 2 ^ e1
    let t2 := v - t1
    let hi := (if v < 0 then 128 else 0) + 16 * e1
    if t2 = 0 then hi + 7 else hi + (if t2 < 0 then 8 else 0) + Nat.log2 t2.natAbs

/-- The representable magnitude next below or equal, and next above or equal, of num / den ≤ 128. -/
def tsBracket (num den : Nat) : Nat × Nat :=
  let lo := (tsMags.filter fun n => decide (n * den ≤ num)).getLast?.getD 0
  let hi := (tsMags.find? fun n => decide (num ≤ n * den)).getD 128
  (lo, hi)

/-- Conversion of a finite value to TS8, steps 2 to 4 of R46. -/
def toTS8 (rm : RMode) (x : Exact) : Elem × FlagSet :=
  let big := decide (128 * x.den < x.num)
  let num := if big then 128 else x.num
  let den := if big then 1 else x.den
  let b := tsBracket num den
  let lo := b.1
  let hi := b.2
  let mag := match rm with
    | .rne | .rna => if hi * den - num ≤ num - lo * den then hi else lo
    | .rtz => lo
    | .rdn => if x.neg then hi else lo
    | .rup => if x.neg then lo else hi
  let v : Int := if x.neg then -(mag : Int) else mag
  (tsPat v, flagIf big flagSA ||| flagIf (mag * den != num) flagNX)

/-! ## Single results -/

/-- The default NaN, with invalid when asked. -/
def nanOut (f : Fmt) (nv : Bool) : Elem × FlagSet := (defaultNaN f, flagIf nv flagNV)

/-- A floating value that is not a NaN, rounded; infinities are kept. -/
def roundV (f : Fmt) (rm : RMode) (v : FVal) : Elem × FlagSet :=
  match v with
  | .nan s => nanOut f s
  | .inf n => (infPat f n, 0)
  | .fin x => roundF f rm x

/-- A signalling NaN. -/
def FVal.snan : FVal → Bool
  | .nan s => s
  | _ => false

/-- What a combining operation delivers of its only present input: the default NaN for a NaN (R48). -/
def passE (f : Fmt) (x : Elem) : Elem × FlagSet :=
  if f.isFloat then
    match fval f x with
    | .nan s => nanOut f s
    | _ => (x, 0)
  else (x, 0)

/-- x + y on floating values (R41). -/
def addV (f : Fmt) (rm : RMode) (x y : FVal) : Elem × FlagSet :=
  match x, y with
  | .fin a, .fin b => roundF f rm (a.add rm b)
  | .inf a, .inf b => if a = b then (infPat f a, 0) else nanOut f true
  | .inf a, .fin _ => (infPat f a, 0)
  | .fin _, .inf b => (infPat f b, 0)
  | .nan s, y => nanOut f (s || y.snan)
  | x, .nan s => nanOut f (s || x.snan)

/-- −v. -/
def FVal.negate : FVal → FVal
  | .nan s => .nan s
  | .inf n => .inf (!n)
  | .fin x => .fin x.negate

/-- The exact product of two floating values: `none` for an invalid product 0 × ∞ (R181). -/
def mulV (x y : FVal) : Option FVal :=
  match x, y with
  | .nan s, y => some (.nan (s || y.snan))
  | x, .nan s => some (.nan (s || x.snan))
  | .inf a, .inf b => some (.inf (a != b))
  | .inf a, .fin b => if b.num = 0 then none else some (.inf (a != b.neg))
  | .fin a, .inf b => if a.num = 0 then none else some (.inf (a.neg != b))
  | .fin a, .fin b => some (.fin (a.mul b))

/-- Round(f, x × y, rm). -/
def mulRound (f : Fmt) (rm : RMode) (x y : FVal) : Elem × FlagSet :=
  match mulV x y with
  | none => nanOut f true
  | some v => roundV f rm v

/-- Round(f, p + z, rm) for an exact product p, one rounding; invalid products give the default NaN whatever
the addend is (R181). -/
def fmaV (f : Fmt) (rm : RMode) (p : Option FVal) (z : FVal) : Elem × FlagSet :=
  match p with
  | none => nanOut f true
  | some p => addV f rm p z

/-- Round(f, x / y, rm) (R181). -/
def divV (f : Fmt) (rm : RMode) (x y : FVal) : Elem × FlagSet :=
  match x, y with
  | .nan s, y => nanOut f (s || y.snan)
  | x, .nan s => nanOut f (s || x.snan)
  | .inf _, .inf _ => nanOut f true
  | .inf a, .fin b => (infPat f (a != b.neg), 0)
  | .fin a, .inf b => roundF f rm ⟨a.neg != b, 0, 1⟩
  | .fin a, .fin b =>
    if b.num = 0 then (if a.num = 0 then nanOut f true else (infPat f (a.neg != b.neg), 0))
    else roundF f rm (a.div b)

/-- A positive value in the same rounding interval as √(num / den): s or s + 1/2 over 2^k, s its floor. -/
def sqrtStand (num den : Nat) : Exact :=
  let l : Int := (Nat.log2 num : Int) - Nat.log2 den
  let k := if l < 128 then ((130 - l).toNat) / 2 else 1
  let s := Nat.sqrt (num * 4 ^ k / den)
  ⟨false, if s * s * den = num * 4 ^ k then 2 * s else 2 * s + 1, 2 ^ (k + 1)⟩

/-- Round(f, √x, rm) (R181). -/
def sqrtV (f : Fmt) (rm : RMode) (x : FVal) : Elem × FlagSet :=
  match x with
  | .nan s => nanOut f s
  | .inf n => if n then nanOut f true else (infPat f false, 0)
  | .fin x =>
    if x.num = 0 then roundF f rm x
    else if x.neg then nanOut f true
    else roundF f rm (sqrtStand x.num x.den)

/-! ## The transcendental members (R182), on BF16 -/

/-- The largest m below 2^(n+1) whose power m^(2^d) is at most `bound`, found bit by bit. -/
def rootFloor (d bound : Nat) : Nat → Nat → Nat
  | 0, m => m
  | n + 1, m => rootFloor d bound n (if (m + 2 ^ n) ^ (2 ^ d) ≤ bound then m + 2 ^ n else m)

/-- A value in the same rounding interval as 2^(a / 2^d), exact when 2^d divides a. -/
def exp2Stand (a : Int) (d : Nat) : Exact :=
  let q := a / 2 ^ d
  let r := (a % 2 ^ d).toNat
  let m := if r = 0 then 2 * 2 ^ 12 else 2 * rootFloor d (2 ^ (r + 12 * 2 ^ d)) 13 0 + 1
  -- the value is m × 2^(q − 13)
  if 13 ≤ q then ⟨false, m * 2 ^ (q - 13).toNat, 1⟩ else ⟨false, m, 2 ^ (13 - q).toNat⟩

/-- VEXP2 of one element (R182). -/
def exp2V (rm : RMode) (x : FVal) : Elem × FlagSet :=
  match x with
  | .nan s => nanOut .bf16 s
  | .inf n => if n then (0, 0) else (infPat .bf16 false, 0)
  | .fin x =>
    if x.num = 0 then roundF .bf16 rm ⟨false, 1, 1⟩
    else if x.num * 2 ^ 9 ≤ x.den then
      -- 0 < |x| ≤ 2^-9: the result lies strictly within half a unit of 1, on x's side
      roundF .bf16 rm ⟨false, if x.neg then 2 ^ 20 - 1 else 2 ^ 20 + 1, 2 ^ 20⟩
    else if 200 * x.den ≤ x.num then
      roundF .bf16 rm (if x.neg then ⟨false, 1, 2 ^ 200⟩ else ⟨false, 2 ^ 200, 1⟩)
    else
      let d := Nat.log2 x.den
      roundF .bf16 rm (exp2Stand (if x.neg then -(x.num : Int) else x.num) d)

/-- VLOG2 of one element (R182). -/
def log2V (rm : RMode) (x : FVal) : Elem × FlagSet :=
  match x with
  | .nan s => nanOut .bf16 s
  | .inf n => if n then nanOut .bf16 true else (infPat .bf16 false, 0)
  | .fin x =>
    if x.num = 0 then (infPat .bf16 true, 0)
    else if x.neg then nanOut .bf16 true
    else
      let l : Int := (Nat.log2 x.num : Int) - Nat.log2 x.den
      if isPow2 x.num then roundF .bf16 rm (Exact.ofInt l)
      else
        -- den is a power of two; num is brought to its 8 significant bits
        let m := x.num / 2 ^ (Nat.log2 x.num - 7)
        let m := if Nat.log2 x.num < 7 then x.num else m
        let sh : Int := if Nat.log2 x.num < 7 then -(Nat.log2 x.den : Int)
          else (Nat.log2 x.num : Int) - 7 - Nat.log2 x.den
        let a : Int := (Nat.log2 (m ^ (2 ^ 18)) : Int) + sh * 2 ^ 18
        let t := 2 * a + 1
        roundF .bf16 rm ⟨decide (t < 0), t.natAbs, 2 ^ 19⟩

/-- VRCP of one element (R182). -/
def rcpV (rm : RMode) (x : FVal) : Elem × FlagSet :=
  match x with
  | .nan s => nanOut .bf16 s
  | .inf n => (if n then 0x8000 else 0, 0)
  | .fin x => if x.num = 0 then (infPat .bf16 x.neg, 0) else roundF .bf16 rm ⟨x.neg, x.den, x.num⟩

/-- VRSQ of one element (R182). -/
def rsqV (rm : RMode) (x : FVal) : Elem × FlagSet :=
  match x with
  | .nan s => nanOut .bf16 s
  | .inf n => if n then nanOut .bf16 true else (0, 0)
  | .fin x =>
    if x.num = 0 then (infPat .bf16 x.neg, 0)
    else if x.neg then nanOut .bf16 true
    else roundF .bf16 rm (sqrtStand x.den x.num)

/-! ## Comparison -/

/-- a LT b on present patterns, and the invalid flag of a signalling NaN (R185). -/
def ltE (f : Fmt) (x y : Elem) : Bool × FlagSet :=
  if f.isFloat then
    let a := fval f x
    let b := fval f y
    let nv := flagIf (a.snan || b.snan) flagNV
    match a, b with
    | .nan _, _ => (false, nv)
    | _, .nan _ => (false, nv)
    | .inf p, .inf q => (p && !q, nv)
    | .inf p, .fin _ => (p, nv)
    | .fin _, .inf q => (!q, nv)
    | .fin a, .fin b => (a.lt b, nv)
  else (decide (intVal f x < intVal f y), 0)

/-- a EQ b on present patterns (R185). -/
def eqE (f : Fmt) (x y : Elem) : Bool :=
  if f.isFloat then
    match fval f x, fval f y with
    | .inf p, .inf q => p == q
    | .fin a, .fin b => a.eq b
    | _, _ => false
  else x == y

/-- Is a pattern a NaN of a floating format? -/
def isNaN (f : Fmt) (x : Elem) : Bool :=
  f.isFloat && (match fval f x with
    | .nan _ => true
    | _ => false)

/-- The outcome of a VCMP condition on one element (R185); an absent input makes it false. -/
def cmpE (f : Fmt) (c : VCond) (x y : Elem) : Bool × FlagSet :=
  if !(present f x && present f y) then (false, 0)
  else
    let lt := ltE f x y
    let gt := ltE f y x
    let nan := isNaN f x || isNaN f y
    let eq := eqE f x y
    (match c with
      | .eq => eq
      | .ne => !eq
      | .lt => lt.1
      | .ge => !nan && !lt.1
      | .le => !nan && !gt.1
      | .gt => gt.1, lt.2)

/-- Lesser or greater of two present elements; −0 < +0; a NaN gives the default NaN (R180, R181). -/
def minMaxE (f : Fmt) (mx : Bool) (x y : Elem) : Elem × FlagSet :=
  if isNaN f x || isNaN f y then nanOut f ((fval f x).snan || (fval f y).snan)
  else
    let sgn := decide (2 ^ (fmtBits f - 1) ≤ x)
    let less := (ltE f x y).1 || (f.isFloat && eqE f x y && sgn)
    (if less != mx then x else y, 0)

/-! ## Combining nodes -/

/-- A logical operation on integer patterns, R43 for a result equal to the absent code. -/
def logicE (f : Fmt) (op : Nat → Nat → Nat) (x y : Elem) : Elem × FlagSet :=
  wrapI f (op x y)

/-- A node of a reduction, scan or strand on present operands (R55, R192): floating ADD rounds, integer ADD
saturates. -/
def nodeE (f : Fmt) (op : RedOp) (rm : RMode) (x y : Elem) : Elem × FlagSet :=
  match op with
  | .add => if f.isFloat then addV f rm (fval f x) (fval f y) else satI f (intVal f x + intVal f y)
  | .min => minMaxE f false x y
  | .max => minMaxE f true x y
  | .and => logicE f Nat.land x y
  | .or => logicE f Nat.lor x y
  | .xor => logicE f Nat.xor x y

/-- A contribution: a value that may be absent, its count, and the flags met on the way (R48, R49). -/
structure Contrib where
  val : Option Elem
  count : Nat
  flags : FlagSet
  deriving DecidableEq, Repr

/-- A plain element input (R49). -/
def contribOf (f : Fmt) (x : Elem) : Contrib :=
  if present f x then ⟨some x, 1, 0⟩ else ⟨none, 0, 0⟩

/-- One combining node with counts: an absent operand is the identity (R48, R55). Counts add; the holder's own
limit is applied where they are kept. -/
def combine (f : Fmt) (op : RedOp) (rm : RMode) (a b : Contrib) : Contrib :=
  let fl := a.flags ||| b.flags
  match a.val, b.val with
  | none, none => ⟨none, a.count + b.count, fl⟩
  | some x, none => let r := passE f x; ⟨some r.1, a.count + b.count, fl ||| r.2⟩
  | none, some y => let r := passE f y; ⟨some r.1, a.count + b.count, fl ||| r.2⟩
  | some x, some y => let r := nodeE f op rm x y; ⟨some r.1, a.count + b.count, fl ||| r.2⟩

/-- One level of the tree of R55. -/
def pairUp (f : Fmt) (op : RedOp) (rm : RMode) : List Contrib → List Contrib
  | a :: b :: rest => combine f op rm a b :: pairUp f op rm rest
  | rest => rest

/-- The levels of the tree of R55, leaves first: `k` levels above them. -/
def treeLevels (f : Fmt) (op : RedOp) (rm : RMode) : Nat → List Contrib → List (List Contrib)
  | 0, xs => [xs]
  | k + 1, xs => xs :: treeLevels f op rm k (pairUp f op rm xs)

/-- The result of the tree of R55 over 2^k leaves. -/
def treeReduce (f : Fmt) (op : RedOp) (rm : RMode) : Nat → List Contrib → Contrib
  | 0, xs => xs.headD ⟨none, 0, 0⟩
  | k + 1, xs => treeReduce f op rm k (pairUp f op rm xs)

/-- The blocks of R56 for n elements: level and index of each, largest first, starting at `start`. -/
def scanBlocks : Nat → Nat → Nat → List (Nat × Nat)
  | 0, n, start => if n % 2 = 1 then [(0, start)] else []
  | k + 1, n, start =>
    if 2 ^ (k + 1) ≤ n then (k + 1, start / 2 ^ (k + 1)) :: scanBlocks k (n - 2 ^ (k + 1)) (start + 2 ^ (k + 1))
    else scanBlocks k n start

/-- Lane i of an inclusive scan (R56), given the levels of the tree. -/
def scanLane (f : Fmt) (op : RedOp) (rm : RMode) (levels : List (List Contrib)) (i : Nat) : Contrib :=
  ((scanBlocks 7 (i + 1) 0).map fun b => (levels.getD b.1 []).getD b.2 ⟨none, 0, 0⟩).foldl
    (combine f op rm) ⟨none, 0, 0⟩

/-- A present count, held at 65,535 with the saturation flag (R49). -/
def heldCount (n : Nat) : Nat × FlagSet := if 65535 < n then (65535, flagSA) else (n, 0)

/-! ## Conversions (R54, R46) -/

/-- Conversion of a source value to a destination format. -/
def convV (dst : Fmt) (rm : RMode) (v : FVal) : Elem × FlagSet :=
  match dst with
  | .f32 | .bf16 => roundV dst rm v
  | .ts8 =>
    match v with
    | .nan _ => (0x77, flagNV)
    | .inf n => (if n then 0xEE else 0x66, flagNV ||| flagSA)
    | .fin x => toTS8 rm x
  | _ =>
    match v with
    | .nan _ => (0, flagNV)
    | .inf n => (intPat dst (if n then -intMax dst else intMax dst), flagNV ||| flagSA)
    | .fin x =>
      let r := roundInt rm x
      let s := satI dst r.1
      (s.1, s.2 ||| flagIf r.2 flagNX)

/-- The value of a present element of a computing format. -/
def elemVal (f : Fmt) (x : Elem) : FVal := if f.isFloat then fval f x else .fin (Exact.ofInt (intVal f x))

/-- Convert of R183: an absent source gives Absent(dst) and sets no flag. -/
def convE (dst src : Fmt) (rm : RMode) (x : Elem) : Elem × FlagSet :=
  if present src x then convV dst rm (elemVal src x) else (absentOf dst, 0)

/-- The value of a scaled element, E of VSCA (R184), and the scaling of a drain. -/
def scaleE (f : Fmt) (rm : RMode) (x s : Elem) : Elem × FlagSet :=
  if !(present f x && present .f32 s) then (absentOf f, 0)
  else if f.isFloat then mulRound f rm (fval f x) (fval .f32 s)
  else
    match fval .f32 s with
    | .nan _ => (0, flagNV)
    | .inf n =>
      let i := intVal f x
      if i = 0 then (0, flagNV)
      else (intPat f (if decide (i < 0) != n then -intMax f else intMax f), flagNV ||| flagSA)
    | .fin y =>
      let r := roundInt rm ((Exact.ofInt (intVal f x)).mul y)
      let t := satI f r.1
      (t.1, t.2 ||| flagIf r.2 flagNX)

/-! ## Q4 (R47) -/

/-- The I8 pattern of a Q4 code under a table of 16 entries: absent for code 8 and entries 0x80. -/
def q4Elem (tbl : List Byte) (c : Nat) : Elem := if c = 8 then 0x80 else (tbl.getD c 0).toNat

end Sys2Proof.Machine
end

