-- ==== Sys2Proof/Machine/Lanes.lean ====
section
/-!
DEFINITION. What the vector engine computes (R171 to R196) as functions of register values: elements of vector
registers, activity, and the result of each member of classes 4 and 5. No machine state stands here.
-/

namespace Sys2Proof.Machine

/-- Lane(v, f, i) (Table 00.2). -/
def lane (f : Fmt) (v : VWord) (i : Nat) : Elem := v.toNat / 2 ^ (fmtBits f * i) % 2 ^ fmtBits f

/-- Elements packed at n bits each, element 0 least significant (R39). -/
def packLanes (n : Nat) : List Elem → Nat
  | [] => 0
  | x :: xs => x % 2 ^ n + 2 ^ n * packLanes n xs

/-- A vector register from its elements. -/
def ofLanes (f : Fmt) (xs : List Elem) : VWord := BitVec.ofNat 1024 (packLanes (fmtBits f) xs)

/-- The elements of a vector register (R171). -/
def lanesOf (f : Fmt) (v : VWord) : List Elem := (List.range f.lanes).map (lane f v)

/-- Is element i active under predicate p (R172)? -/
def active (f : Fmt) (p : PWord) (i : Nat) : Bool := p.getLsbD (f.width * i)

/-- A predicate from its bits. -/
def ofBits (bs : List Bool) : PWord := BitVec.ofNat 128 (packLanes 1 (bs.map Bool.toNat))

/-- A predicate written at element granularity: `none` keeps the element's bits (R172, R173). -/
def writePred (f : Fmt) (old : PWord) (g : Nat → Option Bool) : PWord :=
  ofBits ((List.range 128).map fun j => (g (j / f.width)).getD (old.getLsbD j))

/-- The lowest active element with an absent input among the vectors listed (R175). -/
def absentIndex (f : Fmt) (p : PWord) (ins : List VWord) : Option Nat :=
  (List.range f.lanes).find? fun i => active f p i && ins.any fun v => !present f (lane f v i)

/-- Elementwise results with merging or zeroing (R173) and the OR of the flags (R174). -/
def mapLanes (f : Fmt) (p : PWord) (z : Bool) (old : VWord) (g : Nat → Elem × FlagSet) : VWord × FlagSet :=
  let rs := (List.range f.lanes).map fun i =>
    if active f p i then g i else (if z then 0 else lane f old i, 0)
  (ofLanes f (rs.map (·.1)), flagOr (rs.map (·.2)))

/-! ## Propagation classes (R48, R180) -/

/-- A combining member: `one` is the step applied to a single present input. -/
def combining (f : Fmt) (one : Elem → Elem × FlagSet) (g : Elem → Elem → Elem × FlagSet) (x y : Elem) :
    Elem × FlagSet :=
  match present f x, present f y with
  | true, true => g x y
  | true, false => one x
  | false, true => one y
  | false, false => (absentOf f, flagAP)

/-- A member of class "other" with one input. -/
def other1 (f : Fmt) (g : Elem → Elem × FlagSet) (x : Elem) : Elem × FlagSet :=
  if present f x then g x else (absentOf f, 0)

/-- A member of class "other" with two inputs. -/
def other2 (f : Fmt) (g : Elem → Elem → Elem × FlagSet) (x y : Elem) : Elem × FlagSet :=
  if present f x && present f y then g x y else (absentOf f, 0)

/-! ## Class 4, element by element (R180 to R182) -/

/-- VADD. -/
def vaddE (f : Fmt) (rm : RMode) (x y : Elem) : Elem × FlagSet :=
  combining f (passE f) (fun x y =>
    if f.isFloat then addV f rm (fval f x) (fval f y) else wrapI f (intVal f x + intVal f y)) x y

/-- VSUB. -/
def vsubE (f : Fmt) (rm : RMode) (x y : Elem) : Elem × FlagSet :=
  other2 f (fun x y =>
    if f.isFloat then addV f rm (fval f x) (fval f y).negate else wrapI f (intVal f x - intVal f y)) x y

/-- VMUL. -/
def vmulE (f : Fmt) (rm : RMode) (x y : Elem) : Elem × FlagSet :=
  other2 f (fun x y =>
    if f.isFloat then mulRound f rm (fval f x) (fval f y) else wrapI f (intVal f x * intVal f y)) x y

/-- The rounded product alone, for VFMS the rounded product negated; a NaN stays the default NaN (R48). -/
def productE (f : Fmt) (rm : RMode) (sub : Bool) (p : Option FVal) : Elem × FlagSet :=
  match p with
  | none => nanOut f true
  | some (.nan s) => nanOut f s
  | some v =>
    let r := roundV f rm v
    (if sub then Nat.xor r.1 (2 ^ (fmtBits f - 1)) else r.1, r.2)

/-- VFMA, and VFMS when `sub` (R48's last paragraph, R181). -/
def vfmaE (f : Fmt) (rm : RMode) (sub : Bool) (x y z : Elem) : Elem × FlagSet :=
  let p := mulV (fval f x) (fval f y)
  match present f x && present f y, present f z with
  | true, true => fmaV f rm (p.map fun v => if sub then v.negate else v) (fval f z)
  | true, false => productE f rm sub p
  | false, true => passE f z
  | false, false => (absentOf f, flagAP)

/-- VMIN, and VMAX when `mx`. -/
def vminmaxE (f : Fmt) (mx : Bool) (x y : Elem) : Elem × FlagSet :=
  combining f (passE f) (minMaxE f mx) x y

/-- VMAG. -/
def vmagE (f : Fmt) (x : Elem) : Elem × FlagSet :=
  other1 f (fun x =>
    if f.isFloat then
      match fval f x with
      | .nan s => nanOut f s
      | _ => (x % 2 ^ (fmtBits f - 1), 0)
    else (intPat f (intVal f x).natAbs, 0)) x

/-- VNEG. -/
def vnegE (f : Fmt) (x : Elem) : Elem × FlagSet :=
  other1 f (fun x =>
    if f.isFloat then
      match fval f x with
      | .nan s => nanOut f s
      | _ => (Nat.xor x (2 ^ (fmtBits f - 1)), 0)
    else (intPat f (-(intVal f x)), 0)) x

/-- VAND, VOR, VXOR. -/
def vlogicE (f : Fmt) (op : Nat → Nat → Nat) (x y : Elem) : Elem × FlagSet :=
  combining f (fun x => (x, 0)) (logicE f op) x y

/-- VSHL. -/
def vshlE (f : Fmt) (x y : Elem) : Elem × FlagSet :=
  other2 f (fun x y => wrapI f (intVal f x * 2 ^ (y % fmtBits f))) x y

/-- VSHR. -/
def vshrE (f : Fmt) (x y : Elem) : Elem × FlagSet :=
  other2 f (fun x y => (x / 2 ^ (y % fmtBits f), 0)) x y

/-- VSAR. -/
def vsarE (f : Fmt) (x y : Elem) : Elem × FlagSet :=
  other2 f (fun x y => (intPat f (intVal f x / 2 ^ (y % fmtBits f)), 0)) x y

/-- VADDS. -/
def vaddsE (f : Fmt) (x y : Elem) : Elem × FlagSet :=
  combining f (fun x => (x, 0)) (fun x y => satI f (intVal f x + intVal f y)) x y

/-- VSUBS. -/
def vsubsE (f : Fmt) (x y : Elem) : Elem × FlagSet :=
  other2 f (fun x y => satI f (intVal f x - intVal f y)) x y

/-- VCVT over whole registers (R183): the source element of each destination element, if it is written. -/
def vcvtV (dst src : Fmt) (rm : RMode) (part : Nat) (p : PWord) (old a : VWord) : VWord × FlagSet :=
  let from? (j : Nat) : Option Nat :=
    if dst.width ≤ src.width then
      if part * src.lanes ≤ j ∧ j < part * src.lanes + src.lanes then some (j - part * src.lanes) else none
    else some (part * dst.lanes + j)
  let rs := (List.range dst.lanes).map fun j =>
    match from? j with
    | some i => if active dst p j then convE dst src rm (lane src a i) else (lane dst old j, 0)
    | none => (lane dst old j, 0)
  (ofLanes dst (rs.map (·.1)), flagOr (rs.map (·.2)))

/-- The F32 scale of element i in VSCA with SV = 1 (R184). -/
def scaleIndex (f : Fmt) (i : Nat) : Nat := 32 * i / f.lanes

/-- VCMP over whole registers (R185). -/
def vcmpV (f : Fmt) (c : VCond) (p old : PWord) (a b : VWord) : PWord × FlagSet :=
  (writePred f old fun i => if active f p i then some (cmpE f c (lane f a i) (lane f b i)).1 else none,
   flagOr ((List.range f.lanes).map fun i => if active f p i then (cmpE f c (lane f a i) (lane f b i)).2 else 0))

/-- The choice of VSEL on one element (R186): true takes a. -/
def selE (f : Fmt) (k : SelKind) (pc : PWord) (i : Nat) (x y : Elem) : Bool × FlagSet :=
  match k with
  | .pred => (active f pc i, 0)
  | .pres => (present f x, 0)
  | .lt => cmpE f .lt x y
  | .gt => cmpE f .gt x y

/-! ## Class 5 (R189 to R196) -/

/-- The element VPERM reads (R189). -/
def vpermIx (f : Fmt) (b : VWord) (i : Nat) : Nat := lane f b i % f.lanes

/-- VSLIDE of one element (R189). -/
def vslideE (f : Fmt) (dn : Bool) (k : Nat) (a : VWord) (i : Nat) : Elem :=
  if dn then (if i + k < f.lanes then lane f a (i + k) else absentOf f)
  else (if k ≤ i then lane f a (i - k) else absentOf f)

/-- VZIP of one element (R189). -/
def vzipE (f : Fmt) (hi : Bool) (a b : VWord) (i : Nat) : Elem :=
  let o := if hi then f.lanes / 2 else 0
  lane f (if i % 2 = 0 then a else b) (o + i / 2)

/-- VUNZIP of one element (R189). -/
def vunzipE (f : Fmt) (od : Bool) (a b : VWord) (i : Nat) : Elem :=
  let h := f.lanes / 2
  if i < h then lane f a (2 * i + od.toNat) else lane f b (2 * (i - h) + od.toNat)

/-- VCOMPR (R189). -/
def vcomprV (f : Fmt) (p : PWord) (a : VWord) : VWord :=
  let xs := ((List.range f.lanes).filter (active f p)).map (lane f a)
  ofLanes f (xs ++ List.replicate (f.lanes - xs.length) (absentOf f))

/-- The code VEXPQ4 reads for element i (R191, R39). -/
def q4Code (a : VWord) (part i : Nat) : Nat := a.toNat / 2 ^ (4 * (128 * part + i)) % 16

/-- The lowest active element whose Q4 code is absent (R191). -/
def q4AbsentIndex (tbl : List Byte) (p : PWord) (a : VWord) (part : Nat) : Option Nat :=
  (List.range 128).find? fun i => active .i8 p i && q4Elem tbl (q4Code a part i) == 0x80

/-- The 16 bytes QTLD loads (R190). -/
def q4Bytes (a : VWord) : List Byte := (List.range 16).map fun i => a.extractLsb' (8 * i) 8

/-- The inputs of a reduction or scan: inactive elements are absent with count 0 (R188). -/
def contribs (f : Fmt) (p : PWord) (a : VWord) : List Contrib :=
  (List.range f.lanes).map fun i => if active f p i then contribOf f (lane f a i) else ⟨none, 0, 0⟩

/-- A count in an element, saturated at 2^(8w) − 1 with the saturation flag (R192). -/
def countElem (f : Fmt) (n : Nat) : Elem × FlagSet :=
  if n < 2 ^ fmtBits f then (n, 0) else (2 ^ fmtBits f - 1, flagSA)

/-- What a result with contributors delivers, and absent-produced when it has none (R192, R193). -/
def contribOut (f : Fmt) (c : Contrib) : Elem × FlagSet :=
  match c.val with
  | some x => (x, c.flags)
  | none => (absentOf f, c.flags ||| flagAP)

/-- VREDUCE (R192): the result register, the count register and the flags; the count's flag only with D4. -/
def vreduceV (f : Fmt) (op : RedOp) (rm : RMode) (p : PWord) (a : VWord) : VWord × VWord × FlagSet × FlagSet :=
  let c := treeReduce f op rm (Nat.log2 f.lanes) (contribs f p a)
  let r := contribOut f c
  let n := countElem f c.count
  (ofLanes f [r.1], ofLanes f [n.1], r.2, n.2)

/-- VSCAN (R193). -/
def vscanV (f : Fmt) (op : RedOp) (ex : Bool) (rm : RMode) (p : PWord) (a : VWord) :
    VWord × VWord × FlagSet × FlagSet :=
  let levels := treeLevels f op rm (Nat.log2 f.lanes) (contribs f p a)
  let cs := (List.range f.lanes).map fun i =>
    if ex then (if i = 0 then ⟨none, 0, 0⟩ else scanLane f op rm levels (i - 1)) else scanLane f op rm levels i
  let rs := cs.map (contribOut f)
  let ns := cs.map fun c => countElem f c.count
  (ofLanes f (rs.map (·.1)), ofLanes f (ns.map (·.1)), flagOr (rs.map (·.2)), flagOr (ns.map (·.2)))

/-- VCOUNT (R194). -/
def vcountN (f : Fmt) (p : PWord) (a : VWord) : Nat :=
  ((List.range f.lanes).filter fun i => active f p i && present f (lane f a i)).length

/-- WHILELT (R195). -/
def whileltV (f : Fmt) (a b : DWord) : PWord :=
  writePred f 0 fun i => some (decide (a.toInt + i < b.toInt))

/-- PCNT (R196). -/
def pcntN (f : Fmt) (p : PWord) : Nat := ((List.range f.lanes).filter (active f p)).length

/-- PFIRST (R196). -/
def pfirstN (f : Fmt) (p : PWord) : Nat := ((List.range f.lanes).find? (active f p)).getD f.lanes

/-- PSET (R195). -/
def psetV (f : Fmt) (k : Nat) : PWord := writePred f 0 fun i => some (decide (i < k))

/-- VEXTR (R189): sign-extended for integer formats, zero-extended for floating ones. -/
def vextrD (f : Fmt) (a : VWord) (i : Nat) : DWord :=
  let x := lane f a (i % f.lanes)
  if f.isFloat then dw x else BitVec.ofInt 64 (intVal f x)

/-- VINS (R189). -/
def vinsV (f : Fmt) (old : VWord) (i x : Nat) : VWord :=
  ofLanes f ((List.range f.lanes).map fun j => if j = i % f.lanes then x % 2 ^ fmtBits f else lane f old j)

end Sys2Proof.Machine
end

