-- ==== Sys2Proof/Machine/State.lean ====
section
/-!
DEFINITION. The state of the HV-G9A as plain data: every work core, service core, translation core and the root
monitor core; the mesh; the Bezels; the ordering points and memory ports; the context, actor and fabric engines of
the hub; the host attach and Hallmark. `State.reset` is the device right after reset.
-/

namespace Sys2Proof.Machine

/-! ## Sparse contents -/

/-- Contents by number in one canonical form: numbers strictly rising, and no entry equal to the default. -/
abbrev Sparse (α : Type) := List (Nat × α)

/-- Bytes by address: an unlisted byte reads 0. -/
abbrev Mem := List Host.Cell

/-- The entry of a number, or the default. -/
def Sparse.get {α : Type} (d : α) (m : Sparse α) (k : Nat) : α :=
  match m with
  | [] => d
  | (j, x) :: rest => if j = k then x else Sparse.get d rest k

/-- Insert at a number, rising order kept, whatever stood there. -/
def Sparse.put {α : Type} (m : Sparse α) (k : Nat) (v : α) : Sparse α :=
  match m with
  | [] => [(k, v)]
  | (j, x) :: rest =>
    if k < j then (k, v) :: (j, x) :: rest
    else if k = j then (k, v) :: rest
    else (j, x) :: Sparse.put rest k v

/-- Remove a number wherever it stands. -/
def Sparse.del {α : Type} (m : Sparse α) (k : Nat) : Sparse α :=
  match m with
  | [] => []
  | (j, x) :: rest => if j = k then Sparse.del rest k else (j, x) :: Sparse.del rest k

/-- Write a value: a default value removes the entry, so that equal contents are equal data. -/
def Sparse.set {α : Type} [DecidableEq α] (d : α) (m : Sparse α) (k : Nat) (v : α) : Sparse α :=
  if v = d then Sparse.del m k else Sparse.put m k v

/-- The canonical form, entry by entry: numbers above `lo` strictly rising, no default. -/
def Sparse.wfFrom {α : Type} [DecidableEq α] (d : α) (lo : Nat) (m : Sparse α) : Bool :=
  match m with
  | [] => true
  | (j, x) :: rest => decide (lo ≤ j) && decide (x ≠ d) && Sparse.wfFrom d (j + 1) rest

/-- The canonical form of byte memory. -/
def Memory.wf (m : Mem) : Bool := Sparse.wfFrom (0 : Byte) 0 m

/-! ## Regions and firings -/

/-- What a bead belongs to (R84). -/
inductive Bead where
  | free | code
  | owned (slot : Nat)
  /-- in transit, with the sending slot that gets it back -/
  | transit (slot : Nat)
  deriving DecidableEq, Repr

/-- The program-visible register files of a core (R80, Table 03.1), with RM and FLAGS. -/
structure Regs where
  s : Vector DWord 32
  v : Vector VWord 32
  p : Vector PWord 8
  q4 : List Byte
  rm : RMode
  flags : FlagSet
  deriving DecidableEq, Repr

/-- TSW's fields (Table 03.3). -/
structure Tsw where
  ovp : BitVec 2
  ov : Bool
  cpri : BitVec 2
  priv : BitVec 2
  rp : Bool
  sf : Bool
  it : Bool
  apb : Bool
  deriving DecidableEq, Repr

/-- The trap registers of a core (Tables 03.4 and 03.5). -/
structure TrapRegs where
  tcause : DWord
  taddr : DWord
  tpc : LAddr
  thnd : LAddr
  ovret : LAddr
  deriving DecidableEq, Repr

/-- The record of a region: everything an abort restores (R93, R94). -/
structure Record where
  entry : LAddr
  smask : Word
  vmask : Word
  regs : Regs
  tsw : Tsw
  traps : TrapRegs
  deriving DecidableEq, Repr

/-- What a slot keeps of an interrupted firing (R92, R101). -/
structure Resume where
  rcd : Record
  apb : Bool
  deriving DecidableEq, Repr

/-- Slot states (Table 03.6). -/
inductive SlotState where
  | empty | waiting | running | parked | leaving
  deriving DecidableEq, Repr

/-- An actor slot of a core (R80, R88): its state, the actor cached in it, and a pending resume. -/
structure Slot where
  st : SlotState
  actor : Option ActorId
  resume : Option Resume
  deriving DecidableEq, Repr

/-- What the core runs. -/
inductive Running where
  | idle
  | firing (slot : Nat)
  | preempt
  | boot
  | service
  | stopped
  deriving DecidableEq, Repr

/-! ## Addresses -/

/-- Page modes (Table 12.3). -/
inductive PageMode where
  | loc | direct | cached | count
  deriving DecidableEq, Repr

/-- Where a translated address lies: device physical space (HBM below 0xC0_0000_0000, control space above), a
peer device, or host memory (R20, R22, R335). -/
inductive Place where
  | dev (pa : Nat)
  | peer (dev pa : Nat) (mode : PageMode)
  | host (ha : Nat)
  deriving DecidableEq, Repr

/-- A translated access: its place, the page's compression attribute (Table 12.3) and the context. -/
structure Target where
  place : Place
  cmp : BitVec 2
  ctx : Nat
  deriving DecidableEq, Repr

/-- Who is ended when an operation later fails: a slot's incarnation, and the core (R100, R261). -/
structure Issuer where
  core : CoreId
  actor : Option ActorId
  gen : Nat
  deriving DecidableEq, Repr

/-! ## Commands of the copy engine and the tile queue -/

/-- A piece of a copy: bytes between a local range and a target, a fill of a local range, or bytes read at drain for
a target (R158, R161). -/
inductive Seg where
  | mem (la : Nat) (t : Target) (n : Nat)
  | fill (la : Nat) (bytes : List Byte)
  | data (t : Target) (bytes : List Byte)
  deriving DecidableEq, Repr

/-- What a transfer command does (R157 to R161): GL with the ranges whose tags TF sets; LG; LR with the bytes read at
drain; LL with the bytes read at its start. -/
inductive CopyKind where
  | gl (segs : List Seg) (tags : List (Nat × Nat)) (inv : Bool)
  | lg (segs : List Seg)
  | lr (core : Nat) (ra la n : Nat) (tf : Bool) (bytes : List Byte)
  | ll (dst la n : Nat) (tf : Bool) (bytes : List Byte)
  deriving DecidableEq, Repr

/-- What a GL command awaits: the reply to a fabric request, by flow and number, or the completion of a host request, by its number. -/
inductive Asked where
  | fabric (flow seq : Nat)
  | host (tag : Nat)
  deriving DecidableEq, Repr

/-- A command of the transfer queue, or one held in the store buffer (R147). `openRegion` marks a command of the
region still open (R166); `cpy2` tells CPY2 from CPY (R262); `ahead` counts the store-buffer entries before it. -/
structure CopyCmd where
  kind : CopyKind
  scope : Scope
  aq : Bool
  rl : Bool
  cpy2 : Bool
  who : Issuer
  ctx : Nat
  beads : List Nat
  ahead : Nat
  openRegion : Bool
  started : Bool
  asked : Option Asked
  deriving DecidableEq, Repr

/-- A SEND (R162, R163) with its bead, output port, length, slot size, and the destination its port named at issue, or
an MCAST (R135) with the bytes its drain read and the number that its start gave it, in the tile queue. -/
inductive TileKind where
  | send (la k len size : Nat) (name : DWord) (dport : Nat)
  | mcast (la k : Nat) (bytes : List Byte) (serial : Nat)
  deriving DecidableEq, Repr

/-- How far a tile-queue command has come (R153): a SEND asks for a slot, waits at a port of an actor, holds slot j, has
left the device for another, or is done; an MCAST waits for its members' acknowledgements. -/
inductive TilePhase where
  | queued
  | asking
  | waiting (actor : ActorId) (port : Nat)
  | returned
  | granted (core : CoreId) (actor : ActorId) (port slot : Nat)
  | remote (flow seq : Nat)
  | acks (n : Nat)
  | done
  deriving DecidableEq, Repr

/-- A command of the tile queue (R147). -/
structure TileCmd where
  kind : TileKind
  phase : TilePhase
  scope : Scope
  aq : Bool
  rl : Bool
  who : Issuer
  ctx : Nat
  /-- the pipeline waits for this one: a SEND with LAST (R165) -/
  last : Bool
  deriving DecidableEq, Repr

/-! ## Actor operations held in the store buffer (R280 to R323) -/

/-- Operations of the actor, supervision and context engines that leave at commit; operands as read at issue. -/
inductive ActorOp where
  | spawn (image : Nat) (param : DWord) (k : Nat) (core : Option DWord) (lk mn all : Bool) (tag : Word) (first count : Nat)
  | kill (name : DWord)
  | link (name : DWord)
  | unlink (name : DWord)
  | monitor (name tag : DWord)
  | unmon (name tag : DWord)
  | message (name : DWord) (bytes : List Byte)
  | exitSig (name : DWord) (reason : Nat)
  | selfTx (on : Bool)
  | timer (k kl : Bool) (cycles : Nat) (tag : Word)
  | portcfg (k : Nat) (name : DWord) (dport : Nat)
  | migrate (name core : DWord)
  | capcall (index : Nat) (la : Nat) (tag : Word)
  | supcfg (f : Nat) (x y : DWord) (bytes : List Byte)
  | restart (job : Bool) (x : DWord)
  | ctxnew (num : Nat) (ovr : Word) (words : List DWord)
  | ctxset (num word : Nat) (v : DWord)
  | ctxrevoke (num : Nat)
  deriving DecidableEq, Repr

/-- The elements of a reduction entry: offset from the target and pattern (R251, R252). -/
structure ElemRed where
  op : RedOp
  fmt : Fmt
  cnt : Bool
  rm : RMode
  elems : List (Nat × Elem)
  deriving DecidableEq, Repr

/-- What a store-buffer entry holds (R95, R134 to R136, R163, R251, R263, R344, R362). -/
inductive EntryKind where
  | store (t : Target) (bytes : List Byte) (mask : List Nat)
  | red (t : Target) (op : AmoOp) (n : Nat) (y : DWord)
  | elem (t : Target) (r : ElemRed)
  | poisonclr (t : Target)
  | copy (c : CopyCmd)
  | send (c : TileCmd)
  | mcast (c : TileCmd)
  | nred (k la : Nat) (fmt : Fmt) (lanes : List (Option Elem)) (slot : Nat)
  | nsend (core : Nat) (payload : List Byte) (tag : Word)
  | nsendRaw (hdr : DWord)
  | actor (op : ActorOp)
  | tlbinv (ctx : Nat) (page : Option (Nat × PageSize))
  deriving DecidableEq, Repr

/-- A store-buffer entry (R95): `rel` is its release scope. -/
structure Entry where
  kind : EntryKind
  rel : Option Scope
  who : Issuer
  ctx : Nat
  deriving DecidableEq, Repr

/-! ## Mesh -/

/-- A router's registers besides the strand entries (R121 to R123, R146), and the strands whose context its core has
left (R133). -/
structure Router where
  cv : Bool
  x : BitVec 5
  y : BitVec 5
  val : Bool
  lidx : BitVec 10
  lci : BitVec 14
  left : List Nat
  deriving DecidableEq, Repr

/-- A contribution to a strand round, or its result: lanes with counts, the entry's OP and FMT, and the
conditions collected (R132). -/
structure StrandVal where
  op : Nat
  fmt : Nat
  lanes : List Contrib
  conds : FlagSet
  deriving DecidableEq, Repr

/-- An NRED of a member that awaits its round's result: strand, address, format, slot, actor and context (R134). -/
structure NredWait where
  k : Nat
  la : Nat
  fmt : Fmt
  slot : Nat
  actor : Option ActorId
  ctx : Nat
  deriving DecidableEq, Repr

/-- An entry of a receive queue (R137). -/
structure Received where
  payload : List Byte
  src : Nat
  tag : Word
  ctx : Nat
  scope : Scope
  deriving DecidableEq, Repr

/-- A multicast write on its way to a member (R135). -/
structure McastIn where
  src : CoreId
  la : Nat
  bytes : List Byte
  ctx : Nat
  k : Nat
  /-- which MCAST it belongs to -/
  serial : Nat
  deriving DecidableEq, Repr

/-! ## Translation -/

/-- A TLB entry: its two words (Table 12.4). -/
structure TlbEntry where
  e0 : DWord
  e1 : DWord
  deriving DecidableEq, Repr

/-- The access kind of a miss (R332). -/
inductive Access where
  | read | write | readWrite
  deriving DecidableEq, Repr

/-- A miss message (R332). -/
structure Miss where
  core : CoreId
  lci : Nat
  id : Nat
  ctx : Nat
  va : Nat
  kind : Access
  deriving DecidableEq, Repr

/-- What a walk answers to a miss where it fills no entry (R332): the access ends with a reason, or its page is not resident
for a context's handler; `walk` says that a table of it is what lacks. -/
inductive MissAnswer where
  | ends (reason : Nat)
  | absent (handler addr : Nat) (walk : Bool)
  deriving DecidableEq, Repr

/-- What a core's pipeline waits for. -/
inductive WaitKind where
  /-- a TLB miss, by miss number (R332) -/
  | miss (id : Nat) (m : Miss) (sent : Bool)
  /-- a page that is not resident, where no other check of the instruction fails before it (R117, R332) -/
  | page (m : Miss) (handler addr : Nat) (walk : Bool)
  /-- a remote tagged or clasp operation not yet at its target, then held there (R115, R143) -/
  | remote (arrived : Bool)
  /-- a local LDF, LDFP or STE whose tag does not hold (R114) -/
  | tagged
  /-- a clasp wait at the home core, and whether the home core has it (R143) -/
  | clasp (arrived : Bool)
  /-- a returning atomic on its way to the port (R245) -/
  | atomic
  /-- an answer of the fabric (R391) about a place, the epoch at which the request left (R393), and the access's
  address -/
  | fabric (flow seq : Nat) (place : Place) (epoch : Nat) (addr : DWord)
  /-- a completion of the host (R417) about a place, and the access's address -/
  | host (place : Place) (addr : DWord)
  deriving DecidableEq, Repr

/-- A wait, with the instruction that its end completes; `.nop` where the instruction is issued again from its
address. -/
structure Wait where
  kind : WaitKind
  instr : Instr
  deriving DecidableEq, Repr

/-! ## Repetition (R108, R109) -/

/-- The repetition buffer while it holds instructions. -/
structure Repetition where
  body : List (LAddr × Instr)
  sd : Nat
  sa : Nat
  sb : Nat
  sc : Nat
  count : Nat
  iter : Nat
  next : Nat
  snap : Vector DWord 32
  /-- stopped by a recoverable trap, with the kept resume point (R109) -/
  stop : Option LAddr
  /-- the miss that the iteration in hand waits for, and what answers have brought for it -/
  wait : Option Wait
  latched : List TlbEntry
  noted : List (Miss × MissAnswer)
  deriving DecidableEq, Repr

/-! ## Slices (R371 to R379) -/

/-- Where a core stands in the end of a slice (R372). -/
inductive SlicePhase where
  | running
  /-- T0 has passed; waits for the save point -/
  | ending
  /-- the pre-emption handler runs -/
  | handler
  /-- the save has begun: forced or not, the bitmap used, and whether the area is written -/
  | saving (forced : Bool) (bitmap : List Byte) (written : Bool)
  /-- the core is scrubbed; the incoming context's area is being read -/
  | restoring
  deriving DecidableEq, Repr

/-- A core: a work core with its router, or the service, translation or root monitor core (R18, R80, R333, R360).
The fields of a kind of core that lacks them stay at reset. -/
structure Core where
  run : Running
  pc : LAddr
  regs : Regs
  tsw : Tsw
  traps : TrapRegs
  xbound : LAddr
  ovh : LAddr
  cyc : DWord
  selfn : DWord
  /-- SLOT (Table 03.5) -/
  slotReg : BitVec 6
  /-- the open region: its record holds REGENT and LIVEIN -/
  region : Record
  /-- receive-queue entries the open region has taken (R137) -/
  taken : Nat
  wait : Option Wait
  rep : Option Repetition
  -- scratchpad
  mem : Mem
  tags : Sparse Bool
  beads : Sparse Bead
  -- store buffer, oldest first
  openB : List Entry
  committed : List Entry
  slots : Sparse Slot
  /-- the rotating pointer: slot last chosen (R90) -/
  pointer : Nat
  wins : Vector DWord 8
  strands : Vector DWord 16
  router : Router
  bsum : Word
  recvq : List Received
  nredWaits : List NredWait
  /-- results that have arrived and are to be written: strand, context, value (R134) -/
  strandIn : List (Nat × Nat × StrandVal)
  mcastIn : List McastIn
  -- engines
  transferQ : List CopyCmd
  tileQ : List TileCmd
  bzSeq : BitVec 16
  tileTypes : Vector Bool 16
  bzmap : DWord
  -- translation
  tlb : List TlbEntry
  /-- what answers have brought for the waiting instruction, which is issued again: entries filled, failures, data received,
  and the address of that instruction -/
  latched : List TlbEntry
  noted : List (Miss × MissAnswer)
  got : List (Place × List Byte)
  heldAt : LAddr
  missId : BitVec 16
  /-- the epoch of the core's last POD acquire (R393) -/
  podEpoch : Nat
  /-- the fabric's count at the core's last release at DIE or DEVICE: what it had sent to other devices before that is performed for the cores
  of this device (R30, R409) -/
  sealed : Nat
  /-- the model's own record of how far back a plain load may reach (R27, R29): versions put aside since the core's last
  acquire, and by line the oldest one it may still meet -/
  since : Nat
  seen : Sparse Nat
  /-- the same for lines of other devices (R27): by 64 × line + device, the count of the newest content the core has stored or met -/
  met : Sparse Nat
  -- context on the core
  ctx : Nat
  rotation : List Nat
  phase : SlicePhase
  /-- contexts whose save area of this core holds a save, whether that was forced (R375), and how many receive-queue entries it
  holds -/
  saves : List (Nat × Bool × Nat)
  deriving DecidableEq, Repr

/-! ## Bezels -/

/-- The check state of one row or column of a tile (R226). -/
structure Check where
  vi : Int
  vf : Elem
  cnt : Nat
  mag : Elem
  unchecked : Bool
  deriving DecidableEq, Repr

/-- An accumulator tile (R204): elements by 64 m + n as (value, count); type, conditions and checksums. -/
structure Tile where
  elems : Sparse (Nat × Nat)
  isInt : Bool
  cond : FlagSet
  rows : Sparse Check
  cols : Sparse Check
  deriving DecidableEq, Repr

/-- A bank (R203): its bytes and format tag. -/
structure Bank where
  bytes : Mem
  tag : Fmt
  deriving DecidableEq, Repr

/-- What a queued Bezel operation does, names resolved at issue (R206, R213 to R225). -/
inductive BezelKind where
  | bld (fmt : Fmt) (la bank : Nat)
  | mma (fmt : Fmt) (tile la : Nat) (banks : List Nat)
  | mzero (isInt : Bool) (tile : Nat)
  | mdrain (fmt : Fmt) (tile la : Nat) (scale cnt : Option Nat) (rm : RMode) (clr norm : Bool)
  | msave (tile la : Nat)
  | mrest (isInt : Bool) (tile la : Nat)
  deriving DecidableEq, Repr

/-- An operation in a core's queue at the Bezel (R208); `ahead` counts the store-buffer entries before it. -/
structure BezelOp where
  seq : BitVec 16
  kind : BezelKind
  scope : Scope
  aq : Bool
  rl : Bool
  who : Issuer
  beads : List Nat
  ahead : Nat
  openRegion : Bool
  started : Bool
  /-- the core's scratchpad as it was at issue (R231) -/
  before : Mem
  deriving DecidableEq, Repr

/-- The arbiter of a Bezel (R209, R210). -/
structure Arbiter where
  credit : Vector Int 8
  /-- the position where the round in progress began -/
  first : Nat
  /-- positions of the round still to visit, the current one first; empty between rounds -/
  visit : List Nat
  iso : Bool
  /-- the position whose slot of the isolation pattern is next -/
  slot : Nat
  deriving DecidableEq, Repr

/-- A Bezel (R203 to R210, R223). -/
structure Bezel where
  banks : Sparse Bank
  tiles : Sparse Tile
  queues : Vector (List BezelOp) 8
  arb : Arbiter
  corr : Nat
  uncorr : Nat
  deriving DecidableEq, Repr

/-! ## Memory ports -/

/-- What a memory port applies (R239, R245, R250, R262). -/
inductive PortKind where
  | store (bytes : List Byte) (mask : List Nat)
  | red (op : AmoOp) (n : Nat) (y : DWord)
  | amo (op : AmoOp) (n : Nat) (y : DWord)
  | cas (n : Nat) (y z : DWord)
  | bnd (n : Nat) (y z : DWord)
  | elem (r : ElemRed)
  | poisonclr
  | granule (bytes : List Byte)
  /-- a whole block written by one copy command (R258) -/
  | block (bytes : List Byte)
  deriving DecidableEq, Repr

/-- Who awaits an operation's end. -/
inductive PortAck where
  | none
  /-- the core's store-buffer drain count (POISONCLR) or a waiting atomic -/
  | core (c : CoreId)
  /-- a write of the copy engine, which the issuing core's own release and fence do not order (R36) -/
  | engine
  /-- a request that came over the fabric: device, flow, sequence number -/
  | fabric (dev flow seq : Nat)
  deriving DecidableEq, Repr

/-- An operation on its way to, or in the write queue of, a port. -/
structure PortOp where
  pa : Nat
  kind : PortKind
  cmp : BitVec 2
  who : Issuer
  rel : Option Scope
  ack : PortAck
  deriving DecidableEq, Repr

/-- A read queued at a port: one that came over the fabric (R391), with its answer's address. -/
structure PortRd where
  pa : Nat
  n : Nat
  dev : Nat
  flow : Nat
  seq : Nat
  cmp : BitVec 2
  deriving DecidableEq, Repr

/-- A migration counter (R264): frame, requesting device, context, count. -/
structure MigCount where
  frame : Nat
  dev : Nat
  ctx : Nat
  count : Nat
  deriving DecidableEq, Repr

/-- A memory port (R239, R264, R266): write-queue entries by line, oldest first. -/
structure Port where
  queue : List (Nat × List PortOp)
  reads : List PortRd
  counters : List MigCount
  mpcfg : DWord
  mperr : DWord
  deriving DecidableEq, Repr

/-! ## Translation requests and contexts -/

/-- Who waits for a page: a slot of a core with its actor; slot 64 stands for code that runs in no slot, slot 65 for a
read of the actor engine. -/
structure Waiter where
  core : CoreId
  slot : Nat
  actor : Option ActorId
  /-- its incarnation -/
  gen : Nat
  deriving DecidableEq, Repr

/-- An entry of the page-request queue (R347, R348). -/
structure PageReq where
  id : Nat
  handler : Nat
  addr : Nat
  walk : Bool
  write : Bool
  partition : Nat
  shared : Bool
  /-- the faulting context, whose chain holds the entry in PRQH -/
  ctx : Nat
  waiters : List Waiter
  /-- the context whose handler received the trap message (R349, R364) -/
  receiver : Option Nat
  deriving DecidableEq, Repr

/-- A request not yet admitted (R347): the core's slot and what the walk lacked. -/
structure PageWant where
  who : Waiter
  ctx : Nat
  handler : Nat
  addr : Nat
  walk : Bool
  write : Bool
  returned : Bool
  deriving DecidableEq, Repr

/-- A context-level or device-level trap held until it is delivered and removed (R364, Table 13.8). -/
structure TrapMsg where
  target : Nat
  code : Nat
  info : Nat
  taddr : DWord
  name : DWord
  lci : Nat
  /-- the context whose handler has the message in its mailbox -/
  holder : Option Nat
  deriving DecidableEq, Repr

/-- A revocation in progress (R368): who is told. -/
structure Revoke where
  ctx : Nat
  tell : List Issuer
  deriving DecidableEq, Repr

/-! ## Actors -/

/-- STATE of an actor control block (Table 10.1). -/
inductive ActorState where
  | free | reserved | resident | leaving | restarting | migrating
  deriving DecidableEq, Repr

/-- Is the state one of an actor that lives in a slot? -/
def ActorState.alive : ActorState → Bool
  | .resident => true
  | .migrating => true
  | _ => false

/-- A reservation request waiting at an input port: the sending core, or the request of another device with the generation it
names (R153, R156). -/
inductive PortAsk where
  | core (c : CoreId)
  | fabric (dev flow seq gen : Nat) (bytes : List Byte)
  deriving DecidableEq, Repr

/-- An input port and its ring (Table 05.1, R152, R153): `pend` holds the slots reserved and not published, oldest
first, each with whether its tile is written. -/
structure IPort where
  en : Bool
  ratem1 : BitVec 6
  slotsm1 : BitVec 6
  size : BitVec 2
  base : BitVec 9
  filled : Nat
  rsv : Nat
  head : Nat
  adv : Nat
  ca : Bool
  asks : List PortAsk
  pend : List (Nat × Bool)
  /-- by slot, the code of the scope that the tile written there was released at (R167) -/
  scopes : Sparse Nat
  deriving DecidableEq, Repr

/-- An output port (Table 05.2, Table 10.1): DCORE, DSLOT and XDEV follow from the destination's location. -/
structure OPort where
  en : Bool
  name : DWord
  dport : BitVec 2
  dsize : BitVec 2
  ratem1 : BitVec 6
  sent : Nat
  deriving DecidableEq, Repr

/-- A timer of an actor (R289). -/
structure Timer where
  left : Nat
  tag : Word
  kl : Bool
  arm : Bool
  deriving DecidableEq, Repr

/-- KIND of a link-table entry (R274). -/
inductive LinkKind where
  | link | watching | watchedBy
  deriving DecidableEq, Repr

/-- A used link-table entry (R274). -/
structure LinkEntry where
  peer : DWord
  kind : LinkKind
  tag : Word
  deriving DecidableEq, Repr

/-- How far a death has come (Table 10.4): before step 2, or before step 7. -/
inductive DeathStep where
  | signals | reclaim
  deriving DecidableEq, Repr

/-- Who hears of a migration's end (R296): an issuer on this device, an actor by its name, or the service core of a partition
of another device. -/
inductive Asker where
  | here (w : Issuer)
  | name (n : DWord)
  | service (dev pidx : Nat)
  deriving DecidableEq, Repr

/-- A requested migration (R296): destination core and device, who is told, whether its wait has begun, and whether the
actor is on its way to another device. -/
structure Migration where
  core : Nat
  dev : Nat
  asker : Asker
  started : Bool
  sent : Bool
  deriving DecidableEq, Repr

/-- An index of a context's actor table, or an actor of another device's table that is here: its control block (Table 10.1), link table and engine state. -/
structure ActorRec where
  st : ActorState
  gen : Nat
  xreason : Nat
  nstate : Nat
  q4d : Bool
  tre : Bool
  sge : Bool
  tx : Bool
  core : CoreId
  slot : Nat
  /-- 0: the actor is here; d + 1: it is on device d -/
  dev : Nat
  /-- 64 × LCORE + LSLOT of an actor on another device (R273) -/
  place : Nat
  param : DWord
  entryT : LAddr
  entryS : LAddr
  entryD : LAddr
  image : Nat
  stinit : Nat
  super : DWord
  ins : Vector IPort 4
  outs : Vector OPort 4
  q4 : List Byte
  timers : Vector Timer 2
  mbase : Nat
  mcount : Nat
  mhead : Nat
  mrsv : Nat
  /-- the scopes the mailbox's messages carried, oldest first (R298) -/
  mscopes : List Scope
  firings : DWord
  stbase : Nat
  links : List LinkEntry
  /-- the link table as the engine last wrote or read it in memory (R272, R274) -/
  linkMem : List Byte
  /-- link-table entries reserved at issue (R274) -/
  linkRsv : Nat
  death : Option DeathStep
  /-- the death was absorbed: no event goes to the restart engine (R310, R316, R325) -/
  quiet : Bool
  mig : Option Migration
  /-- the job it is a member of, by the address of its block (R322) -/
  job : Option Nat
  deriving DecidableEq, Repr

/-- A child entry of a supervisor record as read (Table 11.2): the engine's fields, and the 128 B of the entry. -/
structure Child where
  used : Bool
  dead : Bool
  name : DWord
  restarts : Nat
  xr : Nat
  spec : List Byte
  deriving DecidableEq, Repr

/-- A supervisor record (R304, Tables 11.1 and 11.2) as the actor engine holds it: its 64-bit words by number, those that
memory is known to hold, and the entries that a SUPCFG.add not yet drained has reserved. -/
structure SuperRec where
  sup : Bool
  held : List Nat
  words : Sparse DWord
  mem : Sparse DWord
  deriving DecidableEq, Repr

/-- A death handed to the restart engine (R313). -/
structure DeathEvent where
  super : ActorId
  dead : DWord
  reason : Nat
  deriving DecidableEq, Repr

/-- A restart the engine has decided and not yet carried out (R314, R317): the entry, the reason, whether it is a
group's, whether it is none but an end, and the group's other deaths it waits for. -/
structure Restart where
  super : ActorId
  entry : Nat
  reason : Nat
  dead : DWord
  group : Bool
  /-- a group's member whose RMASK restarts no killed child: it ends in its turn (R314 step 3) -/
  ends : Bool
  waitFor : List ActorId
  deriving DecidableEq, Repr

/-- State of a job (Table 11.7, R320 to R326), by the physical address of its block. -/
structure Job where
  pa : Nat
  va : Nat
  ctx : Nat
  launcher : DWord
  root : ActorId
  rootName : DWord
  relaunches : Nat
  /-- 0 idle, 1 running, 2 tearing down, 3 ended, 4 failed -/
  jstate : Nat
  reason : Nat
  normalEnd : Bool
  /-- the listed granules: address in the context and device physical address -/
  granules : List (Nat × Nat)
  frames : List Nat
  /-- address of a granule in the context and of its frame on the device, in order of first writes -/
  written : List (Nat × Nat)
  armed : Bool
  deriving DecidableEq, Repr

/-- A control message or exit signal on its way (R286, R291, R298), in the order produced, with the scope its reader acquires at,
the source of the flow on which it leaves the device (R391), and whether a link carries the signal (R290 step 4). -/
inductive Mail where
  | exit (dst frm : DWord) (reason : Nat) (tag : Word) (timer : Option Nat) (link : Bool) (src : Nat) (scope : Scope)
  | message (dst : DWord) (kind reason : Nat) (w1 : DWord) (tag : Word) (body : List Byte) (src : Nat) (scope : Scope)
  deriving DecidableEq, Repr

/-- A CAPCALL whose reply is due (R299): the caller, whether its mailbox holds the reservation, the tag, whether a
service core has yet to answer, and the status and result where the engine knows them. -/
structure Capcall where
  caller : DWord
  ctx : Nat
  index : Nat
  tag : Word
  reserved : Bool
  forwarded : Bool
  status : Nat
  result : List Byte
  deriving DecidableEq, Repr

/-- A forwarding entry of a source core (R297). -/
structure Forward where
  core : CoreId
  slot : Nat
  actor : ActorId
  deriving DecidableEq, Repr

/-! ## The fabric interface -/

/-- What a core or engine awaits of a request sent to another device (R391, R398). -/
inductive OutWait where
  | none
  /-- a write of the copy engine (R36) -/
  | engine
  | core (c : CoreId)
  | tile (c : CoreId)
  | copy (c : CoreId)
  /-- the entry at the head of a core's store buffer, an operation on a name of another device (R280) -/
  | head (c : CoreId)
  /-- the move of an actor (R296) -/
  | move (x : ActorId)
  /-- a request of another device, sent on to where its actor now is (R297): device, flow, number -/
  | relay (dev flow seq : Nat)
  /-- an actor engine's read of a context's memory: address and bytes -/
  | piece (ctx va n : Nat)
  deriving DecidableEq, Repr

/-- A request of an engine that has yet to leave (R396): the source of its flow, the device, the context whose tokens it
takes, and who awaits its end. -/
structure EngReq where
  src : Nat
  dev : Nat
  ctx : Nat
  wait : OutWait
  req : FabricReq
  deriving DecidableEq, Repr

/-- A request sent and not yet acknowledged (R396). -/
structure OutReq where
  seq : Nat
  req : FabricReq
  who : Issuer
  wait : OutWait
  tries : Nat
  /-- a load whose line was written after it left: what it brings serves no later load (R27) -/
  stale : Bool
  /-- the epoch of the remote-line cache at which it left (R393) -/
  epoch : Nat
  /-- the fabric interface's own count when it left -/
  left : Nat
  deriving DecidableEq, Repr

/-- A flow this device sends (R391, R396): its number is 64 × (key of the source) + device. -/
structure OutFlow where
  next : Nat
  unacked : List OutReq
  deriving DecidableEq, Repr

/-- A flow this device receives (R396): the next expected number and the replies to its last requests. -/
structure InFlow where
  expected : Nat
  replies : List (Nat × FabricEnd)
  deriving DecidableEq, Repr

/-- A line of the remote-line cache (R393). -/
structure RemoteLine where
  dev : Nat
  line : Nat
  epoch : Nat
  bytes : List Byte
  /-- the counts at which its request left and its answer arrived: the model's own record of its age (R27) -/
  left : Nat
  num : Nat
  deriving DecidableEq, Repr

/-- A line of a cluster's invariant-load cache (R34). -/
structure InvLine where
  cluster : Nat
  ctx : Nat
  line : Nat
  bytes : List Byte
  deriving DecidableEq, Repr

/-- A Locket stream (R406, R407). -/
structure Stream where
  ticket : Nat
  /-- the descriptor as read at the start (Table 14.7) -/
  desc : List Byte
  issuer : CoreId
  /-- granules sent, bytes sent after coding, granules acknowledged, poisoned granules (Table 14.8) -/
  sent : Nat
  bytes : Nat
  acked : Nat
  poisoned : Nat
  stopping : Bool
  failed : Bool
  /-- the blocks read of the granule to be sent next; a poisoned one has no bytes (R407, R408) -/
  held : List (Option (List Byte))
  deriving DecidableEq, Repr

/-- The Beyma fabric interface (Table 14.1, R391 to R407). -/
structure Fabric where
  fbcfg : DWord
  fbe2e : DWord
  fbdom : Sparse DWord
  fbport : Sparse DWord
  fbrate : Sparse (BitVec 16)
  imports : Sparse DWord
  fstrand : Sparse DWord
  outs : Sparse OutFlow
  ins : Sparse InFlow
  /-- requests of engines that wait for their flow or for tokens, oldest first (R396, R402) -/
  pending : List EngReq
  /-- tokens of context x at port p, at 24 x + p (R402) -/
  buckets : Sparse Nat
  /-- packets that wait at a port for tokens: the flow, and context and port in the same numbers -/
  waiting : List (Nat × Nat)
  /-- requests of which some packets have left: flow, request, how many (R391, R402) -/
  partly : List (Nat × FabricReq × Nat)
  /-- consecutive failed replays of a port's link (R395) -/
  replays : Sparse Nat
  lines : List RemoteLine
  epoch : Nat
  /-- how many requests have left and answers arrived: the model's own count, by which the ages of lines compare (R27) -/
  count : Nat
  streams : List Stream
  /-- values of a cross-device round: strand, device, value (R403) -/
  rounds : List (Nat × Nat × StrandVal)
  /-- strands and devices that contribute nothing until the entry is rewritten (R404) -/
  departed : List (Nat × Nat)
  /-- values that went up to the parent device and whose round's result has not come down: strand, value (R403) -/
  strandUps : List (Nat × StrandVal)
  deriving DecidableEq, Repr

/-! ## Host attach, Hallmark and the package -/

/-- A virtual function (Tables 15.2 and 15.3). -/
structure Func where
  bind : DWord
  tail : Nat
  head : Nat
  ovf : Bool
  rst : Bool
  slots : Mem
  /-- the VFBIND value that takes effect when the reset ends (R413) -/
  next : Option DWord
  /-- STOP_INTERFACE requested the reset (R418) -/
  stop : Bool
  /-- the reset has ended the context's actors (R382 step 2) -/
  ended : Bool
  /-- the host has enabled MSI-X vector 0 (R416) -/
  msix : Bool
  deriving DecidableEq, Repr

/-- A request to host memory that a core, or its copy engine, awaits (R417). -/
structure HostReq where
  core : CoreId
  copy : Bool
  func : Nat
  tee : Bool
  ha : Nat
  n : Nat
  /-- its number -/
  tag : Nat
  /-- an actor engine awaits it: the context and the address it reads -/
  piece : Option (Nat × Nat)
  deriving DecidableEq, Repr

/-- Hallmark's answer to an SPDM request (R420 to R422): bytes that the SPDM standard fixes, and what this device
supplies: certificates and their digests, a measurement register, and signatures. -/
inductive SpdmResp where
  | version (bytes : List Byte)
  | capabilities (bytes : List Byte)
  | algorithms (bytes : List Byte)
  | digests (bytes : List (List Byte))
  | certificate (slot : Nat) (chain : List Byte)
  | challengeAuth (slot : Nat) (body signature : List Byte)
  | measurements (idx : Nat) (value body signature : List Byte)
  | keyExchangeRsp (body signature : List Byte)
  | finishRsp (bytes : List Byte)
  | endSessionAck
  | unsupported
  deriving DecidableEq, Repr

/-- Something that has left the device for a host, oldest first. -/
inductive HostOut where
  | write (func : Nat) (tee : Bool) (ha : Nat) (bytes : List Byte)
  | irq (func : Nat)
  /-- a register of a function's BAR that its host reads (R414) -/
  | bar (func off : Nat) (value : DWord)
  /-- what the management interface reads of the boot flash, and of the thermal trip and recovery (R430) -/
  | flash (bytes : List Byte)
  | status (tripped recovery : Bool)
  | resetDone (func : Nat)
  | report (bytes : List Byte)
  | spdm (p : SpdmPort) (r : SpdmResp)
  deriving DecidableEq, Repr

/-- The hub's host, boot, Hallmark and package state (Tables 15.2 to 15.8). -/
structure Hub where
  boot : Bool
  bfail : Bool
  bended : Bool
  recovery : Bool
  dierpt : Sparse (BitVec 48)
  diebase : Sparse (BitVec 14)
  meas : Sparse (List Byte)
  sessions : Nat
  funcs : Sparse Func
  hostReqs : List HostReq
  out : List HostOut
  /-- host of logical device l, plus 1 (R411) -/
  ldHost : Sparse Nat
  powered : Bool
  /-- clock scale in sixteenths (R427) -/
  scale : Nat
  tripped : Bool
  /-- the CXL link is enabled (R424 step 7) -/
  link : Bool
  /-- certificate slot 1, once it is written (R420) -/
  ownerCert : Option (List Byte)
  /-- the boot flash on the management interface (R430) -/
  flash : Mem
  deriving DecidableEq, Repr

/-! ## Translation cores and the context engine -/

/-- A translation core's miss queue and latch (R332, R334). -/
structure TransQ where
  queue : List Miss
  taken : List Miss
  missa : DWord
  deriving DecidableEq, Repr

/-- A started TLBINV (R344): its issuing core, context and page, and what it waits for. -/
structure Inval where
  core : CoreId
  ctx : Nat
  page : Option (Nat × PageSize)
  /-- walks under way when it started -/
  walks : List Miss
  deriving DecidableEq, Repr

/-- A change of word 1 in progress (R380): the word before it, the issuer, and how many actors it has ended. -/
structure Resizing where
  ctx : Nat
  /-- word 1 as it was -/
  word : DWord
  who : Issuer
  died : Nat
  /-- the added cores have passed from the parent, scrubbed (R380 step 2) -/
  grown : Bool
  deriving DecidableEq, Repr

/-- Bytes that an actor engine reads of a page of another device or a host (R392, R417): the context, the address and how many; on
their way, or the answer: the bytes, or the reason of a failure. -/
structure EngPiece where
  ctx : Nat
  va : Nat
  n : Nat
  answer : Option (List Byte × Nat)
  deriving DecidableEq, Repr

/-- The context engine and what the hub keeps for translation (R347, R353 to R380). -/
structure Ctxs where
  /-- the 32 words of each context's CCB (Table 13.2); a free number has none -/
  ccb : Sparse (List DWord)
  /-- numbers reserved at issue of CTXNEW (R362) -/
  reserved : List Nat
  /-- order of creation, oldest first (R371) -/
  created : List Nat
  prq : List PageReq
  wants : List PageWant
  /-- pages denied to the actor engine's own reads (R349): handling context and page -/
  engDenied : List (Nat × Nat)
  /-- what the actor engine reads of pages of other devices and hosts -/
  engGot : List EngPiece
  traps : List TrapMsg
  revoking : List Revoke
  resizing : List Resizing
  /-- errors charged to contexts and not yet acted on (R367) -/
  failed : List Nat
  /-- resets of functions requested and not yet run (R382) -/
  resets : List Nat
  /-- SIGNAL.msg and CAPCALL entries of context x in cluster c's window, at 4096 c + x (R359) -/
  msgs : Sparse Nat
  /-- TAIL and HEAD of ring i of service core p, or of the root monitor as 24, at 3 p + i (Table 13.3) -/
  rings : Sparse (Nat × Nat)
  epoch : Word
  invals : List Inval
  /-- started TLBINVs with the EPOCH each set (R343) -/
  invLog : List (Nat × Inval)
  trans : Sparse TransQ
  deriving DecidableEq, Repr

/-- The actor, restart and job engines (R269 to R326). -/
structure Actors where
  /-- index i of context x at 2^24 x + i -/
  tab : Sparse ActorRec
  supers : Sparse SuperRec
  jobs : List Job
  deaths : List DeathEvent
  restarts : List Restart
  mail : List Mail
  capcalls : List Capcall
  forwards : List Forward
  deriving DecidableEq, Repr

/-- A DISCOVER packet under way (R146): the router it reaches, the port it arrives by, the sender's coordinates and
the acknowledgement table. -/
structure Discover where
  pos : Nat
  frm : Option (Nat × BitVec 5 × BitVec 5)
  arg : Nat
  deriving DecidableEq, Repr

/-- A strand round at a node (R132): contributions by port (0 N, 1 E, 2 S, 3 W, 4 local, 5 base; a base node's
children are numbered by die). -/
structure Round where
  node : StrandNode
  k : Nat
  /-- the context whose strand it is: contexts that share the node by slices may use one number (R371) -/
  ctx : Nat
  got : List (Nat × StrandVal)
  deriving DecidableEq, Repr

/-- The mesh and base tier beyond the routers' own registers (R118 to R135, R145, R146, R435). -/
structure Mesh where
  /-- positions fused off at manufacture (R17, R431) -/
  fused : List Nat
  /-- entry k of die d's base-tier node at 16 d + k (Table 04.5a) -/
  base : Sparse DWord
  rounds : List Round
  discovers : List Discover
  /-- acknowledgements of a die: die, address, status word -/
  acks : List (Nat × Nat × DWord)
  /-- ASSIGN headers on their way -/
  assigns : List DWord
  deriving DecidableEq, Repr

/-- What a line of device memory held before a store reached its port (R29): the bytes known, the ordering points whose
plain loads may still return them, and the version's number. The model's own record, no state of the spec. -/
structure OldLine where
  line : Nat
  bytes : List (Option Byte)
  dies : List Nat
  seq : Nat
  deriving DecidableEq, Repr

/-- Bytes of one line that an engine writes for a context, and that its die's ordering point has not yet accepted (R36,
R432). -/
structure LateWrite where
  ctx : Nat
  va : Nat
  bytes : List Byte
  deriving DecidableEq, Repr

/-- Base tier memory (R14, R22, R239, R255, R260). -/
structure Ram where
  /-- stored bytes of HBM by device physical address -/
  bytes : Mem
  /-- metadata code of each block (Table 09.6) -/
  codes : Sparse (BitVec 4)
  /-- poison marks of the blocks -/
  marks : Sparse Bool
  ports : Sparse Port
  /-- operations waiting at each die's ordering point, oldest first (R28, R432) -/
  order : Sparse (List PortOp)
  invs : List InvLine
  /-- earlier versions of lines that plain loads may still return, and the number of the next -/
  old : List OldLine
  oldNext : Nat
  /-- engine writes that wait to enter each die's ordering point, oldest first (R432) -/
  late : Sparse (List LateWrite)
  deriving DecidableEq, Repr

/-- The state of the device. -/
structure State where
  /-- the core that executes -/
  focus : CoreId
  core : Core
  /-- every other core, by key; an unlisted one is as after reset -/
  others : Sparse Core
  /-- events that the outside has raised and the device has not taken, oldest first -/
  inputs : List Instr
  /-- the model's own counter for free values (no state of the spec) -/
  tick : Nat
  mesh : Mesh
  bezels : Sparse Bezel
  ram : Ram
  ctxs : Ctxs
  acts : Actors
  fab : Fabric
  hub : Hub
  deriving DecidableEq, Repr

/-! ## How a step can stop -/

/-- Faults: the machine stops. -/
inductive Fault where
  /-- Raised by every step after POWER_REMOVAL (R426): no rail feeds the device and the spec gives it no further
  behaviour. Safe. -/
  | powerOff
  deriving DecidableEq, Repr

/-- Refusals: no meaning is given. -/
inductive Refusal where
  /-- Raised by an arm of `exec` whose instruction has no meaning yet. Safe. -/
  | notModelled (mnemonic : String)
  deriving DecidableEq, Repr

/-! ## Reset -/

/-- Register files after reset: zero, RM 0b001 (Table 03.4). -/
def Regs.reset : Regs where
  s := Vector.replicate 32 0
  v := Vector.replicate 32 0
  p := Vector.replicate 8 0
  q4 := List.replicate 16 0
  rm := .rne
  flags := 0

/-- TSW after reset (Table 03.3). -/
def Tsw.reset : Tsw := ⟨0, false, 0, 0, false, false, false, false⟩

/-- Trap registers after reset (Tables 03.4, 03.5). -/
def TrapRegs.reset : TrapRegs := ⟨0, 0, 0, 0, 0⟩

/-- The record of no region: REGENT and LIVEIN zero (Tables 03.4, 03.5). -/
def Record.reset : Record := ⟨0, 0, 0, Regs.reset, Tsw.reset, TrapRegs.reset⟩

/-- Strand 0 of a router at reset: the boot tree of R129, as the entry of Table 04.5. -/
def bootTree (fused : Bool) (x y : Nat) : DWord :=
  let up := if 0 < y then 0 else if 0 < x then 3 else 4
  let ch := (if y < 31 then 4 else 0) + (if y = 0 ∧ x < 31 then 2 else 0) + (if fused then 0 else 16)
  BitVec.ofNat 64 (2 ^ 31 + 2 ^ 25 + 2 ^ 22 * up + 2 ^ 16 * ch)

/-- BZMAP at reset for octet position q (R205): weight 1, two tiles and two banks. -/
def bzmapReset (q : Nat) : DWord :=
  let m := 3 * 4 ^ q
  BitVec.ofNat 64 (2 ^ 48 + 2 ^ 32 * m + 2 ^ 16 * m + m)

/-- The octet position of a work core (R15). -/
def octetPos (pos : Nat) : Nat := 4 * (pos % 1024 / 32 % 2) + pos % 32 % 4

/-- A core after reset. Router registers and the reset values of the boot tree and BZMAP follow from the position
of a work core; privilege is the fixed one of a service, translation or root monitor core (R333, R360). A service core is stopped
until the root monitor starts it by SCRUN (log entry 125). -/
def Core.reset (fused : List Nat) (id : CoreId) : Core where
  run := match id with
    | .service _ => .stopped
    | _ => .idle
  pc := 0
  regs := Regs.reset
  tsw := { Tsw.reset with priv := match id with
    | .work _ => 0
    | .transl _ => 3
    | .service _ => 2
    | .root => 3 }
  traps := TrapRegs.reset
  xbound := 0
  ovh := 0
  cyc := 0
  selfn := 0
  slotReg := 0
  region := Record.reset
  taken := 0
  wait := none
  rep := none
  mem := []
  tags := []
  beads := []
  openB := []
  committed := []
  slots := []
  pointer := 63
  wins := Vector.replicate 8 0
  strands := match id with
    | .work p => (Vector.replicate 16 0).set 0 (bootTree (fused.contains p) (p % 32) (p % 1024 / 32))
    | _ => Vector.replicate 16 0
  router := ⟨false, 0, 0, false, 0, 0, []⟩
  bsum := 0
  recvq := []
  nredWaits := []
  strandIn := []
  mcastIn := []
  transferQ := []
  tileQ := []
  bzSeq := 0
  tileTypes := Vector.replicate 16 false
  bzmap := match id with
    | .work p => bzmapReset (octetPos p)
    | _ => 0
  tlb := []
  latched := []
  noted := []
  got := []
  heldAt := 0
  missId := 0
  podEpoch := 0
  sealed := 0
  since := 0
  seen := []
  met := []
  ctx := 0
  rotation := []
  phase := .running
  saves := []

/-- A port after reset: MEN 1, MTHR 0x0400 (Table 09.10). -/
def Port.reset : Port := ⟨[], [], [], 0x10400, 0⟩

/-- A tile after reset (R204). -/
def Tile.reset : Tile := ⟨[], false, 0, [], []⟩

/-- A bank after reset (R203). -/
def Bank.reset : Bank := ⟨[], .bf16⟩

/-- A Bezel after reset (R203 to R210). -/
def Bezel.reset : Bezel := ⟨[], [], Vector.replicate 8 [], ⟨Vector.replicate 8 0, 7, [], false, 0⟩, 0, 0⟩

/-- The CCB of context 0 (Table 13.2a), with the functional count of the device. -/
def ccbRoot (functional : Nat) : List DWord :=
  [BitVec.ofNat 64 (2 ^ 32), BitVec.ofNat 64 (2 ^ 36 * functional), 0, BitVec.ofNat 64 (2 ^ 48), 0, 0, 0, 0, 0, 0,
   1048575, 65535, BitVec.ofNat 64 (2 ^ 16 * 1023 + 1023), 15, 256,
   BitVec.ofNat 64 (2 ^ 32 * 0xFFFFFFFF + 8192), BitVec.ofNat 64 (2 ^ 8 * 3 + 4)] ++ List.replicate 15 0

/-- The device right after reset: boot mode, nothing started, memory unlisted. The root monitor core and the hub
sequencer have not yet acted (Table 15.7); programs are loaded from outside. -/
def State.reset : State where
  focus := .work 0
  core := Core.reset [] (.work 0)
  others := []
  inputs := []
  tick := 0
  mesh := ⟨[], [], [], [], [], []⟩
  bezels := []
  ram := ⟨[], [], [], [], [], [], [], 0, []⟩
  ctxs := {
    ccb := [(0, ccbRoot 9216)], reserved := [], created := [], prq := [], wants := [], engDenied := [], engGot := [], traps := [], revoking := [],
    resizing := [], failed := [], resets := [], msgs := [], rings := [], epoch := 0, invals := [], invLog := [],
    trans := [] }
  acts := ⟨[], [], [], [], [], [], [], []⟩
  fab := {
    fbcfg := 0xFFFFFF, fbe2e := 0x8020000, fbdom := [], fbport := [], fbrate := [], imports := [], fstrand := [],
    outs := [], ins := [], pending := [], buckets := [], waiting := [], partly := [], replays := [], lines := [], epoch := 0, count := 0, streams := [], rounds := [], departed := [],
    strandUps := [] }
  hub := {
    boot := true, bfail := false, bended := false, recovery := false, dierpt := [], diebase := [], meas := [],
    sessions := 0, funcs := [], hostReqs := [], out := [], ldHost := [], powered := true, scale := 16,
    tripped := false, link := false, ownerCert := none, flash := [] }

end Sys2Proof.Machine
end

