-- ==== Sys2Proof/Machine/Ops.lean ====
section
/-!
DEFINITION. The named operations over a core's registers, scratchpad, tags, beads, store buffer and slots, and over
the fields of contexts and actors that the cores use; taking an exception (fatal outcomes R72, R100, R116, R385, R434;
recoverable traps R110; the overlay trap R87) and the return from one (R111); commit (R96), abort (R97) and closing
(R98).
-/

namespace Sys2Proof

/-! ## Numbers of cores and actors -/

/-- The number under which a core is kept. -/
def CoreId.key : CoreId → Nat
  | .work p => p
  | .transl c => 10000 + c
  | .service p => 20000 + p
  | .root => 30000

/-- The core of a key. -/
def CoreId.ofKey (k : Nat) : CoreId :=
  if k < 10000 then .work k else if k < 20000 then .transl (k - 10000)
  else if k < 30000 then .service (k - 20000) else .root

/-- The ordering point of a core: its die's, or the hub's interface, numbered 9 (R432). -/
def CoreId.die : CoreId → Nat
  | .work p => p / 1024
  | .transl c => c / 16
  | .service _ => 9
  | .root => 9

/-- Does code on the core run regions? The cores of the hub and translation cores commit each entry at issue (R360,
R344). -/
def CoreId.regions : CoreId → Bool
  | .work _ => true
  | _ => false

/-- The number under which an actor's record is kept. -/
def ActorId.key (x : ActorId) : Nat := 2 ^ 36 * (x.idx / 2 ^ 24) + 2 ^ 24 * x.ctx + x.idx % 2 ^ 24
/-- The actor of a number. -/
def ActorId.ofKey (k : Nat) : ActorId := ⟨k % 2 ^ 36 / 2 ^ 24, 2 ^ 24 * (k / 2 ^ 36) + k % 2 ^ 24⟩
/-- Is an actor of this device's own tables? One of another device's has 2²⁴ × (HDEV + 1) added to its index. -/
def ActorId.own (x : ActorId) : Bool := decide (x.idx < 2 ^ 24)
end Sys2Proof

namespace Sys2Proof.Machine

/-- The outcome of an instruction or event. -/
abbrev Res := Host.Outcome State Fault Refusal

/-! ## Cores -/

/-- The state of a core. -/
def State.coreAt (s : State) (id : CoreId) : Core :=
  if id = s.focus then s.core else Sparse.get (Core.reset s.mesh.fused id) s.others id.key

/-- Replace the state of a core. -/
def State.setCore (s : State) (id : CoreId) (c : Core) : State :=
  if id = s.focus then { s with core := c } else { s with others := Sparse.put s.others id.key c }

/-- Change the state of a core. -/
def State.modCore (s : State) (id : CoreId) (f : Core → Core) : State := s.setCore id (f (s.coreAt id))

/-- Make another core the one that executes. -/
def State.refocus (s : State) (id : CoreId) : State :=
  if id = s.focus then s
  else { s with
    focus := id
    core := s.coreAt id
    others := Sparse.put (Sparse.del s.others id.key) s.focus.key s.core }

/-- Give the focus back after an event of another core. -/
def Res.refocused (r : Res) (id : CoreId) : Res :=
  match r with
  | .next t => .next (t.refocus id)
  | r => r

/-- Change the core that executes. -/
def State.onCore (s : State) (f : Core → Core) : State := { s with core := f s.core }

/-- Change the mesh. -/
def State.onMesh (s : State) (f : Mesh → Mesh) : State := { s with mesh := f s.mesh }
/-- Change base-tier memory. -/
def State.onRam (s : State) (f : Ram → Ram) : State := { s with ram := f s.ram }
/-- Change the context engine. -/
def State.onCtxs (s : State) (f : Ctxs → Ctxs) : State := { s with ctxs := f s.ctxs }
/-- Change the actor engines. -/
def State.onActs (s : State) (f : Actors → Actors) : State := { s with acts := f s.acts }
/-- Change the fabric interface. -/
def State.onFab (s : State) (f : Fabric → Fabric) : State := { s with fab := f s.fab }
/-- Change the hub. -/
def State.onHub (s : State) (f : Hub → Hub) : State := { s with hub := f s.hub }

/-- Change every core that the state lists. -/
def State.mapCores (s : State) (f : CoreId → Core → Core) : State :=
  { s with core := f s.focus s.core, others := s.others.map fun e => (e.1, f (CoreId.ofKey e.1) e.2) }

/-- Every core the state lists. -/
def State.cores (s : State) : List CoreId := s.focus :: s.others.map fun e => CoreId.ofKey e.1

/-- Every work core the state lists, with its position. -/
def State.workCores (s : State) : List (CoreId × Nat) :=
  s.cores.filterMap fun id => match id with
    | .work p => some (id, p)
    | _ => none

/-- The die of a position (R14). -/
def posDie (p : Nat) : Nat := p / 1024
/-- The column of a position (R14). -/
def posX (p : Nat) : Nat := p % 32
/-- The row of a position (R14). -/
def posY (p : Nat) : Nat := p % 1024 / 32
/-- The octet of a position: 128 × die + number on the die (R15). -/
def posOctet (p : Nat) : Nat := 128 * posDie p + 8 * (posY p / 2) + posX p / 4
/-- The cluster of a position: 16 × die + number on the die (R16). -/
def posCluster (p : Nat) : Nat := 16 * posDie p + 4 * (posY p / 8) + posX p / 8

/-- Does a work core exist for software (R17)? -/
def State.functional (s : State) (id : CoreId) : Bool :=
  match id with
  | .work p => decide (p < 9216) && !s.mesh.fused.contains p
  | .transl c => decide (c < 144)
  | .service p => decide (p < 24)
  | .root => true

/-- The logical core index of a core (R122). -/
def State.lciOf (s : State) (id : CoreId) : Nat := (s.coreAt id).router.lci.toNat

/-- The core of a logical index (R122): assigned, and boot mode ended. -/
def State.coreOfLci (s : State) (n : Nat) : Option CoreId :=
  if s.hub.boot then none
  else s.cores.find? fun id => match id with
    | .work p => !s.mesh.fused.contains p && (s.coreAt id).router.val && (s.coreAt id).router.lci.toNat == n
    | _ => false

/-- The device's functional count: the cores that have a local index (R124). -/
def State.functionalCount (s : State) : Nat :=
  (s.workCores.filter fun e => !s.mesh.fused.contains e.2 && (s.coreAt e.1).router.val).length

/-! ## Registers -/

/-- s[r]; s0 reads zero (R66). -/
def Regs.getS (g : Regs) (r : SReg) : DWord := if r = 0 then 0 else g.s[r.toNat]'r.isLt
/-- s[r] := x; a write to s0 is discarded (R66). -/
def Regs.setS (g : Regs) (r : SReg) (x : DWord) : Regs :=
  if r = 0 then g else { g with s := g.s.set r.toNat x r.isLt }
/-- v[r]. -/
def Regs.getV (g : Regs) (r : VReg) : VWord := g.v[r.toNat]'r.isLt
/-- v[r] := x. -/
def Regs.setV (g : Regs) (r : VReg) (x : VWord) : Regs := { g with v := g.v.set r.toNat x r.isLt }
/-- p[r]; p0 reads all-true (R66). -/
def Regs.getP (g : Regs) (r : PReg) : PWord := if r = 0 then BitVec.allOnes 128 else g.p[r.toNat]'r.isLt
/-- p[r] := x; a write to p0 is discarded (R66). -/
def Regs.setP (g : Regs) (r : PReg) (x : PWord) : Regs :=
  if r = 0 then g else { g with p := g.p.set r.toNat x r.isLt }

/-- s[r] of the executing core. -/
def State.rs (s : State) (r : SReg) : DWord := s.core.regs.getS r
/-- s[r] := x on the executing core. -/
def State.ws (s : State) (r : SReg) (x : DWord) : State := s.onCore fun c => { c with regs := c.regs.setS r x }
/-- v[r] of the executing core. -/
def State.rv (s : State) (r : VReg) : VWord := s.core.regs.getV r
/-- v[r] := x on the executing core. -/
def State.wv (s : State) (r : VReg) (x : VWord) : State := s.onCore fun c => { c with regs := c.regs.setV r x }
/-- p[r] of the executing core. -/
def State.rp (s : State) (r : PReg) : PWord := s.core.regs.getP r
/-- p[r] := x on the executing core. -/
def State.wp (s : State) (r : PReg) (x : PWord) : State := s.onCore fun c => { c with regs := c.regs.setP r x }
/-- Set sticky flags (R51). -/
def State.orFlags (s : State) (f : FlagSet) : State :=
  s.onCore fun c => { c with regs := { c.regs with flags := c.regs.flags ||| f } }
/-- PC := a. -/
def State.setPc (s : State) (a : LAddr) : State := s.onCore fun c => { c with pc := a }
/-- Continue n bytes further (R60). -/
def State.adv (s : State) (n : Nat) : State := s.setPc (s.core.pc + BitVec.ofNat 18 n)
/-- Complete an instruction of n bytes. -/
def State.done (s : State) (n : Nat) : Res := .next (s.adv n)
/-- TSW.PRIV of the executing core. -/
def State.priv (s : State) : Nat := s.core.tsw.priv.toNat

/-! ## Byte memories -/

/-- n bytes from address a. -/
def memRead (m : Mem) (a : Nat) : Nat → List Byte
  | 0 => []
  | n + 1 => Sparse.get 0 m a :: memRead m (a + 1) n

/-- Write bytes from address a. -/
def memWrite (m : Mem) (a : Nat) : List Byte → Mem
  | [] => m
  | b :: bs => memWrite (Sparse.set 0 m a b) (a + 1) bs

/-- n scratchpad bytes from a local address, wrapping modulo 2¹⁸ (R21). -/
def padRead (m : Mem) (a : Nat) : Nat → List Byte
  | 0 => []
  | n + 1 => Sparse.get 0 m (a % 2 ^ 18) :: padRead m (a + 1) n

/-- Write scratchpad bytes from a local address, wrapping modulo 2¹⁸ (R21). -/
def padWrite (m : Mem) (a : Nat) : List Byte → Mem
  | [] => m
  | b :: bs => padWrite (Sparse.set 0 m (a % 2 ^ 18) b) (a + 1) bs

/-- Local(la, n) of a core. -/
def Core.load (c : Core) (a n : Nat) : List Byte := padRead c.mem a n
/-- Local(la, n) := bytes. -/
def Core.store (c : Core) (a : Nat) (bs : List Byte) : Core := { c with mem := padWrite c.mem a bs }
/-- Local(la, 8). -/
def Core.load8 (c : Core) (a : Nat) : DWord := dwOf (c.load a 8)
/-- Tag(la): the tag of the 64-bit word that holds la (R86). -/
def Core.tag (c : Core) (a : Nat) : Bool := Sparse.get false c.tags (a % 2 ^ 18 / 8)
/-- Tag(la) := b. -/
def Core.setTag (c : Core) (a : Nat) (b : Bool) : Core := { c with tags := Sparse.set false c.tags (a % 2 ^ 18 / 8) b }
/-- Set the tags of n consecutive words. -/
def Core.setTags (c : Core) (a : Nat) (b : Bool) : Nat → Core
  | 0 => c
  | n + 1 => (c.setTag a b).setTags (a + 8) b n

/-! ## Beads (R84, R85) -/

/-- The state of bead k. -/
def Core.bead (c : Core) (k : Nat) : Bead :=
  if 512 * k < c.xbound.toNat then .code else Sparse.get .free c.beads k
/-- Set the state of bead k. -/
def Core.setBead (c : Core) (k : Nat) (b : Bead) : Core := { c with beads := Sparse.set .free c.beads k b }
/-- The beads that n bytes from a touch. -/
def beadsOf (a n : Nat) : List Nat :=
  if n = 0 then [] else (List.range ((a % 512 + n + 511) / 512)).map fun i => (a / 512 + i) % 512
/-- Is a bead in transit? -/
def Bead.inTransit : Bead → Bool
  | .transit _ => true
  | _ => false
/-- The slot of the running firing. -/
def Core.slot? (c : Core) : Option Nat :=
  match c.run with
  | .firing n => some n
  | _ => none
/-- May the running code reach the bytes (R85)? -/
def Core.mayReach (c : Core) (a n : Nat) : Bool :=
  (beadsOf a n).all fun k =>
    if c.tsw.priv = 0 then
      match c.slot? with
      | some sl => decide (c.bead k = .owned sl)
      | none => false
    else !(c.bead k).inTransit
/-- `mayReach` of the executing core. -/
def State.mayReach (s : State) (a n : Nat) : Bool := s.core.mayReach a n

/-! ## Slots and actors -/

/-- An empty slot. -/
def Slot.none : Slot := ⟨.empty, Option.none, Option.none⟩
/-- Slot n of a core. -/
def Core.slotAt (c : Core) (n : Nat) : Slot := Sparse.get Slot.none c.slots n
/-- Set slot n. -/
def Core.setSlot (c : Core) (n : Nat) (x : Slot) : Core := { c with slots := Sparse.set Slot.none c.slots n x }
/-- The actor of the running firing. -/
def Core.actor? (c : Core) : Option ActorId := c.slot?.bind fun n => (c.slotAt n).actor

/-- An input port not configured. -/
def IPort.none : IPort := ⟨false, 0, 0, 0, 0, 0, 0, 0, 0, false, [], [], []⟩
/-- An output port not bound. -/
def OPort.none : OPort := ⟨false, 0, 0, 0, 0, 0⟩
/-- A disarmed timer. -/
def Timer.none : Timer := ⟨0, 0, false, false⟩

/-- An index that no incarnation has held. -/
def ActorRec.free : ActorRec where
  st := .free
  gen := 0
  xreason := 0
  nstate := 0
  q4d := false
  tre := false
  sge := false
  tx := false
  core := .work 0
  slot := 0
  dev := 0
  place := 0
  param := 0
  entryT := 0
  entryS := 0
  entryD := 0
  image := 0
  stinit := 0
  super := 0
  ins := Vector.replicate 4 IPort.none
  outs := Vector.replicate 4 OPort.none
  q4 := List.replicate 16 0
  timers := Vector.replicate 2 Timer.none
  mbase := 0
  mcount := 0
  mhead := 0
  mrsv := 0
  mscopes := []
  firings := 0
  stbase := 0
  links := []
  linkMem := []
  linkRsv := 0
  death := Option.none
  quiet := false
  mig := Option.none
  job := Option.none

/-- The record of an actor. -/
def State.actor (s : State) (x : ActorId) : ActorRec := Sparse.get ActorRec.free s.acts.tab x.key
/-- Is an actor in its slot: not while its context's state lies in a save area (R377)? -/
def State.inSlot (s : State) (x : ActorId) : Bool :=
  decide (((s.coreAt (s.actor x).core).slotAt (s.actor x).slot).actor = some x)
/-- Replace the record of an actor. -/
def State.setActor (s : State) (x : ActorId) (r : ActorRec) : State :=
  { s with acts := { s.acts with tab := Sparse.put s.acts.tab x.key r } }
/-- Change the record of an actor. -/
def State.modActor (s : State) (x : ActorId) (f : ActorRec → ActorRec) : State := s.setActor x (f (s.actor x))

/-- This device's number, FBCFG.DEVNUM (R390). -/
def State.thisDev (s : State) : Nat := bitsAt 24 6 s.fab.fbcfg
/-- A name (R269). -/
def mkName (dev ctx idx gen : Nat) : DWord := dw (2 ^ 52 * dev + 2 ^ 40 * ctx + 2 ^ 16 * idx + gen)
/-- HDEV of a name. -/
def nameDev (n : DWord) : Nat := bitsAt 52 12 n
/-- CTX and IDX of a name. -/
def nameId (n : DWord) : ActorId := ⟨bitsAt 40 12 n, bitsAt 16 24 n⟩
/-- GEN of a name. -/
def nameGen (n : DWord) : Nat := bitsAt 0 16 n
/-- The actor that a name means, whatever its generation (R269). -/
def State.idOf (s : State) (n : DWord) : ActorId :=
  if nameDev n = s.thisDev then nameId n else ⟨bitsAt 40 12 n, 2 ^ 24 * (nameDev n + 1) + bitsAt 16 24 n⟩
/-- The name of an actor with a generation (R269). -/
def State.nameWith (s : State) (x : ActorId) (gen : Nat) : DWord :=
  if x.own then mkName s.thisDev x.ctx x.idx gen else mkName (x.idx / 2 ^ 24 - 1) x.ctx (x.idx % 2 ^ 24) gen
/-- The name of an actor with its current generation. -/
def State.nameOf (s : State) (x : ActorId) : DWord := s.nameWith x (s.actor x).gen
/-- The generation that follows (R269). -/
def nextGen (g : Nat) : Nat := if g = 65535 then 1 else g + 1

/-- The issuer of an operation on a core. -/
def State.issuerOn (s : State) (id : CoreId) : Issuer :=
  let a := (s.coreAt id).actor?
  ⟨id, a, match a with
    | some x => (s.actor x).gen
    | none => 0⟩
/-- The issuer of the executing core. -/
def State.who (s : State) : Issuer := s.issuerOn s.focus
/-- Is the issuing incarnation still there and not dying? -/
def State.alive (s : State) (w : Issuer) : Option ActorId :=
  match w.actor with
  | some x => if (s.actor x).gen = w.gen && ((s.actor x).st == .resident || (s.actor x).st == .migrating)
      then some x else none
  | none => none

/-! ## Context control blocks (Table 13.2) -/

/-- Word i of the CCB of a context. -/
def State.ccbWord (s : State) (x i : Nat) : DWord := (Sparse.get [] s.ctxs.ccb x).getD i 0
/-- Replace word i of a CCB. -/
def State.setCcbWord (s : State) (x i : Nat) (v : DWord) : State :=
  match Sparse.get [] s.ctxs.ccb x with
  | [] => s
  | ws => { s with ctxs := { s.ctxs with ccb := Sparse.put s.ctxs.ccb x (ws.set i v) } }
/-- Change a field of a CCB word. -/
def State.setCcbField (s : State) (x i lo n v : Nat) : State := s.setCcbWord x i (setBits lo n v (s.ccbWord x i))
/-- STATE: 0 free, 1 live, 2 revoking, 3 resizing, 4 resetting. -/
def State.ctxState (s : State) (x : Nat) : Nat := bitsAt 32 4 (s.ccbWord x 0)
/-- Is a context number held by a context? -/
def State.ctxLive (s : State) (x : Nat) : Bool := s.ctxState x != 0
/-- PARENT. -/
def State.ctxParent (s : State) (x : Nat) : Nat := bitsAt 52 12 (s.ccbWord x 0)
/-- DEPTH. -/
def State.ctxDepth (s : State) (x : Nat) : Nat := bitsAt 48 4 (s.ccbWord x 0)
/-- PIDX. -/
def State.ctxPidx (s : State) (x : Nat) : Nat := bitsAt 24 5 (s.ccbWord x 0)
/-- CBASE. -/
def State.ctxCbase (s : State) (x : Nat) : Nat := bitsAt 50 14 (s.ccbWord x 1)
/-- CLEN. -/
def State.ctxClen (s : State) (x : Nat) : Nat := bitsAt 36 14 (s.ccbWord x 1)
/-- WBASE. -/
def State.ctxWbase (s : State) (x : Nat) : Nat := bitsAt 12 36 (s.ccbWord x 2) * 4096
/-- WLEN. -/
def State.ctxWlen (s : State) (x : Nat) : Nat := bitsAt 12 37 (s.ccbWord x 3) * 4096
/-- TROOT. -/
def State.ctxTroot (s : State) (x : Nat) : Nat := bitsAt 12 36 (s.ccbWord x 4) * 4096
/-- TFMT. -/
def State.ctxTfmt (s : State) (x : Nat) : Nat := bitsAt 0 4 (s.ccbWord x 4)
/-- ATBASE. -/
def State.ctxAtbase (s : State) (x : Nat) : Nat := bitsAt 13 35 (s.ccbWord x 5) * 8192
/-- ATLEN. -/
def State.ctxAtlen (s : State) (x : Nat) : Nat := bitsAt 0 24 (s.ccbWord x 6)
/-- H of word 16. -/
def State.ctxH (s : State) (x : Nat) : Bool := bitAt 10 (s.ccbWord x 16)
/-- CSAVE. -/
def State.ctxCsave (s : State) (x : Nat) : Nat := bitsAt 20 28 (s.ccbWord x 17) * 2 ^ 20
/-- PENT. -/
def State.ctxPent (s : State) (x : Nat) : Nat := bitsAt 0 18 (s.ccbWord x 18)
/-- SLICE. -/
def State.ctxSlice (s : State) (x : Nat) : Nat := bitsAt 32 32 (s.ccbWord x 15)
/-- DEBT. -/
def State.ctxDebt (s : State) (x : Nat) : Nat := bitsAt 0 32 (s.ccbWord x 23)

/-- A context and its ancestors up to its partition, itself first (R357). -/
def State.chainN (s : State) : Nat → Nat → List Nat
  | 0, _ => []
  | n + 1, x => if x = 0 ∨ !s.ctxLive x then [] else x :: s.chainN n (s.ctxParent x)
/-- The chain of a context; depth is at most 8 (R353). -/
def State.chain (s : State) (x : Nat) : List Nat := s.chainN 9 x
/-- The effective value of a CCB field: the least over the chain (R357). -/
def State.effective (s : State) (x i lo n : Nat) : Nat :=
  ((s.chain x).map fun y => bitsAt lo n (s.ccbWord y i)).foldl Nat.min (bitsAt lo n (s.ccbWord x i))
/-- Is y x or a descendant of x, and live? -/
def State.inSubtree (s : State) (x y : Nat) : Bool := s.ctxLive y && (decide (x = 0) || (s.chain y).contains x)
/-- The live contexts of a subtree. -/
def State.subtree (s : State) (x : Nat) : List Nat := (s.ctxs.ccb.map (·.1)).filter (s.inSubtree x)
/-- The partition of a context. -/
def State.partitionOf (s : State) (x : Nat) : Nat := if x = 0 then 0 else s.ctxPidx x + 1

/-- The context of the code that runs on a core (R354, R362). -/
def State.ctxOn (s : State) (id : CoreId) : Nat :=
  match id with
  | .work _ => (match (s.coreAt id).actor? with
    | some x => x.ctx
    | none => (s.coreAt id).ctx)
  | .service p => p + 1
  | .transl _ => 0
  | .root => 0
/-- The context of the code that executes. -/
def State.ctx (s : State) : Nat := s.ctxOn s.focus
/-- SCOPEMAX.CEIL: the effective scope ceiling of the running context (R357). -/
def State.ceiling (s : State) : Nat :=
  if s.ctxLive s.ctx then s.effective s.ctx 16 0 3 else 4
/-- The code of a scope as a number (Table 01.7). -/
def scopeNum (sc : Scope) : Nat := sc.code.toNat
/-- The scope of a number; numbers above 4 are SYSTEM. -/
def scopeOf : Nat → Scope
  | 0 => .core
  | 1 => .die
  | 2 => .device
  | 3 => .pod
  | _ => .system
/-- A scope reduced to the ceiling, and whether it was (R33). -/
def State.clamp (s : State) (sc : Scope) : Scope × Bool :=
  if s.ceiling < scopeNum sc then (scopeOf s.ceiling, true) else (sc, false)
/-- Set FLAGS.SC when a scope was reduced (R33). -/
def State.clamped (s : State) (b : Bool) : State := s.orFlags (flagIf b flagSC)

/-! ## Trap messages and death -/

/-- The context engine holds a trap message for a context (R364, Table 13.8). -/
def State.raiseTrap (s : State) (target code info : Nat) (taddr name : DWord) (lci : Nat) : State :=
  { s with ctxs := { s.ctxs with traps := s.ctxs.traps ++ [⟨target, code, info, taddr, name, lci, none⟩] } }

/-- The bytes a stopped copy command has already written: a free number of its 64-bit words (R166). -/
def stoppedWrites (tick : Nat) (la : Nat) (bs : List Byte) : List Byte :=
  let first := (8 - la % 8) % 8
  bs.take (min bs.length (first * (Config.freeChoice tick % 2) + 8 * (Config.freeChoice (tick + 1) % (bs.length / 8 + 1))))

/-- Return the beads of a SEND to their owner (R97, R164). -/
def Core.landBead (c : Core) (k : Nat) : Core :=
  match Sparse.get .free c.beads k with
  | .transit sl => { c with beads := Sparse.set .free c.beads k (.owned sl) }
  | _ => c

/-! ## Supervisor records (R304 to R306) -/

/-- A record never used. -/
def SuperRec.none : SuperRec := ⟨false, [], [], []⟩
/-- Word i of a record. -/
def SuperRec.word (r : SuperRec) (i : Nat) : DWord := Sparse.get 0 r.words i
/-- Replace word i. -/
def SuperRec.setWord (r : SuperRec) (i : Nat) (v : DWord) : SuperRec := { r with words := Sparse.set 0 r.words i v }
/-- Replace a field of word i. -/
def SuperRec.setField (r : SuperRec) (i lo n v : Nat) : SuperRec := r.setWord i (setBits lo n v (r.word i))
/-- The number of word i of child entry e (Table 11.1). -/
def childWord (e i : Nat) : Nat := 32 + 16 * e + i
/-- USED of entry e. -/
def SuperRec.used (r : SuperRec) (e : Nat) : Bool := bitAt 5 (r.word (childWord e 1))
/-- Set USED of entry e. -/
def SuperRec.setUsed (r : SuperRec) (e : Nat) (b : Bool) : SuperRec := r.setField (childWord e 1) 5 1 b.toNat
/-- Child entry e (Table 11.2). -/
def SuperRec.child (r : SuperRec) (e : Nat) : Child :=
  let w := r.word (childWord e 1)
  ⟨bitAt 5 w, bitAt 6 w, r.word (childWord e 0), bitsAt 32 32 w, bitsAt 16 8 w,
    dwordBytes ((List.range 16).map fun i => r.word (childWord e i))⟩
/-- The entries in use; one that is only reserved is none (Table 11.2). -/
def SuperRec.children (r : SuperRec) : List (Nat × Child) :=
  ((List.range 30).filter fun e => r.used e && !r.held.contains e).map fun e => (e, r.child e)
/-- Every child entry cleared. -/
def SuperRec.clearChildren (r : SuperRec) : SuperRec := { r with words := r.words.filter fun w => w.1 < 32 }
/-- A reservation of an entry ends unused. -/
def SuperRec.release (r : SuperRec) (e : Nat) : SuperRec :=
  let r1 := r.setUsed e false
  { r1 with held := r.held.filter (· != e) }
/-- The supervisor record of an actor. -/
def State.super (s : State) (x : ActorId) : SuperRec := Sparse.get SuperRec.none s.acts.supers x.key
/-- Replace a supervisor record. -/
def State.setSuper (s : State) (x : ActorId) (r : SuperRec) : State :=
  s.onActs fun a => { a with supers := Sparse.set SuperRec.none a.supers x.key r }
/-- Change a supervisor record. -/
def State.modSuper (s : State) (x : ActorId) (f : SuperRec → SuperRec) : State := s.setSuper x (f (s.super x))

/-- A request of an engine waits to leave (R396). -/
def State.enqueueReq (s : State) (src dev ctx : Nat) (w : OutWait) (r : FabricReq) : State :=
  s.onFab fun f => { f with pending := f.pending ++ [⟨src, dev, ctx, w, r⟩] }
/-- The source number of the flows on which the hub's engines send what is no core's (R391). -/
def engineFlow : Nat := 40000
/-- The device that issued the name of an actor (R269). -/
def State.homeOf (s : State) (x : ActorId) : Nat := if x.own then s.thisDev else x.idx / 2 ^ 24 - 1

/-- What an uncommitted actor or context operation reserved at issue is released (R274, R281, R362). -/
def State.releaseReserved (s : State) (w : Issuer) (k : EntryKind) : State :=
  let unlink (s : State) (n : Nat) : State :=
    match w.actor with
    | some x => s.modActor x fun r => { r with linkRsv := r.linkRsv - n }
    | none => s
  match k with
  | .actor (.spawn _ _ _ _ lk mn _ _ first count) =>
    let s1 := if lk || mn then unlink s count else s
    match w.actor with
    | some x => (List.range count).foldl (fun t i =>
        t.modActor ⟨x.ctx, first + i⟩ fun r => if r.st == .reserved then { r with st := .free } else r) s1
    | none => s1
  | .actor (.link _) => unlink s 1
  | .actor (.monitor _ _) => unlink s 1
  | .actor (.supcfg 1 e y _) =>
    (match w.actor with
    | some x =>
      if x.own then (s.modActor ⟨x.ctx, (nameId y).idx⟩ fun r =>
        if r.st == .reserved then { r with st := .free } else r).modSuper x fun r => r.release e.toNat
      else s.enqueueReq engineFlow (s.homeOf x) x.ctx .none (.supcfg (s.nameOf x) 6 e y [])
    | none => s)
  | .send ⟨.send _ k _ _ _ _, _, _, _, _, _, _, _⟩ =>
    (match w.actor with
    | some x => s.modActor x fun r =>
        if h : k < 4 then { r with outs := r.outs.set k { r.outs[k] with sent := r.outs[k].sent - 1 } h } else r
    | none => s)
  | .actor (.ctxnew n _ _) => { s with ctxs := { s.ctxs with reserved := s.ctxs.reserved.filter (· != n) } }
  | _ => s

/-- The bead a store-buffer entry holds in transit. -/
def EntryKind.sendBead : EntryKind → Option Nat
  | .send c => (match c.kind with
    | .send a _ _ _ _ _ => some (beadOf a)
    | _ => none)
  | _ => none

/-- An operation on its way no longer answers a core (R100). -/
def PortOp.disown (id : CoreId) (o : PortOp) : PortOp := if o.ack = .core id then { o with ack := .none } else o

/-- Nothing on its way answers a core's pipeline any more; what is on its way happens all the same (R100). -/
def State.disown (s : State) (id : CoreId) : State :=
  if (s.coreAt id).wait.isNone then s
  else
    { s with
      ram := { s.ram with
        order := s.ram.order.map fun e => (e.1, e.2.map (PortOp.disown id))
        ports := s.ram.ports.map fun e => (e.1, { e.2 with queue := e.2.queue.map fun q => (q.1, q.2.map (PortOp.disown id)) }) }
      hub := { s.hub with hostReqs := s.hub.hostReqs.filter fun r => !(decide (r.core = id) && !r.copy) } }

/-- R97 steps 1 to 4 and R100 on a core (a GL command has written the words it had come to, R166): the open region's entries, loads, copy commands and Bezel operations; the
taken receive-queue entries return to the queue (R137), and the repetition and any wait end (R109). -/
def State.discardRegion (s : State) (id : CoreId) : State :=
  let c := s.coreAt id
  let s1 := c.openB.foldl (fun t e => t.releaseReserved e.who e.kind) (s.disown id)
  let gone := c.transferQ.filter (·.openRegion)
  let c1 := (c.openB.filterMap (·.kind.sendBead)).foldl Core.landBead c
  let c2 := gone.foldl (fun c q => match q.started, q.kind with
    | true, .ll dst _ _ _ bs => c.store dst (stoppedWrites s.tick dst bs)
    | _, _ => c) c1
  let c3 := { c2 with
    openB := []
    taken := 0
    transferQ := c2.transferQ.filter fun q => !q.openRegion
    rep := none
    wait := none
    latched := []
    noted := []
    got := [] }
  let s2 := s1.setCore id c3
  match id with
  | .work p =>
    let b := Sparse.get Bezel.reset s2.bezels (posOctet p)
    let q := octetPos p
    let qs := if h : q < 8 then
        b.queues.set q ((b.queues[q]'h).filter fun o => !o.openRegion || o.started) h
      else b.queues
    { s2 with bezels := Sparse.set Bezel.reset s2.bezels (posOctet p) { b with queues := qs } }
  | _ => s2

/-- The number of a flow: its source and its destination device. -/
def flowKey (src : Nat) (dev : Nat) : Nat := 64 * src + dev

/-- Record the reply to a request of another device (R396): the last 64 are kept. -/
def State.reply (s : State) (dev flow seq : Nat) (e : FabricEnd) : State :=
  let k := flowKey flow dev
  let f := Sparse.get ⟨0, []⟩ s.fab.ins k
  let rs := f.replies ++ [(seq, e)]
  s.onFab fun b => { b with ins := Sparse.put b.ins k { f with replies := rs.drop (rs.length - 64) } }

/-- The command of a tile queue that waits at a port of an actor goes on (R153). -/
def grantFirst (x : ActorId) (p : Nat) (ph : TilePhase) : List TileCmd → List TileCmd
  | [] => []
  | c :: rest => if c.phase = .waiting x p then { c with phase := ph } :: rest else c :: grantFirst x p ph rest

/-- A request for a ring of an actor goes back: to its core, which asks again, and to another device with an answer. -/
def State.askAgain (s : State) (x : ActorId) (p : Nat) (a : PortAsk) (e : FabricEnd) : State :=
  match a with
  | .core c => s.modCore c fun k => { k with tileQ := grantFirst x p .asking k.tileQ }
  | .fabric d f q _ _ => s.reply d f q e
/-- The requests that wait at the ports of an actor, with their ports. -/
def ActorRec.asks (r : ActorRec) : List (Nat × PortAsk) :=
  (List.range 4).flatMap fun p => if h : p < 4 then (r.ins[p]'h).asks.map fun a => (p, a) else []
/-- No request waits at the ports any more. -/
def ActorRec.noAsks (r : ActorRec) : ActorRec := { r with ins := r.ins.map fun p => { p with asks := [] } }
/-- The requests that wait at the ports of an actor that is gone go back (R156). -/
def State.returnAsks (s : State) (x : ActorId) : State :=
  (s.actor x).asks.foldl (fun t a => t.askAgain x a.1 a.2 .gone) (s.modActor x ActorRec.noAsks)

/-- An index whose death leads to no restart becomes free, at once or when its slot is reclaimed. -/
def State.freeIndexOf (s : State) (x : ActorId) : State :=
  if (s.actor x).death.isSome then s.modActor x fun r => { r with quiet := true, st := .leaving }
  else (s.modActor x fun r => { r with st := .free }).returnAsks x

/-- Has a tile command a slot of an actor's ring? -/
def TilePhase.heldOf (x : ActorId) : TilePhase → Option Nat
  | .granted _ y p _ => if y = x then some p else none
  | _ => none
/-- The reservations that SENDs of this device hold in the rings of a dying actor end: they wait at its ports again, before
those that came later (R153, R290). -/
def State.takeBack (s : State) (x : ActorId) : State :=
  s.cores.foldl (fun t id =>
    ((t.coreAt id).tileQ.filterMap fun c => c.phase.heldOf x).foldl (fun u p =>
      (u.modCore id fun k => { k with tileQ := k.tileQ.map fun c =>
        if (c.phase.heldOf x == some p) then { c with phase := (.waiting x p) } else c }).modActor x fun r =>
        { r with ins := if h : p < 4 then r.ins.set p { r.ins[p] with asks := .core id :: r.ins[p].asks } h else r.ins }) t) s

/-- Remove a link-table entry. -/
def ActorRec.dropLink (r : ActorRec) (peer : DWord) (k : LinkKind) (tag : Option Word) : ActorRec :=
  { r with links := r.links.eraseP fun l => l.peer == peer && l.kind == k && (tag.all fun t => l.tag == t) }
/-- The device on which an actor is: the one its name was issued on, unless this device knows of another. -/
def State.deviceOf (s : State) (x : ActorId) : Nat :=
  let r := s.actor x
  if r.dev ≠ 0 then r.dev - 1
  else if r.st != .free then s.thisDev
  else s.homeOf x
/-- The watched-by entry that answers to a watching entry of an actor is removed (R290 step 2). -/
def State.unwatch (s : State) (x : ActorId) (l : LinkEntry) : State :=
  let y := s.idOf l.peer
  let me := s.nameOf x
  if s.deviceOf y ≠ s.thisDev then
    s.enqueueReq (s.actor x).core.key (s.deviceOf y) x.ctx .none (.unwatch l.peer me l.tag)
  else if (s.actor y).gen = nameGen l.peer then s.modActor y fun q => q.dropLink me .watchedBy (some l.tag)
  else s

/-- CA is cleared on the actor's ports (R154). -/
def ActorRec.clearCa (r : ActorRec) : ActorRec :=
  { r with ins := r.ins.map fun i => { i with ca := false, adv := 0 } }

/-- Steps 1 and 2 of the death of one actor (Table 10.4): its slot becomes LEAVING, its open region is discarded, reservations in
its rings end, its watched-by entries at others go, and the rest of the sequence follows as events. `quiet` says that the
death is absorbed. An actor on another device is ended there. -/
def State.killOne (s : State) (x : ActorId) (reason : Nat) (quiet : Bool) : State :=
  let r := s.actor x
  if !(r.st == .resident || r.st == .migrating) then s
  else if r.dev ≠ 0 then s.enqueueReq r.core.key (r.dev - 1) x.ctx .none (.kill (s.nameOf x) (s.nameOf x) reason)
  else
    let c := s.coreAt r.core
    let running := decide (c.run = .firing r.slot)
    let s1 := if running && s.inSlot x then s.discardRegion r.core else s
    let s2 := if s.inSlot x then s1.modCore r.core fun c =>
        { c.setSlot r.slot ⟨.leaving, some x, none⟩ with run := if running then .idle else c.run }
      else s1
    let s3 := ((s2.actor x).links.filter fun l => l.kind == .watching).foldl (fun t l => t.unwatch x l) (s2.takeBack x)
    s3.modActor x fun r =>
      let r1 := r.clearCa
      { r1 with
        ins := r1.ins.map fun p => { p with pend := [], rsv := 0 }
        links := r1.links.filter fun l => l.kind != .watching
        st := .leaving
        xreason := reason
        timers := Vector.replicate 2 Timer.none
        mrsv := 0
        death := some .signals
        quiet := quiet
        mig := none }

/-- Restarts that a supervisor still had to carry out, and deaths handed to it, are no more (R313, R316): the indices of those
deaths become free. -/
def State.dropEvents (s : State) (x : ActorId) : State :=
  let ds := s.acts.deaths.filter fun d => decide (d.super = x)
  let s1 := s.onActs fun a => { a with
    restarts := a.restarts.filter fun r => !decide (r.super = x)
    deaths := a.deaths.filter fun d => !decide (d.super = x) }
  ds.foldl (fun t d =>
    let y := t.idOf d.dead
    if (t.actor y).gen = nameGen d.dead ∧ (t.actor y).st = .leaving then t.freeIndexOf y else t) s1

/-- The step that R316 adds to the death of a supervisor: its resident children die, absorbed; those that wait for their restart become
free; every entry is cleared, and SUP. -/
def State.orphan (s : State) (x : ActorId) (die : State → ActorId → State) : State :=
  let kids := (s.super x).children.map fun e => (s.idOf e.2.name, e.2.name)
  let s1 := kids.foldl (fun t k =>
    let r := t.actor k.1
    if r.st == .restarting then (if r.gen = nameGen k.2 then t.freeIndexOf k.1 else t)
    else if r.gen ≠ nameGen k.2 then t
    else if r.st == .leaving then t.freeIndexOf k.1
    else die t k.1) s
  (s1.modSuper x fun r => { r.clearChildren with sup := false, held := [] }).dropEvents x

/-- The death of an actor, and of a supervisor's children with it (R290, R316). That of an actor on another device runs there. -/
def State.killN : Nat → State → ActorId → Nat → Bool → State
  | 0, s, x, reason, quiet => s.killOne x reason quiet
  | n + 1, s, x, reason, quiet =>
    let live := ((s.actor x).st == .resident || (s.actor x).st == .migrating) && (s.actor x).dev == 0
    let s1 := s.killOne x reason quiet
    if live && (s.super x).sup then s1.orphan x fun t y => State.killN n t y 1 true else s1

/-- The death of an actor with a reason (R290, R316). -/
def State.kill (s : State) (x : ActorId) (reason : Nat) : State := State.killN (s.acts.supers.length + 1) s x reason false

/-- The sixteen-bit field of TCAUSE and the address of a trap (Table 03.4). -/
def mkCause (info iter code : Nat) : DWord := dw (2 ^ 32 * (info % 2 ^ 32) + 2 ^ 16 * (iter % 2 ^ 16) + code % 256)

/-- Does the running firing read a trap message (R364), or an overlay handler entered from one (R434)? -/
def Tsw.onTrapMessage (t : Tsw) : Bool := t.sf && (if t.ov then decide (t.ovp = 1) else decide (t.priv = 1))

/-- The bitmap of a forced save: every bead not free (Table 13.11). -/
def Core.allBeads (c : Core) : List Byte :=
  (List.range 64).map fun i => BitVec.ofNat 8
    (((List.range 8).filter fun j => decide (c.bead (8 * i + j) ≠ .free)).foldl (fun n j => n + 2 ^ j) 0)

/-- The forced save of a core starts (R373, R377): its region is aborted and nothing runs. -/
def State.forcedSave (s : State) (id : CoreId) : State :=
  (s.discardRegion id).modCore id fun c => { c with run := .idle, phase := .saving true c.allBeads false }

/-- The device resets (R384, R385, R429): every core, engine and register as after reset. Fuses stay, and so does
what the HBM arrays hold, the boot flash, and the owner's certificate, which is written once (R420, R430). -/
def State.deviceReset (s : State) : State :=
  { State.reset with
    focus := s.focus
    core := Core.reset s.mesh.fused s.focus
    tick := s.tick
    inputs := s.inputs
    mesh := { State.reset.mesh with fused := s.mesh.fused }
    ram := { State.reset.ram with bytes := s.ram.bytes }
    hub := { State.reset.hub with flash := s.hub.flash, ownerCert := s.hub.ownerCert }
    ctxs := { State.reset.ctxs with ccb := [(0, ccbRoot (9216 - s.mesh.fused.length))] } }

/-- The message that the end of an actor's firing by a fatal fault raises (R434): none at privilege 0; where the firing reads a trap
message, 0x83 at the parent of its context; elsewhere 0x81 or 0x82 at the context. -/
def State.reportFault (s : State) (id : CoreId) (x : ActorId) (t : Tsw) (code : Nat) : State :=
  if t.priv = 0 then s
  else if t.onTrapMessage then
    s.raiseTrap (s.ctxParent x.ctx) 0x83 (Config.freeChoice s.tick) 0 (s.nameOf x) (s.lciOf id)
  else s.raiseTrap x.ctx (if code = 0x42 then 0x81 else 0x82) code 0 (s.nameOf x) (s.lciOf id)

/-- A fatal outcome of the executing code (R72, R116): TCAUSE and TADDR are set, and the code is ended as its
privilege says: R100 and R290 for an actor, R434 for privilege 1 and boot mode, R385 for the cores of the hub, R333
for a translation core. -/
def State.fatal (s : State) (code reason : Nat) (taddr : DWord) : State :=
  let s1 := s.onCore fun c => { c with traps := { c.traps with
    tcause := mkCause 0 0 code
    taddr := taddr
    tpc := if code = 0x42 then c.pc else c.traps.tpc } }
  let trap := if code = 0x42 then 0x81 else 0x82
  match s.focus with
  | .root =>
    if s.core.traps.thnd = 0 ∨ s.core.tsw.it then s.deviceReset
    else s1.onCore fun c => { c with
      traps := { c.traps with tpc := c.pc }
      tsw := { c.tsw with it := true }
      pc := c.traps.thnd }
  | .service p =>
    (s1.onCore fun c => { c with run := .stopped, wait := none }).raiseTrap 0 trap (p + 256 * code) 0 0 0
  | .transl c =>
    (s1.onCore fun c => { c with run := .stopped, wait := none }).raiseTrap 0
      (0xC2 + Config.freeChoice s.tick % 62) (Config.freeChoice (s.tick + 1)) 0 0 c
  | .work _ =>
    match s.core.run with
    | .firing sl =>
      match (s.core.slotAt sl).actor with
      | some x => (s1.kill x reason).reportFault s.focus x s.core.tsw code
      | none => s1.onCore fun c => { c with run := .idle, wait := none }
    | .preempt => (s1.raiseTrap s.core.ctx trap code 0 0 (s.lciOf s.focus)).forcedSave s.focus
    | _ => s1.onCore fun c => { c with run := .stopped, wait := none }

/-- Kill(reason) raised by an instruction: TCAUSE.CODE is 0x40 plus the reason (R116). -/
def State.killReason (s : State) (reason : Nat) (taddr : DWord) : Res := .next (s.fatal (0x40 + reason) reason taddr)
/-- illegal-instruction (R72). -/
def State.illegal (s : State) : Res := s.killReason 2 0
/-- The privilege trap (Table 03.16): code 0x30, exit reason illegal-instruction. -/
def State.privilege (s : State) : Res := .next (s.fatal 0x30 2 0)
/-- address (5). -/
def State.badAddress (s : State) (a : DWord) : Res := s.killReason 5 a
/-- ownership (3). -/
def State.notOwned (s : State) (a : Nat) : Res := s.killReason 3 (dw a)
/-- refused (4). -/
def State.refusedR (s : State) : Res := s.killReason 4 0

/-! ## Recoverable traps, the overlay trap and the return from them -/

/-- A recoverable trap (R110): `back` is the address TPC receives. A pre-emption handler that raises one is forced to its save (R373),
and only where the trap is fatal is a message raised (R434). -/
def State.recoverable (s : State) (code info iter : Nat) (taddr : DWord) (back : LAddr) : Res :=
  if s.core.traps.thnd = 0 ∨ s.core.tsw.it then s.killReason 13 taddr
  else if s.core.run = .preempt then .next (s.forcedSave s.focus)
  else .next (s.onCore fun c => { c with
    traps := { c.traps with tpc := back, tcause := mkCause info iter code, taddr := taddr }
    tsw := { c.tsw with it := true }
    pc := c.traps.thnd })

/-- The overlay trap of a fetch at or above XBOUND (R87); in a pre-emption handler, as any trap, it forces the save (R373). -/
def State.overlay (s : State) : Res :=
  if s.core.ovh = 0 ∨ s.core.tsw.ov then s.killReason 5 (s.core.pc.setWidth 64)
  else if s.core.run = .preempt then .next (s.forcedSave s.focus)
  else .next (s.onCore fun c => { c with
    traps := { c.traps with ovret := c.pc }
    tsw := { c.tsw with ovp := c.tsw.priv.setWidth 2, ov := true, priv := if c.tsw.priv = 0 then 1 else c.tsw.priv }
    pc := c.ovh })

/-- Return from the overlay trap (R87, R111). -/
def State.overlayReturn (s : State) : State :=
  s.onCore fun c => { c with pc := c.traps.ovret, tsw := { c.tsw with priv := c.tsw.ovp, ov := false } }

/-- Return from a recoverable trap at privilege 0 (R111): PC := TPC, or the repetition resumes and the scalar pipeline
continues at the kept resume point (R109). -/
def State.trapReturn (s : State) : State :=
  s.onCore fun c =>
    if c.tsw.rp then
      match c.rep with
      | some r => { c with
          tsw := { c.tsw with it := false, rp := false }
          rep := some { r with stop := none }
          pc := r.stop.getD c.traps.tpc }
      | none => { c with tsw := { c.tsw with it := false, rp := false }, pc := c.traps.tpc }
    else { c with tsw := { c.tsw with it := false }, pc := c.traps.tpc }

/-! ## Regions: record, commit, abort -/

/-- Open a region (R93): its entry and live-ins, with the record taken now. -/
def Core.openRegion (c : Core) (entry : LAddr) (smask vmask : Word) : Core :=
  { c with region := ⟨entry, smask, vmask, c.regs, c.tsw, c.traps⟩ }

/-- The registers an abort leaves: the live-ins from the record, every other register as the core holds it (R94). -/
def restoreRegs (r : Record) (now : Regs) : Regs :=
  { s := Vector.ofFn fun i : Fin 32 => if r.smask.getLsbD i.val then r.regs.s[i] else now.s[i]
    v := Vector.ofFn fun i : Fin 32 => if r.vmask.getLsbD i.val then r.regs.v[i] else now.v[i]
    p := r.regs.p
    q4 := r.regs.q4
    rm := r.regs.rm
    flags := r.regs.flags }

/-- Restore a record (R97 step 5); APB keeps the value given (R92, R94). -/
def Core.restore (c : Core) (r : Record) (apb : Bool) : Core :=
  { c with
    regs := restoreRegs r c.regs
    tsw := { r.tsw with apb := apb }
    traps := r.traps
    region := r
    pc := r.entry }

/-- Abort of the running firing of a core (R97): the record is restored, and the slot keeps it and becomes `st`, resume
pending. -/
def State.abort (s : State) (id : CoreId) (st : SlotState) : State :=
  let c := s.coreAt id
  match c.run with
  | .firing sl =>
    let s1 := s.discardRegion id
    let s2 := s1.modCore id fun c =>
      { (c.setSlot sl ⟨st, (c.slotAt sl).actor, some ⟨c.region, c.tsw.apb⟩⟩).restore c.region c.tsw.apb with run := .idle }
    (match (c.slotAt sl).actor with
    | some x => s2.modActor x ActorRec.clearCa
    | none => s2)
  | _ => s.discardRegion id

/-- Is commit free to proceed (R96)? The repetition buffer must be empty; every access of the region finished
translation when it was issued. -/
def Core.canCommit (c : Core) : Bool := c.rep.isNone

/-- Remove the n oldest receive-queue entries of a context (R137). -/
def dropReceived (ctx : Nat) : Nat → List Received → List Received
  | _, [] => []
  | 0, q => q
  | n + 1, r :: rest => if r.ctx = ctx then dropReceived ctx n rest else r :: dropReceived ctx (n + 1) rest

/-- Commit the open region of a core (R96): its entries become committed, its commands are no longer the open
region's, and the receive-queue entries it took leave the queue (R137). -/
def State.commit (s : State) (id : CoreId) : State :=
  let s1 := s.modCore id fun c => { c with
    committed := c.committed ++ c.openB
    openB := []
    recvq := dropReceived (s.ctxOn id) c.taken c.recvq
    taken := 0
    transferQ := c.transferQ.map fun q => { q with openRegion := false } }
  match id with
  | .work p =>
    let b := Sparse.get Bezel.reset s1.bezels (posOctet p)
    let q := octetPos p
    let qs := if h : q < 8 then
        b.queues.set q ((b.queues[q]'h).map fun o => { o with openRegion := false }) h
      else b.queues
    { s1 with bezels := Sparse.set Bezel.reset s1.bezels (posOctet p) { b with queues := qs } }
  | _ => s1

/-- Steps 1 and 2 of a closing instruction (R98): the open region commits and the instruction becomes its own region. -/
def State.closeRegion (s : State) : State :=
  (s.commit s.focus).onCore fun c => c.openRegion c.pc 0xFFFFFFFE c.region.vmask

/-- Step 4 of a closing instruction (R98): a new region opens at the PC, which stands at the next instruction. -/
def Core.reopen (c : Core) : Core := c.openRegion c.pc 0xFFFFFFFE c.region.vmask

/-! ## The store buffer (R95) -/

/-- Is an entry the SEND with LAST, which takes no store-buffer entry (R165)? -/
def Entry.isLast (e : Entry) : Bool :=
  match e.kind with
  | .send c => c.last
  | _ => false

/-- The room for n more entries: the region's own limit, and the free entries. -/
inductive Room where
  | ok | stall | capacity
  deriving DecidableEq, Repr

/-- Does a request carry a store-buffer entry of memory (R95)? -/
def isStoreReq : FabricReq → Bool
  | .store _ _ _ => true
  | .masked _ _ _ _ => true
  | .amo _ _ _ _ _ => true
  | .elem _ _ _ _ _ _ _ => true
  | _ => false

/-- The stores counter: committed entries not drained, and those drained whose completion is still awaited (R263, R344,
Table 14.3). -/
def State.storesCount (s : State) (id : CoreId) : Nat :=
  ((s.coreAt id).committed.filter fun e => !e.isLast).length
    + ((s.fab.outs.map fun e => (e.2.unacked.filter fun r => decide (r.who.core = id ∧ r.wait = .none) && isStoreReq r.req).length).sum)
    + (s.ctxs.invals.filter fun v => decide (v.core = id)).length
    + (((Sparse.get [] s.ram.order id.die) ++ (s.ram.ports.flatMap fun p => p.2.queue.flatMap (·.2))).filter fun o =>
        decide (o.who.core = id ∧ o.kind = .poisonclr)).length
/-- R95: above 64 of the open region's own is region-capacity; above 64 in all stalls, those that the stores counter still
counts among them (R102). -/
def State.room (s : State) (n : Nat) : Room :=
  if 64 < s.core.openB.length + n then .capacity
  else if 64 < s.core.openB.length + s.storesCount s.focus + n then .stall
  else .ok

/-- Add entries to the open region; on a core without regions they are committed at issue. -/
def State.addEntries (s : State) (es : List Entry) : State :=
  s.onCore fun c =>
    if s.focus.regions then { c with openB := c.openB ++ es } else { c with committed := c.committed ++ es }

/-- Issue an instruction that takes store-buffer entries (R95, R117): region-capacity, a stall, or `k` on the state
with the entries added. -/
def State.withEntries (s : State) (es : List Entry) (k : State → Res) : Res :=
  match s.room es.length with
  | .capacity => s.killReason 12 0
  | .stall => .next s
  | .ok => k (s.addEntries es)

/-- An entry of the running code. -/
def State.entry (s : State) (k : EntryKind) (rel : Option Scope) : Entry := ⟨k, rel, s.who, s.ctx⟩

end Sys2Proof.Machine
end

