-- ==== Sys2Proof/Machine/Nirulo.lean ====
section
/-!
DEFINITION. HBM as the memory ports hold it (R23, R239, R255 to R260): stored bytes, metadata codes and poison marks;
Nirulo coding of 1 KiB blocks; reads and writes of device physical bytes at the port.
-/

namespace Sys2Proof.Machine

/-- The end of HBM in device physical space (R22). -/
def hbmEnd : Nat := 0xC000000000

/-- The port of a device physical address (R23). -/
def portOf (pa : Nat) : Nat := (pa / 1024 % 12) * 8 + pa / 1024 / 12 % 8

/-- The element width a compression attribute names; off decodes as width 1 (R255, Table 12.3). -/
def cmpWidth (cmp : BitVec 2) : Nat := if cmp = 0 then 1 else 2 ^ (cmp.toNat - 1)

/-- Byte planes of a block under width e (R256): Q. -/
def planes (e : Nat) (d : List Byte) : List Byte :=
  let a := d.toArray
  (List.range 1024).map fun j => a.getD (e * (j % (1024 / e)) + j / (1024 / e)) 0

/-- The block of its byte planes: the inverse of `planes` (R257). -/
def unplanes (e : Nat) (q : List Byte) : List Byte :=
  let a := q.toArray
  (List.range 1024).map fun j => a.getD (j % e * (1024 / e) + j / e) 0

/-- X of R256: each byte of a plane xored with the one before it. -/
def deltas (e : Nat) (q : List Byte) : List Byte :=
  let a := q.toArray
  (List.range 1024).map fun j => if j % (1024 / e) = 0 then a.getD j 0 else a.getD j 0 ^^^ a.getD (j - 1) 0

/-- Undo `deltas`, byte by byte (R257). -/
def undeltas (e : Nat) : Nat → Byte → List Byte → List Byte
  | _, _, [] => []
  | j, prev, x :: xs =>
    let y := if j % (1024 / e) = 0 then x else x ^^^ prev
    y :: undeltas e (j + 1) y xs

/-- Groups of eight bytes. -/
def groups8 : Nat → List Byte → List (List Byte)
  | 0, _ => []
  | n + 1, bs => bs.take 8 :: groups8 n (bs.drop 8)

/-- Pack of R256. -/
def packGroups (y : List Byte) : List Byte :=
  let gs := groups8 128 y
  let bits := gs.map fun g => g.any (· != 0)
  let h := (groups8 16 (bits.map fun b => if b then 1 else 0)).map fun g =>
    BitVec.ofNat 8 (g.foldr (fun b n => b.toNat + 2 * n) 0)
  let body := h ++ (gs.filter fun g => g.any (· != 0)).flatten
  body ++ List.replicate ((128 - body.length % 128) % 128) 0

/-- The metadata code and sectors of a block under width e (R256). -/
def encodeBlock (e : Nat) (d : List Byte) : BitVec 4 × List Byte :=
  if d.all (· == 0) then (1, [])
  else
    let q := planes e d
    let pq := packGroups q
    let px := packGroups (deltas e q)
    let sq := pq.length / 128
    let sx := px.length / 128
    if 7 < sq ∧ 7 < sx then (0, d)
    else if sx < sq then (BitVec.ofNat 4 (8 + sx), px)
    else (BitVec.ofNat 4 (1 + sq), pq)

/-- The groups of a packed body: literal where H says so; `none` when the body does not hold them (R257). -/
def unpackGroups : List Bool → List Byte → Option (List Byte × List Byte)
  | [], rest => some ([], rest)
  | false :: hs, rest => (unpackGroups hs rest).map fun r => (List.replicate 8 0 ++ r.1, r.2)
  | true :: hs, rest =>
    if rest.length < 8 then none
    else (unpackGroups hs (rest.drop 8)).map fun r => (rest.take 8 ++ r.1, r.2)

/-- Decode the sectors of a block (R257); `none` when undecodable. -/
def decodeBlock (e : Nat) (code : BitVec 4) (sectors : List Byte) : Option (List Byte) :=
  if code = 0 then some sectors
  else if code = 1 then some (List.replicate 1024 0)
  else
    let hs := (sectors.take 16).flatMap fun b => (List.range 8).map fun i => b.getLsbD i
    match unpackGroups hs (sectors.drop 16) with
    | none => none
    | some (y, pad) =>
      if pad.all (· == 0) then
        some (unplanes e (if 8 < code.toNat then undeltas e 0 0 y else y))
      else none

/-- The sectors a metadata code says are stored (Table 09.6). -/
def sectorsOf (code : BitVec 4) : Nat :=
  let c := code.toNat
  if c = 0 then 8 else if c ≤ 8 then c - 1 else c - 8

/-- The metadata code of a block. -/
def Ram.code (r : Ram) (b : Nat) : BitVec 4 := Sparse.get 0 r.codes b
/-- Is the granule that holds an address poisoned (R260, R261)? -/
def Ram.poisoned (r : Ram) (pa : Nat) : Bool := Sparse.get false r.marks (pa / 1024)
/-- The bytes of a block as a read under width e finds them; `none` when undecodable. -/
def Ram.block (r : Ram) (e b : Nat) : Option (List Byte) :=
  decodeBlock e (r.code b) (memRead r.bytes (1024 * b) (128 * sectorsOf (r.code b)))
/-- n bytes within one block, under the width an access carries (R255); `none` when undecodable. -/
def Ram.read (r : Ram) (cmp : BitVec 2) (pa n : Nat) : Option (List Byte) :=
  if r.code (pa / 1024) = 0 then some (memRead r.bytes pa n)
  else (r.block (cmpWidth cmp) (pa / 1024)).map fun d => (d.drop (pa % 1024)).take n

/-- Write a whole block, coded when the access carries compression on and raw otherwise (R255, R256). -/
def Ram.putBlock (r : Ram) (cmp : BitVec 2) (b : Nat) (d : List Byte) : Ram :=
  let e := if cmp = 0 then (0, d) else encodeBlock (cmpWidth cmp) d
  { r with codes := Sparse.set 0 r.codes b e.1, bytes := memWrite r.bytes (1024 * b) e.2 }

/-- Replace bytes of a list from place i on. -/
def spliceBytes (d : List Byte) (i : Nat) (bs : List Byte) : List Byte := d.take i ++ bs ++ d.drop (i + bs.length)

/-- Set the four marks of a granule, and its bitmap bit once PBASE is written (R260, R266). -/
def Ram.setPoison (r : Ram) (pa : Nat) (on : Bool) : Ram :=
  let g := pa / 4096
  let marks := (List.range 4).foldl (fun m i => Sparse.set false m (4 * g + i) on) r.marks
  let base := bitsAt 25 15 (Sparse.get Port.reset r.ports (portOf pa)).mpcfg * 2 ^ 25
  let a := base + g / 8
  let old := Sparse.get 0 r.bytes a
  let bit := BitVec.ofNat 8 (2 ^ (g % 8))
  { r with
    marks := marks
    bytes := if base = 0 then r.bytes else Sparse.set 0 r.bytes a (if on then old ||| bit else old &&& ~~~bit) }

/-- The bitmap bit of a granule; none is recorded while no PBASE is written (R260, R266). -/
def Ram.poisonBit (r : Ram) (pa : Nat) : Bool :=
  let g := pa / 4096
  let base := bitsAt 25 15 (Sparse.get Port.reset r.ports (portOf pa)).mpcfg * 2 ^ 25
  base != 0 && (Sparse.get 0 r.bytes (base + g / 8)).getLsbD (g % 8)

/-- A saturating count of 32 bits. -/
def sat32 (n : Nat) : Nat := Nat.min n (2 ^ 32 - 1)

/-- A port finds an uncorrectable error or an undecodable block: the granule is poisoned and UNC rises (R260). -/
def Ram.found (r : Ram) (pa : Nat) : Ram :=
  let r1 := r.setPoison pa true
  let p := Sparse.get Port.reset r1.ports (portOf pa)
  let unc := sat32 (bitsAt 32 32 p.mperr + 1)
  { r1 with ports := Sparse.set Port.reset r1.ports (portOf pa) { p with mperr := setBits 32 32 unc p.mperr } }

/-- A plain write of bytes within one block at the port (R258): a coded block, or one written coded, is decoded,
merged and written anew; an undecodable one is poisoned and taken as zero. -/
def Ram.write (r : Ram) (cmp : BitVec 2) (pa : Nat) (bs : List Byte) : Ram :=
  let b := pa / 1024
  if r.code b = 0 ∧ cmp = 0 then { r with bytes := memWrite r.bytes pa bs }
  else
    match r.block (cmpWidth cmp) b with
    | some d => r.putBlock cmp b (spliceBytes d (pa % 1024) bs)
    | none => (r.found pa).putBlock cmp b (spliceBytes (List.replicate 1024 0) (pa % 1024) bs)

/-- Write the bytes whose offsets the mask names, in runs. -/
def Ram.writeMask (r : Ram) (cmp : BitVec 2) (pa : Nat) (bs : List Byte) (mask : List Nat) : Ram :=
  if mask.length = bs.length then r.write cmp pa bs
  else mask.foldl (fun r i => r.write cmp (pa + i) [bs.getD i 0]) r

end Sys2Proof.Machine
end

