-- ==== Sys2Proof/Machine/Ctl.lean ====
section
/-!
DEFINITION. Control space (R410, Table 15.1): its blocks, the value each register reads, and the writes of registers
whose write has no further effect. The writes that act (BEND, VFBIND, VFIRQ, LOST, SCRUN) stand here too, as shared
operations.
-/

namespace Sys2Proof.Machine

/-- What an address of control space names (Table 15.1), at a multiple of 8. -/
inductive Ctl where
  | part (p w : Nat)
  | hboot | dierpt (d : Nat) | diebase (d : Nat)
  | hmstat | meas (i w : Nat)
  | fbcfg | fbe2e | fbdom (d : Nat) | fbport (p : Nat) | fbrate (p : Nat) | fstrand (i : Nat) | imp (i : Nat)
  | vfirq | vfbind (n : Nat)
  | mpcfg (m : Nat) | mperr (m : Nat)
  | strand (pos k : Nat) | baseStrand (d k : Nat)
  | smem (p a : Nat) | scrun (p : Nat)
  /-- an offset of a block with no register: reads zero, ignores writes -/
  | hole
  /-- in no block -/
  | none
  deriving DecidableEq, Repr

/-- The register at a device physical address of control space, a multiple of 8. -/
def ctlAt (pa : Nat) : Ctl :=
  let within (base size : Nat) : Bool := decide (base ≤ pa ∧ pa < base + size)
  if within 0xC000000000 0x1000 then
    let o := pa - 0xC000000000
    if o / 0x20 < 24 ∧ o % 0x20 ≠ 0 then .part (o / 0x20) (o % 0x20 / 8) else .hole
  else if within 0xC000010000 0x1000 then
    let o := pa - 0xC000010000
    if o = 0 then .hboot
    else if 0x100 ≤ o ∧ o < 0x100 + 72 then .dierpt ((o - 0x100) / 8)
    else if 0x200 ≤ o ∧ o < 0x200 + 72 then .diebase ((o - 0x200) / 8)
    else .hole
  else if within 0xC000020000 0x1000 then
    let o := pa - 0xC000020000
    if o = 0 then .hmstat
    else if 0x420 ≤ o ∧ o < 0x400 + 32 * 54 then .meas ((o - 0x400) / 32) ((o - 0x400) % 32 / 8)
    else .hole
  else if within 0xC000030000 0x2000 then
    let o := pa - 0xC000030000
    if o = 0 then .fbcfg else if o = 8 then .fbe2e
    else if 0x100 ≤ o ∧ o < 0x300 then .fbdom ((o - 0x100) / 8)
    else if 0x400 ≤ o ∧ o < 0x400 + 16 * 24 then
      (if o % 16 = 0 then .fbport ((o - 0x400) / 16) else .fbrate ((o - 0x400) / 16))
    else if 0x800 ≤ o ∧ o < 0x900 then .fstrand ((o - 0x800) / 8)
    else if 0x1000 ≤ o then .imp ((o - 0x1000) / 8)
    else .hole
  else if within 0xC000040000 0x2000 then
    let o := pa - 0xC000040000
    if o = 0 then .vfirq else if 0x1000 ≤ o then .vfbind ((o - 0x1000) / 8) else .hole
  else if within 0xC000100000 (0x100 * 96) then
    let o := pa - 0xC000100000
    if o % 0x100 = 0 then .mpcfg (o / 0x100) else if o % 0x100 = 8 then .mperr (o / 0x100) else .hole
  else if within 0xC100000000 (0x1000000 * 9) ∧ (pa - 0xC100000000) % 0x1000000 < 132 * 1024 then
    let d := (pa - 0xC100000000) / 0x1000000
    let o := (pa - 0xC100000000) % 0x1000000
    if o < 0x20000 then .strand (1024 * d + o / 0x80) (o % 0x80 / 8)
    else if o < 0x20080 then .baseStrand d ((o - 0x20000) / 8) else .hole
  else if within 0xC200000000 (0x1000000 * 24) ∧ (pa - 0xC200000000) % 0x1000000 < 0x40008 then
    let p := (pa - 0xC200000000) / 0x1000000
    let o := (pa - 0xC200000000) % 0x1000000
    if o < 0x40000 then .smem p o else .scrun p
  else .none

/-- The number of fabric ports whose link leads anywhere: FBPORT after reset reads zero, FBRATE 0x0700. -/
def fbrateReset : BitVec 16 := 0x0700

/-- VFBIND's function after reset. -/
def Func.reset : Func := ⟨0, 0, 0, false, false, [], none, false, false, false⟩

/-- Function n. -/
def State.func (s : State) (n : Nat) : Func := Sparse.get Func.reset s.hub.funcs n
/-- Replace function n. -/
def State.setFunc (s : State) (n : Nat) (f : Func) : State :=
  { s with hub := { s.hub with funcs := Sparse.set Func.reset s.hub.funcs n f } }
/-- VFBIND.V. -/
def Func.bound (f : Func) : Bool := bitAt 63 f.bind
/-- VFBIND.TST. -/
def Func.tst (f : Func) : Nat := bitsAt 60 2 f.bind
/-- VFBIND.CTX. -/
def Func.ctx (f : Func) : Nat := bitsAt 48 12 f.bind
/-- VFBIND.ENTRY. -/
def Func.entry (f : Func) : Nat := bitsAt 0 24 f.bind
/-- TST := t. -/
def Func.setTst (f : Func) (t : Nat) : Func := { f with bind := setBits 60 2 t f.bind }

/-- The value a control register reads. -/
def State.ctlRead (s : State) (r : Ctl) : DWord :=
  match r with
  | .part p w => s.ccbWord (p + 1) w
  | .hboot => dw (s.hub.bfail.toNat * 2 + s.hub.bended.toNat)
  | .dierpt d => (Sparse.get 0 s.hub.dierpt d).setWidth 64
  | .diebase d => (Sparse.get 0 s.hub.diebase d).setWidth 64
  | .hmstat => dw (s.hub.sessions % 256)
  | .meas i w => dwOf (((Sparse.get (List.replicate 32 0) s.hub.meas i).drop (8 * w)).take 8)
  | .fbcfg => s.fab.fbcfg
  | .fbe2e => s.fab.fbe2e
  | .fbdom d => Sparse.get 0 s.fab.fbdom d
  | .fbport p => Sparse.get 0 s.fab.fbport p
  | .fbrate p => (Sparse.get fbrateReset s.fab.fbrate p).setWidth 64
  | .fstrand i => Sparse.get 0 s.fab.fstrand i
  | .imp i => Sparse.get 0 s.fab.imports i
  | .vfirq => 0
  | .vfbind n => (s.func n).bind
  | .mpcfg m => (Sparse.get Port.reset s.ram.ports m).mpcfg
  | .mperr m => (Sparse.get Port.reset s.ram.ports m).mperr
  | .strand pos k => if h : k < 16 then (s.coreAt (.work pos)).strands[k]'h else 0
  | .baseStrand d k => Sparse.get 0 s.mesh.base (16 * d + k)
  | .smem p a => (s.coreAt (.service p)).load8 a
  | .scrun _ => 0
  | .hole => 0
  | .none => 0

/-- n bytes of control space from an address, within one 8-byte word. -/
def State.ctlBytes (s : State) (pa n : Nat) : List Byte :=
  ((bytesOf 8 (s.ctlRead (ctlAt (pa / 8 * 8))).toNat).drop (pa % 8)).take n

/-! ## Measurements (R422) -/

/-- M := SM3(M ‖ d) for register i. -/
def State.extend (s : State) (i : Nat) (d : List Byte) : State :=
  let m := Sparse.get (List.replicate 32 0) s.hub.meas i
  { s with hub := { s.hub with meas := Sparse.put s.hub.meas i (Config.sm3 (m ++ d)) } }

/-- Index 53: an offset of control space and the new value of its register. -/
def State.extendFabric (s : State) (off : Nat) (v : DWord) : State :=
  s.extend 53 (Config.sm3 (bytesOf 8 off ++ bytesOf 8 v.toNat))

/-! ## Writes -/

/-- The chain of the dies (R121). -/
def dieChain : List Nat := [0, 1, 2, 5, 4, 3, 6, 7, 8]

/-- The three conditions of a BEND write (R423). -/
def State.bendOk (s : State) : Bool :=
  let count (d : Nat) : Nat := (Sparse.get 0 s.hub.dierpt d).toNat % 2 ^ 32
  let acc (d : Nat) : Nat := (Sparse.get 0 s.hub.dierpt d).toNat / 2 ^ 32
  ((List.range 9).all fun i =>
    decide ((Sparse.get 0 s.hub.diebase (dieChain.getD i 0)).toNat = ((dieChain.take i).map count).sum)) &&
  ((List.range 9).all fun d => decide (1000 ≤ count d ∧ count d = acc d)) &&
  decide (9000 ≤ ((List.range 9).map count).sum)

/-- A write of 1 to BEND (R126, R423, R425). -/
def State.bend (s : State) : State :=
  if s.hub.bended then s
  else if s.bendOk then
    let s1 := s.mapCores fun id c => match id with
      | .work p => { c with
          wins := Vector.replicate 8 0
          router := { c.router with lci :=
            if c.router.val then BitVec.ofNat 14 (c.router.lidx.toNat + (Sparse.get 0 s.hub.diebase (posDie p)).toNat)
            else c.router.lci } }
      | _ => c
    { s1 with hub := { s1.hub with boot := false, bended := true, bfail := false } }
  else { s with hub := { s.hub with bfail := true, recovery := true } }

/-- Does a context, or an ancestor of it, hold the bound function whose interface a change concerns (R418)? Every
function in CONFIG_LOCKED or RUN whose chain holds one of the contexts moves to ERROR. -/
def State.tdispError (s : State) (hit : Nat → Bool) : State :=
  s.onHub fun h => { h with funcs := h.funcs.map fun e =>
    if e.2.bound && (e.2.tst = 1 || e.2.tst = 2) && (s.chain e.2.ctx).any hit then (e.1, e.2.setTst 3) else e }

/-- Request the reset of R382 on function n. -/
def State.requestReset (s : State) (n : Nat) : State :=
  if s.ctxs.resets.contains n then s else
    let s1 := { s with ctxs := { s.ctxs with resets := s.ctxs.resets ++ [n] } }
    s1.setFunc n { s1.func n with rst := true }

/-- Is a write of VFBIND refused (R413)? -/
def State.vfbindRefused (s : State) (w : Writer) (n : Nat) (v : DWord) : Bool :=
  let f := s.func n
  let new := bitsAt 48 12 v
  let mine := match w with
    | .root => true
    | .service p => (!f.bound || s.partitionOf f.ctx == p + 1) && s.partitionOf new == p + 1
    | .other => false
  let binds := bitAt 63 v && (!f.bound || f.ctx != new)
  !mine || (binds && (s.ctxState new != 1 || new == 0 || bitAt 15 (s.ccbWord new 22)))

/-- A write of VFBIND (R412, R413, R418); `bound` says that it reaches V or CTX, and not ENTRY alone. -/
def State.vfbind (s : State) (w : Writer) (n : Nat) (v : DWord) (bound : Bool) : State :=
  let f := s.func n
  if s.vfbindRefused w n v then s.setFunc n { f with bind := setBits 62 1 1 f.bind }
  else
    let errored := bound && (f.tst = 1 || f.tst = 2)
    let f1 := if errored then f.setTst 3 else f
    let f2 := if bitAt 62 v then { f1 with bind := setBits 62 1 0 f1.bind } else f1
    let f3 := { f2 with bind := setBits 0 24 (bitsAt 0 24 v) f2.bind }
    if f.bound && (!bitAt 63 v || bitsAt 48 12 v != f.ctx) then
      (s.setFunc n { f3 with next := some v }).requestReset n
    else if bitAt 63 v && !f.bound then
      let x := bitsAt 48 12 v
      (s.setFunc n { f3 with bind := setBits 48 12 x (setBits 63 1 1 f3.bind) }).setCcbWord x 22
        (dw (2 ^ 15 + n))
    else s.setFunc n { f3 with bind := setBits 48 12 (bitsAt 48 12 v) f3.bind }

/-- A write of VFIRQ (R416): an interrupt of a function whose host has enabled it. -/
def State.vfirq (s : State) (v : DWord) : State :=
  if v.toNat < 512 ∧ (s.func v.toNat).msix then { s with hub := { s.hub with out := s.hub.out ++ [.irq v.toNat] } } else s

/-- A write of 1 to FBDOM.LOST at privilege 3 (R398): where it is set, every flow to the device restarts with number 0. -/
def State.lostClear (s : State) (d priv : Nat) : State :=
  if priv < 3 ∨ !bitAt 62 (Sparse.get 0 s.fab.fbdom d) then s
  else s.onFab fun f => { f with
    fbdom := Sparse.set 0 f.fbdom d (setBits 62 1 0 (Sparse.get 0 f.fbdom d))
    outs := f.outs.filter fun e => e.1 % 64 != d
    ins := f.ins.filter fun e => e.1 % 64 != d }

/-- The root monitor writes SCRUN: a stopped core restarts at privilege 2 with every register zero (Table 15.1). -/
def State.scrun (s : State) (p : Nat) (v : DWord) : State :=
  let c := s.coreAt (.service p)
  if c.run = .stopped ∧ v.toNat % 4 = 0 ∧ v.toNat < 2 ^ 18 then
    s.setCore (.service p) { c with
      run := .service
      pc := v.setWidth 18
      regs := { Regs.reset with p := Vector.replicate 8 0 }
      tsw := { Tsw.reset with priv := 2 }
      traps := TrapRegs.reset
      wait := none
      rep := none }
  else s

/-- The fields of a strand entry that hold (Table 04.5). -/
def strandMask : DWord := 0xFFF00000FFFF0000
/-- The fields of a base-tier strand entry that hold (Table 04.5a). -/
def baseStrandMask : DWord := 0xFFF00000FFFFFF00
/-- Entry k of a router := v; a fused router has no local bit (R128). -/
def State.setStrand (s : State) (pos k : Nat) (v : DWord) : State :=
  if h : k < 16 then
    s.modCore (.work pos) fun c =>
      let w := v &&& strandMask
      { c with
        strands := c.strands.set k (if s.mesh.fused.contains pos then setBits 20 1 0 w else w) h
        router := { c.router with left := c.router.left.filter (· != k) } }
  else s

/-- A write of a control register at privilege 2 or 3 by a writer; `high` says that it covers the highest two bytes. -/
def State.ctlWrite (s : State) (w : Writer) (priv : Nat) (r : Ctl) (v : DWord) (high : Bool) : State :=
  let p3 (t : State) : State := if priv = 3 then t else s
  match r with
  | .hboot => p3 (if bitAt 0 v then s.bend else s)
  | .dierpt d => p3 (s.onHub fun h =>
    let acc := (Sparse.get 0 h.dierpt d).toNat / 2 ^ 32
    { h with dierpt := Sparse.set 0 h.dierpt d (BitVec.ofNat 48 (acc * 2 ^ 32 + v.toNat % 2 ^ 32)) })
  | .diebase d => p3 (s.onHub fun h => { h with diebase := Sparse.set 0 h.diebase d (v.setWidth 14) })
  | .fbcfg =>
    let new := dw (v.toNat % 2 ^ 30)
    p3 ((s.onFab fun f => { f with fbcfg := new }).extendFabric 0x30000 new)
  | .fbe2e => p3 (s.onFab fun f => { f with fbe2e := dw (v.toNat % 2 ^ 28) })
  | .fbdom d =>
    let new := setBits 63 1 (bitsAt 63 1 v) (setBits 61 1 (bitsAt 61 1 v) (Sparse.get 0 s.fab.fbdom d))
    let s1 := s.onFab fun f => { f with fbdom := Sparse.set 0 f.fbdom d new }
    let s2 := if bitAt 62 v then s1.lostClear d priv else s1
    p3 (s2.extendFabric (0x30100 + 8 * d) (Sparse.get 0 s2.fab.fbdom d))
  | .fbrate p => p3 (s.onFab fun f => { f with fbrate := Sparse.set fbrateReset f.fbrate p (v.setWidth 16) })
  | .fstrand i =>
    let new := if i % 2 = 0 then dw (v.toNat / 2 ^ 38 * 2 ^ 38) else v
    s.onFab fun f => { f with
      fstrand := Sparse.set 0 f.fstrand i new
      departed := f.departed.filter fun e => e.1 != i / 2
      strandUps := f.strandUps.filter fun u => u.1 != i / 2 }
  | .imp i =>
    let new := if i % 2 = 0 then v &&& 0xFFF81FFFFFFFF000 else v &&& 0xFFFFFFF000
    (match w with
    | .root => (s.onFab fun f => { f with imports := Sparse.set 0 f.imports i new }).extendFabric (0x31000 + 8 * i) new
    | _ => s)
  | .vfirq => s.vfirq v
  | .vfbind n => s.vfbind w n v high
  | .mpcfg m =>
    let t := if v.toNat % 2 ^ 16 = 0 then 1 else v.toNat % 2 ^ 16
    let new := dw (v.toNat / 2 ^ 25 % 2 ^ 15 * 2 ^ 25 + v.toNat / 2 ^ 16 % 2 * 2 ^ 16 + t)
    p3 (s.onRam fun m' =>
      let p := Sparse.get Port.reset m'.ports m
      { m' with ports := Sparse.set Port.reset m'.ports m { p with mpcfg := new } })
  | .strand pos k => s.setStrand pos k v
  | .baseStrand d k => s.onMesh fun m => { m with base := Sparse.set 0 m.base (16 * d + k) (v &&& baseStrandMask) }
  | .smem p a => (match w with
    | .root => s.modCore (.service p) fun c => c.store a (bytesOf 8 v.toNat)
    | _ => s)
  | .scrun p => (match w with
    | .root => s.scrun p v
    | _ => s)
  | _ => s

/-- Fields that a write of 1 clears keep their value under a partial write. -/
def Ctl.w1c : Ctl → DWord
  | .fbdom _ => 2 ^ 62
  | .vfbind _ => 2 ^ 62
  | .hboot => 1
  | _ => 0

/-- A store of bytes to control space: each 8-byte word written takes the new bytes over its present ones. -/
def State.ctlStore (s : State) (w : Writer) (priv pa : Nat) (bs : List Byte) : Nat → State
  | 0 => s
  | fuel + 1 =>
    match bs with
    | [] => s
    | _ =>
      let r := ctlAt (pa / 8 * 8)
      let old := bytesOf 8 (s.ctlRead r &&& ~~~r.w1c).toNat
      let n := Nat.min bs.length (8 - pa % 8)
      (s.ctlWrite w priv r (dwOf (spliceBytes old (pa % 8) (bs.take n))) (decide (6 < pa % 8 + n))).ctlStore w priv (pa + n) (bs.drop n) fuel

/-- Who a core is as a writer of control registers, and at which privilege (R6, R400, R410, R413): translation cores and a die's boot program run at
privilege 3 and are not the root monitor. -/
def ctlWriter : CoreId → Writer × Nat
  | .service p => (.service p, 2)
  | .root => (.root, 3)
  | _ => (.other, 3)

end Sys2Proof.Machine
end

