-- ==== Sys2Proof/Machine/Pending.lean ====
section
/-!
DEFINITION. Where the bytes of device memory come from: what the store buffer, the ordering point and the port make of a
byte on its way (R26, R28, R241), and reads by a core and by an engine (R32, R36, R261).
-/

namespace Sys2Proof.Machine

/-- What a pending operation makes of one byte: nothing to say, a value, or a result known only at the port (R241). -/
inductive Pending where
  | no
  | value (b : Byte)
  | later
  deriving DecidableEq, Repr

/-- The address within its own space of a place. -/
def Place.addr : Place → Nat
  | .dev pa => pa
  | .peer _ pa _ => pa
  | .host ha => ha
/-- Do two places lie in one space? -/
def Place.sameSpace : Place → Place → Bool
  | .dev _, .dev _ => true
  | .peer d _ _, .peer e _ _ => d == e
  | .host _, .host _ => true
  | _, _ => false
/-- The offset of a byte of one place within n bytes of another. -/
def Place.offset (base : Place) (n : Nat) (p : Place) : Option Nat :=
  if base.sameSpace p ∧ base.addr ≤ p.addr ∧ p.addr < base.addr + n then some (p.addr - base.addr) else none
/-- The place i bytes further. -/
def Place.plus (p : Place) (i : Nat) : Place :=
  match p with
  | .dev pa => .dev (pa + i)
  | .peer d pa m => .peer d (pa + i) m
  | .host ha => .host (ha + i)

/-- Bytes a slot of an element reduction covers: the element, or its counted slot (R249). -/
def slotSize (f : Fmt) (cnt : Bool) : Nat := if cnt then Nat.max (2 * f.width) 4 else f.width

/-- What a store-buffer entry makes of a byte; `committed` entries that are no plain stores answer later (R241). -/
def EntryKind.at (k : EntryKind) (committed : Bool) (p : Place) : Pending :=
  let pend (b : Bool) : Pending := if b && committed then .later else .no
  match k with
  | .store t bs mask =>
    (match t.place.offset bs.length p with
    | some i => if mask.contains i then .value (bs.getD i 0) else .no
    | none => .no)
  | .red t _ n _ => pend (t.place.offset n p).isSome
  | .elem t r => pend (r.elems.any fun e => ((t.place.plus e.1).offset (slotSize r.fmt r.cnt) p).isSome)
  | .poisonclr t => pend (t.place.offset 4096 p).isSome
  | _ => .no

/-- What a port operation makes of a byte of the device. -/
def PortOp.at (o : PortOp) (pa : Nat) : Pending :=
  let pend (n : Nat) : Pending := if o.pa ≤ pa ∧ pa < o.pa + n then .later else .no
  match o.kind with
  | .store bs mask => if o.pa ≤ pa ∧ pa < o.pa + bs.length ∧ mask.contains (pa - o.pa) then .value (bs.getD (pa - o.pa) 0)
      else .no
  | .granule bs => if o.pa ≤ pa ∧ pa < o.pa + bs.length then .value (bs.getD (pa - o.pa) 0) else .no
  | .block bs => if o.pa ≤ pa ∧ pa < o.pa + bs.length then .value (bs.getD (pa - o.pa) 0) else .no
  | .red _ n _ => pend n
  | .amo _ n _ => pend n
  | .cas n _ _ => pend n
  | .bnd n _ _ => pend n
  | .elem r => if r.elems.any fun e => decide (o.pa + e.1 ≤ pa ∧ pa < o.pa + e.1 + slotSize r.fmt r.cnt) then .later else .no
  | .poisonclr => pend 4096

/-- The newest of a list of pending operations, oldest first, that concerns a byte. -/
def newest {α : Type} (f : α → Pending) (xs : List α) : Pending :=
  xs.foldl (fun r x => match f x with
    | .no => r
    | y => y) .no

/-- The operations a port holds for the line of an address, oldest first. -/
def Port.line (p : Port) (pa : Nat) : List PortOp := ((p.queue.filter fun e => e.1 == pa / 128).map (·.2)).flatten

/-- Port m. -/
def State.port (s : State) (m : Nat) : Port := Sparse.get Port.reset s.ram.ports m
/-- Replace port m. -/
def State.setPort (s : State) (m : Nat) (p : Port) : State :=
  s.onRam fun r => { r with ports := Sparse.set Port.reset r.ports m p }
/-- The operations waiting at an ordering point, oldest first. -/
def State.orderAt (s : State) (d : Nat) : List PortOp := Sparse.get [] s.ram.order d

/-- How a read of a byte ends: a value held on the way, the byte of memory, or a wait. -/
inductive ByteSrc where
  | held (b : Byte)
  /-- a value that waits in the port's write queue -/
  | queued (b : Byte)
  | memory
  | wait
  deriving DecidableEq, Repr

/-- A byte the port serves: from its write queue, else from memory. -/
def Pending.atPort (p : Pending) : ByteSrc :=
  match p with
  | .no => .memory
  | .value b => .queued b
  | .later => .wait

/-- The byte of a source, given memory's. -/
def ByteSrc.byte (x : ByteSrc) (m : Byte) : Byte :=
  match x with
  | .held b => b
  | .queued b => b
  | _ => m

/-- Does a byte come from the port, so that its granule's marks count (R261)? -/
def ByteSrc.fromPort : ByteSrc → Bool
  | .queued _ => true
  | .memory => true
  | _ => false

/-- Then look further unless the byte is settled. -/
def Pending.orElse (p : Pending) (k : ByteSrc) : ByteSrc :=
  match p with
  | .no => k
  | .value b => .held b
  | .later => .wait

/-- Where the byte at a place comes from for a load of the executing core: its own buffered stores (R26), then for
device memory the ordering point of its die (R28), then the port; `skipOrder` is the LDAQ of R32, which takes nothing
from the ordering point and waits for it. -/
def State.byteSrc (s : State) (skipOrder : Bool) (p : Place) : ByteSrc :=
  let c := s.core
  (newest (fun e => e.kind.at false p) c.openB).orElse
    ((newest (fun e => e.kind.at true p) c.committed).orElse
      (match p with
      | .dev pa =>
        let o := newest (fun o => o.at pa) (s.orderAt s.focus.die)
        if skipOrder && o != .no then .wait
        else o.orElse (newest (fun o => o.at pa) ((s.port (portOf pa)).line pa)).atPort
      | _ => .memory))

/-- A read of device memory. -/
inductive DevRead where
  | ok (bs : List Byte)
  | wait
  | poison
  /-- the block proved undecodable: the port marks the granule before it answers (R257, R260) -/
  | found
  deriving DecidableEq, Repr

/-- n bytes of device memory at an address within one block, as the executing core's load finds them. -/
def State.devRead (s : State) (skipOrder : Bool) (t : Target) (pa n : Nat) : DevRead :=
  if hbmEnd ≤ pa then .ok (s.ctlBytes pa n)
  else
    let srcs := (List.range n).map fun i => s.byteSrc skipOrder (.dev (pa + i))
    if srcs.contains .wait then .wait
    else if srcs.any (·.fromPort) && s.ram.poisoned pa then .poison
    else
      match s.ram.read t.cmp pa n with
      | some m => .ok (srcs.zipIdx.map fun e => e.1.byte (m.getD e.2 0))
      | none => if srcs.contains .memory then .found else .ok (srcs.map fun e => e.byte 0)

/-- Where the byte at a device address comes from for an engine of a die: its ordering point, the port, memory (R28,
R36). `skip` is the acquire of R32, which takes nothing from the ordering point and waits for it. -/
def State.engineSrc (s : State) (die : Nat) (skip : Bool) (pa : Nat) : ByteSrc :=
  let o := newest (fun o => o.at pa) (s.orderAt die)
  if skip && o != .no then .wait
  else o.orElse (newest (fun o => o.at pa) ((s.port (portOf pa)).line pa)).atPort

/-- n bytes of device memory within one block, for an engine of a die: no store buffer counts. -/
def State.engineRead (s : State) (die : Nat) (skip : Bool) (cmp : BitVec 2) (pa n : Nat) : DevRead :=
  if hbmEnd ≤ pa then .ok (s.ctlBytes pa n)
  else
    let srcs := (List.range n).map fun i => s.engineSrc die skip (pa + i)
    if srcs.contains .wait then .wait
    else if srcs.any (·.fromPort) && s.ram.poisoned pa then .poison
    else
      match s.ram.read cmp pa n with
      | some m => .ok (srcs.zipIdx.map fun e => e.1.byte (m.getD e.2 0))
      | none => if srcs.contains .memory then .found else .ok (srcs.map fun e => e.byte 0)

end Sys2Proof.Machine
end

