-- ==== Sys2Proof/Machine/Translate.lean ====
section
/-!
DEFINITION. Translation: the TLB (R331, R341, R345), the walk composed over the levels of a context (R335 to R338),
the job shadows in it (R340), miss messages (R332), and the translation of an access at issue.
-/

namespace Sys2Proof.Machine

/-! ## TLB entries (Table 12.4) -/

/-- CTX. -/
def TlbEntry.ctx (e : TlbEntry) : Nat := bitsAt 52 12 e.e0
/-- The base address VPN × 4 KiB. -/
def TlbEntry.base (e : TlbEntry) : Nat := bitsAt 12 36 e.e0 * 4096
/-- The size in bytes of a SIZE code. -/
def pageBytes : Nat → Nat
  | 0 => 2 ^ 12
  | 1 => 2 ^ 16
  | 2 => 2 ^ 21
  | _ => 2 ^ 30
/-- The size in bytes. -/
def TlbEntry.size (e : TlbEntry) : Nat := pageBytes (bitsAt 10 2 e.e0)
/-- V. -/
def TlbEntry.valid (e : TlbEntry) : Bool := bitAt 0 e.e0
/-- R. -/
def TlbEntry.r (e : TlbEntry) : Bool := bitAt 2 e.e0
/-- W. -/
def TlbEntry.w (e : TlbEntry) : Bool := bitAt 3 e.e0
/-- SH. -/
def TlbEntry.sh (e : TlbEntry) : Bool := bitAt 4 e.e0
/-- HOST. -/
def TlbEntry.host (e : TlbEntry) : Bool := bitAt 5 e.e0
/-- CMP. -/
def TlbEntry.cmp (e : TlbEntry) : BitVec 2 := e.e0.extractLsb' 6 2
/-- MODE. -/
def TlbEntry.mode (e : TlbEntry) : Nat := bitsAt 8 2 e.e0
/-- The output base address PFN × 4 KiB. -/
def TlbEntry.out (e : TlbEntry) : Nat := bitsAt 0 36 e.e1 * 4096
/-- PEER. -/
def TlbEntry.peer (e : TlbEntry) : Nat := bitsAt 42 6 e.e1
/-- The PM bit of an address in the entry's range. -/
def TlbEntry.pm (e : TlbEntry) (va : Nat) : Bool :=
  if bitsAt 10 2 e.e0 ≤ 1 then bitAt (48 + va % e.size / 4096) e.e1 else false
/-- Does the entry translate an address of a context? -/
def TlbEntry.hits (e : TlbEntry) (ctx va : Nat) : Bool :=
  e.valid && decide (e.ctx = ctx) && decide (e.base ≤ va ∧ va < e.base + e.size)
/-- Does the entry's range meet a region of a context? -/
def TlbEntry.meets (e : TlbEntry) (ctx base size : Nat) : Bool :=
  e.valid && decide (e.ctx = ctx) && decide (e.base < base + size ∧ base < e.base + e.size)

/-- A code of PageMode. -/
def modeOf : Nat → PageMode
  | 0 => .loc
  | 1 => .direct
  | 2 => .cached
  | _ => .count

/-- Remove entries from the TLB and from the answers a core still holds. -/
def Core.dropTlb (c : Core) (p : TlbEntry → Bool) : Core :=
  let keep (es : List TlbEntry) : List TlbEntry := es.filter fun e => !p e
  { c with tlb := keep c.tlb, latched := keep c.latched, rep := c.rep.map fun r => { r with latched := keep r.latched } }

/-- Put an entry into the TLB (R331, R343): overlapping entries leave; with 64 held, the device chooses which one the
fill replaces. -/
def Core.fillTlb (c : Core) (tick : Nat) (e : TlbEntry) : Core :=
  let kept := c.tlb.filter fun x => !x.meets e.ctx e.base e.size
  let kept' := if 64 ≤ kept.length then kept.eraseIdx (Config.freeChoice tick % kept.length) else kept
  { c with tlb := kept' ++ [e] }

/-! ## The walk -/

/-- What a walk composes (R338): the output address, rights, the smallest leaf, the windows crossed as (output, base,
length), and the partition's attributes. -/
structure Composed where
  a : Nat
  r : Bool
  w : Bool
  size : Nat
  crossed : List (Nat × Nat × Nat)
  host : Bool
  mode : Nat
  cmp : BitVec 2
  peer : Nat
  deriving DecidableEq, Repr

/-- How a walk ends (R332, R337). -/
inductive WalkEnd where
  | ok (c : Composed)
  | notResident (handler a : Nat) (isWalk : Bool)
  | denied
  | poison (pa : Nat)
  /-- an earlier store to a table entry sits in the ordering point: the read comes after it (R32) -/
  | wait
  deriving DecidableEq, Repr

/-- Is a table entry with V = 1 malformed at a level (R336)? `part` says the context is a partition. -/
def malformed (e : DWord) (lev : Nat) (part : Bool) : Bool :=
  let l := bitAt 1 e
  let c64 := bitAt 5 e
  let host := bitAt 4 e
  let mode := bitsAt 6 2 e
  let cmp := bitsAt 8 2 e
  let peer := bitsAt 58 6 e
  let addr := bitsAt 12 36 e * 4096
  let leafSize := if lev = 1 then 2 ^ 30 else if lev = 2 then 2 ^ 21 else if c64 then 2 ^ 16 else 2 ^ 12
  bitsAt 48 10 e != 0 || bitsAt 10 2 e != 0
    || (l && lev == 0) || (!l && lev == 3)
    || (c64 && lev != 3)
    || (!l && (bitAt 2 e || bitAt 3 e || host || mode != 0 || cmp != 0 || c64 || peer != 0))
    || (l && addr % leafSize != 0)
    || (!part && (peer != 0 || mode != 0 || host || cmp != 0))
    || (host && mode != 0)
    || (part && l && !host && addr / 2 ^ 40 != 0)

/-- The rights an access kind needs (R337). -/
def Access.allowed (k : Access) (r w : Bool) : Bool :=
  match k with
  | .read => r
  | .write => w
  | .readWrite => r && w

/-- The eight bytes of a table entry in the device's HBM, read as an acquire at DEVICE from a die (R32, R333, R337). -/
def State.tableEntry (s : State) (die : Nat) (cmp : BitVec 2) (pa : Nat) : DevRead := s.engineRead die true cmp (pa / 8 * 8) 8

/-- Level(k, a, kind, fk) from level `lev` on, with `n` levels left; `tr` translates a table address into device
physical space and `part` says the context is a partition (R335, R337). The leaf and the address within it. Of a C64 group whose entries
differ, R336 lets an access take the mapping of any: the model takes the entry that the address indexes (DESIGN CHOICE, log
entry 141). -/
def State.level (s : State) (die x : Nat) (part : Bool) (tr : Nat → WalkEnd) (a : Nat) (kind : Access) (isWalk : Bool) :
    Nat → Nat → WalkEnd
  | 0, _ => .denied
  | n + 1, t =>
    let lev := 3 - n
    let ta := t + 8 * (a / 2 ^ (12 + 9 * n) % 512)
    if ta < s.ctxWbase x ∨ s.ctxWbase x + s.ctxWlen x ≤ ta then .denied
    else
      match tr ta with
      | .ok c =>
        if c.host ∨ c.mode ≠ 0 ∨ hbmEnd ≤ c.a then .denied
        else
          match s.tableEntry die c.cmp c.a with
          | .poison => .poison c.a
          | .found => .poison c.a
          | .wait => .wait
          | .ok bs =>
            let e := dwOf bs
            if !bitAt 0 e then .notResident x a isWalk
            else if malformed e lev part then .denied
            else if bitAt 1 e then
              if !kind.allowed (bitAt 2 e) (bitAt 3 e) then .denied
              else
                let size := if lev = 1 then 2 ^ 30 else if lev = 2 then 2 ^ 21 else if bitAt 5 e then 2 ^ 16 else 2 ^ 12
                .ok { a := bitsAt 12 36 e * 4096 + a % size, r := bitAt 2 e, w := bitAt 3 e, size := size, crossed := []
                      host := bitAt 4 e, mode := bitsAt 6 2 e, cmp := e.extractLsb' 8 2, peer := bitsAt 58 6 e }
            else s.level die x part tr a kind isWalk n (bitsAt 12 36 e * 4096)
      | r => r

/-- Translate(n, va, kind, fk) over the chain from Xn to the partition X1 (R337); the partition's tables lie in device
physical space. A service core whose partition is not live has no chain: its accesses go to device physical space one to one
(DESIGN CHOICE, log entry 142). -/
def State.walkChain (s : State) (die : Nat) : List Nat → Nat → Access → Bool → WalkEnd
  | [], a, _, _ => .ok ⟨a, true, true, 2 ^ 30, [], false, 0, 0, 0⟩
  | x :: up, a, kind, isWalk =>
    if s.ctxTfmt x ≠ 0 then .denied
    else
      match s.level die x up.isEmpty (fun ta => s.walkChain die up ta .read true) a kind isWalk 4 (s.ctxTroot x) with
      | .ok leaf =>
        let base := s.ctxWbase x
        let len := s.ctxWlen x
        if !leaf.host ∧ (leaf.a < base ∨ base + len ≤ leaf.a) then .denied
        else
          let here := if leaf.host then [] else [(leaf.a, base, len)]
          if up.isEmpty then .ok { leaf with crossed := here }
          else
            match s.walkChain die up leaf.a kind isWalk with
            | .ok o => .ok { o with
                r := o.r && leaf.r
                w := o.w && leaf.w
                size := Nat.min o.size leaf.size
                crossed := here ++ o.crossed }
            | r => r
      | r => r

/-- A walk by context x for an address, by a translation core of a die (R337). Context 0 translates nothing. -/
def State.walk (s : State) (die x va : Nat) (kind : Access) : WalkEnd := s.walkChain die (s.chain x) va kind false

/-- The SIZE code of a composed entry (R338). -/
def Composed.sizeCode (c : Composed) : Nat :=
  let fits (k : Nat) : Bool :=
    decide (pageBytes k ≤ c.size) && c.crossed.all fun w =>
      decide (w.2.1 ≤ w.1 / pageBytes k * pageBytes k ∧ w.1 / pageBytes k * pageBytes k + pageBytes k ≤ w.2.1 + w.2.2)
  if fits 3 then 3 else if fits 2 then 2 else if fits 1 then 1 else 0

/-! ## Shadows (R323, R340) -/

/-- The armed job of a context that lists the granule at an address of its own; another mapping of the granule sees the
original (R323). -/
def State.armedJob (s : State) (x va : Nat) : Option Job :=
  s.acts.jobs.find? fun j => j.armed && j.ctx == x && j.granules.any fun g => g.1 == va / 4096 * 4096

/-- Does the aligned range of a size around an address hold no granule that an armed job of the context lists? -/
def State.clearOfShadows (s : State) (x va size : Nat) : Bool :=
  !s.acts.jobs.any fun j => j.armed && j.ctx == x && j.granules.any fun g =>
    decide (va / size * size ≤ g.1 ∧ g.1 < va / size * size + size)

/-- The SIZE of a fill (R338, R340): 4 KiB for a listed granule, and no larger range takes one in, since every access to
it goes through a fill of its own (R323). -/
def State.fillSize (s : State) (x va : Nat) (c : Composed) : Nat :=
  if c.host || c.mode != 0 then c.sizeCode
  else ([3, 2, 1].find? fun k => decide (k ≤ c.sizeCode) && s.clearOfShadows x va (pageBytes k)).getD 0

/-- The TLB entry a walk fills (R338, R340). -/
def State.composedEntry (s : State) (x va : Nat) (c : Composed) : TlbEntry :=
  let job := if c.host || c.mode != 0 then none else s.armedJob x va
  let frame := job.bind fun j => (j.written.find? fun g => g.1 == va / 4096 * 4096).map (·.2)
  let code := s.fillSize x va c
  let size := pageBytes code
  let out := (frame.getD (c.a / size * size)) / 4096
  let w := if job.isSome && frame.isNone then false else c.w
  let pm := if c.host || (c.mode != 0 && c.peer != s.thisDev) || 1 < code then 0
    else ((List.range (size / 4096)).filter fun i => s.ram.poisonBit (out * 4096 + 4096 * i)).foldl (fun n i => n + 2 ^ i) 0
  { e0 := dw (2 ^ 52 * x + va / size * size + 2 ^ 10 * code + 2 ^ 8 * c.mode + 2 ^ 6 * c.cmp.toNat
      + 2 ^ 5 * c.host.toNat + 2 ^ 4 * job.isSome.toNat + 2 ^ 3 * w.toNat + 2 ^ 2 * c.r.toNat + 1)
    e1 := dw (2 ^ 48 * pm + 2 ^ 42 * c.peer + out) }

/-! ## Translation of an access at issue -/

/-- Does the core issue device physical addresses? The root monitor (context 0 translates nothing, R433), translation
cores (R333), and the die boot program (R145). -/
def Core.physical (id : CoreId) (c : Core) : Bool :=
  match id with
  | .root => true
  | .transl _ => true
  | .service _ => false
  | .work _ => decide (c.run = .boot)

/-- The number of the miss queue that serves a core: its cluster's; the hub's cores have queues of their own. -/
def CoreId.queue : CoreId → Nat
  | .work p => posCluster p
  | .transl c => c
  | .service p => 1000 + p
  | .root => 2000

/-- The miss queue of a translation core. -/
def State.transQ (s : State) (k : Nat) : TransQ := Sparse.get ⟨[], [], 0⟩ s.ctxs.trans k
/-- Replace a miss queue. -/
def State.setTransQ (s : State) (k : Nat) (q : TransQ) : State :=
  s.onCtxs fun x => { x with trans := Sparse.set ⟨[], [], 0⟩ x.trans k q }

/-- Send a miss message: it joins the queue if that holds fewer than 64 (R332). -/
def State.sendMiss (s : State) (m : Miss) : State × Bool :=
  let q := s.transQ (CoreId.queue m.core)
  if q.queue.length < 64 then (s.setTransQ (CoreId.queue m.core) { q with queue := q.queue ++ [m] }, true) else (s, false)

/-- The answers a core keeps belong to the instruction it now waits in. -/
def Core.hold (c : Core) : Core :=
  if c.heldAt = c.pc then c else { c with latched := [], noted := [], got := [], heldAt := c.pc }
/-- The instruction that kept answers has completed. -/
def Core.unhold (c : Core) : Core := { c with latched := [], noted := [], got := [] }

/-- The misses of a core that its translation core has not answered; one whose wait has ended on its own counts too. -/
def State.missesOf (s : State) (id : CoreId) : List Miss :=
  let q := s.transQ (CoreId.queue id)
  (q.queue ++ q.taken).filter fun m => decide (m.core = id)

/-- A TLB miss of the executing core: it waits for the answer; with 8 outstanding it waits at issue (R332). -/
def State.miss (s : State) (va : Nat) (kind : Access) : State :=
  if 8 ≤ (s.missesOf s.focus).length then s
  else
    let m : Miss := ⟨s.focus, s.lciOf s.focus, s.core.missId.toNat, s.ctx, va / 4096 * 4096, kind⟩
    let r := s.sendMiss m
    r.1.onCore fun c => { c.hold with
      missId := c.missId + 1
      wait := some ⟨.miss m.id m r.2, .nop⟩ }

/-- Where an entry maps an address; every MODE but 00 leaves through the hub to device PEER (R392). -/
def TlbEntry.target (e : TlbEntry) (va : Nat) : Target :=
  let a := e.out + va % e.size
  let place := if e.host then .host a
    else if e.mode ≠ 0 then .peer e.peer a (modeOf e.mode) else .dev a
  ⟨place, e.cmp, e.ctx⟩

/-- Is a register of the blocks that only the root monitor reaches (Table 15.1)? -/
def Ctl.monitorOnly : Ctl → Bool
  | .smem _ _ => true
  | .scrun _ => true
  | _ => false

/-- May code of a privilege reach a place (R22, R410)? `monitor` says that it is the root monitor's. -/
def Place.reachable (priv : Nat) (monitor : Bool) : Place → Bool
  | .dev pa =>
    let r := ctlAt (pa / 8 * 8)
    decide (pa < hbmEnd) || (decide (2 ≤ priv) && decide (r ≠ .none) && (!r.monitorOnly || monitor))
  | _ => true

/-- The entry of the executing core for an address. -/
def State.tlbLookup (s : State) (va : Nat) : Option TlbEntry :=
  match s.core.tlb.find? fun e => e.hits s.ctx va with
  | some e => some e
  | none => if s.core.heldAt = s.core.pc then s.core.latched.find? fun e => e.hits s.ctx va else none

/-- What a translation gives: an address that does not exist for the code (R22), no answer yet, a failure with its reason, a page
that is not resident, or a target and whether its granule is poisoned. -/
inductive Xlate
  | bad
  | miss
  | ends (reason : Nat)
  | absent (m : Miss) (handler addr : Nat) (walk : Bool)
  | found (t : Target) (pm : Bool)
  deriving DecidableEq, Repr

/-- What the translation core has answered to the executing instruction about an address, if it has (R332). -/
def State.answerTo (s : State) (va : Nat) (kind : Access) : Xlate :=
  let mine (e : Miss × MissAnswer) : Bool := decide (e.1.ctx = s.ctx ∧ e.1.va = va / 4096 * 4096 ∧ e.1.kind = kind)
  if s.core.heldAt ≠ s.core.pc then .miss
  else
    match s.core.noted.find? mine with
    | some (_, .ends r) => .ends r
    | some (m, .absent h a w) => .absent m h a w
    | none => .miss

/-- The translation of a global address for an access of a kind by the executing code (R22, R331, R337, R433). -/
def State.xlate (s : State) (va : DWord) (kind : Access) : Xlate :=
  if va.toNat / 2 ^ 48 ≠ 0 then .bad
  else
    let a := va.toNat
    let flat (a : Nat) : Xlate :=
      if (Place.dev a).reachable 3 (decide (s.focus = .root)) then .found ⟨.dev a, 0, 0⟩ false else .bad
    if s.core.physical s.focus then
      if s.core.run = .boot then flat (a % 2 ^ 40) else if a < 2 ^ 40 then flat a else .bad
    else
      match s.tlbLookup a with
      | none => s.answerTo a kind
      | some e =>
        if !(e.target a).place.reachable s.priv false then .bad
        else if !kind.allowed e.r e.w then
          if e.sh ∧ !e.w ∧ (kind = .write ∨ (kind = .readWrite ∧ e.r)) then s.answerTo a kind else .ends 14
        else .found (e.target a) (e.pm a)

/-- The instruction waits for a page that is not resident; the answer acts on it as TLB_MISS_ANSWER (R332). -/
def State.pageAbsent (s : State) (m : Miss) (handler addr : Nat) (walk : Bool) : Res :=
  .next (s.onCore fun c => { c.hold with wait := some ⟨.page m handler addr walk, .nop⟩ })

/-- Translate a global address of the executing code for an access of a kind and go on with its target; otherwise the
outcome of Table 03.16. `reads` says the access reads memory, so that the PM filter applies (R339). -/
def State.translating (s : State) (va : DWord) (kind : Access) (reads : Bool) (k : Target → Res) : Res :=
  match s.xlate va kind with
  | .bad => s.badAddress va
  | .miss => .next (s.miss va.toNat kind)
  | .ends r => s.killReason r va
  | .absent m h a w => s.pageAbsent m h a w
  | .found t pm => if reads && pm then s.killReason 6 va else k t

/-- The host function of an access through a context chain, if it may leave (R417). -/
def State.hostFunc (s : State) (ctx : Nat) : Option Nat :=
  match (s.chain ctx).find? fun x => bitAt 15 (s.ccbWord x 22) with
  | some x =>
    let n := bitsAt 0 9 (s.ccbWord x 22)
    if (s.func n).tst = 3 then none else some n
  | none => none

/-- Is a device a member of the domain that takes memory requests (R390, R392)? -/
def State.peerUp (s : State) (d : Nat) : Bool :=
  let e := Sparse.get 0 s.fab.fbdom d
  bitAt 63 e && !bitAt 62 e && !bitAt 61 e

/-- The reason that ends an access at issue because of where its target lies: peer-lost for a device that is no member
(R392), and translation-denied where no function carries the request (R417). -/
def State.placeEnds (s : State) (t : Target) : Option Nat :=
  match t.place with
  | .dev _ => none
  | .peer d _ _ => if s.peerUp d then none else some 10
  | .host _ => if (s.hostFunc t.ctx).isSome then none else some 14

/-- The outcomes at issue of a target beyond the device (R392, R417). -/
def State.checkPlace (s : State) (t : Target) (va : DWord) (k : Res) : Res :=
  match s.placeEnds t with
  | none => k
  | some r => s.killReason r va

/-- The outcome of an element by the rank of translation (R117): a refusal, a page that is not resident, or where its target
lies. -/
def State.elemEnds (s : State) (va : DWord) : Xlate → Option Res
  | .ends r => if r = 6 then none else some (s.killReason r va)
  | .absent m h a w => some (s.pageAbsent m h a w)
  | .found t _ => (s.placeEnds t).map fun r => s.killReason r va
  | _ => none
/-- Does an element meet poison: in a table of its walk, or by its page's filter (R337, R339)? -/
def Xlate.poisoned (reads : Bool) : Xlate → Bool
  | .ends r => decide (r = 6)
  | .found _ pm => reads && pm
  | _ => false

/-- Translate several addresses of one access and go on with their targets. The outcomes are taken by R117's ranks, and
within a rank in the order of the list: address, then translation, then poison. Every missing translation is asked for before a
rank after address is taken, since its answer may still be an address outcome. -/
def State.translatingEach (s : State) (kind : Access) (reads : Bool) (vas : List DWord) (k : List Target → Res) : Res :=
  let xs := vas.map fun va => (va, s.xlate va kind)
  match xs.find? fun x => x.2 == .bad with
  | some x => s.badAddress x.1
  | none => match xs.find? fun x => x.2 == .miss with
    | some x => .next (s.miss x.1.toNat kind)
    | none => match xs.findSome? fun x => s.elemEnds x.1 x.2 with
      | some r => r
      | none => match xs.find? fun x => x.2.poisoned reads with
        | some x => s.killReason 6 x.1
        | none => k (xs.filterMap fun x => match x.2 with
          | .found t _ => some t
          | _ => none)

end Sys2Proof.Machine
end

