-- ==== Sys2Proof/Machine/Global.lean ====
section
/-!
DEFINITION. Global memory as a core sees it: the values its loads return from the store buffer, the ordering point,
the port and memory (R26 to R32, R113, R241); when its earlier accesses are performed with respect to a scope (R30,
R244, R253); requests to other devices (R391, R392, R396) and to hosts (R417).
-/

namespace Sys2Proof.Machine

/-! ## Operations that enter an ordering point, and earlier versions of lines (R28, R29, R432) -/

/-- Does an operation take a whole granule in one step (R262, R263)? -/
def PortKind.wholeGranule : PortKind → Bool
  | .poisonclr => true
  | .granule _ => true
  | _ => false

/-- How many bytes from its address an operation may write. -/
def PortKind.span (k : PortKind) (pa : Nat) : Nat :=
  match k with
  | .store bs _ => bs.length
  | .granule bs => bs.length
  | .block bs => bs.length
  | .poisonclr => 4096
  | _ => 128 - pa % 128

/-- Does an operation write bytes of a line? -/
def PortOp.inLine (o : PortOp) (line : Nat) : Bool :=
  decide (o.pa < 128 * line + 128 ∧ 128 * line < o.pa + o.kind.span o.pa)

/-- A die's loads no longer meet an earlier version of a line once a store of that die to it is at its port (R27, R28). -/
def OldLine.lapse (die : Nat) (o : PortOp) (l : OldLine) : Option OldLine :=
  if o.inLine l.line then
    let ds := l.dies.filter (· != die)
    if ds.isEmpty then none else some { l with dies := ds }
  else some l

/-- An operation joins the operations that wait at an ordering point. -/
def State.joinOrder (s : State) (die : Nat) (o : PortOp) : State :=
  s.onRam fun r => { r with order := Sparse.set [] r.order die (Sparse.get [] r.order die ++ [o]) }

/-- An operation joins a die's ordering point, which takes 512 (R28, R432); `none` while it holds as many. -/
def State.intoOrder (s : State) (die : Nat) (o : PortOp) : Option State :=
  if 512 ≤ (s.orderAt die).length then none else some (s.joinOrder die o)

/-- What a line holds in its port's order now: each byte where it is known. -/
def State.lineNow (s : State) (cmp : BitVec 2) (line : Nat) : List (Option Byte) :=
  let q := (s.port (portOf (128 * line))).line (128 * line)
  let m := s.ram.read cmp (128 * line) 128
  (List.range 128).map fun i => match newest (fun o => o.at (128 * line + i)) q with
    | .value b => some b
    | .later => none
    | .no => m.map fun bs => bs.getD i 0

/-- The 128 B lines an operation writes. -/
def PortOp.lines (o : PortOp) : List Nat :=
  (List.range ((o.pa % 128 + o.kind.span o.pa + 127) / 128)).map (o.pa / 128 + ·)

/-- An operation of a die is about to change its lines in their port's order: what they hold is put aside, and plain loads of
every other die may still return it (R29); those of its own die return no earlier version any more. -/
def State.putAside (s : State) (die : Nat) (o : PortOp) : State :=
  s.onRam fun r =>
    let old := r.old.filterMap (OldLine.lapse die o)
    if r.poisoned o.pa ∨ o.kind.wholeGranule then { r with old := old }
    else o.lines.foldl (fun r line => { r with
      old := r.old ++ [⟨line, s.lineNow o.cmp line, (List.range 10).filter (· != die), r.oldNext⟩]
      oldNext := r.oldNext + 1 }) { r with old := old }

/-- The earlier versions of a line that a plain load of a core may return (R27, R29): none put aside before its last acquire
or older than what it has met there, and none where an operation on the line waits at its die's ordering point. -/
def State.olderLines (s : State) (id : CoreId) (pa : Nat) : List OldLine :=
  let line := pa / 128
  let c := s.coreAt id
  let least := Nat.max c.since (Sparse.get 0 c.seen line)
  s.ram.old.filter fun l => !((s.orderAt id.die).any fun o => o.inLine line) && l.line == line && l.dies.contains id.die && decide (least ≤ l.seq)

/-- The core has met a version of a line: it never goes back behind it (R27). -/
def Core.meets (c : Core) (line seq : Nat) : Core := { c with seen := Sparse.set 0 c.seen line seq }

/-- A plain load of n device bytes meets a version of their line: the present bytes `bs`, or, where earlier versions are open
to it, one of these by a free choice (R29), the core's own buffered stores over it (R26). -/
def State.meetLine (s : State) (pa n : Nat) (bs : List Byte) : State × List Byte :=
  let ls := s.olderLines s.focus pa
  let line := pa / 128
  if ls.isEmpty then (s, bs)
  else
    match ls[Config.freeChoice s.tick % (ls.length + 1)]? with
    | none => (s.onCore fun c => c.meets line s.ram.oldNext, bs)
    | some l =>
      let was := (l.bytes.drop (pa % 128)).take n
      if was.any (·.isNone) then (s.onCore fun c => c.meets line s.ram.oldNext, bs)
      else
        let own (i : Nat) : ByteSrc := (newest (fun e => e.kind.at false (.dev (pa + i))) s.core.openB).orElse
          ((newest (fun e => e.kind.at true (.dev (pa + i))) s.core.committed).orElse .memory)
        (s.onCore fun c => c.meets line l.seq,
          ((List.range n).zip was).map fun e => match own e.1 with
            | .held b => b
            | _ => e.2.getD 0)

/-- Is a request one that the copy engine awaits or sent on a core's behalf (R36)? -/
def OutWait.byEngine : OutWait → Bool
  | .engine => true
  | .copy _ => true
  | .tile _ => true
  | _ => false

/-- Is an operation of a core still on its way to ports (not yet in location order, R27)? `eng` counts the writes of its
copy engine too. -/
def State.inOrder (s : State) (id : CoreId) (eng : Bool) : Bool :=
  (s.orderAt id.die).any fun o => decide (o.who.core = id) && (eng || o.ack != .engine)

/-- Has a core requests to other devices that are not acknowledged? `eng` counts those of its copy engine too. -/
def State.unacked (s : State) (id : CoreId) (eng : Bool) : Bool :=
  s.fab.outs.any fun e => e.2.unacked.any fun r => decide (r.who.core = id) && (eng || !r.wait.byEngine)

/-- Is every earlier committed access of a core performed with respect to a scope (R30, R244, R253)? Within the die the
ordering point suffices; beyond it the operations must have reached their ports and the other devices. -/
def State.performedBy (s : State) (id : CoreId) (eng : Bool) (sc : Scope) : Bool :=
  match sc with
  | .core => true
  | .die => !s.unacked id eng
  | _ => !s.unacked id eng && !s.inOrder id eng

/-- Is every earlier committed access of a core itself performed with respect to a scope (R30, R244, R253)? What an engine
writes on its behalf is not ordered by it (R36). -/
def State.performed (s : State) (id : CoreId) (sc : Scope) : Bool := s.performedBy id false sc

/-- An acquire of a core at a scope: later loads go back to no version put aside before it (R30), and at POD or SYSTEM the
epoch of the remote-line cache rises and the core takes it (R393). -/
def State.podAcquire (s : State) (id : CoreId) (sc : Scope) : State :=
  let fresh (c : Core) : Core := { c with since := s.ram.oldNext, seen := [] }
  match sc with
  | .core => s
  | .pod | .system =>
    (s.onFab fun f => { f with epoch := f.epoch + 1 }).modCore id fun c => { fresh c with podEpoch := s.fab.epoch + 1 }
  | _ => s.modCore id fresh

/-! ## Requests to other devices (R391, R396) -/

/-- The source number of a core's flows. Hub engines use numbers of their own above these. -/
def State.flowOf (id : CoreId) (dev : Nat) : Nat := flowKey id.key dev
/-- A flow this device sends. -/
def State.outFlow (s : State) (k : Nat) : OutFlow := Sparse.get ⟨0, []⟩ s.fab.outs k

/-- The lines that a request writes, and the use of its page. -/
def lineWrites : FabricReq → List Nat × Option PageUse
  | .store pa bs via => ((List.range (ceilDiv (pa % 128 + bs.length) 128)).map fun i => pa / 128 + i, some via)
  | .masked pa bs _ via => ((List.range (ceilDiv (pa % 128 + bs.length) 128)).map fun i => pa / 128 + i, some via)
  | .amo pa _ _ _ via => ([pa / 128], some via)
  | .cas pa _ _ _ via => ([pa / 128], some via)
  | .amobnd pa _ _ _ via => ([pa / 128], some via)
  | .elem pa _ _ _ _ es via => (es.map fun e => (pa + e.1) / 128, some via)
  | _ => ([], none)
/-- The lines that a request writes, when its page is cached remote. -/
def reqLines (r : FabricReq) : List Nat :=
  if (lineWrites r).2.any fun via => via.mode = 2 then (lineWrites r).1 else []
/-- The lines that a memory request loads or writes. -/
def touchedLines : FabricReq → List Nat
  | .load pa n _ => (List.range (ceilDiv (pa % 128 + n) 128)).map fun i => pa / 128 + i
  | r => (lineWrites r).1

/-- Does a request load from one of some lines of a cached-remote page? -/
def asksLine (lines : List Nat) : FabricReq → Bool
  | .load pa _ via => decide (via.mode = 2) && lines.contains (pa / 128)
  | _ => false

/-- May a release of a core to a place of this device go ahead (R30)? For DIE and DEVICE the cores of this device are what counts: what it
has sent to other devices need not have arrived, once it is sealed off from them. -/
def State.performedHere (s : State) (id : CoreId) (sc : Scope) : Bool :=
  match sc with
  | .core => true
  | .die => true
  | .device => !s.inOrder id false
  | sc => s.performed id sc
/-- What a core has sent to other devices is performed for the cores of this device from now on (R30, R409): none of them meets an older value
there. -/
def State.seal (s : State) (id : CoreId) : State :=
  let lines := (s.fab.outs.flatMap fun e => (e.2.unacked.filter fun q => decide (q.who.core = id)).flatMap fun q =>
    (reqLines q.req).map fun l => (e.1 % 64, l))
  (s.onFab fun f => { f with lines := f.lines.filter fun l => !lines.contains (l.dev, l.line) }).modCore id fun c =>
    { c with sealed := s.fab.count }

/-- Send a request on a flow: numbered and kept until it is acknowledged (R396). One that writes in a cached-remote
page invalidates its line as it leaves (Table 14.2), and no load that left before it fills that line again (R27). -/
def State.sendReq (s : State) (flow : Nat) (who : Issuer) (w : OutWait) (r : FabricReq) : State :=
  let written := reqLines r
  s.onFab fun fb =>
    let aged (k : Nat) (f : OutFlow) : OutFlow :=
      if written.isEmpty || k % 64 != flow % 64 then f
      else { f with unacked := f.unacked.map fun q => { q with stale := q.stale || asksLine written q.req } }
    let outs := fb.outs.map fun e => (e.1, aged e.1 e.2)
    let f := Sparse.get ⟨0, []⟩ outs flow
    { fb with
      lines := fb.lines.filter fun l => !(l.dev == flow % 64 && written.contains l.line)
      outs := Sparse.put outs flow ⟨(f.next + 1) % 2 ^ 32, f.unacked ++ [⟨f.next, r, who, w, 0, false, fb.epoch, fb.count⟩]⟩
      count := fb.count + 1 }

/-- May a flow take a further request (R396)? -/
def State.flowRoom (s : State) (flow : Nat) : Bool := decide ((s.outFlow flow).unacked.length < 64)

/-- The flits of the packets of n bytes of payload: one header flit each and up to four payload flits of 64 B (R391). -/
def packets (n : Nat) : List Nat :=
  (List.range (Nat.max 1 (ceilDiv n 256))).map fun i => 1 + ceilDiv (Nat.min 256 (n - 256 * i)) 64

/-- The bytes of payload that a request carries, and its reply. -/
def reqBytes : FabricReq → Nat × Nat
  | .load _ n _ => (0, n)
  | .store _ bs _ => (bs.length, 0)
  | .masked _ bs _ _ => (bs.length, 0)
  | .amo _ n _ _ _ => (n, n)
  | .cas _ n _ _ _ => (2 * n, n)
  | .amobnd _ n _ _ _ => (2 * n, n)
  | .elem _ _ f _ _ es _ => (f.width * es.length, 0)
  | .tile _ _ bs => (bs.length, 0)
  | .message _ bs _ => (bs.length, 0)
  | .move _ _ b l _ bs _ => (b.length + l.length + bs.length, 0)
  | .supcfg _ _ _ _ bs => (bs.length, 0)
  | .strandValue _ _ _ ls cs _ => (4 * ls.length + 2 * cs.length, 0)
  | .strandResult _ ls cs _ => (4 * ls.length + 2 * cs.length, 0)
  | .migrationNotice _ bs => (bs.length, 0)
  | .granule _ _ bs _ => (bs.length, 0)
  | _ => (0, 0)

/-- The tokens that the packets of a request take: each its own flits, the last those of the expected reply too (R402). -/
def reqTokens (r : FabricReq) : List Nat :=
  let ps := packets (reqBytes r).1
  ps.dropLast ++ [ps.getLastD 0 + (packets (reqBytes r).2).sum]

/-- The ports whose link leads to a device and which are enabled (Table 14.1). -/
def State.portsTo (s : State) (d : Nat) : List Nat :=
  maskBits 24 ((Sparse.get 0 s.fab.fbdom d).toNat % 2 ^ 24 &&& s.fab.fbcfg.toNat % 2 ^ 24)

/-- The bucket of a context at a port (R402). -/
def State.bucket (s : State) (ctx p : Nat) : Nat := Sparse.get 0 s.fab.buckets (24 * ctx + p)

/-- Take the tokens of packets in order, each at the first of some ports that holds enough (R402): the state, and how many have left. -/
def State.payPackets (s : State) (ctx : Nat) (ports : List Nat) : List Nat → State × Nat
  | [] => (s, 0)
  | n :: rest => match ports.find? fun p => decide (n ≤ s.bucket ctx p) with
    | some p =>
      let r := (s.onFab fun f => { f with buckets := Sparse.set 0 f.buckets (24 * ctx + p) (s.bucket ctx p - n) }).payPackets ctx ports rest
      (r.1, r.2 + 1)
    | none => (s, 0)

/-- The packets of a request leave on a flow, as far as the tokens of its context go (R402): whether all have. What has left is remembered for the
same request; a context with a packet left is recorded as waiting at each port it could take. -/
def State.takeTokens (s : State) (flow ctx : Nat) (r : FabricReq) (ports : List Nat) : State × Bool :=
  let left := ((s.fab.partly.find? fun e => e.1 == flow && decide (e.2.1 = r)).map fun e => e.2.2).getD 0
  let due := (reqTokens r).drop left
  let p := s.payPackets ctx ports due
  let gone := decide (p.2 = due.length)
  (p.1.onFab fun f => { f with
    partly := f.partly.filter (fun e => e.1 != flow) ++ if gone ∨ left + p.2 = 0 then [] else [(flow, r, left + p.2)]
    waiting := f.waiting.filter (fun e => e.1 != flow) ++ if gone then [] else ports.map fun p => (flow, 24 * ctx + p) }, gone)

/-- Does a request touch what another core of this device has sent to that device before a release at DIE or DEVICE, and what has not arrived there? For the
cores of this device those stores are performed (R30), so that it waits. -/
def State.sealedOff (s : State) (src d : Nat) (r : FabricReq) : Bool :=
  let lines := touchedLines r
  !lines.isEmpty && s.fab.outs.any fun e => e.1 % 64 == d && e.1 / 64 != src && e.2.unacked.any fun q =>
    decide (q.left < (s.coreAt q.who.core).sealed) && (lineWrites q.req).1.any lines.contains

/-- Send a request of a core to a device when its flow and its context's tokens allow; `none` where it waits. -/
def State.trySend (s : State) (src : Nat) (ctx d : Nat) (who : Issuer) (w : OutWait) (r : FabricReq) :
    State × Option Nat :=
  let flow := flowKey src d
  if s.flowRoom flow && !s.sealedOff src d r then
    match s.takeTokens flow ctx r (s.portsTo d) with
    | (s1, true) => (s1.sendReq flow who w r, some (s.outFlow flow).next)
    | (s1, false) => (s1, none)
  else (s, none)

/-- MODE of a page (Table 12.3). -/
def PageMode.code : PageMode → BitVec 2
  | .loc => 0
  | .direct => 1
  | .cached => 2
  | .count => 3

/-- The number of a line of another device. -/
def remoteKey (dev line : Nat) : Nat := 64 * line + dev
/-- Does a core still have a write of a line on its way to another device? -/
def State.writingLine (s : State) (id : CoreId) (dev line : Nat) : Bool :=
  s.fab.outs.any fun e => decide (e.1 % 64 = dev) && e.2.unacked.any fun r => decide (r.who.core = id) && (reqLines r.req).contains line
/-- A line of the remote-line cache that may serve a load of a core (R393): no older than what the core has stored or met there
(R27). -/
def State.remoteLine (s : State) (id : CoreId) (dev pa : Nat) : Option RemoteLine :=
  let c := s.coreAt id
  let met := Sparse.get 0 c.met (remoteKey dev (pa / 128))
  if s.writingLine id dev (pa / 128) then none
  else s.fab.lines.find? fun l => l.dev == dev && l.line == pa / 128 && decide (c.podEpoch ≤ l.epoch)
    && decide (met ≤ l.left ∨ met = l.num)
/-- A core has met or stored the content of a line that the fabric's count stands for. -/
def Core.metLine (c : Core) (dev line n : Nat) : Core := { c with met := Sparse.set 0 c.met (remoteKey dev line) n }
/-- A core takes bytes from the line of the remote-line cache that serves it. -/
def State.meetRemote (s : State) (id : CoreId) (t : Target) : State :=
  match t.place with
  | .peer d pa .cached => (match s.remoteLine id d pa with
    | some l => s.modCore id fun c => c.metLine d (pa / 128) l.num
    | none => s)
  | _ => s

/-- Issue a load of n bytes from another device or a host: the core waits for the answer, which it keeps for the
instruction when that is issued again. -/
def State.remoteLoad (s : State) (t : Target) (va : DWord) (n : Nat) : State :=
  match t.place with
  | .peer d pa m =>
    let line := pa / 128 * 128
    let cached := m = .cached
    let req := if cached then FabricReq.load line 128 ⟨2, t.cmp, t.ctx⟩ else .load pa n ⟨m.code, t.cmp, t.ctx⟩
    let at' := if cached then Place.peer d line m else t.place
    (match s.trySend s.focus.key t.ctx d s.who (.core s.focus) req with
    | (s1, some q) => s1.onCore fun c => { c.hold with wait := some ⟨.fabric (flowKey s.focus.key d) q at' s.fab.epoch va, .nop⟩ }
    | (s1, none) => s1)
  | .host ha =>
    (match s.hostFunc t.ctx with
    | some f =>
      let r : HostReq := ⟨s.focus, false, f, decide ((s.func f).tst = 2), ha, n, s.tick, none⟩
      (s.onHub fun h => { h with hostReqs := h.hostReqs ++ [r] }).onCore fun c => { c.hold with wait := some ⟨.host t.place va, .nop⟩ }
    | none => s)
  | .dev _ => s

/-- An answer arrives for a waiting load: it is kept for the instruction, which is issued again. -/
def Core.keep (c : Core) (p : Place) (bs : List Byte) : Core :=
  { c with got := c.got ++ [(p, bs)], wait := none }

/-- Bytes that an answer has brought. -/
def Core.received (c : Core) (p : Place) (n : Nat) : Option (List Byte) :=
  if c.heldAt ≠ c.pc then none
  else c.got.findSome? fun e => match e.1.offset e.2.length p with
    | some i => if i + n ≤ e.2.length then some ((e.2.drop i).take n) else none
    | none => none

/-- Write the core's own buffered stores over bytes that came from elsewhere (R26). -/
def State.overlayOwn (s : State) (p : Place) (bs : List Byte) : List Byte :=
  ((List.range bs.length).zip bs).map fun e =>
    match s.byteSrc false (p.plus e.1) with
    | .held b => b
    | _ => e.2

/-- How a read of a target ends at issue. -/
inductive Read where
  | ok (bs : List Byte)
  /-- issued again later; the state holds what was sent -/
  | again (s : State)
  | poison (s : State)

/-- n bytes at a target, within one block, as a load of the executing core finds them (R28, R113, R241, R392, R393). -/
def State.readTarget (s : State) (skipOrder : Bool) (t : Target) (va : DWord) (n : Nat) : Read :=
  match t.place with
  | .dev pa =>
    (match s.devRead skipOrder t pa n with
    | .ok bs => .ok bs
    | .wait => .again s
    | .poison => .poison s
    | .found => .poison (s.onRam fun r => r.found pa))
  | p =>
    let srcs := (List.range n).map fun i => s.byteSrc false (p.plus i)
    if srcs.contains .wait then .again s
    else if srcs.all (fun b => match b with
      | .held _ => true
      | _ => false) then .ok (s.overlayOwn p (List.replicate n 0))
    else
      match s.core.received p n with
      | some bs => .ok (s.overlayOwn p bs)
      | none =>
        match p with
        | .peer d pa .cached =>
          (match s.remoteLine s.focus d pa with
          | some l => .ok (s.overlayOwn p ((l.bytes.drop (pa % 128)).take n))
          | none => .again (s.remoteLoad t va n))
        | _ => .again (s.remoteLoad t va n)

/-- A global load of n bytes at an aligned address (R29, R113): translation, the outcomes at issue, and the bytes; a plain
load of device memory may meet an earlier version of its line, an acquire (`skipOrder`) does not. -/
def State.loadGlobal (s : State) (va : DWord) (n : Nat) (skipOrder : Bool) (k : State → List Byte → Res) : Res :=
  s.translating va .read true fun t =>
    s.checkPlace t va
      (match s.readTarget skipOrder t va n with
      | .ok bs =>
        (match t.place with
        | .dev pa => if skipOrder || decide (hbmEnd ≤ pa) then k s bs else let r := s.meetLine pa n bs; k r.1 r.2
        | p => if (s.core.received p n).isNone then k (s.meetRemote s.focus t) bs else k s bs)
      | .again s1 => .next s1
      | .poison s1 => s1.killReason 6 va)

/-- Several loads of n bytes in order (R197 to R199). -/
def State.loadGlobals (s : State) (n : Nat) : List DWord → (State → List (List Byte) → Res) → Res
  | [], k => k s []
  | va :: rest, k => s.loadGlobal va n false fun t bs => t.loadGlobals n rest fun u r => k u (bs :: r)

end Sys2Proof.Machine
end

