-- ==== Sys2Proof/Machine/Operands.lean ====
section
/-!
DEFINITION. Operand forms shared by the families: integer operands and results (R104), conditions (R68), local and
global effective addresses (R21, R113), lane predicates, rounding and fourth operands of vector forms (R70, R173 to
R175).
-/

namespace Sys2Proof

/-! ## Fields of a vector form's predicate -/

/-- The length in bytes of a vector form: eight, and four more with a prefix word (R64). -/
def Guard.len : Guard → Nat
  | .plain _ => 8
  | .pfx _ _ _ _ _ => 12
/-- Are inactive lanes zeroed (R70, R173)? -/
def Guard.zeroing : Guard → Bool
  | .plain _ => false
  | .pfx _ _ _ z _ => z
/-- AX (R70). -/
def Guard.ax : Guard → Bool
  | .plain _ => false
  | .pfx ax _ _ _ _ => ax
/-- D4 (Table 02.9). -/
def Guard.d4 : Guard → VReg
  | .plain _ => 0
  | .pfx _ d _ _ _ => d

end Sys2Proof

namespace Sys2Proof.Machine

/-! ## Integers -/

/-- n of R104. -/
def opWidth (w : Bool) : Nat := if w then 32 else 64
/-- An operand as an n-bit two's complement integer. -/
def readS (w : Bool) (x : DWord) : Int := if w then (x.setWidth 32).toInt else x.toInt
/-- An operand as an n-bit unsigned integer. -/
def readN (w : Bool) (x : DWord) : Nat := if w then x.toNat % 2 ^ 32 else x.toNat
/-- `readN` as an integer. -/
def readU (w : Bool) (x : DWord) : Int := readN w x
/-- The result of R104: v[63:0], or v[31:0] sign-extended. -/
def narrow (w : Bool) (v : Int) : DWord := if w then (BitVec.ofInt 32 v).signExtend 64 else BitVec.ofInt 64 v
/-- Does a condition hold for two operands (R68, R105)? -/
def condHolds (c : Cond) (w : Bool) (x y : DWord) : Bool :=
  match c with
  | .eq => decide (readN w x = readN w y)
  | .ne => decide (readN w x ≠ readN w y)
  | .lt => decide (readS w x < readS w y)
  | .ge => decide (readS w y ≤ readS w x)
  | .ltn => decide (readN w x < readN w y)
  | .gen => decide (readN w y ≤ readN w x)
  | .al => true

/-! ## Addresses -/

/-- ea = s[a] + SignExt(imm32, 32), wrapping at 64 bits (R113). -/
def State.ea (s : State) (a : SReg) (imm : Word) : DWord := s.rs a + sext32 imm

/-- A local access of n bytes at an aligned address (R85, R113): its outcomes, or go on. -/
def State.localAccess (s : State) (ea : DWord) (align n : Nat) (k : Nat → Res) : Res :=
  if la ea % align ≠ 0 then s.badAddress ea
  else if s.mayReach (la ea) n then k (la ea) else s.notOwned (la ea)

/-- The outcome of a global address that is too wide or not aligned (R21, R113), or go on. -/
def State.globalAddress (s : State) (ea : DWord) (align : Nat) (k : Res) : Res :=
  if ea.toNat / 2 ^ 48 ≠ 0 ∨ ea.toNat % align ≠ 0 then s.badAddress ea else k

/-! ## Vector operands -/

/-- The lane predicate (R70). -/
def State.guard (s : State) : Guard → PWord
  | .plain g => s.rp g
  | .pfx _ _ _ _ m => s.rp m
/-- The rounding mode (R52, R70). -/
def State.rounding (s : State) : Guard → RMode
  | .plain _ => s.core.regs.rm
  | .pfx _ _ r _ _ => rndMode r s.core.regs.rm
/-- The absent trap of AX (R51, R175): INFO is the lowest active element with an absent input. -/
def State.absentTrap (s : State) (gd : Guard) (first : Option Nat) (k : Res) : Res :=
  match gd.ax, first with
  | true, some i => s.recoverable 0x02 i 0 0 s.core.pc
  | _, _ => k

end Sys2Proof.Machine
end

