-- ==== Sys2Proof/Machine/Ports.lean ====
section
/-!
DEFINITION. Input ports and their rings (R150 to R156), control mailboxes (R285, R286), and the counters of outstanding
operations (R102).
-/

namespace Sys2Proof.Machine

/-! ## Rings -/

/-- S of R152. -/
def IPort.slots (p : IPort) : Nat := p.slotsm1.toNat + 1
/-- The slot size in bytes. -/
def IPort.slotBytes (p : IPort) : Nat := 64 * 2 ^ p.size.toNat
/-- The local address of slot i (R152). -/
def IPort.slotAddr (p : IPort) (i : Nat) : Nat := (p.base.toNat * 512 + i * p.slotBytes) % 2 ^ 18
/-- The free count (R152). -/
def IPort.freeCount (p : IPort) : Nat := p.slots - p.filled - p.rsv
/-- The next slot to reserve (R152). -/
def IPort.next (p : IPort) : Nat := (p.head + p.filled + p.rsv) % p.slots
/-- The declared rate. -/
def IPort.rate (p : IPort) : Nat := p.ratem1.toNat + 1

/-- Input port p of an actor. -/
def ActorRec.inPort (r : ActorRec) (p : Nat) : IPort := if h : p < 4 then r.ins[p]'h else IPort.none
/-- Replace input port p. -/
def ActorRec.setIn (r : ActorRec) (p : Nat) (x : IPort) : ActorRec :=
  if h : p < 4 then { r with ins := r.ins.set p x h } else r
/-- Output port p of an actor. -/
def ActorRec.outPort (r : ActorRec) (p : Nat) : OPort := if h : p < 4 then r.outs[p]'h else OPort.none
/-- Replace output port p. -/
def ActorRec.setOut (r : ActorRec) (p : Nat) (x : OPort) : ActorRec :=
  if h : p < 4 then { r with outs := r.outs.set p x h } else r

/-- Reserve the next slot (R153 step 1). -/
def IPort.reserve (p : IPort) : IPort := { p with rsv := p.rsv + 1, pend := p.pend ++ [(p.next, false)] }

/-- Publish the run of written slots at the front of the reserved ones (R153 step 3). -/
def IPort.publishN : Nat → IPort → IPort
  | 0, p => p
  | n + 1, p => match p.pend with
    | (_, true) :: rest => IPort.publishN n { p with pend := rest, rsv := p.rsv - 1, filled := p.filled + 1 }
    | _ => p

/-- Slot i is written; publish what can be (R153 step 3). -/
def IPort.written (p : IPort) (i : Nat) : IPort :=
  let p1 := { p with pend := p.pend.map fun e => if e.1 = i then (i, true) else e }
  IPort.publishN p1.pend.length p1

/-- Slot i holds a tile released at a scope; CORE stands for none. -/
def IPort.releasedAt (p : IPort) (i : Nat) (sc : Scope) : IPort := { p with scopes := Sparse.set 0 p.scopes i (scopeNum sc) }
/-- The widest scope at which a tile counted in FILLED was released (R167). -/
def IPort.acquires (p : IPort) : Nat :=
  ((List.range p.filled).map fun j => Sparse.get 0 p.scopes ((p.head + j) % p.slots)).foldl Nat.max 0

/-- Write a tile into slot i of an actor's port: bytes, then every tag of the slot full (R155, R163), and publish; the slot
keeps the scope of the tile's release (R167). -/
def State.writeTile (s : State) (x : ActorId) (p i : Nat) (bs : List Byte) (sc : Scope) : State :=
  let r := s.actor x
  let ip := r.inPort p
  let s1 := s.modCore r.core fun c => (c.store (ip.slotAddr i) bs).setTags (ip.slotAddr i) true (ip.slotBytes / 8)
  s1.modActor x fun r => r.setIn p (((r.inPort p).written i).releasedAt i sc)

/-- Grant waiting requests of a port while it has free slots, in arrival order (R153, R154). -/
def State.grant (s : State) (x : ActorId) (p : Nat) : Nat → State
  | 0 => s
  | n + 1 =>
    let r := s.actor x
    let ip := r.inPort p
    match ip.asks with
    | [] => s
    | ask :: rest =>
      if ip.freeCount = 0 ∨ !s.inSlot x then s
      else
        let slot := ip.next
        let s1 := s.modActor x fun r => r.setIn p { (r.inPort p).reserve with asks := rest }
        let s2 := match ask with
          | .core c => s1.modCore c fun k => { k with tileQ := grantFirst x p (.granted r.core x p slot) k.tileQ }
          | .fabric dev flow seq _ bs => (s1.writeTile x p slot bs .system).reply dev flow seq .ack
        s2.grant x p n

/-- Grant whatever an advance of every port has freed. -/
def State.grantAll (s : State) (x : ActorId) : State :=
  [0, 1, 2, 3].foldl (fun t p => t.grant x p 17) s

/-- Advance the ports at END of a data firing (R107, R154). -/
def ActorRec.advance (r : ActorRec) : ActorRec :=
  { r with ins := r.ins.map fun p =>
    if p.en then
      let a := if p.ca then p.adv else p.rate
      { p with head := (p.head + a) % p.slots, filled := p.filled - a, ca := false, adv := 0 }
    else p }

/-! ## Control mailboxes -/

/-- The local address of mailbox slot i (R285). -/
def ActorRec.mailAddr (r : ActorRec) (i : Nat) : Nat := (r.mbase * 512 + i % 16 * 64) % 2 ^ 18

/-- Write a message into an actor's mailbox, COUNT rising by one (R285), with the scope it carries (R298). -/
def State.mailWrite (s : State) (x : ActorId) (bs : List Byte) (sc : Scope) : State :=
  let r := s.actor x
  (s.modCore r.core fun c => c.store (r.mailAddr (r.mhead + r.mcount)) bs).modActor x fun r =>
    { r with mcount := r.mcount + 1, mscopes := r.mscopes ++ [sc] }

/-- A message arrives at a live actor (R285): written, discarded without a signal entry, or overflow. -/
def State.mailArrive (s : State) (x : ActorId) (bs : List Byte) (sc : Scope) : State :=
  let r := s.actor x
  if !r.sge then s
  else if r.mcount + r.mrsv < 16 then s.mailWrite x bs sc
  else s.kill x 8

/-- A control message (R286): KIND, REASON, name, tag, and 40 bytes. -/
def mailBytes (kind reason : Nat) (w1 : DWord) (tag : Word) (body : List Byte) : List Byte :=
  bytesOf 8 (kind + 256 * reason) ++ bytesOf 8 w1.toNat ++ bytesOf 8 tag.toNat ++
    (body ++ List.replicate (40 - body.length) 0).take 40

/-! ## Outstanding operations (R102) -/

/-- Commands of the tile queue that are not complete; a complete SEND with LAST stays there until its instruction is
performed (R165). -/
def Core.tilesHeld (c : Core) : Nat := (c.tileQ.filter fun t => t.phase != .done).length
/-- The copies counter (R148). -/
def State.copiesCount (s : State) (id : CoreId) : Nat := (s.coreAt id).transferQ.length + (s.coreAt id).tilesHeld
/-- The queue of a work core at its Bezel (R208). -/
def State.bezelQueue (s : State) (p : Nat) : List BezelOp :=
  if h : octetPos p < 8 then (Sparse.get Bezel.reset s.bezels (posOctet p)).queues[octetPos p]'h else []
/-- The queue at octet position q. -/
def Bezel.queue (b : Bezel) (q : Nat) : List BezelOp := if h : q < 8 then b.queues[q]'h else []
/-- Replace the queue at octet position q. -/
def Bezel.setQueue (b : Bezel) (q : Nat) (l : List BezelOp) : Bezel :=
  if h : q < 8 then { b with queues := b.queues.set q l h } else b
/-- Change the queue of a work core at its Bezel. -/
def State.modBezelQueue (s : State) (p : Nat) (f : List BezelOp → List BezelOp) : State :=
  let b := Sparse.get Bezel.reset s.bezels (posOctet p)
  let b1 := b.setQueue (octetPos p) (f (b.queue (octetPos p)))
  { s with bezels := Sparse.set Bezel.reset s.bezels (posOctet p) b1 }
/-- The head of a core's committed entries has drained (R96): the commands after it have one entry less before them. -/
def State.popCommitted (s : State) (id : CoreId) : State :=
  let s1 := s.modCore id fun c => { c with
    committed := c.committed.drop 1
    transferQ := c.transferQ.map fun q => { q with ahead := q.ahead - 1 } }
  match id with
  | .work p => s1.modBezelQueue p fun q => q.map fun o => { o with ahead := o.ahead - 1 }
  | _ => s1
/-- The Bezel counter (R102). -/
def State.bezelCount (s : State) (id : CoreId) : Nat :=
  match id with
  | .work p => (s.bezelQueue p).length
  | _ => 0

end Sys2Proof.Machine
end

