-- ==== Sys2Proof/Machine/Tiles.lean ====
section
/-!
DEFINITION. The banks and tiles of a Bezel and what its operations compute (R203, R204, R213 to R227): MMA, the tiles'
checksums, drains and saves; and the bytes a core's own loads may see of commands still incomplete (R168, R231).
-/

namespace Sys2Proof.Machine

/-! ## Banks and tiles (R203, R204) -/

/-- The Bezel of an octet. -/
def State.bezel (s : State) (oct : Nat) : Bezel := Sparse.get Bezel.reset s.bezels oct
/-- Replace the Bezel of an octet. -/
def State.setBezel (s : State) (oct : Nat) (b : Bezel) : State :=
  { s with bezels := Sparse.set Bezel.reset s.bezels oct b }
/-- Physical tile i. -/
def Bezel.tile (b : Bezel) (i : Nat) : Tile := Sparse.get Tile.reset b.tiles i
/-- Replace physical tile i. -/
def Bezel.setTile (b : Bezel) (i : Nat) (t : Tile) : Bezel := { b with tiles := Sparse.set Tile.reset b.tiles i t }
/-- Physical bank i. -/
def Bezel.bank (b : Bezel) (i : Nat) : Bank := Sparse.get Bank.reset b.banks i
/-- Element (m, n) of a tile: value and count. -/
def Tile.elem (t : Tile) (m n : Nat) : Nat × Nat := Sparse.get (0, 0) t.elems (64 * m + n)
/-- A check never fed. Each row and each column of an F32 tile has a magnitude sum of its own (DEDUCED, log entry 127). -/
def Check.zero : Check := ⟨0, 0, 0, 0, false⟩
/-- Contents from the entries of numbers 0 to n − 1. -/
def sparseOf {α : Type} [DecidableEq α] (d : α) (n : Nat) (f : Nat → α) : Sparse α :=
  ((List.range n).map fun i => (i, f i)).filter fun e => decide (e.2 ≠ d)

/-- The octet of the executing core; the cores of the hub have no Bezel. -/
def State.octet? (s : State) : Option Nat :=
  match s.focus with
  | .work p => some (posOctet p)
  | _ => none
/-- The queue of the executing core at its Bezel, oldest first. -/
def State.bezelOps (s : State) : List BezelOp :=
  match s.focus with
  | .work p => s.bezelQueue p
  | _ => []

/-! ## MMA (R42, R58, R59, R215, R216) -/

/-- A BF16 input of an MMA: denormals read as zero of the same sign (R42). -/
def mmaBf16 (x : Elem) : FVal := fval .bf16 (if x / 128 % 256 = 0 then x / 32768 * 32768 else x)

/-- The exact sum S of a group's products, with the invalid condition (R215). -/
def groupSum (ps : List (FVal × FVal)) : FVal × FlagSet :=
  let prods := ps.map fun p => mulV p.1 p.2
  let isNan (v : FVal) : Bool := match v with
    | .nan _ => true
    | _ => false
  let inf? (neg : Bool) : Bool := prods.any fun v => v == some (.inf neg)
  let bad := prods.contains none || (inf? true && inf? false)
  let nans := ps.any fun p => isNan p.1 || isNan p.2
  let snans := ps.any fun p => p.1.snan || p.2.snan
  if bad || nans then (.nan false, flagIf (bad || snans) flagNV)
  else if inf? true then (.inf true, 0)
  else if inf? false then (.inf false, 0)
  else
    let xs := prods.filterMap fun v => match v with
      | some (.fin x) => some x
      | _ => none
    match xs with
    | [] => (.fin ⟨false, 0, 1⟩, 0)
    | x :: rest => (.fin (rest.foldl (Exact.add .rne) x), 0)

/-- One group of eight added to an element (R58, R59): value, count and the conditions met. -/
def groupStep (kind : Fmt) (xs ys : List Elem) (e : Nat × Nat) : (Nat × Nat) × FlagSet :=
  let fa : Fmt := if kind = .bf16 then .bf16 else .i8
  let ps := (xs.zip ys).filter fun p => present fa p.1 && present kind p.2
  let c := ps.length
  if c = 0 then (e, 0)
  else
    let v : Elem × FlagSet :=
      if kind = .bf16 then
        let s := groupSum (ps.map fun p => (mmaBf16 p.1, mmaBf16 p.2))
        let r := if e.2 = 0 then roundV .f32 .rne s.1 else addV .f32 .rne (fval .f32 e.1) s.1
        (r.1, r.2 ||| s.2)
      else
        let yval (y : Elem) : Int := if kind = .ts8 then tsVal y else intVal .i8 y
        let s : Int := (ps.map fun p => intVal .i8 p.1 * yval p.2).sum
        if e.2 = 0 then (intPat .i32 s, 0) else satI .i32 (intVal .i32 e.1 + s)
    let n := heldCount (e.2 + c)
    ((v.1, n.1), v.2 ||| n.2)

/-- Every group of an element's row of A and column of B. -/
def groupsOf (kind : Fmt) : Nat → List Elem → List Elem → Nat × Nat → FlagSet → (Nat × Nat) × FlagSet
  | 0, _, _, e, f => (e, f)
  | g + 1, xs, ys, e, f =>
    let r := groupStep kind (xs.take 8) (ys.take 8) e
    groupsOf kind g (xs.drop 8) (ys.drop 8) r.1 (f ||| r.2)

/-- Elements of w bytes from bytes. -/
def elemsOf (w : Nat) (bs : List Byte) : Array Elem :=
  let a := bs.toArray
  ((List.range (bs.length / w)).map fun i =>
    (List.range w).foldr (fun j n => (a.getD (w * i + j) 0).toNat + 256 * n) 0).toArray

/-- The operands of an MMA: the row length K, A by 64 rows of K, B by K rows of 64. -/
structure MmaIn where
  kind : Fmt
  k : Nat
  a : Array Elem
  b : Array Elem

/-- A(m, j). -/
def MmaIn.at (x : MmaIn) (m j : Nat) : Elem := x.a.getD (m * x.k + j) 0
/-- B(j, n). -/
def MmaIn.bt (x : MmaIn) (j n : Nat) : Elem := x.b.getD (64 * j + n) 0
/-- The format of A. -/
def MmaIn.fa (x : MmaIn) : Fmt := if x.kind = .bf16 then .bf16 else .i8
/-- Is the product A(m, j) × B(j, n) present? -/
def MmaIn.has (x : MmaIn) (m j n : Nat) : Bool := present x.fa (x.at m j) && present x.kind (x.bt j n)
/-- An element as a value of the checksum path: a number, or something a checksum cannot hold (R226). A BF16 denormal enters
it as the zero that the MMA reads it as (R42; DEDUCED, log entry 127). -/
def MmaIn.num (x : MmaIn) (isB : Bool) (e : Elem) : Option Exact :=
  if x.kind = .bf16 then
    match mmaBf16 e with
    | .fin v => some v
    | _ => none
  else if isB && x.kind = .ts8 then some (Exact.ofInt (tsVal e)) else some (Exact.ofInt (intVal .i8 e))

/-- Is an element a present infinity or NaN? -/
def MmaIn.special (x : MmaIn) (f : Fmt) (e : Elem) : Bool :=
  x.kind == .bf16 && present f e && (x.num false e).isNone

/-- The products of a row or column for its checksum, over the pairs (m, j, n) listed: the exact sum, the sum of
magnitudes and the count, or nothing when a factor is infinite or NaN. -/
def MmaIn.lineSum (x : MmaIn) (is : List (Nat × Nat × Nat)) : Option (Exact × Exact × Nat) :=
  is.foldl (fun r i =>
    match r with
    | none => none
    | some (s, mg, c) =>
      if x.has i.1 i.2.1 i.2.2 then
        match x.num false (x.at i.1 i.2.1), x.num true (x.bt i.2.1 i.2.2) with
        | some u, some v =>
          let p := u.mul v
          some (s.add .rne p, mg.add .rne { p with neg := false }, c + 1)
        | _, _ => none
      else some (s, mg, c)) (some (⟨false, 0, 1⟩, ⟨false, 0, 1⟩, 0))

/-- The sums of row m, or nothing where the MMA brings it an infinite or NaN factor: one of its own row of A, whatever it
meets, or one of B that meets a present factor of it (R226; log entry 127). -/
def MmaIn.rowSum (x : MmaIn) (m : Nat) : Option (Exact × Exact × Nat) :=
  let js := List.range x.k
  if js.any fun j => x.special x.fa (x.at m j) then none
  else x.lineSum (js.flatMap fun j => (List.range 64).map fun n => (m, j, n))

/-- The sums of column n, likewise (R226). -/
def MmaIn.colSum (x : MmaIn) (n : Nat) : Option (Exact × Exact × Nat) :=
  let js := List.range x.k
  if js.any fun j => x.special x.kind (x.bt j n) then none
  else x.lineSum (js.flatMap fun j => (List.range 64).map fun m => (m, j, n))

/-- A checksum after an MMA (R226): integer sums exact; F32 sums rounded to nearest, M upward. `hit` says an element of
the line saturated or became infinite or NaN. An MMA adds its whole exact sum and rounds once (DEDUCED, log entry 127). -/
def Check.add (c : Check) (isInt hit : Bool) (g : Option (Exact × Exact × Nat)) : Check :=
  match g with
  | none => { c with unchecked := true }
  | some (s, mg, n) =>
    if isInt then { c with vi := c.vi + s.top / s.den, cnt := c.cnt + n, unchecked := c.unchecked || hit }
    else
      let v := match fval .f32 c.vf with
        | .fin x => (roundF .f32 .rne (x.add .rne s)).1
        | _ => c.vf
      let m := match fval .f32 c.mag with
        | .fin x => (roundF .f32 .rup (x.add .rne mg)).1
        | _ => c.mag
      let inf := infPat .f32 false
      let big := decide (inf ≤ v % 2 ^ 31 ∨ inf ≤ m)
      { c with vf := v, mag := m, cnt := c.cnt + n, unchecked := c.unchecked || hit || big }

/-- Is an F32 pattern infinite or NaN? -/
def notFinite (x : Elem) : Bool := decide (infPat .f32 false ≤ x % 2 ^ 31)

/-- MMA on a tile (R215, R216, R226). -/
def Tile.mma (t : Tile) (x : MmaIn) : Tile :=
  let row (m : Nat) : List Elem := (List.range x.k).map (x.at m)
  let col (n : Nat) : List Elem := (List.range x.k).map fun j => x.bt j n
  let rs := (List.range 4096).map fun p =>
    groupsOf x.kind (x.k / 8) (row (p / 64)) (col (p % 64)) (t.elem (p / 64) (p % 64)) 0
  let ra := rs.toArray
  let isInt := x.kind != .bf16
  let hit (p : Nat) : Bool :=
    let r := ra.getD p ((0, 0), 0)
    (r.2 &&& flagSA) != 0 || (!isInt && r.1.2 != 0 && notFinite r.1.1)
  { elems := sparseOf (0, 0) 4096 fun p => (ra.getD p ((0, 0), 0)).1
    isInt := t.isInt
    cond := t.cond ||| flagOr (rs.map (·.2))
    rows := sparseOf Check.zero 64 fun m => (Sparse.get Check.zero t.rows m).add isInt
      ((List.range 64).any fun n => hit (64 * m + n))
      (x.rowSum m)
    cols := sparseOf Check.zero 64 fun n => (Sparse.get Check.zero t.cols n).add isInt
      ((List.range 64).any fun m => hit (64 * m + n))
      (x.colSum n) }

/-! ## MZERO, MREST, MSAVE (R218, R224, R225) -/

/-- A zeroed tile of a type. -/
def Tile.zero (isInt : Bool) : Tile := { Tile.reset with isInt := isInt }

/-- The numeric value of a present element; zero for one that is absent or not a number. -/
def Tile.num (t : Tile) (m n : Nat) : Exact :=
  let e := t.elem m n
  if e.2 = 0 then ⟨false, 0, 1⟩
  else if t.isInt then Exact.ofInt (intVal .i32 e.1)
  else match fval .f32 e.1 with
    | .fin v => v
    | _ => ⟨false, 0, 1⟩

/-- The exact sum of values over places. -/
def sumExact (xs : List Exact) : Exact := xs.foldl (Exact.add .rne) ⟨false, 0, 1⟩

/-- The check of a line recomputed from its elements (R226); an absent element of an F32 tile is neither infinite nor NaN. -/
def Tile.lineCheck (t : Tile) (ps : List (Nat × Nat)) : Check :=
  let xs := ps.map fun p => t.num p.1 p.2
  let s := sumExact xs
  let mg := sumExact (xs.map fun x => { x with neg := false })
  let odd := ps.any fun p =>
    let e := t.elem p.1 p.2
    decide (e.2 = 65535) || (if t.isInt then decide ((intVal .i32 e.1).natAbs = 2 ^ 31 - 1) else e.2 != 0 && notFinite e.1)
  ⟨if t.isInt then s.top / s.den else 0, if t.isInt then 0 else (roundF .f32 .rne s).1,
    (ps.map fun p => (t.elem p.1 p.2).2).sum, if t.isInt then 0 else (roundF .f32 .rup mg).1, odd⟩

/-- The places of row i, and of column i. -/
def rowPlaces (i : Nat) : List (Nat × Nat) := (List.range 64).map fun n => (i, n)
/-- The places of column i. -/
def colPlaces (i : Nat) : List (Nat × Nat) := (List.range 64).map fun m => (m, i)

/-- A tile restored from the layout of R224. -/
def Tile.restored (isInt : Bool) (bs : List Byte) : Tile :=
  let vs := elemsOf 4 (bs.take 16384)
  let cs := elemsOf 2 (bs.drop 16384)
  let t : Tile := { Tile.zero isInt with elems := sparseOf (0, 0) 4096 fun p => (vs.getD p 0, cs.getD p 0) }
  { t with
    rows := sparseOf Check.zero 64 fun i => t.lineCheck (rowPlaces i)
    cols := sparseOf Check.zero 64 fun i => t.lineCheck (colPlaces i) }

/-- The bytes MSAVE writes (R224). -/
def Tile.saved (t : Tile) : List Byte :=
  ((List.range 4096).flatMap fun p => bytesOf 4 (t.elem (p / 64) (p % 64)).1) ++
    (List.range 4096).flatMap fun p => bytesOf 2 (t.elem (p / 64) (p % 64)).2

/-! ## The check of a drain or save (R227) -/

/-- Does a line mismatch its checksums? -/
def Tile.mismatch (t : Tile) (c : Check) (ps : List (Nat × Nat)) : Bool :=
  if c.unchecked then false
  else
    let s := sumExact (ps.map fun p => t.num p.1 p.2)
    let n := (ps.map fun p => (t.elem p.1 p.2).2).sum
    decide (n ≠ c.cnt) ||
      (if t.isInt then decide (s.top / s.den ≠ c.vi)
      else match fval .f32 c.vf, fval .f32 c.mag with
        | .fin v, .fin mg =>
          let d := s.add .rne v.negate
          (Exact.mul mg ⟨false, 1, 2 ^ 14⟩).lt { d with neg := false }
        | _, _ => false)

/-- How the check ends. -/
inductive Checked where
  | ok
  | corrected (t : Tile)
  | failed

/-- The check of R227. -/
def Tile.check (t : Tile) : Checked :=
  let rs := (List.range 64).filter fun i => t.mismatch (Sparse.get Check.zero t.rows i) (rowPlaces i)
  let cs := (List.range 64).filter fun i => t.mismatch (Sparse.get Check.zero t.cols i) (colPlaces i)
  match rs, cs with
  | [], [] => .ok
  | [i], [j] =>
    let c := Sparse.get Check.zero t.cols j
    let others := (colPlaces j).filter fun p => p.1 != i
    let cnt := c.cnt - (others.map fun p => (t.elem p.1 p.2).2).sum
    let s := sumExact (others.map fun p => t.num p.1 p.2)
    let v := if t.isInt then intPat .i32 (c.vi - s.top / s.den)
      else match fval .f32 c.vf with
        | .fin x => (roundF .f32 .rne (x.add .rne s.negate)).1
        | _ => c.vf
    .corrected { t with elems := Sparse.set (0, 0) t.elems (64 * i + j) (v, cnt) }
  | _, _ => .failed

/-! ## MDRAIN (R219 to R221) -/

/-- x / cnt, exact. -/
def divCount (v : FVal) (n : Nat) : FVal :=
  match v with
  | .fin x => .fin ⟨x.neg, x.num, x.den * n⟩
  | v => v

/-- One output of a drain and its condition (R220). -/
def drainElem (fmt : Fmt) (isInt norm : Bool) (rm : RMode) (e : Nat × Nat) (scale : Option Elem) : Elem × FlagSet :=
  if e.2 = 0 then (absentOf fmt, flagAP)
  else
    let x := if isInt then FVal.fin (Exact.ofInt (intVal .i32 e.1)) else fval .f32 e.1
    let y := if norm then divCount x e.2 else x
    match scale with
    | none => convV fmt rm y
    | some sc =>
      if !present .f32 sc then (absentOf fmt, 0)
      else match mulV y (fval .f32 sc) with
        | some z => convV fmt rm z
        | none => convV fmt rm (.nan true)

/-! ## What an operation does -/

/-- The number of a free choice between old and new for piece i of what a step reads (R168, R231). -/
def mixTick (tick i : Nat) : Nat := tick + 2 ^ 24 + i

/-- n bytes in elements of w that an operation reads (R231): each element as it was when the operation was issued or as it
is now, by a free choice. `i0` numbers the first element. -/
def mixedRead (tick w : Nat) (before now : Mem) (a n i0 : Nat) : List Byte :=
  (List.range (n / w)).flatMap fun i =>
    padRead (if Config.freeBool (mixTick tick (i0 + i)) then before else now) (a + w * i) w

/-- The outcome of an operation in flight: the bytes it writes into the core's scratchpad, in order, the Bezel, the flags for
the core, and a reason that ends the issuer. -/
structure BezelEnd where
  writes : List (Nat × List Byte)
  bezel : Bezel
  flags : FlagSet
  reason : Option Nat

/-- The scratchpad after writes, in order. -/
def padWrites (m : Mem) (ws : List (Nat × List Byte)) : Mem := ws.foldl (fun m w => padWrite m w.1 w.2) m

/-- The B operand of an MMA: the rows of its banks in order. -/
def Bezel.operand (b : Bezel) (banks : List Nat) : List Byte := banks.flatMap fun i => memRead (b.bank i).bytes 0 8192

/-- A saturating 32-bit counter's next value. -/
def satInc (n : Nat) : Nat := sat32 (n + 1)

/-- Run the check of R227, then go on with the tile as it then stands. -/
def Bezel.checked (b : Bezel) (i : Nat) (k : Tile → Bezel → BezelEnd) : BezelEnd :=
  match (b.tile i).check with
  | .ok => k (b.tile i) b
  | .corrected t => k t { b.setTile i t with corr := satInc b.corr }
  | .failed => ⟨[], { b with uncorr := satInc b.uncorr }, 0, some 7⟩

/-- The values an MDRAIN writes, in order, with the conditions met (R220). The scale of a column is read as each element is
drained, so where it is an earlier output of the same drain it is that output; else each scale is as it was at issue or as it is
now (R231). -/
def Tile.drained (t : Tile) (tick : Nat) (before now : Mem) (fmt : Fmt) (rm : RMode) (norm : Bool) (a : Nat)
    (sc : Option Nat) : List Elem × FlagSet :=
  let out (before now : Mem) (p : Nat) : Elem × FlagSet :=
    drainElem fmt t.isInt norm rm (t.elem (p / 64) (p % 64))
      (sc.map fun q => natOf (mixedRead tick 4 before now (q + 4 * (p % 64)) 4 (p % 64)))
  match sc with
  | none =>
    let os := (List.range 4096).map (out before now)
    (os.map (·.1), flagOr (os.map (·.2)))
  | some _ =>
    let r := (List.range 4096).foldl (fun (r : (Mem × Mem) × List Elem × FlagSet) p =>
      let o := out r.1.1 r.1.2 p
      let put (m : Mem) : Mem := padWrite m (a + fmt.width * p) (bytesOf fmt.width o.1)
      ((put r.1.1, put r.1.2), o.1 :: r.2.1, r.2.2 ||| o.2)) ((before, now), [], 0)
    (r.2.1.reverse, r.2.2)

/-- Perform an operation (R213 to R225, R231): `before` is the issuing core's scratchpad at issue, `now` as it is. Counts are
written after values (R220). -/
def BezelKind.perform (k : BezelKind) (tick : Nat) (before now : Mem) (b : Bezel) : BezelEnd :=
  match k with
  | .bld fmt a i =>
    let bank : Bank := ⟨memWrite [] 0 (mixedRead tick (if fmt = .bf16 then 2 else 1) before now a 8192 0), fmt⟩
    ⟨[], { b with banks := Sparse.set Bank.reset b.banks i bank }, 0, none⟩
  | .mma kind i a banks =>
    let x : MmaIn := if kind = .bf16 then
        ⟨kind, 64, elemsOf 2 (mixedRead tick 2 before now a 8192 0), elemsOf 2 (b.operand banks)⟩
      else ⟨kind, 128 * banks.length, elemsOf 1 (mixedRead tick 1 before now a (8192 * banks.length) 0),
        elemsOf 1 (b.operand banks)⟩
    ⟨[], b.setTile i ((b.tile i).mma x), 0, none⟩
  | .mzero isInt i => ⟨[], b.setTile i (Tile.zero isInt), 0, none⟩
  | .mdrain fmt i a sc cn rm clr norm => b.checked i fun t b1 =>
    let os := t.drained tick before now fmt rm norm a sc
    let counts := match cn with
      | some q => [(q, (List.range 4096).flatMap fun p => bytesOf 2 (t.elem (p / 64) (p % 64)).2)]
      | none => []
    ⟨(a, os.1.flatMap (bytesOf fmt.width)) :: counts, if clr then b1.setTile i (Tile.zero t.isInt) else b1,
      t.cond ||| os.2, none⟩
  | .msave i a => b.checked i fun t b1 => ⟨[(a, t.saved)], b1, 0, none⟩
  | .mrest isInt i a =>
    let bs := mixedRead tick 4 before now a 16384 0 ++ mixedRead tick 2 before now (a + 16384) 8192 4096
    ⟨[], b.setTile i (Tile.restored isInt bs), 0, none⟩

/-! ## What a core's own loads see of incomplete commands (R168, R231) -/

/-- Does an operation write the scratchpad? -/
def BezelKind.drains : BezelKind → Bool
  | .mdrain _ _ _ _ _ _ _ _ => true
  | .msave _ _ => true
  | _ => false

/-- The bytes that the executing core's incomplete drains, saves and local copies will write: local address and bytes. A GL
command writes word by word as it goes. -/
def State.incoming (s : State) : List (Nat × List Byte) :=
  ((s.bezelOps.filter fun o => o.kind.drains).flatMap fun o =>
      (match s.octet? with
      | some oct => (o.kind.perform s.tick o.before s.core.mem (s.bezel oct)).writes
      | none => [])) ++
    s.core.transferQ.flatMap fun c => match c.kind with
      | .ll b a n _ bs => [(b, if c.started then bs else s.core.load a n)]
      | .lr t ra _ _ _ bs => if t = s.lciOf s.focus then [(ra, bs)] else []
      | _ => []

/-- The byte that bytes written at a local address put at place x. -/
def writtenByte (x : Nat) (w : Nat × List Byte) : Option Byte := w.2[(x % 2 ^ 18 + 2 ^ 18 - w.1 % 2 ^ 18) % 2 ^ 18]?

/-- n bytes of the executing core's scratchpad as its own scalar or vector instruction reads them: a byte that an incomplete
command writes is old or new by a free choice (R168, R231). -/
def State.localBytes (s : State) (a n : Nat) : List Byte :=
  match s.incoming with
  | [] => s.core.load a n
  | ws =>
    (List.range n).map fun i =>
      let old := Sparse.get 0 s.core.mem ((a + i) % 2 ^ 18)
      let new := ws.filterMap (writtenByte (a + i))
      ((old :: new)[Config.freeChoice (mixTick s.tick (2 ^ 20 + a + i)) % (new.length + 1)]?).getD old

end Sys2Proof.Machine
end

