-- ==== Sys2Proof/Machine/Fetch.lean ====
section
/-!
DEFINITION. Fetching an instruction from the scratchpad (R60 to R63, R87), and what REP may capture and how it strides
the register fields of a captured instruction (R108).
-/

namespace Sys2Proof.Machine

/-- What a fetch finds. -/
inductive Fetched where
  | instr (i : Instr)
  | illegal
  | overlay
  deriving DecidableEq, Repr

/-- Fetch at an address (R60, R62, R63, R87): aligned, below XBOUND, within its 32-byte block, and a word sequence
that decodes. -/
def Core.fetch (c : Core) (pc : LAddr) : Fetched :=
  let a := pc.toNat
  if a % 4 ≠ 0 then .illegal
  else if c.xbound.toNat ≤ a then .overlay
  else
    let n := wordCount ((bytesWords (c.load a 4)).headD 0)
    if a % 32 + 4 * n > 32 then .illegal
    else
      match decode (bytesWords (c.load a (4 * n))) with
      | .ok i => .instr i
      | .error _ => .illegal

/-- The address at which decoding goes on after a pad word (R62). -/
def afterPad (pc : LAddr) : LAddr := BitVec.ofNat 18 (pc.toNat / 32 * 32 + 32)

/-- The class of an instruction, OP[10:8] of its word 0 (R61). -/
def opClass (i : Instr) : Nat := ((encode i).headD 0).toNat / 2 ^ 8 % 8

/-- Does an instruction of classes 4 to 6 write a scalar register (R108)? -/
def writesScalar : Instr → Bool
  | .vextr _ _ _ _ _ => true
  | .vcount _ _ _ _ => true
  | .vlq _ _ => true
  | .pcnt _ _ _ => true
  | .pfirst _ _ _ => true
  | .mstat _ _ _ => true
  | _ => false

/-- May REP capture an instruction (R108)? -/
def capturable (i : Instr) : Bool :=
  decide (4 ≤ opClass i ∧ opClass i ≤ 6) && !writesScalar i && match i with
    | .sendLast _ => false
    | _ => true

/-- A register number some strides further, modulo 32, 16 for accumulator tiles or 8 for predicates (R108). -/
def strideReg {n : Nat} (r : BitVec n) (i stride : Nat) : BitVec n := BitVec.ofNat n (r.toNat + i * stride)

/-- A captured instruction at iteration i: every register field moved by its stride (R108, R200), and a bank name in the c
position modulo 16 (R211). -/
def strided (i : Nat) (sd sa sb sc : Nat) (x : Instr) : Instr :=
  let d {n : Nat} (r : BitVec n) : BitVec n := strideReg r i sd
  let a {n : Nat} (r : BitVec n) : BitVec n := strideReg r i sa
  let b {n : Nat} (r : BitVec n) : BitVec n := strideReg r i sb
  let c {n : Nat} (r : BitVec n) : BitVec n := strideReg r i sc
  match x with
  | .vadd f g x y z => .vadd f g (d x) (a y) (b z)
  | .vsub f g x y z => .vsub f g (d x) (a y) (b z)
  | .vmul f g x y z => .vmul f g (d x) (a y) (b z)
  | .vfma f g x y z w => .vfma f g (d x) (a y) (b z) (c w)
  | .vfms f g x y z w => .vfms f g (d x) (a y) (b z) (c w)
  | .vmin f g x y z => .vmin f g (d x) (a y) (b z)
  | .vmax f g x y z => .vmax f g (d x) (a y) (b z)
  | .vdiv f g x y z => .vdiv f g (d x) (a y) (b z)
  | .vsqrt f g x y => .vsqrt f g (d x) (a y)
  | .vmag f g x y => .vmag f g (d x) (a y)
  | .vneg f g x y => .vneg f g (d x) (a y)
  | .vand f g x y z => .vand f g (d x) (a y) (b z)
  | .vor f g x y z => .vor f g (d x) (a y) (b z)
  | .vxor f g x y z => .vxor f g (d x) (a y) (b z)
  | .vshl f g x y z => .vshl f g (d x) (a y) (b z)
  | .vshr f g x y z => .vshr f g (d x) (a y) (b z)
  | .vsar f g x y z => .vsar f g (d x) (a y) (b z)
  | .vadds f g x y z => .vadds f g (d x) (a y) (b z)
  | .vsubs f g x y z => .vsubs f g (d x) (a y) (b z)
  | .vcvt f h r q g x y => .vcvt f h r q g (d x) (a y)
  | .vcmp f k g x y z => .vcmp f k g (d x) (a y) (b z)
  | .vsel f k g x y z w => .vsel f k g (d x) (a y) (b z) (c w)
  | .vexp2 g x y => .vexp2 g (d x) (a y)
  | .vlog2 g x y => .vlog2 g (d x) (a y)
  | .vrcp g x y => .vrcp g (d x) (a y)
  | .vrsq g x y => .vrsq g (d x) (a y)
  | .vsca f v r g x y z => .vsca f v r g (d x) (a y) (b z)
  | .vvoid f g x => .vvoid f g (d x)
  | .vpres f g x y => .vpres f g (d x) (a y)
  | .vmov f g x y => .vmov f g (d x) (a y)
  | .vbcast f g x (.scalar y) => .vbcast f g (d x) (.scalar (a y))
  | .vbcast f g x (.elem y k) => .vbcast f g (d x) (.elem (a y) k)
  | .vins f g x y z => .vins f g (d x) (a y) (b z)
  | .vperm f g x y z => .vperm f g (d x) (a y) (b z)
  | .vslide f g q x y z => .vslide f g q (d x) (a y) (b z)
  | .vzip f g q x y z => .vzip f g q (d x) (a y) (b z)
  | .vunzip f g q x y z => .vunzip f g q (d x) (a y) (b z)
  | .vcompr f g x y => .vcompr f g (d x) (a y)
  | .vexpq4 g q x y => .vexpq4 g q (d x) (a y)
  | .qtld g y => .qtld g (a y)
  | .vreduce f g o x y => .vreduce f g o (d x) (a y)
  | .vscan f g o e x y => .vscan f g o e (d x) (a y)
  | .whilelt f g x y z => .whilelt f g (d x) (a y) (b z)
  | .pand x y z => .pand (d x) (a y) (b z)
  | .por x y z => .por (d x) (a y) (b z)
  | .pnot x y => .pnot (d x) (a y)
  | .pset f x k => .pset f (d x) k
  | .nred f g y z k => .nred f g (a y) (b z) k
  | .nsend q y z t => .nsend q (a y) (b z) t
  | .nsendRaw q y z => .nsendRaw q (a y) (b z)
  | .nrecv x => .nrecv (d x)
  | .mcast y k => .mcast (a y) k
  | .bld q f y k r s => .bld q f (a y) (c k) r s
  | .mma q f x y k n r s => .mma q f (d x) (a y) (c k) n r s
  | .mzero q f x r s => .mzero q f (d x) r s
  | .mdrain m => .mdrain { m with d := d m.d, a := a m.a, b := if m.sc then b m.b else m.b, c := if m.cn then c m.c else m.c }
  | .msave q x y r s => .msave q (d x) (a y) r s
  | .mrest q f x y r s => .mrest q f (d x) (a y) r s
  | .cpy m => .cpy { m with d := if m.dir = .lr then d m.d else m.d, a := a m.a, b := b m.b }
  | .cpy2 m => .cpy2 { m with d := d m.d, a := a m.a, b := b m.b }
  | .send m => .send { m with a := a m.a }
  | x => x

/-- Is a strided instruction one that its own encoding would allow: the count register of VREDUCE and VSCAN is not their
destination (R193)? -/
def strideAllowed : Instr → Bool
  | .vreduce _ gd _ d _ => gd.countReg d
  | .vscan _ gd _ _ d _ => gd.countReg d
  | _ => true

/-- Is an instruction one of the vector engine's: of classes 4 to 6, or a vector memory form of classes 2 and 3? -/
def isVector (i : Instr) : Bool :=
  decide (4 ≤ opClass i ∧ opClass i ≤ 6) || match i with
    | .vldl _ _ _ _ _ => true
    | .vstl _ _ _ _ _ => true
    | .vldg _ _ _ _ _ => true
    | .vstg _ _ _ _ _ => true
    | .vlds _ _ _ _ _ _ => true
    | .vsts _ _ _ _ _ _ => true
    | .vgath _ _ _ _ _ _ _ => true
    | .vscat _ _ _ _ _ _ _ => true
    | .vred _ _ _ _ _ _ _ _ => true
    | _ => false

/-- Does an instruction put an operation into the Bezel's queue (R206)? -/
def queuesBezel : Instr → Bool
  | .bld _ _ _ _ _ _ => true
  | .mma _ _ _ _ _ _ _ _ => true
  | .mzero _ _ _ _ _ => true
  | .mdrain _ => true
  | .msave _ _ _ _ _ => true
  | .mrest _ _ _ _ _ _ => true
  | _ => false
/-- Does an instruction put a command into the copy engine's queue at issue (R147)? -/
def queuesCopy : Instr → Bool
  | .cpy _ => true
  | .cpy2 _ => true
  | _ => false

/-- Has a repetition that still runs an instruction of a kind left to issue? -/
def Core.repHolds (c : Core) (p : Instr → Bool) : Bool :=
  c.rep.any fun r => r.stop.isNone && r.body.any fun e => p e.2

/-- What REP finds when it captures n instructions from an address, pad words skipped (R108). -/
inductive Captured where
  | ok (body : List (LAddr × Instr)) (next : LAddr)
  | illegal
  | overlay
  deriving DecidableEq, Repr

/-- Fuel enough to capture n instructions: each pad word skipped leads to a later 32-byte block, of which a scratchpad has
8,192. -/
def captureFuel (n : Nat) : Nat := 8192 + n

/-- Capture n instructions (R108); each pad word skipped uses up one unit of fuel. -/
def Core.capture (c : Core) : Nat → Nat → LAddr → List (LAddr × Instr) → Captured
  | _, 0, pc, acc => .ok acc.reverse pc
  | 0, _, _, _ => .illegal
  | fuel + 1, n + 1, pc, acc =>
    match c.fetch pc with
    | .illegal => .illegal
    | .overlay => .overlay
    | .instr .padWord => c.capture fuel (n + 1) (afterPad pc) acc
    | .instr i =>
      if capturable i then c.capture fuel n (pc + BitVec.ofNat 18 i.size) ((pc, i) :: acc) else .illegal

end Sys2Proof.Machine
end

