-- ==== Sys2Proof/Machine/Control.lean ====
section
/-!
DEFINITION. Class 1: control (R93, R103, R106 to R111) and the pad word (R62).
-/

namespace Sys2Proof.Machine

/-! ## Branches and jumps (Table 03.13) -/

/-- A + 4 × SignExt(imm32, 32), modulo 2¹⁸ (R106). -/
def State.branchTarget (s : State) (off : Word) : LAddr := s.core.pc + BitVec.ofNat 18 (4 * off.toNat)
/-- A + L as a link value (R106). -/
def State.link (s : State) (n : Nat) : DWord := (s.core.pc + BitVec.ofNat 18 n).setWidth 64
/-- The register target of JR and JALR, modulo 2¹⁸ (R106). -/
def State.regTarget (s : State) (a : SReg) (imm : Word) : LAddr := (s.rs a + sext32 imm).setWidth 18
/-- Branch when a condition holds, else go on n bytes further (R106). -/
def State.branchIf (s : State) (c : Bool) (off : Word) (n : Nat) : Res :=
  if c then .next (s.setPc (s.branchTarget off)) else s.done n

/-- BR (R106). -/
def execBr (w : Bool) (cond : Cond) (a b : SReg) (off : Word) (s : State) : Res :=
  s.branchIf (condHolds cond w (s.rs a) (s.rs b)) off 8
/-- BRI (R106). -/
def execBri (w : Bool) (cond : Cond) (a : SReg) (y off : Word) (s : State) : Res :=
  s.branchIf (condHolds cond w (s.rs a) (sext32 y)) off 12
/-- JMP (R106). -/
def execJmp (off : Word) (s : State) : Res := .next (s.setPc (s.branchTarget off))
/-- JAL (R106). -/
def execJal (d : SReg) (off : Word) (s : State) : Res := .next ((s.ws d (s.link 8)).setPc (s.branchTarget off))
/-- JR (R106). -/
def execJr (a : SReg) (imm : Word) (s : State) : Res := .next (s.setPc (s.regTarget a imm))
/-- JALR (R106): the target is formed before the link is written. -/
def execJalr (d a : SReg) (imm : Word) (s : State) : Res := .next ((s.ws d (s.link 8)).setPc (s.regTarget a imm))

/-! ## Regions and END -/

/-- REGION (R93): commits the region before it and opens one at the next instruction. -/
def State.regionOp (s : State) (smask vmask : Word) (n : Nat) : Res :=
  if s.core.canCommit then
    .next (((s.commit s.focus).adv n).onCore fun c => c.openRegion c.pc smask vmask)
  else .next s
/-- REGION, 64-bit form (R93). -/
def execRegion (smask : Word) (s : State) : Res := s.regionOp smask 0 8
/-- REGION, 96-bit form (R93). -/
def execRegionVec (smask vmask : Word) (s : State) : Res := s.regionOp smask vmask 12

/-- The oldest trap message that a context's handler holds is removed (R364). -/
def removeTrap (x : Nat) : List TrapMsg → List TrapMsg
  | [] => []
  | t :: rest => if t.holder = some x then rest else t :: removeTrap x rest

/-- END of a signal firing advances the mailbox by one message; a trap message leaves the context engine (R107, R285,
R364). -/
def State.endSignal (s : State) (x : ActorId) : State :=
  let r := s.actor x
  let kind := ((s.coreAt r.core).load (r.mailAddr r.mhead) 1).headD 0
  let s1 := s.modActor x fun r => { r with mhead := (r.mhead + 1) % 16, mcount := r.mcount - 1, mscopes := r.mscopes.drop 1 }
  if kind = 0x06 then s1.onCtxs fun c => { c with traps := removeTrap x.ctx c.traps } else s1

/-- END of the running firing (R107). -/
def State.endFiring (s : State) (sl : Nat) : State :=
  let s1 := (s.commit s.focus).onCore fun c => { c.setSlot sl ⟨.waiting, (c.slotAt sl).actor, none⟩ with run := .idle }
  match (s.core.slotAt sl).actor with
  | some x =>
    let s2 := if s.core.tsw.sf then s1.endSignal x else (s1.modActor x ActorRec.advance).grantAll x
    s2.modActor x fun r => { r with firings := r.firings + 1 }
  | none => s1

/-- The operation of END (R107). The die boot program returns its core to the hub (R145); code that runs in no slot
commits and goes on. -/
def State.endOp (s : State) : Res :=
  if s.core.canCommit then
    match s.core.run with
    | .firing sl => .next (s.endFiring sl)
    | .boot => .next ((s.commit s.focus).onCore fun c => { c with run := .idle })
    | _ => (s.commit s.focus).done 8
  else .next s

/-- END (R107). -/
def execEndF (s : State) : Res := s.endOp

/-! ## WAITC, REP -/

/-- Has the selected counter, or every counter, fallen to the threshold (R103)? Loads complete in issue order, so the
loads counter is zero at every later instruction. An operation that a repetition before the WAITC has still to issue is not
yet over (R108, R238; DEDUCED, log entry 112). -/
def State.counted (s : State) (sel : WaitSel) (n : Nat) : Bool :=
  let copies := !s.core.repHolds queuesCopy && decide (s.copiesCount s.focus ≤ n)
  let bezel := !s.core.repHolds queuesBezel && decide (s.bezelCount s.focus ≤ n)
  match sel with
  | .loads => true
  | .stores => decide (s.storesCount s.focus ≤ n)
  | .copies => copies
  | .bezel => bezel
  | .all => decide (s.storesCount s.focus ≤ n) && copies && bezel
  | .rep => s.core.rep.isNone

/-- WAITC (R103). -/
def execWaitc (sel : WaitSel) (n : Word) (s : State) : Res :=
  if s.counted sel n.toNat then s.done 8 else .next s

/-- REP (R108): captures the next n instructions; the iterations then issue on their own, and the scalar pipeline goes
on after them. A captured word that is no allowed encoding is REP's own fault, with TPC at the REP (DESIGN CHOICE, log
entry 113: R108 gives the trap to REP, R72 the address of "its" word 0). Hub and translation cores have no REP (R333, R360); one under RP is illegal (R109). -/
def execRep (nM1 : BitVec 4) (sd sa sb sc : BitVec 5) (count : BitVec 16) (s : State) : Res :=
  if s.core.tsw.rp ∨ count = 0 ∨ !s.focus.regions then s.illegal
  else
    match s.core.capture (captureFuel (nM1.toNat + 1)) (nM1.toNat + 1) (s.core.pc + 8) [] with
    | .illegal => s.illegal
    | .overlay => s.overlay
    | .ok body next =>
      if s.core.rep.isSome then .next s
      else .next (s.onCore fun c => { c with
        pc := next
        rep := some ⟨body, sd.toNat, sa.toNat, sb.toNat, sc.toNat, count.toNat, 0, 0, c.regs.s, none, none, [], []⟩ })

/-! ## TRAPI, ERET, NOP, pad word -/

/-- TRAPI (R111). -/
def execTrapi (imm : Word) (s : State) : Res := s.recoverable 0x03 imm.toNat 0 0 (s.core.pc + 8)

/-- ERET (R87, R109, R111, R364, R385). -/
def execEret (s : State) : Res :=
  if s.core.tsw.ov then .next s.overlayReturn
  else
    match s.priv with
    | 0 => if s.core.tsw.it then .next s.trapReturn else s.illegal
    | 1 => if s.core.tsw.sf then s.endOp else s.illegal
    | 2 => s.done 8
    | _ =>
      if s.core.tsw.it then .next (s.onCore fun c => { c with pc := c.traps.tpc, tsw := { c.tsw with it := false } })
      else s.done 8

/-- NOP (R111). -/
def execNop (s : State) : Res := s.done 8

/-- The pad word (R62). -/
def execPadWord (s : State) : Res := .next (s.setPc (afterPad s.core.pc))

end Sys2Proof.Machine
end

