-- ==== Sys2Proof/Machine/CtlReg.lean ====
section
/-!
DEFINITION. Control registers: GETC and SETC (R81 to R83), and the register writes that act: windows (R126), strand
entries (R128), BZMAP (R206), PRQDONE (R349), the service queues (R360), and plain registers.
-/

namespace Sys2Proof.Machine

/-! ## Reading -/

/-- TSW as a register (Table 03.3). -/
def Tsw.word (t : Tsw) : DWord :=
  dw (2 ^ 11 * t.ovp.toNat + 2 ^ 10 * t.ov.toNat + 2 ^ 8 * t.cpri.toNat + 2 ^ 4 * t.priv.toNat + 2 ^ 3 * t.rp.toNat
    + 2 ^ 2 * t.sf.toNat + 2 * t.it.toNat + t.apb.toNat)

/-- PORT0 to PORT3 (Table 05.1). -/
def IPort.word (p : IPort) : DWord :=
  dw (2 ^ 50 * p.ratem1.toNat + 2 ^ 44 * p.slotsm1.toNat + 2 ^ 42 * p.size.toNat + 2 ^ 33 * p.base.toNat
    + 2 ^ 26 * p.filled + 2 ^ 19 * p.rsv + 2 ^ 13 * p.head + 2 ^ 6 * p.adv + 2 ^ 5 * p.ca.toNat + p.en.toNat)

/-- PORT4 to PORT7 (Table 05.2): DCORE, DSLOT and XDEV follow the destination's present location (R151); where the name's incarnation has
none, since it is dead, free or restarting or the name carries the generation of an earlier one, DCORE and DSLOT read 0 (DESIGN CHOICE, log entry
116). -/
def State.outWord (s : State) (p : OPort) : DWord :=
  let x := s.idOf p.name
  let r := s.actor x
  let xdev := s.deviceOf x != s.thisDev
  let known := p.en && !xdev && (nameGen p.name == 0 || nameGen p.name == r.gen) && (r.st == .resident || r.st == .leaving || r.st == .migrating)
  dw ((if known then 2 ^ 50 * s.lciOf r.core + 2 ^ 44 * (r.slot % 64) else 0) + 2 ^ 42 * p.dport.toNat
    + 2 ^ 40 * p.dsize.toNat + 2 ^ 34 * p.ratem1.toNat + 2 ^ 27 * p.sent + (if p.en && xdev then 2 ^ 26 else 0)
    + p.en.toNat)

/-- CTXID (Table 13.1): of a partition's service core, 0 while the partition is not live. -/
def State.ctxidWord (s : State) : DWord :=
  if !s.ctxLive s.ctx then 0 else dw (2 ^ 24 * s.ctxPidx s.ctx + 2 ^ 16 * s.ctxDepth s.ctx + s.ctx)

/-- MESHID (Table 04.3). -/
def State.meshidWord (s : State) (p : Nat) : DWord :=
  let r := s.core.router
  dw (2 ^ 40 * s.hub.boot.toNat + 2 ^ 26 * r.lci.toNat + 2 ^ 25 * r.val.toNat + 2 ^ 15 * r.lidx.toNat + 2 ^ 11 * posDie p
    + 2 ^ 10 * r.cv.toNat + 2 ^ 5 * r.y.toNat + r.x.toNat)

/-- Does a context hold a work core: is its index in the context's interval (R358, R359)? -/
def State.holds (s : State) (x : Nat) (id : CoreId) : Bool :=
  decide (x = 0) || ((s.coreAt id).router.val && decide (s.ctxCbase x ≤ s.lciOf id ∧ s.lciOf id < s.ctxCbase x + s.ctxClen x))

/-- The position on the device of octet position q of an octet (R15). -/
def octetPosition (oct q : Nat) : Nat :=
  1024 * (oct / 128) + 32 * (2 * (oct % 128 / 8) + q / 4) + 4 * (oct % 8) + q % 4
/-- The functional positions of an octet, in order. -/
def State.octetCores (s : State) (oct : Nat) : List Nat :=
  (List.range 8).filter fun q => s.functional (.work (octetPosition oct q))

/-- Does the arbiter run the isolation pattern: are the octet's cores granted to more than one partition, whether each its own or
some to several that share them by slices (R210, R358)? -/
def State.wantIso (s : State) (oct : Nat) : Bool :=
  let held (p : Nat) : Bool := s.ctxLive (p + 1) &&
    (s.octetCores oct).any fun q => s.holds (p + 1) (.work (octetPosition oct q))
  decide (1 < ((List.range 24).filter held).length)

/-- BZMAP with ISO, which the context engine keeps (Table 07.2, R210). -/
def State.bzmapWord (s : State) (p : Nat) : DWord :=
  setBits 52 1 (s.wantIso (posOctet p)).toNat s.core.bzmap

/-- MISSA (Table 12.2). -/
def missaWord (m : Miss) : DWord := dw (2 ^ 52 * m.ctx + m.va % 2 ^ 48)
/-- MISSB (Table 12.2). -/
def missbWord (m : Miss) : DWord :=
  let kind := match m.kind with
    | .read => 0
    | .write => 1
    | .readWrite => 2
  dw (2 ^ 34 + 2 ^ 32 * kind + 2 ^ 16 * (m.id % 2 ^ 16) + m.lci)

/-- The ring number of a hub core: service core p, or the root monitor as 24. -/
def CoreId.ringBase : CoreId → Nat
  | .service p => 3 * p
  | _ => 72

/-- TAIL and HEAD of a service queue (Table 13.3). -/
def State.sqWord (s : State) (i : Nat) : DWord :=
  let r := Sparse.get (0, 0) s.ctxs.rings (CoreId.ringBase s.focus + i)
  dw (2 ^ 48 * (r.1 % 512) + 2 ^ 32 * (r.2 % 512))

/-- The value GETC reads from a number; `none` where it names no register of the issuing core (R83, Table 03.2). -/
def State.readCr (s : State) (num : Nat) : Option DWord :=
  let c := s.core
  let ports := (c.actor?.map s.actor).getD ActorRec.free
  match num with
  | 0x000 => some c.tsw.word
  | 0x001 => some (c.xbound.setWidth 64)
  | 0x002 => some (c.ovh.setWidth 64)
  | 0x003 => some (dw c.regs.rm.code)
  | 0x004 => some (c.regs.flags.setWidth 64)
  | 0x005 => some c.cyc
  | 0x006 => some c.selfn
  | 0x007 => some (c.slotReg.setWidth 64)
  | 0x008 => some (c.region.entry.setWidth 64)
  | 0x009 => some (dw (2 ^ 32 * c.region.vmask.toNat + c.region.smask.toNat))
  | 0x00A => some c.traps.tcause
  | 0x00B => some c.traps.taddr
  | 0x00C => some (c.traps.tpc.setWidth 64)
  | 0x00D => some (c.traps.thnd.setWidth 64)
  | 0x00E => some 128
  | 0x00F => some (c.traps.ovret.setWidth 64)
  | 0x030 => some s.ctxidWord
  | 0x031 => some (dw s.ceiling)
  | n =>
    if h : 0x010 ≤ n ∧ n < 0x018 then some (c.wins[n - 0x010]'(by omega))
    else if 0x020 ≤ n ∧ n < 0x024 then some (ports.inPort (n - 0x020)).word
    else if 0x024 ≤ n ∧ n < 0x028 then some (s.outWord (ports.outPort (n - 0x024)))
    else
      match s.focus with
      | .work p =>
        if n = 0x100 then some (s.meshidWord p)
        else if n = 0x101 then some (c.bsum.setWidth 64)
        else if h : 0x110 ≤ n ∧ n < 0x120 then some (c.strands[n - 0x110]'(by omega))
        else if n = 0x120 then some (s.bzmapWord p)
        else if n = 0x128 then some 0 else none
      | .transl k =>
        if n = 0x129 then some (s.ctxs.epoch.setWidth 64)
        else if n = 0x12A then some (s.transQ k).missa else none
      | _ => if n = 0x128 then some 0 else if 0x140 ≤ n ∧ n < 0x143 then some (s.sqWord (n - 0x140)) else none

/-- GETC (R83). CYC advances by at least one cycle from one read to the next; by how much no rule fixes (R19). -/
def execGetc (d : SReg) (num : BitVec 12) (s : State) : Res :=
  if 0x100 ≤ num.toNat ∧ s.priv = 0 then s.privilege
  else
    let s1 := if num = 5 then s.onCore fun c => { c with
        cyc := c.cyc + 1 + Config.freeWord s.tick % 65536 } else s
    match s1.readCr num.toNat with
    | some v => (s1.ws d v).done 8
    | none => s.illegal

/-- GETC of MISSB (R334): the oldest message leaves the queue; its first word is latched in MISSA. -/
def execGetcMissb (d : SReg) (s : State) : Res :=
  if s.priv = 0 then s.privilege
  else
    match s.focus with
    | .transl k =>
      let q := s.transQ k
      (match q.queue with
      | [] => (s.ws d 0).done 8
      | m :: rest => ((s.setTransQ k ⟨rest, q.taken ++ [m], missaWord m⟩).ws d (missbWord m)).done 8)
    | _ => s.illegal

/-! ## Writes that act -/

/-- The fields of a window a SETC writes (Table 04.4). -/
def winMask : DWord := 0x000FFFFFFFF3FFFF
/-- EN of a window. -/
def winEn (v : DWord) : Bool := bitAt 51 v
/-- BASE of a window. -/
def winBase (v : DWord) : Nat := bitsAt 9 9 v
/-- NB of a window. -/
def winNb (v : DWord) : Nat := bitsAt 0 9 v
/-- OWNER of a window. -/
def winOwner (v : DWord) : Nat := bitsAt 52 6 v
/-- NS of a window. -/
def winNs (v : DWord) : Bool := bitAt 58 v

/-- A write of WINk by the running code (R126), then `k'`. Ownership (3) comes before refused (4), as R117 orders them;
only the beads that exist are looked at (DEDUCED, log entry 23). -/
def State.writeWindow (s : State) (k : Fin 8) (v : DWord) (k' : State → Res) : Res :=
  let old := s.core.wins[k]
  let slot := s.core.slot?
  let foreign := decide (s.priv = 0) && winEn old && (winNs old || slot != some (winOwner old))
  let owned := (List.range (min (winNb v + 1) (512 - winBase v))).all fun i =>
    decide (some (s.core.bead (winBase v + i)) = slot.map Bead.owned)
  if foreign then s.killReason 3 0
  else if s.priv = 0 ∧ winEn v ∧ !owned then s.killReason 3 0
  else if winEn v ∧ 511 < winBase v + winNb v then s.refusedR
  else
    let w := (v &&& winMask) ||| (match slot with
      | some n => dw (2 ^ 52 * (n % 64))
      | none => dw (2 ^ 58))
    k' (s.onCore fun c => { c with wins := c.wins.set k w })

/-- A write of STRANDk at privilege 1 to 3 (R128), then `k'`. -/
def State.writeStrand (s : State) (k : Nat) (v : DWord) (k' : State → Res) : Res :=
  match s.focus with
  | .work pos =>
    if s.priv = 0 then s.privilege
    else if s.priv = 1 ∧ !(bitsAt 52 12 v == s.ctx || s.inSubtree s.ctx (bitsAt 52 12 v)) then s.refusedR
    else k' (s.setStrand pos k v)
  | _ => s.illegal

/-- The physical tiles and banks a context is granted in an octet, as a mask of 16 (R359). -/
def State.bezelGrant (s : State) (x oct : Nat) : Nat :=
  let here := (List.range 8).filter fun q => !s.mesh.fused.contains (octetPosition oct q)
  let held := here.filter fun q => s.holds x (.work (octetPosition oct q))
  if held.length = here.length then 0xFFFF else held.foldl (fun m q => m + 3 * 4 ^ q) 0

/-- ACM of a BZMAP value. -/
def acm (v : DWord) : Nat := bitsAt 32 16 v
/-- BWM of a BZMAP value. -/
def bwm (v : DWord) : Nat := bitsAt 16 16 v
/-- BRM of a BZMAP value. -/
def brm (v : DWord) : Nat := bitsAt 0 16 v

/-- A write of BZMAP at privilege 1 to 3 (R206), then `k'`. -/
def State.writeBzmap (s : State) (v : DWord) (k' : State → Res) : Res :=
  match s.focus with
  | .work pos =>
    if s.priv = 0 then s.privilege
    else if s.bezelCount s.focus ≠ 0 then .next s
    else
      let oct := posOctet pos
      let wanted := (acm v ||| bwm v) ||| brm v
      let others := ((List.range 8).filter fun q => octetPosition oct q != pos && !s.mesh.fused.contains (octetPosition oct q)).foldl
        (fun m q => m ||| acm (s.coreAt (.work (octetPosition oct q))).bzmap) 0
      let newTiles := (acm v ^^^ acm s.core.bzmap) &&& acm v
      if wanted &&& (0xFFFF ^^^ s.bezelGrant s.ctx oct) ≠ 0 ∨ newTiles &&& others ≠ 0 then s.refusedR
      else k' (s.onCore fun c => { c with bzmap := setBits 0 48 (bitsAt 0 48 v) c.bzmap })
  | _ => s.illegal

/-- A waiter whose request is served becomes WAITING with its resume pending, or, a core of the hub, goes on (R349). -/
def State.wakeSlot (s : State) (w : Waiter) : State :=
  s.modCore w.core fun c =>
    if w.slot = 64 then { c with wait := none }
    else
      let sl := c.slotAt w.slot
      if sl.st == .parked && sl.actor == w.actor && w.actor.all (fun x => (s.actor x).gen == w.gen) then c.setSlot w.slot { sl with st := .waiting } else c

/-- A waiter whose request is denied ends with translation-denied (R349), its incarnation as long as it lives; a read of the actor
engine fails so. -/
def State.denySlot (e : PageReq) (s : State) (w : Waiter) : State :=
  if w.slot = 65 then s.onCtxs fun x => { x with engDenied := x.engDenied ++ [(e.handler, e.addr)] }
  else if w.slot = 64 then
    let t := (s.modCore w.core fun c => { c with wait := none }).refocus w.core
    (t.fatal 0x4E 14 0).refocus s.focus
  else
    match w.actor with
    | some x =>
      let sl := (s.coreAt w.core).slotAt w.slot
      if (s.actor x).gen ≠ w.gen ∨ (s.inSlot x && sl.st != .parked) then s
      else (match if s.inSlot x then sl.resume else none with
        | some r => (s.kill x 14).reportFault w.core x r.rcd.tsw 0x4E
        | none => s.kill x 14)
    | none => s

/-- A write of PRQDONE by code of a context (R349): performed only on a held entry whose trap reached the handler of
that context or of a descendant. -/
def State.prqdone (s : State) (issuer : Nat) (v : DWord) : State :=
  let id := bitsAt 0 10 v
  match s.ctxs.prq.find? fun e => e.id == id with
  | none => s
  | some e =>
    let may := match e.receiver with
      | some y => y == issuer || s.inSubtree issuer y
      | none => false
    if may then
      let s1 := s.onCtxs fun c => { c with prq := c.prq.filter fun x => x.id != id }
      e.waiters.foldl (if bitAt 10 v then State.denySlot e else State.wakeSlot) s1
    else s

/-- A write of HEAD of a service queue (R360). -/
def State.writeSq (s : State) (i : Nat) (v : DWord) : State :=
  let k := CoreId.ringBase s.focus + i
  let r := Sparse.get (0, 0) s.ctxs.rings k
  let h := bitsAt 32 9 v
  if 256 < (r.1 + 512 - h) % 512 then s
  else s.onCtxs fun c => { c with rings := Sparse.set (0, 0) c.rings k (r.1, h) }

/-- A write of a plain register of the core (R6, R82), field by field; read-only registers ignore it. -/
def State.writePlain (s : State) (num : Nat) (v : DWord) : State :=
  let p1 (f : Core → Core) : State := if s.priv = 0 then s else s.onCore f
  match num with
  | 0x000 => s.onCore fun c => { c with tsw := { c.tsw with apb := bitAt 0 v } }
  | 0x001 => p1 fun c => { c with xbound := BitVec.ofNat 18 (bitsAt 9 9 v * 512) }
  | 0x002 => p1 fun c => { c with ovh := v.setWidth 18 }
  | 0x003 => s.onCore fun c => { c with regs := { c.regs with rm := (RMode.ofCode (bitsAt 0 3 v)).getD c.regs.rm } }
  | 0x004 => s.onCore fun c => { c with regs := { c.regs with flags := c.regs.flags &&& ~~~(v.setWidth 6) } }
  | 0x00C => p1 fun c => { c with traps := { c.traps with tpc := v.setWidth 18 } }
  | 0x00D => s.onCore fun c => { c with traps := { c.traps with thnd := v.setWidth 18 } }
  | 0x00F => p1 fun c => { c with traps := { c.traps with ovret := v.setWidth 18 } }
  | _ => s

/-- A write of a control register by the running code (R83), then `k`. -/
def State.writeCr (s : State) (num : Nat) (v : DWord) (k : State → Res) : Res :=
  if 0x100 ≤ num ∧ s.priv = 0 then s.privilege
  else if h : 0x010 ≤ num ∧ num < 0x018 then s.writeWindow ⟨num - 0x010, by omega⟩ v k
  else
    match s.readCr num with
    | none =>
      (match s.focus with
      | .transl _ => if num = 0x12B then k s else s.illegal
      | _ => s.illegal)
    | some _ =>
      if 0x110 ≤ num ∧ num < 0x120 then s.writeStrand (num - 0x110) v k
      else if num = 0x120 then s.writeBzmap v k
      else if num = 0x128 then k (s.prqdone s.ctx v)
      else if 0x140 ≤ num ∧ num < 0x143 then k (s.writeSq (num - 0x140) v)
      else k (s.writePlain num v)

/-- SETC, register form (R83). -/
def execSetc (num : BitVec 12) (a : SReg) (s : State) : Res := s.writeCr num.toNat (s.rs a) fun t => t.done 8
/-- SETC, immediate form (R83). -/
def execSetcImm (num : BitVec 12) (imm : BitVec 20) (s : State) : Res :=
  s.writeCr num.toNat (imm.setWidth 64) fun t => t.done 8

/-! ## The writes as steps of their own -/

/-- WINDOW_WRITE: a write of WIN0 to WIN7 by the running code (R126). -/
def execWindowWrite (k : BitVec 3) (v : DWord) (s : State) : Res := s.writeWindow k.toFin v .next
/-- BZMAP_WRITE (R206). -/
def execBzmapWrite (v : DWord) (s : State) : Res := s.writeBzmap v .next
/-- STRAND_WRITE (R128). -/
def execStrandWrite (k : BitVec 4) (v : DWord) (s : State) : Res := s.writeStrand k.toNat v .next
/-- PRQDONE_WRITE by code of core c (R349). -/
def execPrqdoneWrite (c : CoreId) (v : DWord) (s : State) : Res := .next (s.prqdone (s.ctxOn c) v)
/-- The fuse block and the nine die counts, which index 4 measures (R422, R431). -/
def State.fuseObject (s : State) : List Byte :=
  Config.fuseBlock s.mesh.fused ++ (List.range 9).flatMap fun d => bytesOf 8 ((Sparse.get 0 s.hub.dierpt d).toNat % 2 ^ 32)

/-- Bytes of the boot flash from an address (R430). -/
def State.flashBytes (s : State) (a n : Nat) : List Byte := memRead s.hub.flash a n

/-- REGISTER_WRITE (R6, R83, R410): a plain register of the running core, or of control space at privilege 2 or 3, where privilege 3 is the root
monitor's. What the boot and the management interface do to Hallmark, the link and the boot flash without a register of their own is its other
form (R420, R422, R424, R425, R430, log entry 135). -/
def execRegisterWrite (r : RegRef) (v : DWord) (s : State) : Res :=
  match r with
  | .cr num => s.writeCr num.toNat v .next
  | .ctl pa priv =>
    if priv < 2 then .next s
    else .next (s.ctlWrite (if 3 ≤ priv then .root else .other) priv (ctlAt (pa / 8 * 8)) v true)
  | .extend i object =>
    if i = 4 then .next (s.extend 4 (Config.sm3 s.fuseObject))
    else .next (if i = 2 ∨ i = 3 ∨ (5 ≤ i ∧ i < 29) then s.extend i (Config.sm3 object) else s)
  | .signatureFailed => .next (if s.hub.boot then s.onHub fun h => { h with recovery := true } else s)
  | .ownerCert chain => .next (s.onHub fun h => { h with ownerCert := h.ownerCert.or (some chain) })
  | .linkEnable => .next (if s.hub.recovery then s else s.onHub fun h => { h with link := true })
  | .flashWrite a bytes => .next (s.onHub fun h => { h with flash := memWrite h.flash a bytes })
  | .flashRead a n => .next (s.onHub fun h => { h with out := h.out ++ [.flash (s.flashBytes a n)] })
  | .manageStatus => .next (s.onHub fun h => { h with out := h.out ++ [.status h.tripped h.recovery] })

end Sys2Proof.Machine
end

