-- ==== Sys2Proof/Machine/Memory.lean ====
section
/-!
DEFINITION. Class 2, scalar and tagged memory instructions (R112 to R115), remote admission by windows (R127), and the
events of a tagged wait and of a remote access.
-/

namespace Sys2Proof.Machine

/-! ## Scalar loads and stores -/

/-- Width in bytes of a load variant (Table 03.14). -/
def ldBytes : LdW → Nat
  | .d => 8
  | .s32 => 4
  | .z32 => 4
  | .s16 => 2
  | .z16 => 2
  | .s8 => 1
  | .z8 => 1
/-- Width in bytes of a store variant (Table 03.14). -/
def stBytes : StW → Nat
  | .d => 8
  | .b32 => 4
  | .b16 => 2
  | .b8 => 1
/-- Ext of a load variant (Table 03.14). -/
def ldExt (k : LdW) (bs : List Byte) : DWord :=
  let x := dwOf bs
  match k with
  | .d => x
  | .s32 => sextLow 32 x
  | .z32 => zextLow 32 x
  | .s16 => sextLow 16 x
  | .z16 => zextLow 16 x
  | .s8 => sextLow 8 x
  | .z8 => zextLow 8 x

/-- LDL (R113). -/
def execLdl (k : LdW) (d a : SReg) (imm : Word) (s : State) : Res :=
  s.localAccess (s.ea a imm) (ldBytes k) (ldBytes k) fun p => (s.ws d (ldExt k (s.localBytes p (ldBytes k)))).done 8

/-- STL (R113). -/
def execStl (k : StW) (a b : SReg) (imm : Word) (s : State) : Res :=
  s.localAccess (s.ea a imm) (stBytes k) (stBytes k) fun p =>
    (s.onCore fun c => c.store p (bytesOf (stBytes k) (s.rs b).toNat)).done 8

/-- The invariant-load cache of the executing core's cluster (R34): a line of the running context that holds the
bytes. -/
def State.invLine (s : State) (pa : Nat) : Option InvLine :=
  match s.focus with
  | .work p => s.ram.invs.find? fun l => l.cluster == posCluster p && l.ctx == s.ctx && l.line == pa / 128
  | _ => none

/-- Lines of a cluster's invariant-load cache: 1 MiB (R16, R18). -/
def invLines : Nat := 8192
/-- A line joins its cluster's invariant-load cache; where the cache is full the device chooses which line it replaces (R16, R34). -/
def fillCluster (tick cluster : Nat) (ls : List InvLine) (x : InvLine) : List InvLine :=
  let mine := ls.filter fun l => l.cluster == cluster
  let out := if invLines ≤ mine.length then mine[Config.freeChoice tick % mine.length]? else none
  (ls.filter fun l => out != some l) ++ [x]

/-- Fill the line of an invariant load (R34) with what the location holds: the core's own buffered stores are no part of it
(R26). -/
def State.fillInv (s : State) (t : Target) (pa : Nat) : State :=
  match s.focus, s.engineRead s.focus.die false t.cmp (pa / 128 * 128) 128 with
  | .work p, .ok bs => s.onRam fun r => { r with
      invs := fillCluster s.tick (posCluster p)
        (r.invs.filter fun l => !(l.cluster == posCluster p && l.ctx == s.ctx && l.line == pa / 128))
        ⟨posCluster p, s.ctx, pa / 128, bs⟩ }
  | _, _ => s

/-- An invariant load (R34): a line of the cache may serve it, which the device chooses; otherwise it is a plain load
that fills the line. -/
def State.loadInvariant (s : State) (va : DWord) (n : Nat) (k : State → List Byte → Res) : Res :=
  s.translating va .read true fun t =>
    match t.place with
    | .dev pa =>
      (match s.invLine pa, Config.freeBool s.tick with
      | some l, true => k s ((l.bytes.drop (pa % 128)).take n)
      | _, _ => s.loadGlobal va n false fun u bs => k (if hbmEnd ≤ pa then u else u.fillInv t pa) bs)
    | _ => s.loadGlobal va n false k

/-- LDG (R34, R113). -/
def execLdg (k : LdW) (inv : Bool) (d a : SReg) (imm : Word) (s : State) : Res :=
  let ea := s.ea a imm
  let n := ldBytes k
  s.globalAddress ea n
    (if inv then s.loadInvariant ea n fun t bs => (t.ws d (ldExt k bs)).done 8
    else s.loadGlobal ea n false fun t bs => (t.ws d (ldExt k bs)).done 8)

/-- A global store of bytes at an aligned address as one entry of the open region (R95, R113), then `k`. -/
def State.storeGlobal (s : State) (va : DWord) (bs : List Byte) (rel : Option Scope) (k : State → Res) : Res :=
  s.translating va .write false fun t =>
    s.checkPlace t va (s.withEntries [s.entry (.store t bs (List.range bs.length)) rel] k)

/-- STG (R113). -/
def execStg (k : StW) (a b : SReg) (imm : Word) (s : State) : Res :=
  let ea := s.ea a imm
  s.globalAddress ea (stBytes k) (s.storeGlobal ea (bytesOf (stBytes k) (s.rs b).toNat) none fun t => t.done 8)

/-- Does an acquire at a scope take nothing from the ordering point (R32)? -/
def beyondDie (sc : Scope) : Bool := decide (2 ≤ scopeNum sc)

/-- LDAQ (R30, R32, R33, R113). -/
def execLdaq (k : LdW) (scope : Scope) (d a : SReg) (imm : Word) (s : State) : Res :=
  let ea := s.ea a imm
  let n := ldBytes k
  let sc := s.clamp scope
  s.globalAddress ea n
    ((s.podAcquire s.focus sc.1).loadGlobal ea n (beyondDie sc.1) fun t bs =>
      ((t.ws d (ldExt k bs)).clamped sc.2).done 8)

/-- STRL (R30, R33, R113). -/
def execStrl (k : StW) (scope : Scope) (a b : SReg) (imm : Word) (s : State) : Res :=
  let ea := s.ea a imm
  let sc := s.clamp scope
  s.globalAddress ea (stBytes k)
    (s.storeGlobal ea (bytesOf (stBytes k) (s.rs b).toNat) (some sc.1) fun t => (t.clamped sc.2).done 8)

/-! ## Windows (R127) -/

/-- The deepest live context whose interval holds a work core (R358). -/
def State.deepest (s : State) (id : CoreId) : Nat :=
  (s.ctxs.ccb.map (·.1)).foldl (fun best x =>
    if s.ctxLive x && s.holds x id && decide (s.ctxDepth best ≤ s.ctxDepth x) then x else best) 0

/-- The context that now runs on a work core (R127): the one that holds the slice, or the deepest that holds the
core. -/
def State.runningCtx (s : State) (id : CoreId) : Nat :=
  if (s.coreAt id).rotation = [] then s.deepest id else (s.coreAt id).ctx

/-- The context of the actor in a slot. -/
def Core.slotCtx (c : Core) (n : Nat) : Option Nat := (c.slotAt n).actor.map (·.ctx)

/-- Does a window admit an access with a permission bit by index c of context x to n bytes at la (R127)? -/
def State.winAdmits (s : State) (tgt : CoreId) (w : DWord) (perm c x a n : Nat) : Bool :=
  let t := s.coreAt tgt
  let beads := beadsOf a n
  winEn w && bitAt perm w && decide (bitsAt 34 14 w ≤ c ∧ c < bitsAt 34 14 w + bitsAt 20 14 w)
    && beads.all (fun k => decide (winBase w ≤ k ∧ k ≤ winBase w + winNb w))
    && (if winNs w then
      decide (s.runningCtx tgt = x) && beads.all fun k => match t.bead k with
        | .owned sl => decide (t.slotCtx sl = some x)
        | _ => false
    else
      decide (t.slotCtx (winOwner w) = some x) && beads.all fun k => decide (t.bead k = .owned (winOwner w)))

/-- Is a remote access admitted by some window of the target (R127)? -/
def State.admits (s : State) (tgt : CoreId) (perm c x a n : Nat) : Bool :=
  (List.range 8).any fun i => if h : i < 8 then s.winAdmits tgt ((s.coreAt tgt).wins[i]'h) perm c x a n else false

/-- Permission bits of Table 04.4. -/
def permA : Nat := 50
/-- T. -/
def permT : Nat := 49
/-- W. -/
def permW : Nat := 48

/-- The core that a logical index names for the running context: itself, another core of its interval, or a refusal
(R115). -/
inductive Named where
  | self
  | other (id : CoreId)
  | refused
  deriving DecidableEq, Repr

/-- Resolve a logical core index for the code on a core (R115, R140). -/
def State.nameCore (s : State) (id : CoreId) (n : DWord) : Named :=
  let x := s.ctxOn id
  match id with
  | .work _ =>
    if n.toNat = s.lciOf id ∧ (s.coreAt id).router.val then .self
    else if n.toNat < s.ctxCbase x ∨ s.ctxCbase x + s.ctxClen x ≤ n.toNat then .refused
    else
      (match s.coreOfLci n.toNat with
      | some t => .other t
      | none => .refused)
  | _ => .refused

/-! ## Tagged instructions (R114, R115) -/

/-- What a tagged instruction does at its word. -/
inductive TagKind where
  | ldf | ldfp | ste | tagw (full : Bool) | tagr
  deriving DecidableEq, Repr

/-- A tagged operation with its operands read. -/
structure TagOp where
  kind : TagKind
  ea : DWord
  tgt : Option DWord
  data : DWord
  d : SReg
  deriving DecidableEq, Repr

/-- The tagged operation of an instruction, operands read on the executing core (R114). -/
def State.tagOp (s : State) (i : Instr) : Option TagOp :=
  match i with
  | .ldf tgt d a imm => some ⟨.ldf, s.ea a imm, tgt.map s.rs, 0, d⟩
  | .ldfp tgt d a imm => some ⟨.ldfp, s.ea a imm, tgt.map s.rs, 0, d⟩
  | .ste a b imm => some ⟨.ste, s.ea a imm, none, s.rs b, 0⟩
  | .steRem a b c => some ⟨.ste, s.rs a, some (s.rs b), s.rs c, 0⟩
  | .tagw full tgt a imm => some ⟨.tagw full, s.ea a imm, tgt.map s.rs, 0, 0⟩
  | .tagr tgt d a imm => some ⟨.tagr, s.ea a imm, tgt.map s.rs, 0, d⟩
  | _ => none

/-- Does a tagged operation close the region (R98, R114)? -/
def TagKind.closes : TagKind → Bool
  | .ldf => true
  | .ste => true
  | _ => false

/-- Does the tag allow the operation (R114)? -/
def TagKind.ready (k : TagKind) (tag : Bool) : Bool :=
  match k with
  | .ldf => tag
  | .ldfp => tag
  | .ste => !tag
  | _ => true

/-- The indivisible update at the word's core, and the value read (R114). -/
def TagOp.perform (o : TagOp) (c : Core) : Core × DWord :=
  let a := la o.ea
  match o.kind with
  | .ldf => (c.setTag a false, c.load8 a)
  | .ldfp => (c, c.load8 a)
  | .ste => ((c.store a (bytesOf 8 o.data.toNat)).setTag a true, 0)
  | .tagw full => (c.setTag a full, 0)
  | .tagr => (c, dw (c.tag a).toNat)

/-- Complete an instruction of n bytes on the executing core, whose wait ends; a closing one opens a new region (R98
step 4). -/
def State.finish (s : State) (closing : Bool) (n : Nat) : State :=
  (s.adv n).onCore fun c => if closing then { c with wait := none }.reopen else { c with wait := none }

/-- Does a tagged operation read its word's bytes? -/
def TagKind.loads : TagKind → Bool
  | .ldf => true
  | .ldfp => true
  | _ => false

/-- A tagged operation performs at a core for the executing core, which completes; on its own core it meets incomplete
commands as a load does (R168, R231). -/
def State.tagDone (s : State) (home : CoreId) (o : TagOp) : State :=
  let r := o.perform (s.coreAt home)
  let v := if o.kind.loads && home == s.focus then dwOf (s.localBytes (la o.ea) 8) else r.2
  ((s.setCore home r.1).ws o.d v).finish o.kind.closes 8

/-- Issue a tagged instruction (R98, R114, R115): checks, the closing commit, and the operation or its wait. -/
def State.tagIssue (s : State) (i : Instr) : Res :=
  match s.tagOp i with
  | none => s.illegal
  | some o =>
    let home : Named := match o.tgt with
      | none => .self
      | some n => s.nameCore s.focus n
    if la o.ea % 8 ≠ 0 then s.badAddress o.ea
    else
      match home with
      | .refused => s.refusedR
      | .self =>
        if !s.mayReach (la o.ea) 8 then s.notOwned (la o.ea)
        else if o.kind.closes ∧ !s.core.canCommit then .next s
        else
          let s1 := if o.kind.closes then s.closeRegion else s
          if o.kind.ready (s1.core.tag (la o.ea)) then .next (s1.tagDone s1.focus o)
          else .next (s1.onCore fun c => { c with wait := some ⟨.tagged, i⟩ })
      | .other _ =>
        if o.kind.closes ∧ !s.core.canCommit then .next s
        else
          let s1 := if o.kind.closes then s.closeRegion else s
          .next (s1.onCore fun c => { c with wait := some ⟨.remote false, i⟩ })

/-- LDF (R114). -/
def execLdf (tgt : Option SReg) (d a : SReg) (imm : Word) (s : State) : Res := s.tagIssue (.ldf tgt d a imm)
/-- LDFP (R114). -/
def execLdfp (tgt : Option SReg) (d a : SReg) (imm : Word) (s : State) : Res := s.tagIssue (.ldfp tgt d a imm)
/-- STE, local variant (R114). -/
def execSte (a b : SReg) (imm : Word) (s : State) : Res := s.tagIssue (.ste a b imm)
/-- STE, remote variant (R114, R115). -/
def execSteRem (a b c : SReg) (s : State) : Res := s.tagIssue (.steRem a b c)
/-- TAGW (R114). -/
def execTagw (full : Bool) (tgt : Option SReg) (a : SReg) (imm : Word) (s : State) : Res :=
  s.tagIssue (.tagw full tgt a imm)
/-- TAGR (R114). -/
def execTagr (tgt : Option SReg) (d a : SReg) (imm : Word) (s : State) : Res := s.tagIssue (.tagr tgt d a imm)

/-- The core at which the waiting tagged operation of the executing core performs. -/
def State.tagHome (s : State) (o : TagOp) : CoreId :=
  match o.tgt with
  | none => s.focus
  | some n => match s.nameCore s.focus n with
    | .other t => t
    | _ => s.focus

/-- The address of the word a waiting LDF, LDFP or STE of the executing core names, where its bead has gone in transit at the core
that holds it: the access ends its code with ownership (R164). -/
def State.tagLost (s : State) : Option Nat :=
  match s.core.wait with
  | some w =>
    (match w.kind, s.tagOp w.instr with
    | .remote true, some o =>
      if ((s.coreAt (s.tagHome o)).bead (beadOf (la o.ea))).inTransit then some (la o.ea) else none
    | _, _ => none)
  | none => none

/-- The waiting LDF, LDFP or STE of the executing core whose tag now allows it, with the core it performs at (R114). -/
def State.tagWait (s : State) : Option (CoreId × TagOp) :=
  if s.tagLost.isSome then none
  else
  match s.core.wait with
  | some w =>
    (match w.kind, s.tagOp w.instr with
    | .tagged, some o => if o.kind.ready (s.core.tag (la o.ea)) then some (s.focus, o) else none
    | .remote true, some o =>
      let home := s.tagHome o
      if o.kind.ready ((s.coreAt home).tag (la o.ea)) then some (home, o) else none
    | _, _ => none)
  | none => none

/-- TAGGED_WAIT_COMPLETE (R114): the waiting LDF, LDFP or STE of a core performs when its tag allows it, or ends its code where its
bead has gone in transit (R164). -/
def execTaggedWaitComplete (id : CoreId) (s : State) : Res :=
  let t := s.refocus id
  let r := match t.tagLost, t.tagWait with
    | some a, _ => t.notOwned a
    | none, some (home, o) => .next (t.tagDone home o)
    | none, none => .next t
  r.refocused s.focus

end Sys2Proof.Machine
end

