-- ==== Sys2Proof/Machine/Atomics.lean ====
section
/-!
DEFINITION. Class 3, indices 0 to 4 and 6, and POISONCLR: scalar atomics and reductions, REDF and FENCE (R241 to R253,
R263), with the operations a port applies (Table 09.3, R250).
-/

namespace Sys2Proof.Machine

/-! ## What a port computes -/

/-- A pattern of n bytes as a signed integer. -/
def signedN (n x : Nat) : Int := (BitVec.ofNat (8 * n) x).toInt

/-- Op of AMO and RED (Table 09.3): always written. -/
def amoNew (op : AmoOp) (n old y : Nat) : Nat :=
  match op with
  | .add => (old + y) % 2 ^ (8 * n)
  | .and => Nat.land old y
  | .or => Nat.lor old y
  | .xor => Nat.xor old y
  | .min => if signedN n old ≤ signedN n y then old else y
  | .max => if signedN n old ≤ signedN n y then y else old
  | .minn => Nat.min old y
  | .maxn => Nat.max old y
  | .swap => y

/-- CAS (Table 09.3, R246): the new value where written. -/
def casNew (old y z : Nat) : Option Nat := if old = y then some z else none

/-- AMOBND (Table 09.3, R247): z is the addend y, q the bound; the sum is exact. -/
def bndNew (n old y q : Nat) : Option Nat :=
  let z := signedN n y
  let t := signedN n old + z
  if (0 ≤ z ∧ t ≤ signedN n q) ∨ (z < 0 ∧ signedN n q ≤ t) then some ((t % 2 ^ (8 * n)).toNat) else none

/-- A present element as m := x stores it: a NaN as the default NaN (R250). -/
def stored (f : Fmt) (x : Elem) : Elem := if isNaN f x then defaultNaN f else x

/-- Comb(m, x) and the plain layout (R250). -/
def combPlain (r : ElemRed) (m x : Elem) : Elem :=
  if !present r.fmt x then m
  else if !present r.fmt m then stored r.fmt x
  else (nodeE r.fmt r.op r.rm m x).1

/-- The counted layout (R249, R250): the element and its count. -/
def combCounted (r : ElemRed) (m count x : Nat) : Nat × Nat :=
  if !present r.fmt x then (m, count)
  else
    let v := if count = 0 ∨ !present r.fmt m then stored r.fmt x else (nodeE r.fmt r.op r.rm m x).1
    (v, Nat.min (count + 1) 65535)

/-! ## Returning atomics (R244, R245) -/

/-- Is a scope above the ceiling reduced for an order other than relaxed (R33, R244)? -/
def State.clampOrd (s : State) (ord : Ord) (scope : Scope) : Scope × Bool :=
  match ord with
  | .relaxed => (scope, false)
  | _ => s.clamp scope

/-- Does an order release? -/
def ordReleases : Ord → Bool
  | .release => true
  | .acqRel => true
  | _ => false
/-- Does an order acquire? -/
def ordAcquires : Ord → Bool
  | .acquire => true
  | .acqRel => true
  | _ => false

/-- A returning atomic with its operands read. -/
structure AmoCall where
  kind : PortKind
  n : Nat
  ord : Ord
  scope : Scope
  d : SReg
  deriving DecidableEq, Repr

/-- Width in bytes of f (Table 09.2). -/
def amoBytes (w : Bool) : Nat := if w then 4 else 8

/-- The returning atomic of an instruction, operands read on the executing core. -/
def State.amoCall (s : State) (i : Instr) : Option AmoCall :=
  match i with
  | .amo op ord w scope d _ b => some ⟨.amo op (amoBytes w) (s.rs b), amoBytes w, ord, scope, d⟩
  | .cas ord w scope d _ b c => some ⟨.cas (amoBytes w) (s.rs b) (s.rs c), amoBytes w, ord, scope, d⟩
  | .amobnd ord w scope d _ b c => some ⟨.bnd (amoBytes w) (s.rs b) (s.rs c), amoBytes w, ord, scope, d⟩
  | _ => none

/-- The new value a scalar operation writes over the old one, if it writes. -/
def PortKind.scalar (k : PortKind) (old : Nat) : Option Nat :=
  match k with
  | .red op n y => some (amoNew op n old (y.toNat % 2 ^ (8 * n)))
  | .amo op n y => some (amoNew op n old (y.toNat % 2 ^ (8 * n)))
  | .cas n y z => casNew old (y.toNat % 2 ^ (8 * n)) (z.toNat % 2 ^ (8 * n))
  | .bnd n y z => bndNew n old (y.toNat % 2 ^ (8 * n)) (z.toNat % 2 ^ (8 * n))
  | _ => none

/-- The request that carries an operation to another device (R242). -/
def PortKind.request (k : PortKind) (pa : Nat) (via : PageUse) : FabricReq :=
  match k with
  | .red op n y => .amo pa n op y via
  | .amo op n y => .amo pa n op y via
  | .cas n y z => .cas pa n y z via
  | .bnd n y z => .amobnd pa n y z via
  | .elem r => .elem pa r.op r.fmt r.cnt (match r.rm with
      | .rne => .rne
      | .rtz => .rtz
      | .rdn => .rdn
      | .rup => .rup
      | .rna => .rna) r.elems via
  | .store bs _ => .store pa bs via
  | .granule bs => .store pa bs via
  | .block bs => .store pa bs via
  | .poisonclr => .store pa (List.replicate 4096 0) via

/-- The value a returning atomic delivers (R245). -/
def oldValue (n old : Nat) : DWord := if n = 4 then sextLow 32 (dw old) else dw old

/-- A returning atomic of the executing core completes with the old value (R98, R245). One of a local-mode page orders within the die as
a FENCE at DIE on each side, whatever its ordering field (R244); an acquire at POD or SYSTEM starts a new epoch (R393). -/
def State.amoDone (s : State) (c : AmoCall) (here : Bool) (old : Nat) : State :=
  let sc := s.clampOrd c.ord c.scope
  let s1 := if here then s.podAcquire s.focus .die else s
  let s2 := if ordAcquires c.ord then s1.podAcquire s.focus sc.1 else s1
  (((s2.ws c.d (oldValue c.n old)).clamped sc.2)).finish true 8

/-- A returning atomic of the executing core, the only instruction of its region: its translation, then behind every earlier
committed entry of the core to the ordering point, or to the other device (R242, R244, R245); a release waits until what it
orders is performed. -/
def State.amoGo (s : State) (i : Instr) (c : AmoCall) (va : DWord) : Res :=
  (s.translating va .readWrite true fun t =>
      s.checkPlace t va
        (let sc := s.clampOrd c.ord c.scope
        let rel := if ordReleases c.ord then some sc.1 else none
        match t.place with
        | .host _ => s.refusedR
        | p =>
          if s.core.committed ≠ [] ∨ (rel.map fun x => s.performed s.focus x) = some false then .next s
          else
            match p with
            | .peer d pa m =>
              (match s.trySend s.focus.key t.ctx d s.who (.core s.focus) (c.kind.request pa ⟨m.code, t.cmp, t.ctx⟩) with
              | (s2, some q) => .next (s2.onCore fun k => { k with
                  wait := some ⟨.fabric (flowKey s.focus.key d) q t.place 0 va, i⟩ })
              | (s2, none) => .next s2)
            | _ =>
              let pa := p.addr
              if hbmEnd ≤ pa then
                let old := natOf (s.ctlBytes pa c.n)
                let w := ctlWriter s.focus
                let s2 := match c.kind.scalar old with
                  | some v => s.ctlStore w.1 w.2 pa (bytesOf c.n v) 2
                  | none => s
                .next (s2.amoDone c true old)
              else
                match s.intoOrder s.focus.die ⟨pa, c.kind, t.cmp, s.who, rel, .core s.focus⟩ with
                | none => .next s
                | some s2 => .next (s2.onCore fun k => { k with wait := some ⟨.atomic, i⟩ })))

/-- Issue a returning atomic (R98): its address is checked; once commit can proceed the open region closes, and the operation
follows as a region of its own, which alone an outcome of its translation ends. -/
def State.amoIssue (s : State) (i : Instr) (va : DWord) : Res :=
  match s.amoCall i with
  | none => s.illegal
  | some c => s.globalAddress va c.n (if !s.core.canCommit then .next s else s.closeRegion.amoGo i c va)

/-- An operation without return as one entry of the open region (R245): AMO with d = 0, and RED. -/
def State.redIssue (s : State) (op : AmoOp) (ord : Ord) (w : Bool) (scope : Scope) (a b : SReg) : Res :=
  let va := s.rs a
  let n := amoBytes w
  let sc := s.clampOrd ord scope
  s.globalAddress va n
    (s.translating va .readWrite true fun t =>
      s.checkPlace t va
        (match t.place with
        | .host _ => s.refusedR
        | _ => s.withEntries [s.entry (.red t op n (s.rs b)) (if ordReleases ord then some sc.1 else none)]
            fun u => (u.clamped sc.2).done 8))

/-- AMO (R245). -/
def execAmo (op : AmoOp) (ord : Ord) (w : Bool) (scope : Scope) (d a b : SReg) (s : State) : Res :=
  if d = 0 then s.redIssue op ord w scope a b else s.amoIssue (.amo op ord w scope d a b) (s.rs a)
/-- CAS (R245, R246). -/
def execCas (ord : Ord) (w : Bool) (scope : Scope) (d a b c : SReg) (s : State) : Res :=
  s.amoIssue (.cas ord w scope d a b c) (s.rs a)
/-- AMOBND (R245, R247). -/
def execAmobnd (ord : Ord) (w : Bool) (scope : Scope) (d a b c : SReg) (s : State) : Res :=
  s.amoIssue (.amobnd ord w scope d a b c) (s.rs a)
/-- RED (R245, R248). -/
def execRed (op : AmoOp) (rl : Bool) (w : Bool) (scope : Scope) (a b : SReg) (s : State) : Res :=
  s.redIssue op (if rl then .release else .relaxed) w scope a b

/-- The element operation of OPS of REDF and VRED (R243). -/
def elemOp : AmoOp → RedOp
  | .add => .add
  | .and => .and
  | .or => .or
  | .xor => .xor
  | .min => .min
  | .max => .max
  | .minn => .min
  | .maxn => .max
  | .swap => .add

/-- REDF (R251). -/
def execRedf (op : AmoOp) (cnt rl : Bool) (scope : Scope) (fmt : Fmt) (a b : SReg) (s : State) : Res :=
  let va := s.rs a
  let sc := s.clampOrd (if rl then .release else .relaxed) scope
  let x := (s.rs b).toNat % 2 ^ fmtBits fmt
  s.globalAddress va (slotSize fmt cnt)
    (s.translating va .readWrite true fun t =>
      s.checkPlace t va
        (match t.place with
        | .host _ => s.refusedR
        | _ => s.withEntries [s.entry (.elem t ⟨elemOp op, fmt, cnt, s.core.regs.rm, [(0, x)]⟩) (if rl then some sc.1 else none)]
            fun u => (u.clamped sc.2).done 8))

/-- Is an entry a store of the kinds FENCE waits for (R253)? -/
def EntryKind.isStore : EntryKind → Bool
  | .store _ _ _ => true
  | .red _ _ _ _ => true
  | .elem _ _ => true
  | .poisonclr _ => true
  | _ => false

/-- FENCE (R30, R31, R33, R253): it waits until the core's earlier committed stores are performed with respect to the
scope; at POD or SYSTEM it is a POD acquire (R393). -/
def execFence (scope : Scope) (s : State) : Res :=
  let sc := s.clamp scope
  if (s.core.committed.any fun e => e.kind.isStore) || !s.performed s.focus sc.1 then .next s
  else ((s.podAcquire s.focus sc.1).clamped sc.2).done 8

/-- POISONCLR (R263); a page of a host is refused at issue (R268). -/
def execPoisonclr (a : SReg) (s : State) : Res :=
  let va := s.rs a
  if s.priv = 0 then s.privilege
  else
    s.globalAddress va 4096
      (s.translating va .write false fun t =>
        s.checkPlace t va
          (match t.place with
          | .host _ => s.refusedR
          | _ => s.withEntries [s.entry (.poisonclr t) none] fun u => u.done 8))

end Sys2Proof.Machine
end

