-- ==== Sys2Proof/Machine/Clasp.lean ====
section
/-!
DEFINITION. Clasps (R139 to R144): CLINIT, ARRIVE, ARRIVEW and CLWAIT, the arrival of a remote access at its target
(R115, R127) and the answer of a home core to a wait.
-/

namespace Sys2Proof.Machine

/-! ## The words of a clasp (R139) -/

/-- GEN. -/
def claspGen (x : DWord) : Nat := bitsAt 48 16 x
/-- TARGET. -/
def claspTarget (x : DWord) : Nat := bitsAt 32 16 x
/-- COUNT. -/
def claspCount (x : DWord) : Nat := bitsAt 0 16 x
/-- A count word. -/
def claspWord (gen target count : Nat) : DWord := dw (2 ^ 48 * (gen % 2 ^ 16) + 2 ^ 32 * (target % 2 ^ 16) + count % 2 ^ 16)

/-- An arrival at the home core (R142): the core afterwards and the old count word. -/
def Core.arrive (c : Core) (a : Nat) : Core × DWord :=
  let old := c.load8 a
  let n := (claspCount old + 1) % 2 ^ 16
  if n = claspTarget old then
    let g := (claspGen old + 1) % 2 ^ 16
    (((c.store a (bytesOf 8 (setBits 48 16 g (setBits 0 16 0 old)).toNat)).store (a + 8) (bytesOf 8 g)).setTag (a + 8) true, old)
  else (c.store a (bytesOf 8 (setBits 0 16 n old).toNat), old)

/-- Has a release of another generation than that of a count word happened (R143)? -/
def Core.released (c : Core) (a : Nat) (seen : DWord) : Bool :=
  c.tag (a + 8) && bitsAt 0 16 (c.load8 (a + 8)) != claspGen seen

/-! ## The instructions -/

/-- CLINIT (R141). -/
def execClinit (a b : SReg) (s : State) : Res :=
  let p := la (s.rs a)
  let n := (s.rs b).toNat
  if p % 16 ≠ 0 ∨ n = 0 ∨ 65535 < n then s.badAddress (s.rs a)
  else if s.mayReach p 16 then
    (s.onCore fun c => (((c.store p (bytesOf 8 (claspWord 0 n 0).toNat)).setTag p true).store (p + 8)
      (List.replicate 8 0)).setTag (p + 8) false).done 8
  else s.notOwned p

/-- A clasp access with its operands read: the address, the home core's index, the scope, and what it does. -/
structure ClaspOp where
  la : DWord
  home : DWord
  scope : Scope
  /-- the word the wait compares with; none for an arrival -/
  seen : Option DWord
  d : SReg
  len : Nat
  deriving DecidableEq, Repr

/-- The clasp access that an instruction makes now on the executing core: ARRIVEW is an arrival while APB is 0 and a
wait after it (R144). -/
def State.claspOp (s : State) (i : Instr) : Option ClaspOp :=
  match i with
  | .arrive sc d a b => some ⟨s.rs a, s.rs b, sc, none, d, 8⟩
  | .arrivew sc d a b => some ⟨s.rs a, s.rs b, sc, if s.core.tsw.apb then some (s.rs d) else none, d, 8⟩
  | .clwait sc a b c => some ⟨s.rs a, s.rs b, sc, some (s.rs c), 0, 8⟩
  | _ => none

/-- Is the instruction ARRIVEW? -/
def isArrivew : Instr → Bool
  | .arrivew _ _ _ _ => true
  | _ => false

/-- An arrival performs at its home core for the executing core (R142, R144). ARRIVEW goes on to its wait region,
which begins at its own address. -/
def State.claspArrived (s : State) (i : Instr) (home : CoreId) (o : ClaspOp) : State :=
  let r := (s.coreAt home).arrive (Machine.la o.la)
  let s1 := (s.setCore home r.1).ws o.d r.2
  let s2 := s1.clamped (s.clamp o.scope).2
  if isArrivew i then s2.onCore fun c => { c with wait := none, tsw := { c.tsw with apb := true } }.reopen
  else s2.finish true 8

/-- A wait ends (R143, R144 step 3). -/
def State.claspReleased (s : State) (i : Instr) (o : ClaspOp) : State :=
  let sc := s.clamp o.scope
  let s1 := (s.podAcquire s.focus sc.1).clamped sc.2
  if isArrivew i then ((s1.commit s.focus).onCore fun c => { c with tsw := { c.tsw with apb := false } }).finish true 8
  else s1.finish false 8

/-- What a clasp access finds at its home core: refused, performed, or it waits there (R140, R143). -/
def State.claspAt (s : State) (i : Instr) (home : CoreId) (o : ClaspOp) : Res :=
  let h := s.coreAt home
  if !h.tag (Machine.la o.la) then s.refusedR
  else
    match o.seen with
    | none => .next (s.claspArrived i home o)
    | some w =>
      if h.released (Machine.la o.la) w then .next (s.claspReleased i o)
      else .next (s.onCore fun c => { c with wait := some ⟨.clasp true, i⟩ })

/-- Issue ARRIVE, ARRIVEW or CLWAIT (R140 to R144). An arrival closes the region and is a release at its scope. -/
def State.claspIssue (s : State) (i : Instr) : Res :=
  match s.claspOp i with
  | none => s.illegal
  | some o =>
    let p := Machine.la o.la
    if p % 16 ≠ 0 then s.badAddress o.la
    else
      let named := s.nameCore s.focus o.home
      let arrival := o.seen.isNone
      match named with
      | .refused => s.refusedR
      | _ =>
        if named = .self ∧ !s.mayReach p 16 then s.notOwned p
        else if arrival ∧ !s.core.canCommit then .next s
        else
          let s1 := if arrival then s.closeRegion else s
          if arrival ∧ (s1.core.committed ≠ [] ∨ !s1.performed s1.focus (s1.clamp o.scope).1) then .next s1
          else
            match named with
            | .self => s1.claspAt i s1.focus o
            | _ => .next (s1.onCore fun c => { c with wait := some ⟨.remote false, i⟩ })

/-- ARRIVE (R142). -/
def execArrive (scope : Scope) (d a b : SReg) (s : State) : Res := s.claspIssue (.arrive scope d a b)
/-- ARRIVEW (R144). -/
def execArrivew (scope : Scope) (d a b : SReg) (s : State) : Res := s.claspIssue (.arrivew scope d a b)
/-- CLWAIT (R143). -/
def execClwait (scope : Scope) (a b c : SReg) (s : State) : Res := s.claspIssue (.clwait scope a b c)

/-! ## Events -/

/-- REMOTE_ACCESS_REQUEST (R115, R127, R140): the pending remote access of a core reaches its target, which admits or
refuses it by its windows; an admitted one performs, or waits at the target. -/
def execRemoteAccessRequest (id : CoreId) (s : State) : Res :=
  let t := s.refocus id
  let r : Res :=
    match t.core.wait with
    | some ⟨.remote false, i⟩ =>
      (match t.tagOp i, t.claspOp i with
      | some o, _ =>
        let home := t.tagHome o
        if home ≠ t.focus ∧ t.admits home permT (t.lciOf t.focus) t.ctx (Machine.la o.ea) 8 then
          if o.kind.ready ((t.coreAt home).tag (Machine.la o.ea)) then .next (t.tagDone home o)
          else .next (t.onCore fun c => { c with wait := some ⟨.remote true, i⟩ })
        else t.refusedR
      | none, some o =>
        (match t.nameCore t.focus o.home with
        | .other home =>
          if t.admits home permA (t.lciOf t.focus) t.ctx (Machine.la o.la) 16 then t.claspAt i home o else t.refusedR
        | _ => t.refusedR)
      | none, none => .next t)
    | _ => .next t
  r.refocused s.focus

/-- The clasp operation that the executing core waits in, with its home core. -/
def State.claspHeld (s : State) : Option (Instr × ClaspOp × CoreId) :=
  match s.core.wait with
  | some ⟨.clasp true, i⟩ => (s.claspOp i).map fun o => (i, o, match s.nameCore s.focus o.home with
      | .other x => x
      | _ => s.focus)
  | _ => none

/-- The address of the clasp that the executing core waits on at another core, where its bead has gone in transit there: the access ends
its code with ownership (R164). -/
def State.claspLost (s : State) : Option Nat :=
  s.claspHeld.bind fun e =>
    if e.2.2 ≠ s.focus ∧ ((s.coreAt e.2.2).bead (beadOf (Machine.la e.2.1.la))).inTransit then some (Machine.la e.2.1.la) else none

/-- The waiting clasp operation of the executing core whose condition its home core now finds true (R143). -/
def State.claspWait (s : State) : Option (Instr × ClaspOp) :=
  if s.claspLost.isSome then none
  else s.claspHeld.bind fun e => e.2.1.seen.bind fun w =>
    if (s.coreAt e.2.2).released (Machine.la e.2.1.la) w then some (e.1, e.2.1) else none

/-- CLASP_RELEASE_ANSWER (R143, R144): the home core answers the clasp wait of a core once the condition holds, or ends its code where
the bead has gone in transit (R164). -/
def execClaspReleaseAnswer (id : CoreId) (s : State) : Res :=
  let t := s.refocus id
  let r := match t.claspLost, t.claspWait with
    | some a, _ => t.notOwned a
    | none, some (i, o) => .next (t.claspReleased i o)
    | none, none => .next t
  r.refocused s.focus

end Sys2Proof.Machine
end

