-- ==== Sys2Proof/Machine/Mesh.lean ====
section
/-!
DEFINITION. The mesh (R118 to R137, R145, R146, R435): strand trees and their reduction rounds, NRED, MCAST, NSEND and
NRECV, the writes of a multicast at its members, and the raw packets of the die boot program.
-/

namespace Sys2Proof.Machine

/-! ## Strand entries (Tables 04.5 and 04.5a) -/

/-- EN. -/
def strandEn (e : DWord) : Bool := bitAt 31 e
/-- CTX. -/
def strandCtx (e : DWord) : Nat := bitsAt 52 12 e
/-- OP. -/
def strandOp (e : DWord) : Nat := bitsAt 28 3 e
/-- FMT. -/
def strandFmt (e : DWord) : Nat := bitsAt 25 3 e
/-- UP. -/
def strandUp (e : DWord) : Nat := bitsAt 22 3 e
/-- Bit i of CH. -/
def strandCh (e : DWord) (i : Nat) : Bool := bitAt (16 + i) e
/-- PDIE of a base-tier entry. -/
def basePdie (e : DWord) : Nat := bitsAt 18 4 e
/-- Bit d of CHD of a base-tier entry. -/
def baseChd (e : DWord) (d : Nat) : Bool := bitAt (9 + d) e
/-- CHR of a base-tier entry. -/
def baseChr (e : DWord) : Bool := bitAt 8 e

/-- The operation of an OP code (Table 04.5). -/
def strandOpOf : Nat → Option RedOp
  | 0 => some .add
  | 1 => some .min
  | 2 => some .max
  | 3 => some .and
  | 4 => some .or
  | 5 => some .xor
  | _ => none
/-- The format of a FMT code (Table 04.5). -/
def strandFmtOf : Nat → Option Fmt
  | 0 => some .f32
  | 1 => some .bf16
  | 2 => some .i32
  | 3 => some .i16
  | _ => none
/-- Is an operation a logic one? -/
def isLogic : RedOp → Bool
  | .and => true
  | .or => true
  | .xor => true
  | _ => false

/-- The entry of a node for a strand. -/
def State.strandAt (s : State) (n : StrandNode) (k : Nat) : DWord :=
  match n with
  | .router pos => if h : k < 16 then (s.coreAt (.work pos)).strands[k]'h else 0
  | .base d => Sparse.get 0 s.mesh.base (16 * d + k)

/-- The router one step from a position in a direction: 0 N, 1 E, 2 S, 3 W (R118). -/
def neighbour (pos dir : Nat) : Option Nat :=
  match dir with
  | 0 => if 0 < posY pos then some (pos - 32) else none
  | 1 => if posX pos < 31 then some (pos + 1) else none
  | 2 => if posY pos < 31 then some (pos + 32) else none
  | 3 => if 0 < posX pos then some (pos - 1) else none
  | _ => none
/-- The opposite direction. -/
def opposite (dir : Nat) : Nat := (dir + 2) % 4

/-- Has the core of a router left the context of a strand (R133)? -/
def State.strandLeft (s : State) (n : StrandNode) (k : Nat) : Bool :=
  match n with
  | .router pos => (s.coreAt (.work pos)).router.left.contains k
  | .base _ => false

/-- Does a node take part in a strand: its entry is enabled, or its core has left, and its router goes on contributing whatever a scrub
has made of EN (R133)? -/
def State.strandOn (s : State) (n : StrandNode) (k : Nat) : Bool := strandEn (s.strandAt n k) || s.strandLeft n k

/-- The router of a die whose entry meets a condition. -/
def State.routerOf (s : State) (die k : Nat) (p : DWord → Bool) : Option Nat :=
  ((s.workCores.map (·.2)).find? fun q => posDie q == die && s.strandOn (.router q) k &&
    p (s.strandAt (.router q) k))

/-- The parent of a node and the port by which the parent sees it: 0 to 3 for mesh ports, 5 for the base tier; a
base-tier node numbers its children by die (R128, R132, R435). `none` at a root and where the entry names no node. -/
def State.strandParent (s : State) (n : StrandNode) (k : Nat) : Option (StrandNode × Nat) :=
  let e := s.strandAt n k
  match n with
  | .router pos =>
    if strandUp e < 4 then (neighbour pos (strandUp e)).map fun q => (.router q, opposite (strandUp e))
    else if strandUp e = 5 then some (.base (posDie pos), posDie pos) else none
  | .base d =>
    if strandUp e = 5 then some (.base (basePdie e), d)
    else if strandUp e = 6 then (s.routerOf d k fun r => strandCh r 5).map fun q => (.router q, 5) else none

/-- The children of a node, with their ports, in the order of combination (R57, R132). -/
def State.strandChildren (s : State) (n : StrandNode) (k : Nat) : List (Nat × StrandNode) :=
  let e := s.strandAt n k
  match n with
  | .router pos =>
    ([0, 1, 2, 3].filterMap fun i => if strandCh e i then (neighbour pos i).map fun q => (i, StrandNode.router q) else none)
      ++ (if strandCh e 5 then [(5, StrandNode.base (posDie pos))] else [])
  | .base d => (List.range 9).filterMap fun i =>
      if i = d ∧ baseChr e then (s.routerOf d k fun r => strandUp r == 5).map fun q => (i, StrandNode.router q)
      else if baseChd e i then some (i, StrandNode.base i) else none

/-- Is the router's own core a member (R128)? -/
def State.strandLocal (s : State) (n : StrandNode) (k : Nat) : Bool :=
  match n with
  | .router _ => strandCh (s.strandAt n k) 4
  | .base _ => false

/-- The children of a node that name it as their parent. -/
def State.strandLinked (s : State) (n : StrandNode) (k : Nat) : List StrandNode :=
  ((s.strandChildren n k).map (·.2)).filter fun c =>
    s.strandOn c k && ((s.strandParent c k).map (·.1)) == some n

/-- The members of the subtree of a node, depth first. -/
def State.strandMembers (s : State) (k : Nat) : Nat → StrandNode → List CoreId
  | 0, _ => []
  | fuel + 1, n =>
    (match n with
    | .router pos => if s.strandLocal n k then [CoreId.work pos] else []
    | .base _ => []) ++ (s.strandLinked n k).flatMap fun c => s.strandMembers k fuel c

/-- More links than any path of a device's strand tree has. -/
def strandFuel : Nat := 9300

/-! ## Rounds (R132 to R134) -/

/-- A value whose every lane is absent with count 0. -/
def StrandVal.absent (op fmt : Nat) (conds : FlagSet) : StrandVal :=
  ⟨op, fmt, List.replicate (((strandFmtOf fmt).getD .f32).lanes) ⟨none, 0, 0⟩, conds⟩

/-- The round in progress at a node. -/
def State.roundAt (s : State) (n : StrandNode) (k : Nat) : List (Nat × StrandVal) :=
  ((s.mesh.rounds.find? fun r => r.node == n && r.k == k && r.ctx == strandCtx (s.strandAt n k)).map (·.got)).getD []
/-- Replace the contributions that a node holds. -/
def State.setRound (s : State) (n : StrandNode) (k : Nat) (got : List (Nat × StrandVal)) : State :=
  s.onMesh fun m =>
    let x := strandCtx (s.strandAt n k)
    let rest := m.rounds.filter fun r => !(r.node == n && r.k == k && r.ctx == x)
    { m with rounds := if got = [] then rest else rest ++ [⟨n, k, x, got⟩] }
/-- A contribution arrives at a node. -/
def State.contribute (s : State) (n : StrandNode) (k port : Nat) (v : StrandVal) : State :=
  s.setRound n k (s.roundAt n k ++ [(port, v)])

/-- Does a node's subtree contribute absent lanes on its own: every port of it leads to a node of the strand that names it as its
parent, and every member below, of which there is one, has left (R132, R133)? -/
def State.strandSilent (s : State) (k : Nat) : Nat → StrandNode → Bool
  | 0, _ => false
  | fuel + 1, n =>
    let kids := (s.strandChildren n k).map (·.2)
    s.strandOn n k && (!s.strandLocal n k || s.strandLeft n k) && (s.roundAt n k).isEmpty && (s.strandLocal n k || kids != []) &&
      kids.all fun c => ((s.strandParent c k).map (·.1)) == some n && s.strandSilent k fuel c

/-- The contributions left at a node when those of one round have been taken: the first of each port goes. -/
def roundRest : List Nat → List (Nat × StrandVal) → List (Nat × StrandVal)
  | _, [] => []
  | seen, g :: rest => if seen.contains g.1 then g :: roundRest seen rest else roundRest (g.1 :: seen) rest

/-- Add two contributions of one lane (R48, R49, R57): the running value, and the next; the count is held at 65,535. -/
def laneJoin (f : Fmt) (op : RedOp) (a b : Contrib) : Contrib :=
  let r := combine f op .rne a b
  let n := heldCount r.count
  ⟨r.val, n.1, r.flags ||| n.2⟩

/-- The value of a node (R57, R132): lane by lane, counts added, with the conditions met; a contribution of another OP
or FMT leaves every lane absent with count 0 and absent-produced collected. -/
def strandCombine (op fmt : Nat) (vs : List StrandVal) : StrandVal :=
  let conds := flagOr (vs.map (·.conds))
  match strandOpOf op, strandFmtOf fmt with
  | some o, some f =>
    if (vs.all fun v => v.op == op && v.fmt == fmt) && !(isLogic o && f.isFloat) then
      let steps : List (Contrib × FlagSet) := (List.range f.lanes).map fun i =>
        vs.foldl (fun r v =>
          let c := laneJoin f o r.1 (v.lanes.getD i ⟨none, 0, 0⟩)
          (⟨c.val, c.count, 0⟩, r.2 ||| c.flags)) (⟨none, 0, 0⟩, 0)
      ⟨op, fmt, steps.map (·.1), conds ||| flagOr (steps.map (·.2))⟩
    else .absent op fmt (conds ||| flagAP)
  | _, _ => .absent op fmt (conds ||| flagAP)

/-- What a silent subtree contributes: absent lanes, formed at each node from its own entry, so that entries that disagree are met as
in any round (R132, R133). -/
def State.silentValue (s : State) (k : Nat) : Nat → StrandNode → StrandVal
  | 0, n => .absent (strandOp (s.strandAt n k)) (strandFmt (s.strandAt n k)) 0
  | fuel + 1, n =>
    let e := s.strandAt n k
    strandCombine (strandOp e) (strandFmt e) ((s.strandLinked n k).map (s.silentValue k fuel)
      ++ [.absent (strandOp e) (strandFmt e) 0])

/-- The contributions of a round at a node in the order of combination, once every one is there; a port whose subtree
is silent, and a core that has left, contribute absent lanes (R57, R132, R133). -/
def State.roundReady (s : State) (n : StrandNode) (k : Nat) : Option (List StrandVal) :=
  let e := s.strandAt n k
  let got := s.roundAt n k
  let at? (p : Nat) (silent : Option StrandVal) : Option StrandVal :=
    match got.find? fun g => g.1 == p with
    | some g => some g.2
    | none => silent
  let kids := (s.strandChildren n k).map fun c =>
    (c.1, if s.strandSilent k strandFuel c.2 then some (s.silentValue k strandFuel c.2) else none)
  let mesh := kids.filter fun c => decide (c.1 < 4)
  let base := kids.filter fun c => decide (4 ≤ c.1)
  let own := (4, if s.strandLeft n k then some (StrandVal.absent (strandOp e) (strandFmt e) 0) else none)
  let order := match n with
    | .router _ => mesh ++ (if s.strandLocal n k then [own] else []) ++ base
    | .base _ => kids
  if got = [] ∨ !s.strandOn n k then none else order.mapM fun c => at? c.1 c.2

/-- The result of a round with absent-produced collected for its absent lanes (R132). -/
def StrandVal.result (v : StrandVal) : StrandVal :=
  { v with conds := v.conds ||| flagIf (v.lanes.any fun c => c.count == 0) flagAP }

/-- Does an NRED await a result of strand k of a context? -/
def NredWait.on (k x : Nat) (w : NredWait) : Bool := w.k == k && w.ctx == x

/-- A round's result goes down the tree from a node to every member (R132), and to a core of the strand's context that has
contributed and whose entry a scrub has disabled since (log entry 120). -/
def State.strandDeliver (s : State) (n : StrandNode) (k : Nat) (v : StrandVal) : State :=
  let x := strandCtx (s.strandAt n k)
  let below := s.strandMembers k strandFuel n
  let apart := (s.workCores.filter fun q =>
    (s.coreAt q.1).nredWaits.any (NredWait.on k x)
      && !strandEn (s.strandAt (.router q.2) k) && !below.contains q.1).map (·.1)
  (below ++ apart).foldl (fun t id => t.modCore id fun c =>
    if c.nredWaits.any (NredWait.on k x) then { c with strandIn := c.strandIn ++ [(k, x, v)] } else c) s

/-- Is strand k carried to the hub (R403)? -/
def State.fstrandOn (s : State) (k : Nat) : Bool := bitAt 51 (Sparse.get 0 s.fab.fstrand (2 * k))

/-- STRAND_NODE_COMBINE (R57, R132, R133, R435): a node that has its contributions combines them and sends the value
up; at the root it is the round's result, or goes to the hub (R403). -/
def execStrandNodeCombine (n : StrandNode) (k : Nat) (s : State) : Res :=
  match s.roundReady n k with
  | none => .next s
  | some vs =>
    let e := s.strandAt n k
    let v := strandCombine (strandOp e) (strandFmt e) vs
    let s1 := s.setRound n k (roundRest [] (s.roundAt n k))
    match s1.strandParent n k with
    | some (p, port) => .next (s1.contribute p k port v)
    | none =>
      if strandUp e ≠ 4 then .next s1
      else if s.fstrandOn k then .next (s1.onFab fun f => { f with rounds := f.rounds ++ [(k, s.thisDev, v)] })
      else .next (s1.strandDeliver n k v.result)

/-- The bytes la to la + 255 that a member writes (R134), in the format of its NRED, which the result has unless entries
disagree, and then every lane is absent (R132). -/
def strandBytes (f : Fmt) (v : StrandVal) : List Byte :=
  let cs := (List.range f.lanes).map fun i => v.lanes.getD i ⟨none, 0, 0⟩
  let vals := cs.flatMap fun c => bytesOf f.width (if c.count = 0 then absentOf f else c.val.getD (absentOf f))
  let counts := cs.flatMap fun c => bytesOf 2 c.count
  let bs := vals ++ counts
  bs ++ List.replicate (256 - bs.length) 0

/-- The first wait of a strand of a context, and the others. -/
def takeWait (k x : Nat) : List NredWait → Option (NredWait × List NredWait)
  | [] => none
  | w :: rest => if w.on k x then some (w, rest) else (takeWait k x rest).map fun r => (r.1, w :: r.2)

/-- STRAND_RESULT_WRITE (R134): a member writes a round's result unless its bead has changed hands. -/
def execStrandResultWrite (id : CoreId) (k : Nat) (s : State) : Res :=
  let c := s.coreAt id
  match (c.strandIn.find? fun e => e.1 == k).bind fun e => (takeWait k e.2.1 c.nredWaits).map fun t => (e.2.2, t) with
  | some (v, w, rest) =>
    let bead := c.bead (beadOf w.la)
    let mine := if w.slot = 64 then !bead.inTransit
      else decide (bead = .owned w.slot) && decide ((c.slotAt w.slot).actor = w.actor)
    let c1 := { c with nredWaits := rest, strandIn := c.strandIn.eraseP fun e => e.1 == k }
    let c2 := if mine then
        (((c1.store w.la (strandBytes w.fmt v)).setTags w.la true 32).store (w.la + 256) (bytesOf 8 v.conds.toNat)).setTag
          (w.la + 256) true
      else c1
    .next (s.setCore id c2)
  | none => .next s

/-! ## NRED, MCAST, NSEND, NRECV -/

/-- The strand entry of the executing core's router; hub cores have none. -/
def State.ownStrand (s : State) (k : Nat) : DWord :=
  match s.focus with
  | .work pos => s.strandAt (.router pos) k
  | _ => 0

/-- Is the entry of a strand enabled for the running context (R131)? -/
def State.strandMine (s : State) (k : Nat) : Bool :=
  strandEn (s.ownStrand k) && decide (strandCtx (s.ownStrand k) = s.ctx)

/-- NRED (R131, R134). -/
def execNred (fmt : Fmt) (g : PReg) (a : VReg) (b : SReg) (k : BitVec 4) (s : State) : Res :=
  let e := s.ownStrand k.toNat
  let p := la (s.rs b)
  let bad := match strandOpOf (strandOp e), strandFmtOf (strandFmt e) with
    | some o, some f => f != fmt || (isLogic o && f.isFloat) || decide (5 < strandUp e)
    | _, _ => true
  if bad then s.illegal
  else if p % 512 ≠ 0 then s.badAddress (s.rs b)
  else if !s.mayReach p 512 then s.notOwned p
  else if !s.strandMine k.toNat then s.refusedR
  else
    let v := s.rv a
    let lanes := (List.range fmt.lanes).map fun i =>
      if active fmt (s.rp g) i ∧ present fmt (lane fmt v i) then some (lane fmt v i) else none
    s.withEntries [s.entry (.nred k.toNat p fmt lanes (s.core.slot?.getD 64)) none] fun t => t.done 8

/-- May a core's next NRED on a strand of a context drain: has its previous round's result been written (R134)? -/
def Core.nredFree (c : Core) (k x : Nat) : Bool := !c.nredWaits.any (NredWait.on k x)

/-- An NRED drains (R133, R134): the core contributes its lanes, each present lane counting 1. -/
def State.drainNred (s : State) (id : CoreId) (w : Issuer) (x k p : Nat) (f : Fmt) (lanes : List (Option Elem)) (slot : Nat) :
    State :=
  match id with
  | .work pos =>
    let n := StrandNode.router pos
    let e := s.strandAt n k
    let vals : List Contrib := lanes.map fun x =>
      if s.strandLeft n k then ⟨none, 0, 0⟩ else ⟨x, x.isSome.toNat, 0⟩
    let code := if f = .f32 then 0 else if f = .bf16 then 1 else if f = .i32 then 2 else 3
    (s.contribute n k 4 ⟨strandOp e, code, vals, 0⟩).modCore id fun c =>
      { c with nredWaits := c.nredWaits ++ [⟨k, p, f, slot, w.actor, x⟩] }
  | _ => s

/-- MCAST (R131, R135). -/
def execMcast (a : SReg) (k : BitVec 4) (s : State) : Res :=
  let p := la (s.rs a)
  if p % 512 ≠ 0 then s.badAddress (s.rs a)
  else if !s.mayReach p 512 then s.notOwned p
  else if !s.strandMine k.toNat then s.refusedR
  else
    let c : TileCmd := ⟨.mcast p k.toNat [] 0, .queued, .core, false, false, s.who, s.ctx, false⟩
    s.withEntries [s.entry (.mcast c) none] fun t => t.done 8

/-- An MCAST drains into the tile queue, with the bead as it is now (R135, R147). -/
def State.drainMcast (s : State) (id : CoreId) (t : TileCmd) : State :=
  match t.kind with
  | .mcast p k _ _ => s.modCore id fun c =>
      { c with tileQ := c.tileQ ++ [{ t with kind := .mcast p k (c.load p 512) 0, phase := .queued }] }
  | _ => s

/-- The MCAST at place i of a tile queue starts (R135, R147): its bytes go to every other member of the subtree below the
issuing router. -/
def State.startMcast (s : State) (id : CoreId) (i : Nat) (t : TileCmd) : State :=
  match id, t.kind with
  | .work pos, .mcast p k bs _ =>
    let to' := (s.strandMembers k strandFuel (.router pos)).filter (· != id)
    let s1 := to'.foldl (fun u m => u.modCore m fun c => { c with mcastIn := c.mcastIn ++ [⟨id, p, bs, t.ctx, k, s.tick⟩] }) s
    s1.modCore id fun c =>
      { c with tileQ := c.tileQ.set i { t with kind := .mcast p k bs s.tick, phase := .acks to'.length } }
  | _, _ => s

/-- Is a tile command the MCAST of a number, started? -/
def TileCmd.isMcast (t : TileCmd) (n : Nat) : Bool :=
  match t.kind, t.phase with
  | .mcast _ _ _ m, .acks _ => m == n
  | _, _ => false

/-- The acknowledgement of a member reaches the issuing core's MCAST. -/
def ackMcast (n : Nat) (q : List TileCmd) : List TileCmd :=
  q.map fun t => if t.isMcast n then (match t.phase with
    | .acks (k + 1) => { t with phase := .acks k }
    | _ => t) else t

/-- End an issuer that still exists, for an outcome that reaches it after its instruction (R158, R170). -/
def State.killIssuer (s : State) (w : Issuer) (reason : Nat) : State :=
  match s.alive w with
  | some x => s.kill x reason
  | none => s

/-- MCAST_MEMBER_WRITE (R135, R145): the next multicast write of a member, subject to W of its windows. In boot mode
strand 0 needs no window, and BSUM adds the words written. -/
def execMcastMemberWrite (id : CoreId) (s : State) : Res :=
  let c := s.coreAt id
  match c.mcastIn with
  | [] => .next s
  | m :: rest =>
    let free := s.hub.boot && m.k == 0
    let ok := free || s.admits id permW (s.lciOf m.src) m.ctx m.la 512
    let c1 := { c with mcastIn := rest }
    let c2 := if ok then (c1.store m.la m.bytes).setTags m.la true 64 else c1
    let c3 := if ok && free then { c2 with bsum := (wordsOf m.bytes).foldl (fun n w => n + BitVec.ofNat 32 w) c2.bsum } else c2
    let s1 := (s.setCore id c3).modCore m.src fun o => { o with tileQ := ackMcast m.serial o.tileQ }
    let who := ((s.coreAt m.src).tileQ.find? fun t => t.isMcast m.serial).map (·.who)
    .next (match ok, who with
      | false, some w => s1.killIssuer w 4
      | _, _ => s1)

/-- Has a tile-queue command every acknowledgement of an MCAST? -/
def TileCmd.acked (t : TileCmd) : Bool := t.phase == .acks 0

/-- MCAST_COMPLETE (R135): the oldest MCAST with every acknowledgement leaves the tile queue. -/
def execMcastComplete (id : CoreId) (s : State) : Res :=
  .next (s.modCore id fun c => { c with tileQ := c.tileQ.eraseP TileCmd.acked })

/-- NSEND, message form (R33, R136). -/
def execNsend (scope : Scope) (a : SReg) (b : VReg) (tag : Word) (s : State) : Res :=
  let n := (s.rs a).toNat
  let sc := s.clamp scope
  let x := s.ctx
  if !s.focus.regions ∨ n < s.ctxCbase x ∨ s.ctxCbase x + s.ctxClen x ≤ n then s.refusedR
  else
    let bs := (List.range 64).map fun i => (s.rv b).extractLsb' (8 * i) 8
    s.withEntries [s.entry (.nsend n bs tag) (some sc.1)] fun t => (t.clamped sc.2).done 8

/-- NSEND, raw form (R136). -/
def execNsendRaw (_scope : Scope) (a : SReg) (_b : VReg) (s : State) : Res :=
  if s.priv < 3 then s.privilege
  else s.withEntries [s.entry (.nsendRaw (s.rs a)) none] fun t => t.done 8

/-- The receive-queue entries of a core: those there, and those that come back with a tenant's save area (R137, R377). -/
def Core.recvHeld (c : Core) : Nat := c.recvq.length + (c.saves.map fun e => e.2.2).sum

/-- NSEND_DELIVERY (R136): the message at the head of a core's drain enters the target's receive queue, once that has
room and every earlier committed store is performed with respect to the message's scope. Entries that a tenant's save area holds keep
their room (log entry 121); a message whose index names no core, as in boot mode, is lost (log entry 120). -/
def execNsendDelivery (id : CoreId) (s : State) : Res :=
  let c := s.coreAt id
  match c.committed with
  | ⟨.nsend n bs tag, rel, _, ctx⟩ :: _ =>
    let sc := rel.getD .core
    if !s.performed id sc then .next s
    else
      let s1 := s.popCommitted id
      (match s.coreOfLci n with
      | none => .next s1
      | some t =>
        if 16 ≤ (s.coreAt t).recvHeld then .next s
        else .next (s1.modCore t fun r => { r with recvq := r.recvq ++ [⟨bs, s.lciOf id, tag, ctx, sc⟩] }))
  | _ => .next s

/-- Entry n of those a context has in a receive queue. -/
def received (ctx n : Nat) (q : List Received) : Option Received := (q.filter fun r => r.ctx == ctx)[n]?

/-- The register NRECV writes (R137). -/
def recvVec (r : Received) : VWord :=
  BitVec.ofNat 1024 (natOf (r.payload ++ bytesOf 4 (r.src % 2 ^ 14) ++ bytesOf 4 r.tag.toNat))

/-- NRECV (R137). -/
def execNrecv (d : VReg) (s : State) : Res :=
  match received s.ctx s.core.taken s.core.recvq with
  | none => .next s
  | some r =>
    let s1 := s.podAcquire s.focus r.scope
    ((s1.wv d (recvVec r)).onCore fun c => { c with taken := c.taken + 1 }).done 8

/-! ## Raw packets (R145, R146) -/

/-- A raw packet leaves at drain (R146). Outside boot mode, or with bits [31:18] not zero, or of another type, it is
discarded, and so is an ASSIGN whose DDIE, 9 to 15, names no die (log entry 120). -/
def State.drainRaw (s : State) (id : CoreId) (h : DWord) : State :=
  if !s.hub.boot ∨ bitsAt 18 14 h ≠ 0 then s
  else
    match id, bitsAt 0 4 h with
    | .work pos, 1 => s.onMesh fun m => { m with discovers := m.discovers ++ [⟨pos, none, bitsAt 32 32 h⟩] }
    | .work _, 3 => if bitsAt 14 4 h < 9 then s.onMesh fun m => { m with assigns := m.assigns ++ [h] } else s
    | _, _ => s

/-- The coordinates one step further in the direction a packet travels, given the port it arrives by. -/
def stepFrom (port : Nat) (x y : BitVec 5) : BitVec 5 × BitVec 5 :=
  match port with
  | 0 => (x, y + 1)
  | 1 => (x - 1, y)
  | 2 => (x, y - 1)
  | _ => (x + 1, y)

/-- DISCOVER (R146): the oldest packet for a router; one that has coordinates, or a router outside boot mode, discards
it. -/
def execDiscover (pos : Nat) (s : State) : Res :=
  match s.mesh.discovers.find? fun d => d.pos == pos with
  | none => .next s
  | some d =>
    let s1 := s.onMesh fun m => { m with discovers := m.discovers.eraseP fun e => e.pos == pos }
    let r := (s.coreAt (.work pos)).router
    if r.cv ∨ !s.hub.boot then .next s1
    else
      let xy := match d.frm with
        | none => (0, 0)
        | some (port, x, y) => stepFrom port x y
      let from? := d.frm.map (·.1)
      let out := [0, 1, 2, 3].filterMap fun i =>
        if from? = some i then none
        else (neighbour pos i).map fun q => (⟨q, some (opposite i, xy.1, xy.2), d.arg⟩ : Discover)
      let fn := !s.mesh.fused.contains pos
      let word := dw (fn.toNat + 2 ^ 8 * xy.1.toNat + 2 ^ 16 * xy.2.toNat)
      let at' := d.arg + 8 * (32 * xy.2.toNat + xy.1.toNat)
      .next ((s1.modCore (.work pos) fun c => { c with router := { c.router with cv := true, x := xy.1, y := xy.2 } }).onMesh
        fun m => { m with discovers := m.discovers ++ out, acks := m.acks ++ [(posDie pos, at', word)] })

/-- DISCOVER_ACK (R146): the oldest acknowledgement of a die whose word is empty is written at core (0,0). -/
def execDiscoverAck (die : Nat) (s : State) : Res :=
  let c := s.coreAt (.work (1024 * die))
  let can (a : Nat × Nat × DWord) : Bool := a.1 == die && !c.tag a.2.1
  match s.mesh.acks.find? can with
  | none => .next s
  | some (_, a, w) =>
    .next ((s.onMesh fun m => { m with acks := m.acks.eraseP can }).setCore (.work (1024 * die))
      ((c.store (a % 2 ^ 18 / 8 * 8) (bytesOf 8 w.toNat)).setTag a true))

/-- ASSIGN (R124, R146): the oldest packet of a die gives a functional router its local index; the hub counts it. -/
def execAssign (die : Nat) (s : State) : Res :=
  match s.mesh.assigns.find? fun h => bitsAt 14 4 h == die with
  | none => .next s
  | some h =>
    let s1 := s.onMesh fun m => { m with assigns := m.assigns.eraseP fun h => bitsAt 14 4 h == die }
    let pos := 1024 * die + 32 * bitsAt 9 5 h + bitsAt 4 5 h
    if s.mesh.fused.contains pos ∨ !s.hub.boot then .next s1
    else
      let old := Sparse.get 0 s.hub.dierpt die
      .next ((s1.modCore (.work pos) fun c => { c with router :=
        { c.router with val := true, lidx := BitVec.ofNat 10 (bitsAt 32 10 h) } }).onHub fun b =>
          { b with dierpt := Sparse.set 0 b.dierpt die (old + BitVec.ofNat 48 (2 ^ 32)) })

end Sys2Proof.Machine
end

