-- ==== Sys2Proof/Machine/VectorArith.lean ====
section
/-!
DEFINITION. Class 4: vector arithmetic (R173 to R175, R179 to R187).
-/

namespace Sys2Proof.Machine

/-! ## Shared forms -/

/-- Write elementwise results into v[d] under the lane predicate (R173, R174), after the AX examination (R175). -/
def State.vecWrite (s : State) (f : Fmt) (gd : Guard) (d : VReg) (bad : Option Nat) (g : Nat → Elem × FlagSet) : Res :=
  s.absentTrap gd bad
    (let r := mapLanes f (s.guard gd) gd.zeroing (s.rv d) g
    ((s.wv d r.1).orFlags r.2).done gd.len)

/-- A member with one vector operand. -/
def State.vec1 (s : State) (f : Fmt) (gd : Guard) (d a : VReg) (g : Elem → Elem × FlagSet) : Res :=
  s.vecWrite f gd d (absentIndex f (s.guard gd) [s.rv a]) fun i => g (lane f (s.rv a) i)

/-- A member with two vector operands. -/
def State.vec2 (s : State) (f : Fmt) (gd : Guard) (d a b : VReg) (g : Elem → Elem → Elem × FlagSet) : Res :=
  s.vecWrite f gd d (absentIndex f (s.guard gd) [s.rv a, s.rv b]) fun i => g (lane f (s.rv a) i) (lane f (s.rv b) i)

/-- A member with three vector operands. -/
def State.vec3 (s : State) (f : Fmt) (gd : Guard) (d a b c : VReg) (g : Elem → Elem → Elem → Elem × FlagSet) : Res :=
  s.vecWrite f gd d (absentIndex f (s.guard gd) [s.rv a, s.rv b, s.rv c]) fun i =>
    g (lane f (s.rv a) i) (lane f (s.rv b) i) (lane f (s.rv c) i)

/-! ## Indices 0 to 14 -/

/-- VADD (R180). -/
def execVadd (fmt : Fmt) (gd : Guard) (d a b : VReg) (s : State) : Res := s.vec2 fmt gd d a b (vaddE fmt (s.rounding gd))
/-- VSUB (R180). -/
def execVsub (fmt : Fmt) (gd : Guard) (d a b : VReg) (s : State) : Res := s.vec2 fmt gd d a b (vsubE fmt (s.rounding gd))
/-- VMUL (R180). -/
def execVmul (fmt : Fmt) (gd : Guard) (d a b : VReg) (s : State) : Res := s.vec2 fmt gd d a b (vmulE fmt (s.rounding gd))
/-- VFMA (R180, R181). -/
def execVfma (fmt : Fmt) (gd : Guard) (d a b c : VReg) (s : State) : Res :=
  s.vec3 fmt gd d a b c (vfmaE fmt (s.rounding gd) false)
/-- VFMS (R180, R181). -/
def execVfms (fmt : Fmt) (gd : Guard) (d a b c : VReg) (s : State) : Res :=
  s.vec3 fmt gd d a b c (vfmaE fmt (s.rounding gd) true)
/-- VMIN (R180, R181). -/
def execVmin (fmt : Fmt) (gd : Guard) (d a b : VReg) (s : State) : Res := s.vec2 fmt gd d a b (vminmaxE fmt false)
/-- VMAX (R180, R181). -/
def execVmax (fmt : Fmt) (gd : Guard) (d a b : VReg) (s : State) : Res := s.vec2 fmt gd d a b (vminmaxE fmt true)
/-- VDIV (R180, R181). -/
def execVdiv (fmt : Fmt) (gd : Guard) (d a b : VReg) (s : State) : Res :=
  s.vec2 fmt gd d a b (other2 fmt fun x y => divV fmt (s.rounding gd) (fval fmt x) (fval fmt y))
/-- VSQRT (R180, R181). -/
def execVsqrt (fmt : Fmt) (gd : Guard) (d a : VReg) (s : State) : Res :=
  s.vec1 fmt gd d a (other1 fmt fun x => sqrtV fmt (s.rounding gd) (fval fmt x))
/-- VMAG (R180, R181). -/
def execVmag (fmt : Fmt) (gd : Guard) (d a : VReg) (s : State) : Res := s.vec1 fmt gd d a (vmagE fmt)
/-- VNEG (R180, R181). -/
def execVneg (fmt : Fmt) (gd : Guard) (d a : VReg) (s : State) : Res := s.vec1 fmt gd d a (vnegE fmt)
/-- VAND (R180). -/
def execVand (fmt : Fmt) (gd : Guard) (d a b : VReg) (s : State) : Res := s.vec2 fmt gd d a b (vlogicE fmt Nat.land)
/-- VOR (R180). -/
def execVor (fmt : Fmt) (gd : Guard) (d a b : VReg) (s : State) : Res := s.vec2 fmt gd d a b (vlogicE fmt Nat.lor)
/-- VXOR (R180). -/
def execVxor (fmt : Fmt) (gd : Guard) (d a b : VReg) (s : State) : Res := s.vec2 fmt gd d a b (vlogicE fmt Nat.xor)
/-- VSHL (R180). -/
def execVshl (fmt : Fmt) (gd : Guard) (d a b : VReg) (s : State) : Res := s.vec2 fmt gd d a b (vshlE fmt)

/-! ## Indices 15 to 28 -/

/-- VSHR (R180). -/
def execVshr (fmt : Fmt) (g : PReg) (d a b : VReg) (s : State) : Res := s.vec2 fmt (.plain g) d a b (vshrE fmt)
/-- VSAR (R180). -/
def execVsar (fmt : Fmt) (g : PReg) (d a b : VReg) (s : State) : Res := s.vec2 fmt (.plain g) d a b (vsarE fmt)
/-- VADDS (R180). -/
def execVadds (fmt : Fmt) (g : PReg) (d a b : VReg) (s : State) : Res := s.vec2 fmt (.plain g) d a b (vaddsE fmt)
/-- VSUBS (R180). -/
def execVsubs (fmt : Fmt) (g : PReg) (d a b : VReg) (s : State) : Res := s.vec2 fmt (.plain g) d a b (vsubsE fmt)

/-- VCVT (R183). -/
def execVcvt (dst src : Fmt) (rnd : Rnd) (part : BitVec 2) (g : PReg) (d a : VReg) (s : State) : Res :=
  let r := vcvtV dst src (rndMode rnd s.core.regs.rm) part.toNat (s.rp g) (s.rv d) (s.rv a)
  ((s.wv d r.1).orFlags r.2).done 8

/-- VCMP (R185). -/
def execVcmp (fmt : Fmt) (cond : VCond) (g d : PReg) (a b : VReg) (s : State) : Res :=
  let r := vcmpV fmt cond (s.rp g) (s.rp d) (s.rv a) (s.rv b)
  ((s.wp d r.1).orFlags r.2).done 8

/-- VSEL (R186). -/
def execVsel (fmt : Fmt) (k : SelKind) (g : PReg) (d a b : VReg) (c : PReg) (s : State) : Res :=
  s.vecWrite fmt (.plain g) d none fun i =>
    let x := lane fmt (s.rv a) i
    let y := lane fmt (s.rv b) i
    let t := selE fmt k (s.rp c) i x y
    (if t.1 then x else y, t.2)

/-- VEXP2 (R182). -/
def execVexp2 (g : PReg) (d a : VReg) (s : State) : Res :=
  s.vec1 .bf16 (.plain g) d a (other1 .bf16 fun x => exp2V s.core.regs.rm (fval .bf16 x))
/-- VLOG2 (R182). -/
def execVlog2 (g : PReg) (d a : VReg) (s : State) : Res :=
  s.vec1 .bf16 (.plain g) d a (other1 .bf16 fun x => log2V s.core.regs.rm (fval .bf16 x))
/-- VRCP (R182). -/
def execVrcp (g : PReg) (d a : VReg) (s : State) : Res :=
  s.vec1 .bf16 (.plain g) d a (other1 .bf16 fun x => rcpV s.core.regs.rm (fval .bf16 x))
/-- VRSQ (R182). -/
def execVrsq (g : PReg) (d a : VReg) (s : State) : Res :=
  s.vec1 .bf16 (.plain g) d a (other1 .bf16 fun x => rsqV s.core.regs.rm (fval .bf16 x))

/-- VSCA (R184): b names a scalar register, or a vector register of scales. -/
def execVsca (fmt : Fmt) (sv : Bool) (rnd : Rnd) (g : PReg) (d a : VReg) (b : BitVec 5) (s : State) : Res :=
  s.vecWrite fmt (.plain g) d none fun i =>
    let scale := if sv then lane .f32 (s.rv b) (scaleIndex fmt i) else (s.rs b).toNat % 2 ^ 32
    scaleE fmt (rndMode rnd s.core.regs.rm) (lane fmt (s.rv a) i) scale

/-- VVOID (R187). -/
def execVvoid (fmt : Fmt) (g : PReg) (d : VReg) (s : State) : Res :=
  s.vecWrite fmt (.plain g) d none fun _ => (absentOf fmt, 0)

/-- VPRES (R187). -/
def execVpres (fmt : Fmt) (g d : PReg) (a : VReg) (s : State) : Res :=
  (s.wp d (writePred fmt (s.rp d) fun i =>
    if active fmt (s.rp g) i then some (present fmt (lane fmt (s.rv a) i)) else none)).done 8

end Sys2Proof.Machine
end

