-- ==== Sys2Proof/Machine/VectorMove.lean ====
section
/-!
DEFINITION. Class 5, indices 0 to 21: vector movement, reductions, scans, loop control and predicates (R188 to R196).
-/

namespace Sys2Proof.Machine

/-! ## Movement (R189) -/

/-- The lowest active element whose element input, the pattern that reaches it, is absent (R175); `src i` is that
pattern, if element i reads one. -/
def absentFirst (f : Fmt) (p : PWord) (src : Nat → Option Elem) : Option Nat :=
  (List.range f.lanes).find? fun i => active f p i && (match src i with
    | some x => !present f x
    | none => false)

/-- A copying member: `src i` is the pattern element i receives, `inp i` the element input it is. -/
def State.vecCopy (s : State) (f : Fmt) (gd : Guard) (d : VReg) (inp : Nat → Option Elem) (src : Nat → Elem) : Res :=
  s.vecWrite f gd d (absentFirst f (s.guard gd) inp) fun i => (src i, 0)

/-- VMOV. -/
def execVmov (fmt : Fmt) (gd : Guard) (d a : VReg) (s : State) : Res :=
  let x (i : Nat) : Elem := lane fmt (s.rv a) i
  s.vecCopy fmt gd d (fun i => some (x i)) x

/-- VBCAST; a k at or above N is no well-formed instruction. -/
def execVbcast (fmt : Fmt) (gd : Guard) (d : VReg) (src : BcastSrc) (s : State) : Res :=
  match src with
  | .scalar a => s.vecCopy fmt gd d (fun _ => none) fun _ => (s.rs a).toNat % 2 ^ fmtBits fmt
  | .elem a k =>
    let x := lane fmt (s.rv a) k.toNat
    s.vecCopy fmt gd d (fun _ => some x) fun _ => x

/-- VEXTR. -/
def execVextr (fmt : Fmt) (gd : Guard) (d : SReg) (a : VReg) (b : SReg) (s : State) : Res :=
  (s.ws d (vextrD fmt (s.rv a) (s.rs b).toNat)).done gd.len

/-- VINS. -/
def execVins (fmt : Fmt) (gd : Guard) (d : VReg) (a b : SReg) (s : State) : Res :=
  (s.wv d (vinsV fmt (s.rv d) (s.rs b).toNat (s.rs a).toNat)).done gd.len

/-- VPERM. -/
def execVperm (fmt : Fmt) (gd : Guard) (d a b : VReg) (s : State) : Res :=
  let x (i : Nat) : Elem := lane fmt (s.rv a) (vpermIx fmt (s.rv b) i)
  s.vecCopy fmt gd d (fun i => some (x i)) x

/-- VSLIDE. -/
def execVslide (fmt : Fmt) (gd : Guard) (dn : Bool) (d a : VReg) (b : SReg) (s : State) : Res :=
  let k := (s.rs b).toNat
  let x (i : Nat) : Elem := vslideE fmt dn k (s.rv a) i
  let reads (i : Nat) : Bool := if dn then decide (i + k < fmt.lanes) else decide (k ≤ i)
  s.vecCopy fmt gd d (fun i => if reads i then some (x i) else none) x

/-- VZIP. -/
def execVzip (fmt : Fmt) (gd : Guard) (hi : Bool) (d a b : VReg) (s : State) : Res :=
  let x (i : Nat) : Elem := vzipE fmt hi (s.rv a) (s.rv b) i
  s.vecCopy fmt gd d (fun i => some (x i)) x

/-- VUNZIP. -/
def execVunzip (fmt : Fmt) (gd : Guard) (od : Bool) (d a b : VReg) (s : State) : Res :=
  let x (i : Nat) : Elem := vunzipE fmt od (s.rv a) (s.rv b) i
  s.vecCopy fmt gd d (fun i => some (x i)) x

/-- VCOMPR: the lane predicate selects inputs, and every element of d is written. -/
def execVcompr (fmt : Fmt) (gd : Guard) (d a : VReg) (s : State) : Res :=
  s.absentTrap gd (absentIndex fmt (s.guard gd) [s.rv a])
    ((s.wv d (vcomprV fmt (s.guard gd) (s.rv a))).done gd.len)

/-! ## Q4 expansion (R190, R191) -/

/-- VEXPQ4. -/
def execVexpq4 (gd : Guard) (part : Bool) (d a : VReg) (s : State) : Res :=
  let x (i : Nat) : Elem := q4Elem s.core.regs.q4 (q4Code (s.rv a) part.toNat i)
  s.vecCopy .i8 gd d (fun i => some (x i)) x

/-- QTLD. -/
def execQtld (gd : Guard) (a : VReg) (s : State) : Res :=
  (s.onCore fun c => { c with regs := { c.regs with q4 := q4Bytes (c.regs.getV a) } }).done gd.len

/-! ## Reductions, scans and counts (R192 to R194) -/

/-- Write a result, and its counts when D4 names a register; the counts' saturation belongs to that register. -/
def State.vecCounted (s : State) (f : Fmt) (gd : Guard) (d a : VReg) (r : VWord × VWord × FlagSet × FlagSet) : Res :=
  s.absentTrap gd (absentIndex f (s.guard gd) [s.rv a])
    (let s1 := (s.wv d r.1).orFlags r.2.2.1
    (if gd.d4 = 0 then s1 else (s1.wv gd.d4 r.2.1).orFlags r.2.2.2).done gd.len)

/-- VREDUCE. -/
def execVreduce (fmt : Fmt) (gd : Guard) (op : RedOp) (d a : VReg) (s : State) : Res :=
  s.vecCounted fmt gd d a (vreduceV fmt op s.core.regs.rm (s.guard gd) (s.rv a))

/-- VSCAN. -/
def execVscan (fmt : Fmt) (gd : Guard) (op : RedOp) (ex : Bool) (d a : VReg) (s : State) : Res :=
  s.vecCounted fmt gd d a (vscanV fmt op ex s.core.regs.rm (s.guard gd) (s.rv a))

/-- VCOUNT. -/
def execVcount (fmt : Fmt) (gd : Guard) (d : SReg) (a : VReg) (s : State) : Res :=
  s.absentTrap gd (absentIndex fmt (s.guard gd) [s.rv a])
    ((s.ws d (dw (vcountN fmt (s.guard gd) (s.rv a)))).done gd.len)

/-! ## Loop control and predicates (R195, R196) -/

/-- WHILELT. -/
def execWhilelt (fmt : Fmt) (gd : Guard) (d : PReg) (a b : SReg) (s : State) : Res :=
  (s.wp d (whileltV fmt (s.rs a) (s.rs b))).done gd.len

/-- VLQ. -/
def execVlq (fmt : Fmt) (d : SReg) (s : State) : Res := (s.ws d (dw fmt.lanes)).done 8

/-- PAND. -/
def execPand (d a b : PReg) (s : State) : Res := (s.wp d (s.rp a &&& s.rp b)).done 8
/-- POR. -/
def execPor (d a b : PReg) (s : State) : Res := (s.wp d (s.rp a ||| s.rp b)).done 8
/-- PNOT. -/
def execPnot (d a : PReg) (s : State) : Res := (s.wp d (~~~s.rp a)).done 8
/-- PCNT. -/
def execPcnt (fmt : Fmt) (d : SReg) (a : PReg) (s : State) : Res := (s.ws d (dw (pcntN fmt (s.rp a)))).done 8
/-- PFIRST. -/
def execPfirst (fmt : Fmt) (d : SReg) (a : PReg) (s : State) : Res := (s.ws d (dw (pfirstN fmt (s.rp a)))).done 8
/-- PSET. -/
def execPset (fmt : Fmt) (d : PReg) (k : BitVec 9) (s : State) : Res := (s.wp d (psetV fmt k.toNat)).done 8

end Sys2Proof.Machine
end

