-- ==== Sys2Proof/Machine/VectorMem.lean ====
section
/-!
DEFINITION. The vector memory forms of class 2 and VRED (R197 to R199, R252): element addresses, the checks of every
active element before any takes effect, local and global loads and stores.
-/

namespace Sys2Proof.Machine

/-! ## Elements and checks (R198) -/

/-- The active elements with their addresses. -/
def activeAt (f : Fmt) (p : PWord) (addr : Nat → DWord) : List (Nat × DWord) :=
  ((List.range f.lanes).filter (active f p)).map fun i => (i, addr i)

/-- The checks of local elements of n bytes, by rank and then by element (R117, R198). -/
def State.localElems (s : State) (n : Nat) (es : List (Nat × DWord)) (k : Res) : Res :=
  match es.find? fun e => decide (la e.2 % n ≠ 0) with
  | some e => s.badAddress (dw (la e.2))
  | none => match es.find? fun e => !s.mayReach (la e.2) n with
    | some e => s.notOwned (la e.2)
    | none => k

/-- The address checks of global elements aligned to n bytes (R198), and their translation with the outcomes of
targets beyond the device (R117, R392, R417). -/
def State.globalElems (s : State) (n : Nat) (kind : Access) (reads : Bool) (es : List (Nat × DWord))
    (k : List Target → Res) : Res :=
  match es.find? fun e => decide (e.2.toNat % n ≠ 0) || s.xlate e.2 kind == .bad with
  | some e => s.badAddress e.2
  | none => s.translatingEach kind reads (es.map (·.2)) k

/-- v[d] with loaded elements in place (R173). -/
def State.vecLoaded (s : State) (f : Fmt) (gd : Guard) (d : VReg) (got : List (Nat × List Byte)) : Res :=
  (s.wv d (mapLanes f (s.guard gd) gd.zeroing (s.rv d) fun i =>
    (((got.find? fun e => e.1 == i).map fun e => natOf e.2).getD 0, 0)).1).done gd.len

/-- A local load of active elements. -/
def State.vecLoadLocal (s : State) (f : Fmt) (gd : Guard) (d : VReg) (addr : Nat → DWord) : Res :=
  let es := activeAt f (s.guard gd) addr
  s.localElems f.width es (s.vecLoaded f gd d (es.map fun e => (e.1, s.localBytes (la e.2) f.width)))

/-- A local store of active elements, the higher-numbered last (R199). -/
def State.vecStoreLocal (s : State) (f : Fmt) (gd : Guard) (d : VReg) (addr : Nat → DWord) : Res :=
  let es := activeAt f (s.guard gd) addr
  s.localElems f.width es
    (s.absentTrap gd (absentIndex f (s.guard gd) [s.rv d])
      ((s.onCore fun c => es.foldl (fun c e => c.store (la e.2) (bytesOf f.width (lane f (s.rv d) e.1))) c).done gd.len))

/-- A global load of active elements: all are translated, then read (R198, R199). -/
def State.vecLoadGlobal (s : State) (f : Fmt) (gd : Guard) (d : VReg) (addr : Nat → DWord) : Res :=
  let es := activeAt f (s.guard gd) addr
  s.globalElems f.width .read true es fun _ =>
    s.loadGlobals f.width (es.map (·.2)) fun t bs => t.vecLoaded f gd d ((es.map (·.1)).zip bs)

/-- Group elements into entries: a new one begins wherever an element's 128 B line differs from that of the element
before it; lines are told apart by their place (R199). -/
def lineGroups {α β : Type} [DecidableEq β] (key : α → β) : List α → List (List α)
  | [] => []
  | x :: rest => match lineGroups key rest with
    | [] => [[x]]
    | g :: gs => (match g with
      | [] => [x] :: gs
      | y :: _ => if key x = key y then (x :: g) :: gs else [x] :: g :: gs)

/-- The target of the line that holds a target. -/
def Target.line (t : Target) : Target :=
  let down (a : Nat) : Nat := a / 128 * 128
  { t with place := match t.place with
    | .dev pa => .dev (down pa)
    | .peer d pa m => .peer d (down pa) m
    | .host ha => .host (down ha) }

/-- The store-buffer entry of the elements of one line: 128 bytes and the offsets written. -/
def lineStore (g : List (Target × List Byte)) : EntryKind :=
  match g with
  | [] => .store ⟨.dev 0, 0, 0⟩ [] []
  | x :: _ =>
    let w := g.foldl (fun (r : List Byte × List Nat) e =>
      let o := e.1.place.addr % 128
      (spliceBytes r.1 o e.2, r.2 ++ ((List.range e.2.length).map (o + ·)).filter fun i => !r.2.contains i))
      (List.replicate 128 0, [])
    .store x.1.line w.1 w.2

/-- Issue an instruction with store-buffer entries whose absent trap ranks after them (R117). -/
def State.withEntriesThen (s : State) (es : List Entry) (gd : Guard) (bad : Option Nat) (k : State → Res) : Res :=
  match s.room es.length with
  | .capacity => s.killReason 12 0
  | .stall => .next s
  | .ok => s.absentTrap gd bad (k (s.addEntries es))

/-- A global store of active elements as entries of the open region (R199). -/
def State.vecStoreGlobal (s : State) (f : Fmt) (gd : Guard) (d : VReg) (addr : Nat → DWord) : Res :=
  let es := activeAt f (s.guard gd) addr
  s.globalElems f.width .write false es fun ts =>
    let parts := ts.zip (es.map fun e => bytesOf f.width (lane f (s.rv d) e.1))
    let entries := (lineGroups (fun e => e.1.line.place) parts).map fun g => s.entry (lineStore g) none
    s.withEntriesThen entries gd (absentIndex f (s.guard gd) [s.rv d]) fun t => t.done gd.len

/-! ## The forms -/

/-- A_i of the contiguous forms (R198). -/
def State.rowAddr (s : State) (f : Fmt) (a : SReg) (imm : Word) (i : Nat) : DWord := s.ea a imm + dw (i * f.width)
/-- A_i of the strided forms (R198). -/
def State.strideAddr (s : State) (a b : SReg) (imm : Word) (i : Nat) : DWord := s.ea a imm + dw i * s.rs b
/-- A_i of gather and scatter (R198). -/
def State.indexAddr (s : State) (f : Fmt) (sh : BitVec 5) (a : SReg) (b : VReg) (i : Nat) : DWord :=
  s.rs a + dw (lane f (s.rv b) i * 2 ^ sh.toNat)

/-- VLDL. -/
def execVldl (fmt : Fmt) (gd : Guard) (d : VReg) (a : SReg) (imm : Word) (s : State) : Res :=
  s.vecLoadLocal fmt gd d (s.rowAddr fmt a imm)
/-- VSTL. -/
def execVstl (fmt : Fmt) (gd : Guard) (d : VReg) (a : SReg) (imm : Word) (s : State) : Res :=
  s.vecStoreLocal fmt gd d (s.rowAddr fmt a imm)
/-- VLDG. -/
def execVldg (fmt : Fmt) (gd : Guard) (d : VReg) (a : SReg) (imm : Word) (s : State) : Res :=
  s.vecLoadGlobal fmt gd d (s.rowAddr fmt a imm)
/-- VSTG. -/
def execVstg (fmt : Fmt) (gd : Guard) (d : VReg) (a : SReg) (imm : Word) (s : State) : Res :=
  s.vecStoreGlobal fmt gd d (s.rowAddr fmt a imm)
/-- VLDS. -/
def execVlds (fmt : Fmt) (gd : Guard) (d : VReg) (a b : SReg) (imm : Word) (s : State) : Res :=
  s.vecLoadGlobal fmt gd d (s.strideAddr a b imm)
/-- VSTS. -/
def execVsts (fmt : Fmt) (gd : Guard) (d : VReg) (a b : SReg) (imm : Word) (s : State) : Res :=
  s.vecStoreGlobal fmt gd d (s.strideAddr a b imm)
/-- VGATH, global, or local with `loc`. -/
def execVgath (fmt : Fmt) (gd : Guard) (loc : Bool) (sh : BitVec 5) (d : VReg) (a : SReg) (b : VReg) (s : State) : Res :=
  if loc then s.vecLoadLocal fmt gd d (s.indexAddr fmt sh a b) else s.vecLoadGlobal fmt gd d (s.indexAddr fmt sh a b)
/-- VSCAT, global, or local with `loc`. -/
def execVscat (fmt : Fmt) (gd : Guard) (loc : Bool) (sh : BitVec 5) (d : VReg) (a : SReg) (b : VReg) (s : State) : Res :=
  if loc then s.vecStoreLocal fmt gd d (s.indexAddr fmt sh a b) else s.vecStoreGlobal fmt gd d (s.indexAddr fmt sh a b)

/-! ## VRED (R252) -/

/-- The entry of a line's reductions. -/
def lineRed (op : RedOp) (f : Fmt) (cnt : Bool) (rm : RMode) (g : List (Target × Elem)) : EntryKind :=
  match g with
  | [] => .elem ⟨.dev 0, 0, 0⟩ ⟨op, f, cnt, rm, []⟩
  | x :: _ => .elem x.1.line ⟨op, f, cnt, rm, g.map fun e => (e.1.place.addr % 128, e.2)⟩

/-- VRED. -/
def execVred (op : AmoOp) (cnt rl : Bool) (scope : Scope) (fmt : Fmt) (gd : Guard) (a : SReg) (b : VReg) (s : State) : Res :=
  let step := if cnt then slotSize fmt cnt else fmt.width
  let es := activeAt fmt (s.guard gd) fun i => s.rs a + dw (i * step)
  let sc := s.clampOrd (if rl then .release else .relaxed) scope
  let rel := if rl then some sc.1 else none
  s.globalElems step .readWrite true es fun ts =>
    (if ts.any fun t => match t.place with
          | .host _ => true
          | _ => false then s.refusedR
      else
        let parts := ts.zip (es.map fun e => lane fmt (s.rv b) e.1)
        let entries := (lineGroups (fun e => e.1.line.place) parts).map fun g =>
          s.entry (lineRed (elemOp op) fmt cnt (s.rounding gd) g) rel
        s.withEntriesThen entries gd (absentIndex fmt (s.guard gd) [s.rv b]) fun t => (t.clamped sc.2).done gd.len)

end Sys2Proof.Machine
end

