-- ==== Sys2Proof/Machine/Bezel.lean ====
section
/-!
DEFINITION. The Bezel matrix engine (R203 to R234): names and the checks at issue of BLD, MMA, MZERO, MDRAIN, MSTAT, MSAVE
and MREST, the arbiter, and the start and completion of operations.
-/

namespace Sys2Proof.Machine

/-! ## Names (R206) -/

/-- The position of the (i+1)-th set bit of a 16-bit mask. -/
def nthBit (mask i : Nat) : Option Nat := (maskBits 16 mask)[i]?
/-- The physical tile of a tile name of the executing core. -/
def State.tileOf (s : State) (k : BitVec 4) : Option Nat := nthBit (acm s.core.bzmap) k.toNat
/-- The physical bank of a bank name of the executing core. -/
def State.bankOf (s : State) (k : Nat) : Option Nat := nthBit (brm s.core.bzmap) k
/-- Does an operation write a physical tile (R222)? -/
def BezelKind.writesTile (k : BezelKind) (t : Nat) : Bool :=
  match k with
  | .mma _ i _ _ => i == t
  | .mzero _ i => i == t
  | .mrest _ i _ => i == t
  | .mdrain _ i _ _ _ _ clr _ => clr && i == t
  | _ => false

/-- The oldest queued or running operation that writes a physical tile (R222). -/
def State.tileWriter (s : State) (t : Nat) : Option BezelOp := s.bezelOps.find? fun o => o.kind.writesTile t

/-! ## Issue (R208, R211, R212) -/

/-- Address and ownership checks of the local ranges an operation names, as (register value, alignment, bytes), by
rank and then in order (R212, R117). -/
def State.localRanges (s : State) (rs : List (DWord × Nat × Nat)) (k : Res) : Res :=
  match rs.find? fun r => decide (la r.1 % r.2.1 ≠ 0) with
  | some r => s.badAddress r.1
  | none => match rs.find? fun r => !s.mayReach (la r.1) r.2.2 with
    | some r => s.notOwned (la r.1)
    | none => k

/-- Put an operation into the executing core's queue, or stall while it is full (R33, R208). -/
def State.bezelIssue (s : State) (k : BezelKind) (scope : Scope) (aq rl : Bool) (rs : List (DWord × Nat × Nat)) : Res :=
  match s.focus with
  | .work p =>
    if 8 ≤ (s.bezelQueue p).length then .next s
    else
      let sc := if aq || rl then s.clamp scope else (scope, false)
      let o : BezelOp := {
        seq := s.core.bzSeq, kind := k, scope := sc.1, aq := aq, rl := rl, who := s.who
        beads := rs.flatMap fun r => beadsOf (la r.1) r.2.2
        ahead := s.core.committed.length + s.core.openB.length
        openRegion := true, started := false, before := s.core.mem }
      let s1 := s.modBezelQueue p fun q => q ++ [o]
      ((s1.onCore fun c => { c with bzSeq := c.bzSeq + 1 }).clamped sc.2).done 8
  | _ => s.killReason 3 0

/-- ownership (3) of an unmapped name (R212). -/
def State.unmapped (s : State) : Res := s.killReason 3 0

/-- BLD (R213). -/
def execBld (scope : Scope) (fmt : Fmt) (a : SReg) (k : BankName) (aq rl : Bool) (s : State) : Res :=
  let rs := [(s.rs a, 512, 8192)]
  s.localRanges rs
    (match s.bankOf k.toNat with
    | some b => if (bwm s.core.bzmap).testBit b then s.bezelIssue (.bld fmt (la (s.rs a)) b) scope aq rl rs else s.unmapped
    | none => s.unmapped)

/-- The type the executing core has last given a tile (R212). -/
def State.trackedInt (s : State) (t : Nat) : Bool := if h : t < 16 then s.core.tileTypes[t]'h else false
/-- The executing core gives a tile a type (R212). -/
def State.track (s : State) (t : Nat) (isInt : Bool) : State :=
  s.onCore fun c => { c with tileTypes := if h : t < 16 then c.tileTypes.set t isInt h else c.tileTypes }

/-- MMA (R214): `nbm1` is zero but for TS8. -/
def execMma (scope : Scope) (fmt : Fmt) (d : Acc) (a : SReg) (k : BankName) (nbm1 : BitVec 4) (aq rl : Bool) (s : State) :
    Res :=
  let nb := nbm1.toNat + 1
  let rs := [(s.rs a, 512, 8192 * nb)]
  s.localRanges rs
    (match s.tileOf d, (List.range nb).mapM fun i => s.bankOf (k.toNat + i) with
    | some t, some banks =>
      if s.trackedInt t = fmt.isFloat then s.refusedR
      else s.bezelIssue (.mma fmt t (la (s.rs a)) banks) scope aq rl rs
    | _, _ => s.unmapped)

/-- MZERO (R218). -/
def execMzero (scope : Scope) (fmt : Fmt) (d : Acc) (aq rl : Bool) (s : State) : Res :=
  match s.tileOf d with
  | some t =>
    if 8 ≤ s.bezelOps.length then .next s
    else (s.track t (!fmt.isFloat)).bezelIssue (.mzero (!fmt.isFloat) t) scope aq rl []
  | none => s.unmapped

/-- The recoverable accumulator-busy trap (R222), or go on. -/
def State.tileFree (s : State) (t : Nat) (name : Acc) (k : Res) : Res :=
  match s.tileWriter t with
  | some o => s.recoverable 0x01 (o.seq.toNat + 2 ^ 16 * name.toNat) 0 0 s.core.pc
  | none => k

/-- MDRAIN (R219, R222). -/
def execMdrain (f : MdrainF) (s : State) : Res :=
  let bytes := if f.fmt = .bf16 then 8192 else 16384
  let rs := [(s.rs f.a, 512, bytes)] ++ (if f.sc then [(s.rs f.b, 8, 256)] else [])
    ++ (if f.cn then [(s.rs f.c, 512, 8192)] else [])
  s.localRanges rs
    (match s.tileOf f.d with
    | some t => s.tileFree t f.d
        (s.bezelIssue (.mdrain f.fmt t (la (s.rs f.a)) (if f.sc then some (la (s.rs f.b)) else none)
          (if f.cn then some (la (s.rs f.c)) else none) (rndMode f.rnd s.core.regs.rm) f.cl f.nm) f.scope f.aq f.rl rs)
    | none => s.unmapped)

/-- MSAVE (R222, R224). -/
def execMsave (scope : Scope) (d : Acc) (a : SReg) (aq rl : Bool) (s : State) : Res :=
  let rs := [(s.rs a, 512, 24576)]
  s.localRanges rs
    (match s.tileOf d with
    | some t => s.tileFree t d (s.bezelIssue (.msave t (la (s.rs a))) scope aq rl rs)
    | none => s.unmapped)

/-- MREST (R225). -/
def execMrest (scope : Scope) (fmt : Fmt) (d : Acc) (a : SReg) (aq rl : Bool) (s : State) : Res :=
  let rs := [(s.rs a, 512, 24576)]
  s.localRanges rs
    (match s.tileOf d with
    | some t =>
      if 8 ≤ s.bezelOps.length then .next s
      else (s.track t (!fmt.isFloat)).bezelIssue (.mrest (!fmt.isFloat) t (la (s.rs a))) scope aq rl rs
    | none => s.unmapped)

/-- The elements with a non-zero count. -/
def Tile.npres (t : Tile) : Nat := (t.elems.filter fun e => e.2.2 != 0).length

/-- MSTAT's word of a tile (Table 07.6); OLDEST is open while no operation writes the tile. -/
def State.statTile (s : State) (oct t : Nat) : DWord :=
  let x := (s.bezel oct).tile t
  let w := s.tileWriter t
  let oldest := match w with
    | some o => o.seq.toNat
    | none => Config.freeChoice s.tick % 65536
  dw (2 ^ 32 * x.npres + 2 ^ 16 * oldest + 2 ^ 8 * x.cond.toNat + 2 * x.isInt.toNat + w.isSome.toNat)

/-- MSTAT's word of the queue (Table 07.6); OLDEST is open while the queue is empty. -/
def State.statSeq (s : State) : DWord :=
  let q := s.bezelOps
  let oldest := match q with
    | o :: _ => o.seq.toNat
    | [] => Config.freeChoice s.tick % 65536
  dw (2 ^ 32 * q.length + 2 ^ 16 * oldest + s.core.bzSeq.toNat)

/-- MSTAT (R223). -/
def execMstat (sel : StatSel) (d : SReg) (c : Acc) (s : State) : Res :=
  match sel, s.octet? with
  | .tile, some oct => (match s.tileOf c with
    | some t => (s.ws d (s.statTile oct t)).done 8
    | none => s.unmapped)
  | .tile, none => s.unmapped
  | .seq, _ => (s.ws d s.statSeq).done 8
  | .err, some oct => (s.ws d (dw (2 ^ 32 * (s.bezel oct).uncorr + (s.bezel oct).corr))).done 8
  | .err, none => (s.ws d 0).done 8

/-! ## Latencies -/

/-- The latency of an operation in Bezel cycles (Table 07.4). -/
def BezelKind.latency : BezelKind → Nat
  | .bld _ _ _ => 128
  | .mma f _ _ _ => if f = .ts8 then 512 else 64
  | .mzero _ _ => 16
  | .mdrain f _ _ _ cn _ _ _ => (if f = .bf16 then 128 else 256) + (if cn.isSome then 128 else 0) + 8
  | .msave _ _ => 392
  | .mrest _ _ _ => 392

/-! ## The arbiter (R209, R210) -/

/-- The position whose operation is in flight. -/
def Bezel.flying (b : Bezel) : Option Nat := (List.range 8).find? fun q => (b.queue q).any (·.started)
/-- The first operation not yet started at a position. -/
def Bezel.head (b : Bezel) (q : Nat) : Option BezelOp := (b.queue q).find? fun o => !o.started
/-- A change of ISO takes effect while nothing is in flight; the next round or frame begins at position 0 (R210). -/
def State.syncIso (s : State) (oct : Nat) : State :=
  let b := s.bezel oct
  let w := s.wantIso oct
  if b.flying.isSome ∨ b.arb.iso = w then s
  else s.setBezel oct { b with arb := { b.arb with iso := w, visit := [], first := 7, slot := 0 } }

/-- WT of a position (Table 07.2). -/
def State.weight (s : State) (oct q : Nat) : Nat := bitsAt 48 4 (s.coreAt (.work (octetPosition oct q))).bzmap
/-- The credit of a position. -/
def Arbiter.creditAt (a : Arbiter) (q : Nat) : Int := if h : q < 8 then a.credit[q]'h else 0
/-- Set the credit of a position. -/
def Arbiter.setCredit (a : Arbiter) (q : Nat) (v : Int) : Arbiter :=
  if h : q < 8 then { a with credit := a.credit.set q v h } else a

/-- Visit positions until one may start its head, or the round ends; an empty queue's credit becomes 0. -/
def Bezel.settleN (b : Bezel) : Nat → Bezel
  | 0 => b
  | n + 1 =>
    match b.arb.visit with
    | [] => b
    | q :: rest =>
      match b.head q with
      | none => ({ b with arb := { b.arb.setCredit q 0 with visit := rest } }).settleN n
      | some _ => if 0 < b.arb.creditAt q then b else ({ b with arb := { b.arb with visit := rest } }).settleN n
/-- `settleN` to its end. -/
def Bezel.settle (b : Bezel) : Bezel := b.settleN 9

/-- The arbiter leaves the queue that it has served where it may start nothing more there; the queue was not empty when it was
visited, so it keeps its credit (R209). -/
def Bezel.leave (b : Bezel) (q : Nat) : Bezel :=
  if b.arb.visit.head? = some q ∧ ((b.head q).isNone ∨ b.arb.creditAt q ≤ 0) then
    { b with arb := { b.arb with visit := b.arb.visit.tail } }
  else b

/-- An operation leaves its queue, and the arbiter goes on to the next queue that may start one (R209). -/
def Bezel.finish (b : Bezel) (q : Nat) (seq : BitVec 16) : Bezel :=
  ((b.setQueue q ((b.queue q).filter fun x => x.seq != seq)).leave q).settle

/-- Begin a round: credits, and the order of visits (R209). -/
def Bezel.newRound (b : Bezel) (cores : List Nat) (wt : Nat → Nat) : Bezel :=
  let order := (cores.filter fun q => decide (b.arb.first < q)) ++ cores.filter fun q => decide (q ≤ b.arb.first)
  let a := cores.foldl (fun a q => a.setCredit q ((if a.creditAt q < 0 then a.creditAt q else 0) + wt q * 64)) b.arb
  { b with arb := { a with visit := order, first := order.headD 7 } }

/-- Rounds until a head may start. -/
def Bezel.turn (b : Bezel) (cores : List Nat) (wt : Nat → Nat) : Nat → Bezel
  | 0 => b
  | n + 1 =>
    let b1 := b.settle
    if b1.arb.visit ≠ [] then b1 else (b1.newRound cores wt).turn cores wt n

/-- Start the head of a position (R214): an MMA whose banks lack its tag ends at once, refused. -/
def State.bezelStart (s : State) (oct q : Nat) : State :=
  let b := s.bezel oct
  let start : List BezelOp → List BezelOp := fun l => l.map fun o =>
    if (b.head q).map (·.seq) = some o.seq then { o with started := true } else o
  match b.head q with
  | none => s
  | some o =>
    let refused := match o.kind with
      | .mma f _ _ banks => banks.any fun i => (b.bank i).tag != f
      | _ => false
    if refused then
      (s.setBezel oct (b.finish q o.seq)).killIssuer o.who 4
    else s.setBezel oct (b.setQueue q (start (b.queue q)))

/-- BEZEL_OP_START (R209): weighted round robin. -/
def execBezelOpStart (oct : Nat) (s : State) : Res :=
  let s1 := s.syncIso oct
  let b := s1.bezel oct
  if b.arb.iso ∨ b.flying.isSome ∨ (s1.octetCores oct).all (fun q => (b.head q).isNone) then .next s1
  else
    let b1 := b.turn (s1.octetCores oct) (s1.weight oct) 16
    match b1.arb.visit with
    | q :: _ =>
      let lat := ((b1.head q).map fun o => o.kind.latency).getD 0
      .next ((s1.setBezel oct { b1 with arb := b1.arb.setCredit q (b1.arb.creditAt q - lat) }).bezelStart oct q)
    | [] => .next (s1.setBezel oct b1)

/-- BEZEL_ISOLATION_SLOT (R210): the next position's slot begins, and its head operation starts; the operation of the slot
before has completed by then. -/
def execBezelIsolationSlot (oct : Nat) (s : State) : Res :=
  let s1 := s.syncIso oct
  let b := s1.bezel oct
  let cores := s1.octetCores oct
  if b.arb.iso = false ∨ cores = [] ∨ b.flying.isSome then .next s1
  else
    let i := b.arb.slot % cores.length
    let q := cores.getD i 0
    let s2 := s1.setBezel oct { b with arb := { b.arb with slot := (i + 1) % cores.length } }
    .next (s2.bezelStart oct q)

/-- Are the accesses that a command's acquire flag waits for performed (R35)? `ahead` counts the earlier store-buffer
entries. -/
def State.acquireReady (s : State) (id : CoreId) (aq : Bool) (ahead : Nat) (sc : Scope) : Bool :=
  !aq || ((ahead == 0 || (s.coreAt id).committed.isEmpty) && s.performed id sc)

/-- The operation in flight of an octet, with its core. -/
def State.inFlight (s : State) (oct : Nat) : Option (CoreId × Nat × BezelOp) :=
  (s.bezel oct).flying.bind fun q =>
    (((s.bezel oct).queue q).find? (·.started)).map fun o => (.work (octetPosition oct q), q, o)

/-- May the operation in flight complete (R35)? -/
def State.bezelReady (s : State) (oct : Nat) : Bool :=
  match s.inFlight oct with
  | some (id, _, o) => s.acquireReady id o.aq o.ahead o.scope
  | none => false

/-- BEZEL_OP_COMPLETE (R35, R208, R213 to R227): the operation in flight takes its effect and leaves its queue; what it writes
is there for the later operations of the queue (R230). -/
def execBezelOpComplete (oct : Nat) (s : State) : Res :=
  match s.inFlight oct, s.bezelReady oct with
  | some (id, q, o), true =>
    let s0 := if o.aq then s.podAcquire id o.scope else s
    let b := s0.bezel oct
    let e := o.kind.perform s0.tick o.before (s0.coreAt id).mem b
    let seen (l : List BezelOp) : List BezelOp := l.map fun x => { x with before := padWrites x.before e.writes }
    let s1 := (s0.modCore id fun c => { c with
      mem := padWrites c.mem e.writes
      regs := { c.regs with flags := c.regs.flags ||| e.flags } }).setBezel oct
        ((e.bezel.setQueue q (seen (e.bezel.queue q))).finish q o.seq)
    .next (match e.reason with
      | some r => s1.killIssuer o.who r
      | none => s1)
  | _, _ => .next s

end Sys2Proof.Machine
end

