-- ==== Sys2Proof/Machine/Copy.lean ====
section
/-!
DEFINITION. The copy engine (R147 to R170): CPY, CPY2 and SEND at issue and at drain, the start and completion of
transfer commands, reservations in rings, and publication of tiles.
-/

namespace Sys2Proof.Machine

/-! ## Addresses of a command -/

/-- The parts of n bytes from an address that lie in one 4 KiB page each, as (offset, bytes). -/
def pageParts : Nat → Nat → Nat → List (Nat × Nat)
  | 0, _, _ => []
  | fuel + 1, a, n =>
    if n = 0 then []
    else
      let m := Nat.min n (4096 - a % 4096)
      (0, m) :: (pageParts fuel (a + m) (n - m)).map fun e => (e.1 + m, e.2)

/-- A range of global memory beside a range of the scratchpad. -/
structure Run where
  ga : DWord
  la : Nat
  n : Nat
  deriving DecidableEq, Repr

/-- The page parts of a run. -/
def Run.parts (r : Run) : List Run :=
  (pageParts (r.n / 4096 + 2) r.ga.toNat r.n).map fun e => ⟨r.ga + dw e.1, laAdd r.la e.1, e.2⟩

/-- Is a global range of a command misaligned or beyond 48 bits (R158)? -/
def Run.bad (r : Run) : Bool := decide (r.ga.toNat / 2 ^ 48 ≠ 0 ∨ r.ga.toNat % 8 ≠ 0 ∨ 2 ^ 48 < r.ga.toNat + r.n)

/-- The address checks of a command's runs, its local ranges under R85, then the translation of every page it touches
(R117, R158). -/
def State.copyChecks (s : State) (kind : Access) (runs : List Run) (locals : List (Nat × Nat))
    (k : List (Run × Target) → Res) : Res :=
  match runs.find? (·.bad) with
  | some r => s.badAddress r.ga
  | none =>
    match locals.find? fun r => !s.mayReach r.1 r.2 with
    | some r => s.notOwned r.1
    | none =>
      let parts := runs.flatMap Run.parts
      s.translatingEach kind (kind == .read) (parts.map (·.ga)) fun ts => k (parts.zip ts)

/-! ## Issue -/

/-- The acquire and release scope of a command, reduced only where a flag uses it (R33). -/
def State.clampFlags (s : State) (aq rl : Bool) (scope : Scope) : Scope × Bool :=
  if aq || rl then s.clamp scope else (scope, false)

/-- A command of the executing core. -/
def State.copyCmd (s : State) (k : CopyKind) (scope : Scope) (aq rl cpy2 : Bool) (locals : List (Nat × Nat)) : CopyCmd where
  kind := k
  scope := scope
  aq := aq
  rl := rl
  cpy2 := cpy2
  who := s.who
  ctx := s.ctx
  beads := locals.flatMap fun r => beadsOf r.1 r.2
  ahead := s.core.committed.length + s.core.openB.length
  openRegion := s.focus.regions
  started := false
  asked := none

/-- A command enters the transfer queue at issue, or stalls while that is full (R147). -/
def State.copyNow (s : State) (c : CopyCmd) (sc : Bool) (n : Nat) : Res :=
  if 16 ≤ s.core.transferQ.length then .next s
  else ((s.onCore fun k => { k with transferQ := k.transferQ ++ [c] }).clamped sc).done n

/-- A command is held in the store buffer until its entry drains (R147). -/
def State.copyLater (s : State) (c : CopyCmd) (sc : Bool) (n : Nat) : Res :=
  s.withEntries [s.entry (.copy c) none] fun t => (t.clamped sc).done n

/-- The segments of translated runs. -/
def segsOf (ps : List (Run × Target)) : List Seg := ps.map fun e => .mem e.1.la e.2 e.1.n

/-- CPY (R157, R158). -/
def execCpy (f : CpyF) (s : State) : Res :=
  let n := 8 * (f.nwm1.toNat + 1)
  let a := la (s.rs f.a)
  let sc := s.clampFlags f.aq f.rl f.scope
  let run : Run := ⟨s.ea f.b f.disp, a, n⟩
  if a % 8 ≠ 0 then s.badAddress (s.rs f.a)
  else
    match f.dir with
    | .gl => s.copyChecks .read [run] [(a, n)] fun ps =>
        s.copyNow (s.copyCmd (.gl (segsOf ps) (if f.tf then [(a, n)] else []) f.inv) sc.1 f.aq f.rl false [(a, n)]) sc.2 12
    | .lg => s.copyChecks .write [run] [(a, n)] fun ps =>
        s.copyLater (s.copyCmd (.lg (segsOf ps)) sc.1 f.aq f.rl false [(a, n)]) sc.2 12
    | .lr =>
      let c := s.rs f.b
      let ra := la (s.rs f.d)
      let named := s.nameCore s.focus c
      if ra % 8 ≠ 0 then s.badAddress (s.rs f.d)
      else if !s.mayReach a n then s.notOwned a
      else if named = .self ∧ !s.mayReach ra n then s.notOwned ra
      else if named = .refused then s.refusedR
      else s.copyLater (s.copyCmd (.lr c.toNat ra a n f.tf []) sc.1 f.aq f.rl false
        ((a, n) :: if named = .self then [(ra, n)] else [])) sc.2 12
    | .ll =>
      let b := la (s.rs f.b)
      if b % 8 ≠ 0 then s.badAddress (s.rs f.b)
      else if !s.mayReach a n then s.notOwned a
      else if !s.mayReach b n then s.notOwned b
      else s.copyNow (s.copyCmd (.ll b a n f.tf []) sc.1 false false false [(a, n), (b, n)]) false 12

/-- The rows of a CPY2 (R161): global run of the bytes in bounds, local address of the row, its bytes. -/
def State.cpy2Rows (s : State) (f : Cpy2F) : List (Run × Nat) :=
  let w := f.fmt.width
  let bytes := 8 * (f.rwdM1.toNat + 1)
  let bounds := s.rs f.d
  (List.range (f.rowsM1.toNat + 1)).map fun i =>
    let used := if !f.bnd then bytes
      else if i < bitsAt 32 32 bounds then Nat.min bytes (bitsAt 0 32 bounds * w) else 0
    let lrow := (la (s.rs f.a) + i * f.ls.toNat) % 2 ^ 18
    (⟨s.rs f.b + dw i * sext32 f.gs, lrow, used⟩, bytes)

/-- The segments of the rows of a GL (R161), given the translated page parts of all of them in order: each row's bytes,
then absent codes where the bounds cut it short. -/
def cpy2Segs (f : Fmt) : List (Run × Nat) → List (Run × Target) → List Seg
  | [], _ => []
  | r :: rows, ps =>
    let k := r.1.parts.length
    segsOf (ps.take k) ++
      (if r.1.n = r.2 then []
      else [.fill (laAdd r.1.la r.1.n) ((List.range ((r.2 - r.1.n) / f.width)).flatMap fun _ => bytesOf f.width (absentOf f))])
      ++ cpy2Segs f rows (ps.drop k)

/-- CPY2 (R160, R161). -/
def execCpy2 (f : Cpy2F) (s : State) : Res :=
  let rows := s.cpy2Rows f
  let used := (rows.map (·.1)).filter fun r => r.n != 0
  let sc := s.clampFlags f.aq f.rl f.scope
  if la (s.rs f.a) % 8 ≠ 0 then s.badAddress (s.rs f.a)
  else if f.lg then
    let locals := used.map fun r => (r.la, r.n)
    s.copyChecks .write used locals fun ps =>
      s.copyLater (s.copyCmd (.lg (segsOf ps)) sc.1 f.aq f.rl true locals) sc.2 16
  else
    let locals := rows.map fun r => (r.1.la, r.2)
    s.copyChecks .read used locals fun ps =>
      s.copyNow (s.copyCmd (.gl (cpy2Segs f.fmt rows ps) (if f.tf then locals else []) f.inv) sc.1 f.aq f.rl true locals)
        sc.2 16

/-! ## SEND (R162 to R165) -/

/-- Do the bytes of a bead belong to an input ring of an actor (R163)? -/
def ActorRec.ringBead (r : ActorRec) (k : Nat) : Bool :=
  r.ins.any fun p => p.en && decide (p.base.toNat ≤ k ∧ k < p.base.toNat + ceilDiv (p.slots * p.slotBytes) 512)

/-- Does an outstanding CPY, CPY2 or Bezel operation of the core name a bead (R149)? -/
def State.beadBusy (s : State) (id : CoreId) (k : Nat) : Bool :=
  let c := s.coreAt id
  let held (e : Entry) : Bool := match e.kind with
    | .copy q => q.beads.contains k
    | _ => false
  c.openB.any held || c.committed.any held || c.transferQ.any (fun q => q.beads.contains k) ||
    (match id with
    | .work p => (s.bezelQueue p).any fun o => o.beads.contains k
    | _ => false)

/-- The faults of a SEND at issue, then `k` with the command (R163). -/
def State.sendFaults (s : State) (f : SendF) (last : Bool) (k : TileCmd → Res) : Res :=
  let a := la (s.rs f.a)
  let r := (s.core.actor?.map s.actor).getD ActorRec.free
  let p := r.outPort f.k.toNat
  let sz := 64 * 2 ^ p.dsize.toNat
  let n := if f.len = 0 then sz else f.len.toNat
  let sc := s.clampFlags f.aq f.rl f.scope
  if a % 512 ≠ 0 then s.badAddress (s.rs f.a)
  else if !s.mayReach a 512 then s.notOwned a
  else if r.ringBead (beadOf a) then s.notOwned a
  else if p.en = false ∨ sz < n ∨ p.sent = p.ratem1.toNat + 1 then s.refusedR
  else k ⟨.send a f.k.toNat n sz p.name p.dport.toNat, .queued, sc.1, f.aq, f.rl, s.who, s.ctx, last⟩

/-- The checks of a SEND at issue; it waits while an outstanding command names its bead (R149, R163). -/
def State.sendChecks (s : State) (f : SendF) (last : Bool) (k : State → TileCmd → Res) : Res :=
  s.sendFaults f last fun c => if s.beadBusy s.focus (beadOf (la (s.rs f.a))) then .next s else k s c

/-- The bead goes in transit and SENT rises (R163). -/
def State.beginSend (s : State) (c : TileCmd) : State :=
  match c.kind with
  | .send a k _ _ _ _ =>
    let s1 := s.onCore fun x => x.setBead (beadOf a) (.transit (x.slot?.getD 0))
    (match s.core.actor? with
    | some x => s1.modActor x fun r => r.setOut k { r.outPort k with sent := (r.outPort k).sent + 1 }
    | none => s1)
  | _ => s

/-- SEND with LAST = 0 (R163). -/
def execSend (f : SendF) (s : State) : Res :=
  s.sendChecks f false fun t c =>
    t.withEntries [t.entry (.send c) none] fun u => ((u.beginSend c).clamped (s.clampFlags f.aq f.rl f.scope).2).done 12

/-- The executing code's SEND with LAST that is under way, if any: held behind the committed entries, or in the tile
queue with its phase and whether an earlier command of that queue is incomplete (R165). -/
inductive LastSend where
  | none
  | going
  | over

/-- Is a command this issuer's SEND with LAST? -/
def TileCmd.isLastOf (c : TileCmd) (w : Issuer) : Bool := c.last && decide (c.who = w)

/-- Where the executing code's SEND with LAST stands (R165). -/
def State.lastSend (s : State) : LastSend :=
  let held (e : Entry) : Bool := match e.kind with
    | .send c => c.isLastOf s.who
    | _ => false
  if s.core.committed.any held then .going
  else
    match s.core.tileQ.findIdx? fun c => c.isLastOf s.who with
    | Option.none => .none
    | some i =>
      let earlier := (s.core.tileQ.take i).any fun c => c.phase != .done
      let done := (s.core.tileQ[i]?.map (·.phase)) == some .done
      if done && !earlier then .over else .going

/-- SEND with LAST = 1 (R98, R165): the faults of its issue come first, then the open region closes, and the command waits for
its bead and enters the store buffer behind the committed entries. -/
def execSendLast (f : SendF) (s : State) : Res :=
  match s.lastSend with
  | .going => .next s
  | .over =>
    .next (((s.onCore fun c => { c with tileQ := c.tileQ.filter fun t => !t.isLastOf s.who }).clamped
      (s.clampFlags f.aq f.rl f.scope).2).finish true 12)
  | .none =>
    s.sendFaults f true fun c =>
      if !s.core.canCommit then .next s
      else
        let t := s.closeRegion
        if t.beadBusy t.focus (beadOf (la (s.rs f.a))) then .next t
        else .next ((t.beginSend c).onCore fun k => { k with committed := k.committed ++ [t.entry (.send c) none] })

/-- A SEND leaves the store buffer for the tile queue with the binding its output port has now (R163, R294). -/
def State.boundNow (s : State) (c : TileCmd) : TileCmd :=
  match c.kind, c.who.actor with
  | .send a k n _ _ _, some x =>
    let p := (s.actor x).outPort k
    { c with
      kind := .send a k n (64 * 2 ^ p.dsize.toNat) (if p.en then p.name else 0) p.dport.toNat
      phase := .queued }
  | _, _ => { c with phase := .queued }

/-! ## Transfer commands at drain, start and completion -/

/-- How many bytes of a run of n go to a target in one step: a whole granule under CPY (R262), else what lies in one 128 B line. -/
def Place.piece (p : Place) (cpy2 : Bool) (n : Nat) : Nat :=
  let line := Nat.min n (128 - p.addr % 128)
  let granule := !cpy2 && p.addr % 4096 == 0 && decide (4096 ≤ n)
  match p with
  | .dev pa => if pa < hbmEnd ∧ granule then 4096 else line
  | .peer _ _ _ => if granule then 4096 else line
  | .host _ => line

/-- A run of bytes for a target in the pieces that go there. -/
def linePieces (cpy2 : Bool) : Nat → Target → List Byte → List (Target × List Byte)
  | 0, _, _ => []
  | fuel + 1, t, bs =>
    if bs = [] then []
    else
      let m := t.place.piece cpy2 bs.length
      (t, bs.take m) :: linePieces cpy2 fuel { t with place := t.place.plus m } (bs.drop m)

/-- The coded block that holds a target: of HBM, here or on another device. -/
def Target.block (t : Target) : Option Target :=
  let down (a : Nat) : Nat := a / 1024 * 1024
  match t.place with
  | .dev pa => if pa < hbmEnd then some { t with place := .dev (down pa) } else none
  | .peer d pa m => some { t with place := .peer d (down pa) m }
  | .host _ => none

/-- The bytes that pieces write into a block, the last written of each, if they write all of it (R258). -/
def blockBytes (ps : List (Target × List Byte)) (b : Target) : Option (List Byte) :=
  let mine := (ps.filter fun p => p.1.block == some b).reverse
  (List.range 1024).mapM fun i => mine.findSome? fun p =>
    (p.1.place.offset p.2.length (b.place.plus i)).bind fun j => p.2[j]?

/-- The pieces of a command with those of each block that it writes whole made one, in the last one's place (R258): `all` are the
pieces of a line. -/
def gatherBlocks (all : List (Target × List Byte)) : List (Target × List Byte) → List Seg
  | [] => []
  | p :: rest =>
    match (if p.2.length ≤ 128 then p.1.block else none).bind fun b => (blockBytes all b).map fun bs => (b, bs) with
    | some (b, bs) =>
      if rest.any fun q => decide (q.2.length ≤ 128) && q.1.block == some b then gatherBlocks all rest
      else .data b bs :: gatherBlocks all rest
    | none => .data p.1 p.2 :: gatherBlocks all rest

/-- What the segments of LG become when they are read: their bytes as they are now, in pieces (R158, R258, R262). -/
def drainedSegs (c : Core) (cpy2 : Bool) (segs : List Seg) : List Seg :=
  let ps := segs.flatMap fun g => match g with
    | .mem a t n => linePieces cpy2 (n / 128 + 2) t (c.load a n)
    | _ => []
  gatherBlocks (ps.filter fun p => decide (p.2.length ≤ 128)) ps

/-- A command reads its source in the scratchpad: LG, LR, or LL (R158). -/
def CopyKind.readSource (c : Core) (cpy2 : Bool) : CopyKind → CopyKind
  | .lg segs => .lg (drainedSegs c cpy2 segs)
  | .lr t ra a n tf _ => .lr t ra a n tf (c.load a n)
  | .ll b a n tf _ => .ll b a n tf (c.load a n)
  | k => k
/-- Does a command read its source at its start: LL, and with an acquire flag every command, since the acquire comes before the
engine's first read (R35)? Without one LG and LR read at drain (R158). -/
def CopyCmd.readsAtStart (x : CopyCmd) : Bool :=
  x.aq || match x.kind with
    | .ll _ _ _ _ _ => true
    | _ => false

/-- A held copy command enters the transfer queue (R147, R158). -/
def State.drainCopy (s : State) (id : CoreId) (c : CopyCmd) : State :=
  s.modCore id fun k =>
    let kind := if c.readsAtStart then c.kind else c.kind.readSource k c.cpy2
    { k with transferQ := k.transferQ ++ [{ c with kind := kind, ahead := 0, openRegion := false }] }

/-- The command of the transfer queue that is next to start, once its acquire is ready (R35, R147). -/
def State.transferNext (s : State) (id : CoreId) : Option Nat :=
  let q := (s.coreAt id).transferQ
  match q.findIdx? fun c => !c.started with
  | some i => (match q[i]? with
    | some c => if s.acquireReady id c.aq c.ahead c.scope then some i else none
    | none => none)
  | none => none

/-- Is a tile command waiting for its reservation (R153)? -/
def TilePhase.unsettled : TilePhase → Bool
  | .queued => true
  | .asking => true
  | .waiting _ _ => true
  | .returned => true
  | .remote _ _ => true
  | _ => false

/-- The tile command that is next to start: the first that has no slot, if it is still queued (R35, R153). -/
def State.tileNext (s : State) (id : CoreId) : Option Nat :=
  let q := (s.coreAt id).tileQ
  match q.findIdx? fun c => c.phase.unsettled with
  | some i => (match q[i]? with
    | some c => if c.phase = .queued ∧ s.acquireReady id c.aq 0 c.scope then some i else none
    | none => none)
  | none => none

/-- Replace element i of a list. -/
def setAt {α : Type} (l : List α) (i : Nat) (x : α) : List α := l.set i x

/-- COPY_COMMAND_START (R35, R135, R147, R158): the next command of a queue starts. LL reads its source now, as does one with an acquire flag; an MCAST goes
out to its members. -/
def execCopyCommandStart (id : CoreId) (q : CopyQueue) (s : State) : Res :=
  let c := s.coreAt id
  match q with
  | .transfer =>
    (match s.transferNext id with
    | some i => (match c.transferQ[i]? with
      | some x =>
        let kind := if x.readsAtStart then x.kind.readSource c x.cpy2 else x.kind
        let s1 := s.modCore id fun c => { c with transferQ := setAt c.transferQ i { x with kind := kind, started := true } }
        .next (if x.aq then s1.podAcquire id x.scope else s1)
      | none => .next s)
    | none => .next s)
  | .tile =>
    (match s.tileNext id with
    | some i => (match c.tileQ[i]? with
      | some x =>
        (match x.kind with
        | .mcast _ _ _ _ => .next (s.startMcast id i x)
        | _ =>
          let s1 := s.modCore id fun c => { c with tileQ := setAt c.tileQ i { x with phase := .asking } }
          .next (if x.aq then s1.podAcquire id x.scope else s1))
      | none => .next s)
    | none => .next s)

/-- How far a GL command's local part comes now. -/
inductive GlEnd where
  | more (s : State) (rest : List Seg)
  | poison (s : State)

/-- The bytes an invariant read may take from the cluster's cache (R34). -/
def State.engineInv (s : State) (id : CoreId) (ctx pa n : Nat) : Option (List Byte) :=
  match id with
  | .work p => if Config.freeBool s.tick then
      (s.ram.invs.find? fun l => l.cluster == posCluster p && l.ctx == ctx && l.line == pa / 128).map fun l =>
        (l.bytes.drop (pa % 128)).take n
    else none
  | _ => none

/-- The bytes of the head of a GL's segments that are to be had now, at most n of them and of one line: from the cluster's
invariant cache, the device, or the remote-line cache (R34, R36, R158, R393). -/
def State.glBytes (s : State) (id : CoreId) (ctx : Nat) (inv skip : Bool) (t : Target) (n : Nat) : DevRead :=
  match t.place with
  | .dev pa =>
    let m := if hbmEnd ≤ pa then Nat.min n (8 - pa % 8) else Nat.min n (128 - pa % 128)
    (match (if inv then s.engineInv id ctx pa m else none) with
    | some bs => .ok bs
    | none => s.engineRead id.die skip t.cmp pa m)
  | .peer d pa .cached => (match s.remoteLine id d pa with
    | some l => .ok ((l.bytes.drop (pa % 128)).take (Nat.min n (128 - pa % 128)))
    | none => .wait)
  | _ => .wait

/-- What is left of a segment once its first m bytes are written. -/
def Seg.rest (a : Nat) (t : Target) (n m : Nat) : Seg := .mem (laAdd a m) { t with place := t.place.plus m } (n - m)

/-- Copy bytes into the scratchpad, a line at a time, from the head of the segments (R158). `skip` says that the first read
is an acquire beyond the die (R32, R35). -/
def State.glRun (s : State) (id : CoreId) (ctx : Nat) (inv skip : Bool) : Nat → List Seg → GlEnd
  | 0, segs => .more s segs
  | _ + 1, [] => .more s []
  | fuel + 1, .fill a bs :: rest => (s.modCore id fun c => c.store a bs).glRun id ctx inv skip fuel rest
  | fuel + 1, .data _ _ :: rest => s.glRun id ctx inv skip fuel rest
  | fuel + 1, .mem a t n :: rest =>
    if n = 0 then s.glRun id ctx inv skip fuel rest
    else
      match s.glBytes id ctx inv skip t n with
      | .ok bs => ((s.meetRemote id t).modCore id fun c => c.store a bs).glRun id ctx inv false fuel (Seg.rest a t n bs.length :: rest)
      | .wait => .more s (.mem a t n :: rest)
      | .poison => .poison s
      | .found => .poison (s.onRam fun r => r.found t.place.addr)

/-- Is the first read of a command still to come an acquire that takes nothing from the ordering point (R32, R35)? -/
def CopyCmd.firstSkips (x : CopyCmd) : Bool := x.aq && beyondDie x.scope

/-- The bytes of the segments. -/
def segBytes (segs : List Seg) : Nat :=
  (segs.map fun g => match g with
    | .mem _ _ n => n
    | _ => 1).sum

/-- Remove element i of a core's transfer queue. -/
def State.dropTransfer (s : State) (id : CoreId) (i : Nat) : State :=
  s.modCore id fun c => { c with transferQ := c.transferQ.eraseIdx i }
/-- Replace element i of a core's transfer queue. -/
def State.setTransfer (s : State) (id : CoreId) (i : Nat) (x : CopyCmd) : State :=
  s.modCore id fun c => { c with transferQ := setAt c.transferQ i x }

/-- Ask another device or a host for the head segment of a GL, a line at most; of a cached-remote page the whole line (R392,
R393, R417). A lost device ends the copy (R398). -/
def State.glAsk (s : State) (id : CoreId) (i : Nat) (x : CopyCmd) (t : Target) (n : Nat) : State :=
  match t.place with
  | .peer d pa m =>
    let k := Nat.min n (128 - pa % 128)
    let via : PageUse := ⟨m.code, t.cmp, x.ctx⟩
    if !s.peerUp d then (s.dropTransfer id i).killIssuer x.who 10
    else
      (match s.trySend id.key x.ctx d x.who (.copy id)
          (if m = .cached then .load (pa / 128 * 128) 128 via else .load pa k via) with
      | (s1, some q) => s1.setTransfer id i { x with asked := some (.fabric (flowKey id.key d) q) }
      | (s1, none) => s1)
  | .host ha =>
    (match s.hostFunc x.ctx with
    | some f =>
      let r : HostReq := ⟨id, true, f, decide ((s.func f).tst = 2), ha, Nat.min n (128 - ha % 128), s.tick, none⟩
      (s.onHub fun h => { h with hostReqs := h.hostReqs ++ [r] }).setTransfer id i { x with asked := some (.host s.tick) }
    | none => (s.dropTransfer id i).killIssuer x.who 14)
  | .dev _ => s

/-- The command of a core's transfer queue that awaits an answer. -/
def Core.askedIdx (c : Core) (a : Asked) : Option Nat := c.transferQ.findIdx? fun x => x.asked == some a

/-- The bytes of an answer that a segment's head takes: all, or of a whole line those from its address on. -/
def answered (t : Target) (n : Nat) (bs : List Byte) : List Byte :=
  match t.place with
  | .peer _ pa .cached => (bs.drop (pa % 128)).take n
  | _ => bs

/-- An answer for a GL command: its bytes are written, and the head segment shrinks. -/
def State.glAnswer (s : State) (id : CoreId) (a : Asked) (bs : List Byte) : State :=
  match (s.coreAt id).askedIdx a with
  | none => s
  | some i => match (s.coreAt id).transferQ[i]? with
    | some x => (match x.kind with
      | .gl (.mem p t n :: rest) tags inv =>
        let own := answered t n bs
        (s.modCore id fun c => c.store p own).setTransfer id i { x with
          asked := none
          aq := false
          kind := .gl (Seg.rest p t n own.length :: rest) tags inv }
      | _ => s.setTransfer id i { x with asked := none })
    | none => s

/-- A GL command that awaits an answer ends with a reason. -/
def State.glFail (s : State) (id : CoreId) (a : Asked) (reason : Nat) : State :=
  match (s.coreAt id).askedIdx a with
  | none => s
  | some i => match (s.coreAt id).transferQ[i]? with
    | some x => (s.dropTransfer id i).killIssuer x.who reason
    | none => s

/-- Write the lines of an LG while their way is free (R28, R36, R262, R392, R417): they are the engine's, which no release or fence of the
core orders (R36). -/
def State.lgRun (s : State) (id : CoreId) (x : CopyCmd) : Nat → List Seg → State × List Seg
  | 0, segs => (s, segs)
  | _ + 1, [] => (s, [])
  | fuel + 1, .data t bs :: rest =>
    (match t.place with
    | .dev pa =>
      if hbmEnd ≤ pa then
        let w := ctlWriter id
        (s.ctlStore w.1 w.2 pa bs (bs.length + 1)).lgRun id x fuel rest
      else if 512 ≤ (s.orderAt id.die).length then (s, .data t bs :: rest)
      else
        let kind : PortKind :=
          if bs.length = 4096 ∧ pa % 4096 = 0 then .granule bs
          else if bs.length = 1024 ∧ pa % 1024 = 0 then .block bs
          else .store bs (List.range bs.length)
        (s.joinOrder id.die ⟨pa, kind, t.cmp, x.who, none, .engine⟩).lgRun id x fuel rest
    | .peer d pa m =>
      if !s.peerUp d then (s.killIssuer x.who 10, [])
      else
      (match s.trySend id.key x.ctx d x.who .engine (.store pa bs ⟨m.code, t.cmp, x.ctx⟩) with
      | (s1, some _) => s1.lgRun id x fuel rest
      | (s1, none) => (s1, .data t bs :: rest))
    | .host ha =>
      (match s.hostFunc x.ctx with
      | some f => (s.onHub fun h => { h with out := h.out ++ [.write f (decide ((s.func f).tst = 2)) ha bs] }).lgRun id x fuel rest
      | none => (s.killIssuer x.who 14, [])))
  | fuel + 1, _ :: rest => s.lgRun id x fuel rest

/-- Set the tags of local ranges full (TF). -/
def Core.setRanges (c : Core) (rs : List (Nat × Nat)) : Core := rs.foldl (fun c r => c.setTags r.1 true (r.2 / 8)) c

/-- COPY_COMMAND_COMPLETE (R35, R158 to R161): the started command at place i of a queue goes on as far as it can, and
leaves the queue when it is complete. -/
def execCopyCommandComplete (id : CoreId) (q : CopyQueue) (i : Nat) (s : State) : Res :=
  match q, (s.coreAt id).transferQ[i]? with
  | .transfer, some x =>
    if !x.started ∨ x.asked.isSome then .next s
    else
      (match x.kind with
      | .gl segs tags inv =>
        (match s.glRun id x.ctx inv x.firstSkips (segBytes segs + segs.length + 1) segs with
        | .poison s1 => .next ((s1.dropTransfer id i).killIssuer x.who 6)
        | .more s1 [] => .next ((s1.modCore id fun c => c.setRanges tags).dropTransfer id i)
        | .more s1 rest =>
          let y := { x with kind := .gl rest tags inv, aq := x.aq && rest == segs }
          let s2 := s1.setTransfer id i y
          (match rest with
          | .mem _ t n :: _ => .next (s2.glAsk id i y t n)
          | _ => .next s2))
      | .lg segs =>
        let r := s.lgRun id x (segs.length + 1) segs
        if r.2 = [] ∧ (!x.rl ∨ r.1.performedBy id true x.scope) then .next (r.1.dropTransfer id i)
        else .next (r.1.setTransfer id i { x with kind := .lg r.2 })
      | .lr c ra _ n tf bs =>
        let s1 := s.dropTransfer id i
        (match (if c = s.lciOf id ∧ id.regions then some id else s.coreOfLci c) with
        | some t =>
          if t = id ∨ s.admits t permW (s.lciOf id) x.ctx ra n then
            .next (s1.modCore t fun k => (k.store ra bs).setRanges (if tf then [(ra, n)] else []))
          else .next (s1.killIssuer x.who 4)
        | none => .next (s1.killIssuer x.who 4))
      | .ll b _ n tf bs =>
        .next ((s.modCore id fun k => (k.store b bs).setRanges (if tf then [(b, n)] else [])).dropTransfer id i))
  | _, _ => .next s

/-- A GL command goes on by one word at most (R158): any prefix of its words may be written when it is stopped (R166). -/
def State.glStep (s : State) (id : CoreId) (i : Nat) : State :=
  match (s.coreAt id).transferQ[i]? with
  | some x => (match x.kind, x.started && x.asked.isNone with
    | .gl (.fill a bs :: rest) tags inv, true =>
      let k := Nat.min bs.length (8 - a % 8)
      (s.modCore id fun c => c.store a (bs.take k)).setTransfer id i { x with
        kind := .gl (if k = bs.length then rest else .fill (laAdd a k) (bs.drop k) :: rest) tags inv }
    | .gl (.mem a t n :: rest) tags inv, true =>
      if n = 0 then s.setTransfer id i { x with kind := .gl rest tags inv }
      else
        (match s.glBytes id x.ctx inv x.firstSkips t (Nat.min n (8 - a % 8)) with
        | .ok bs => ((s.meetRemote id t).modCore id fun c => c.store a bs).setTransfer id i { x with
            aq := false
            kind := .gl (Seg.rest a t n bs.length :: rest) tags inv }
        | _ => s)
    | _, _ => s)
  | none => s

/-! ## Reservation and publication (R153 to R156, R163) -/

/-- What a name resolves to (R270). -/
inductive Resolved where
  | here (x : ActorId)
  | away (dev : Nat)
  | wait
  | gone

/-- Is a context one whose actors names can reach (R270, R399)? -/
def State.ctxNamed (s : State) (x : Nat) : Bool := s.ctxState x == 1 || s.ctxState x == 3

/-- Where an actor that this device's records hold as resident is (R270). -/
def State.located (s : State) (x : ActorId) : Resolved :=
  let r := s.actor x
  if r.dev = 0 then .here x else if s.peerUp (r.dev - 1) then .away (r.dev - 1) else .gone

/-- Resolve a name (R270): by the entry of this device's table; for a name of another device, by the location this device holds of that
incarnation, or else on the device that issued it, whose entry alone says what has become of any other. A name of a device that is no member of
the domain is gone (R390). -/
def State.resolve (s : State) (n : DWord) : Resolved :=
  let x := s.idOf n
  let r := s.actor x
  let current := nameGen n = 0 ∨ nameGen n = r.gen
  if !x.own then
    if !s.peerUp (nameDev n) then .gone
    else match (if current then r.st else .free) with
      | .resident => s.located x
      | .migrating => .wait
      | _ => .away (nameDev n)
  else if !s.ctxNamed x.ctx ∨ !current then .gone
  else
    match r.st with
    | .resident => s.located x
    | .restarting => .wait
    | .migrating => .wait
    | _ => .gone

/-- What a SEND's destination is now (R151, R156). -/
inductive Dest where
  | here (x : ActorId)
  | away (dev : Nat)
  | wait
  | gone (reason : Nat)

/-- Is the bearer of a name with generation 0 dying under a supervisor, so that a restart may follow: for a SEND it has not died
without a restart (R156, R290 step 6, R328)? -/
def State.mayReturn (s : State) (name : DWord) : Bool :=
  let r := s.actor (s.idOf name)
  nameGen name == 0 && s.ctxNamed (s.idOf name).ctx && r.st == .leaving && r.super != 0

/-- Resolve the destination name of an output port (R156, R270); a port that is bound to none by now has no destination (log
entry 111). While the actor makes ready to move, requests are held (R296). -/
def State.destOf (s : State) (name : DWord) (dport : Nat) : Dest :=
  if name = 0 then .gone 4
  else
    match s.resolve name with
    | .gone => if s.mayReturn name then .wait else .gone 10
    | .away d => .away d
    | .wait => .wait
    | .here x =>
      let r := s.actor x
      if (r.mig.map (·.started)) = some true ∨ !s.inSlot x then .wait
      else if (r.inPort dport).en then .here x else .gone 4

/-- The name of an issuing incarnation. -/
def State.issuerName (s : State) (w : Issuer) : Option DWord :=
  w.actor.map fun x => s.nameWith x w.gen

/-- The tile command at place i of a core's queue. -/
def State.setTile (s : State) (id : CoreId) (i : Nat) (c : TileCmd) : State :=
  s.modCore id fun k => { k with tileQ := setAt k.tileQ i c }

/-- A tile command is complete: the bead returns to its slot, and the command leaves the queue; a SEND with LAST stays
until its instruction is performed, unless its sender has died (R163, R165). -/
def State.endTile (s : State) (id : CoreId) (i : Nat) : State :=
  match (s.coreAt id).tileQ[i]? with
  | some c =>
    let land (k : Core) : Core := match c.kind with
      | .send a _ _ _ _ _ => k.landBead (beadOf a)
      | _ => k
    s.modCore id fun k =>
      { land k with tileQ := if c.last && (s.alive c.who).isSome then setAt k.tileQ i { c with phase := .done }
          else k.tileQ.eraseIdx i }
  | none => s

/-- A SEND to a gone destination is discarded, with an exit signal to its sender (R156). -/
def State.discardSend (s : State) (id : CoreId) (i : Nat) (reason : Nat) : State :=
  match (s.coreAt id).tileQ[i]? with
  | some c =>
    let s1 := s.endTile id i
    (match c.kind, s.issuerName c.who with
    | .send _ _ _ _ name _, some me => s1.onActs fun a => { a with mail := a.mail ++ [.exit me name reason 0 none false id.key .core] }
    | _, _ => s1)
  | none => s

/-- The bytes a tile carries: n from the bead, zeros up to the slot's size (R163); a binding made after the issue whose slots
are smaller takes the first of them (log entry 111). -/
def Core.tileBytes (c : Core) (a n sz : Nat) : List Byte := (c.load a n ++ List.replicate (sz - n) 0).take sz

/-- RESERVATION_REQUEST (R153, R156): the request of a core's asking SEND reaches its port: a slot, a place among the
waiting, or the request back; or it meets the end of R156. A SEND to another device carries its tile (R163). -/
def execReservationRequest (id : CoreId) (s : State) : Res :=
  let c := s.coreAt id
  match c.tileQ.findIdx? fun t => t.phase == .asking with
  | none => .next s
  | some i => match c.tileQ[i]? with
    | some t =>
      (match t.kind with
      | .send a _ n sz name dport =>
        (match s.destOf name dport with
        | .gone r => .next (s.discardSend id i r)
        | .wait => .next s
        | .away d =>
          if !s.peerUp d then .next (s.discardSend id i 10)
          else if t.rl && !s.performed id t.scope then .next s
          else (match s.trySend id.key t.ctx d t.who (.tile id) (.tile name dport (c.tileBytes a n sz)) with
            | (s1, some q) => .next (s1.setTile id i { t with phase := .remote (flowKey id.key d) q })
            | (s1, none) => .next s1)
        | .here x =>
          let p := (s.actor x).inPort dport
          if 0 < p.freeCount then
            .next ((s.modActor x fun r => r.setIn dport (r.inPort dport).reserve).setTile id i
              { t with phase := .granted (s.actor x).core x dport p.next })
          else if p.asks.length < 16 then
            .next ((s.modActor x fun r => r.setIn dport { r.inPort dport with asks := (r.inPort dport).asks ++ [.core id] }).setTile
              id i { t with phase := .waiting x dport })
          else .next (s.setTile id i { t with phase := .returned }))
      | _ => .next s)
    | none => .next s

/-- RESERVATION_RESEND (R153): a returned request is offered again. -/
def execReservationResend (id : CoreId) (s : State) : Res :=
  .next (s.modCore id fun c => { c with tileQ := c.tileQ.map fun t => if t.phase = .returned then { t with phase := .asking } else t })

/-- The oldest granted SEND of a core, once its release is ready (R35). -/
def State.publishNext (s : State) (id : CoreId) : Option Nat :=
  (s.coreAt id).tileQ.findIdx? fun t => match t.phase with
    | .granted _ x _ _ => s.inSlot x && (!t.rl || s.performed id t.scope)
    | _ => false

/-- SLOT_PUBLICATION (R153, R155, R163): the tile of a core's oldest granted SEND is written into its slot, whose tags
become full, and published; the bead leaves transit. A grant that the destination's death took back is asked for
again. -/
def execSlotPublication (id : CoreId) (s : State) : Res :=
  match s.publishNext id with
  | none => .next s
  | some i => match (s.coreAt id).tileQ[i]? with
    | some t =>
      (match t.kind, t.phase with
      | .send a _ n sz _ _, .granted _ x p j =>
        if ((s.actor x).inPort p).pend.any fun e => e.1 == j then
          .next ((s.writeTile x p j ((s.coreAt id).tileBytes a n sz) (if t.rl then t.scope else .core)).endTile id i)
        else .next (s.setTile id i { t with phase := .asking })
      | _, _ => .next s)
    | none => .next s

/-- The reply to a tile that went to another device (R156, R163, R396). -/
def State.tileReply (s : State) (id : CoreId) (flow seq : Nat) (e : FabricEnd) : State :=
  match (s.coreAt id).tileQ.findIdx? fun t => t.phase == .remote flow seq with
  | none => s
  | some i => match e with
    | .gone => s.discardSend id i 10
    | .refused => s.discardSend id i 4
    | .poison => s.discardSend id i 10
    | .denied => s.discardSend id i 10
    | _ => s.endTile id i

end Sys2Proof.Machine
end

