-- ==== Sys2Proof/Machine/PortOps.lean ====
section
/-!
DEFINITION. The ordering points and the memory ports at work (R28, R239, R432): operations that pass to their ports,
what a port applies (R245 to R251, R258, R261 to R263), queued reads, the patrol (R260) and the migration counters
(R264, R265).
-/

namespace Sys2Proof.Machine

/-! ## Where an operation lies -/

/-- Does an operation write a whole block in one step (R258)? -/
def PortKind.wholeBlock : PortKind → Bool
  | .block _ => true
  | _ => false

/-- The ports of an operation: its block's, or the four of its granule (R23, R260). -/
def PortOp.ports (o : PortOp) : List Nat :=
  if o.kind.wholeGranule then [0, 1, 2, 3].map fun i => portOf (o.pa + 1024 * i) else [portOf o.pa]
/-- Do two operations share a port? -/
def PortOp.shares (o q : PortOp) : Bool := o.ports.any q.ports.contains
/-- The operations a port holds. -/
def Port.ops (p : Port) : List PortOp := p.queue.flatMap (·.2)
/-- Does an operation touch a granule? -/
def PortOp.inGranule (o : PortOp) (g : Nat) : Bool := decide (o.pa / 4096 = g)

/-! ## Passing an ordering point (R432) -/

/-- Is operation i of a list held back by an earlier one: one for its port, or, for a release beyond the die, one of
its core that is no engine's (R30, R36, R432)? -/
def heldBack (before : List PortOp) (o : PortOp) : Bool :=
  before.any fun q => q.shares o || (match o.rel with
    | some sc => decide (2 ≤ scopeNum sc ∧ q.who.core = o.who.core ∧ q.ack ≠ .engine)
    | none => false)

/-- Has a port an entry that an operation may join or open (R239)? -/
def Port.accepts (p : Port) (line : Nat) : Bool :=
  match (p.queue.filter fun e => e.1 == line).getLast? with
  | some e => decide (e.2.length < 16) || decide (p.queue.length < 64)
  | none => decide (p.queue.length < 64)

/-- Put an operation into the last entry of its line while that holds fewer than 16, else into a new one (R239). -/
def enqueue (line : Nat) (o : PortOp) : List (Nat × List PortOp) → List (Nat × List PortOp)
  | [] => [(line, [o])]
  | e :: rest =>
    if e.1 = line ∧ !(rest.any fun x => x.1 == line) ∧ e.2.length < 16 then (line, e.2 ++ [o]) :: rest
    else e :: enqueue line o rest

/-- The number, beside those of the dies, of the list in which operations that arrived over the fabric wait (R432). -/
def fabricPoint : Nat := 9
/-- Does a read that a port has queued touch the bytes of an operation? -/
def Port.readsOf (p : Port) (o : PortOp) : Bool :=
  p.reads.any fun r => (List.range r.n).any fun i => o.at (r.pa + i) != .no

/-- May operation i of a die's ordering point, or of those that wait at the fabric interface, pass now (R30, R244,
R391, R432)? One of the interface does not overtake a read. -/
def State.passReady (s : State) (die i : Nat) : Bool :=
  let l := s.orderAt die
  match l[i]? with
  | none => false
  | some o =>
    !heldBack (l.take i) o
      && (die != fabricPoint || !(s.port (portOf o.pa)).readsOf o)
      && (match o.rel with
        | some .core => true
        | some .die => true
        | some .device => true
        | some _ => !s.unacked o.who.core false
        | none => true)
      && (if o.kind.wholeGranule then
        o.ports.all fun m => !(s.port m).ops.any fun q => q.inGranule (o.pa / 4096)
      else if o.kind.wholeBlock then !(s.port (portOf o.pa)).ops.any fun q => q.pa / 1024 == o.pa / 1024
      else (s.port (portOf o.pa)).accepts (o.pa / 128))

/-- Does a TLB entry map a granule of this device (R262)? -/
def TlbEntry.mapsGranule (e : TlbEntry) (thisDev pa : Nat) : Bool :=
  let g := pa / 4096 * 4096
  e.valid && !e.host && (decide (e.mode = 0) || decide (e.peer = thisDev))
    && decide (e.out < g + 4096 ∧ g < e.out + e.size)

/-- Write a granule and clear its poison in one step: marks, bitmap bit, and every TLB entry that maps it (R262,
R263). -/
def State.clearGranule (s : State) (cmp : BitVec 2) (pa : Nat) (bs : List Byte) : State :=
  let s1 := s.onRam fun r =>
    ([0, 1, 2, 3].foldl (fun r i => r.putBlock cmp (pa / 1024 + i) ((bs.drop (1024 * i)).take 1024)) r).setPoison pa false
  s1.mapCores fun _ c => c.dropTlb fun e => e.mapsGranule s.thisDev pa

/-- The answer to a request that came over the fabric. -/
def State.answer (s : State) (a : PortAck) (e : FabricEnd) : State :=
  match a with
  | .fabric d f q => s.reply d f q e
  | _ => s

/-- ORDERING_POINT_PASS (R28, R262, R263, R432): operation i at a die's ordering point passes to its port, or takes its
granule or its block. -/
def execOrderingPointPass (die i : Nat) (s : State) : Res :=
  match (s.orderAt die)[i]?, s.passReady die i with
  | some o, true =>
    let s1 := (s.putAside die o).onRam fun r => { r with order := Sparse.set [] r.order die ((s.orderAt die).eraseIdx i) }
    (match o.kind with
    | .poisonclr => .next ((s1.clearGranule o.cmp o.pa (List.replicate 4096 0)).answer o.ack .ack)
    | .granule bs => .next ((s1.clearGranule o.cmp o.pa bs).answer o.ack .ack)
    | .block bs => .next ((s1.onRam fun r => r.putBlock o.cmp (o.pa / 1024) bs).answer o.ack .ack)
    | _ =>
      let p := s1.port (portOf o.pa)
      .next (s1.setPort (portOf o.pa) { p with queue := enqueue (o.pa / 128) o p.queue }))
  | _, _ => .next s

/-! ## Applying an operation at its port -/

/-- What an application gives: the memory, and the old value it returns, or poison (R261). -/
inductive Applied where
  | ok (r : Ram) (old : Nat)
  | poison (r : Ram)

/-- One element of a reduction combined into its slot (R249 to R252); `none` when its block is undecodable. Only value and
count of a counted slot are written: its other bytes stay as found (DEDUCED, log entry 128). -/
def Ram.elem (r : Ram) (cmp : BitVec 2) (pa : Nat) (k : ElemRed) (x : Elem) : Option Ram :=
  let w := k.fmt.width
  if !present k.fmt x then some r
  else if k.cnt then
    let cs := slotSize k.fmt true
    (r.read cmp pa cs).map fun bs =>
      let v := combCounted k (natOf (bs.take w)) (natOf ((bs.drop (cs / 2)).take 2)) x
      (r.write cmp pa (bytesOf w v.1)).write cmp (pa + cs / 2) (bytesOf 2 v.2)
  else (r.read cmp pa w).map fun bs => r.write cmp pa (bytesOf w (combPlain k (natOf bs) x))

/-- The elements of a reduction in order. -/
def Ram.elemsN (r : Ram) (cmp : BitVec 2) (pa : Nat) (k : ElemRed) : List (Nat × Elem) → Option Ram
  | [] => some r
  | (off, x) :: rest => (r.elem cmp (pa + off) k x).bind fun r1 => r1.elemsN cmp pa k rest

/-- Does a write queue hold all eight lines of a block as plain stores (R258)? -/
def Port.holdsBlock (p : Port) (b : Nat) : Bool :=
  (List.range 8).all fun l =>
    let ops := p.line (1024 * b + 128 * l)
    ops.all (fun o => match o.kind with
      | .store _ _ => true
      | _ => false) &&
    (List.range 128).all fun i => newest (fun o => o.at (1024 * b + 128 * l + i)) ops != .no

/-- A block about to be written whole from the write queue is not decoded first: an undecodable one reads as zeros from then
on, unmarked (R258). -/
def Ram.unread (r : Ram) (p : Port) (o : PortOp) : Ram :=
  if (r.read o.cmp (o.pa / 1024 * 1024) 1024).isNone ∧ p.holdsBlock (o.pa / 1024) then
    r.putBlock o.cmp (o.pa / 1024) (List.replicate 1024 0)
  else r

/-- A port applies an operation, indivisibly (R239, R245, R250, R258, R261). A reduction of absent contributions alone does
nothing, so it reads nothing: neither poison nor an undecodable block ends its issuer (DEDUCED, log entry 128). -/
def Ram.apply (r : Ram) (p : Port) (o : PortOp) : Applied :=
  let scalar (n : Nat) : Applied :=
    if r.poisoned o.pa then .poison r
    else match r.read o.cmp o.pa n with
      | none => .poison (r.found o.pa)
      | some bs => match o.kind.scalar (natOf bs) with
        | some v => .ok (r.write o.cmp o.pa (bytesOf n v)) (natOf bs)
        | none => .ok r (natOf bs)
  match o.kind with
  | .store bs mask => .ok ((r.unread p o).writeMask o.cmp o.pa bs mask) 0
  | .red _ n _ => scalar n
  | .amo _ n _ => scalar n
  | .cas n _ _ => scalar n
  | .bnd n _ _ => scalar n
  | .elem k =>
    if k.elems.all fun e => !present k.fmt e.2 then .ok r 0
    else if r.poisoned o.pa then .poison r
    else match r.elemsN o.cmp o.pa k k.elems with
      | some r1 => .ok r1 0
      | none => .poison (r.found o.pa)
  | .poisonclr => .ok r 0
  | .granule bs => .ok (r.write o.cmp o.pa bs) 0
  | .block bs => .ok (r.putBlock o.cmp (o.pa / 1024) bs) 0

/-- The bytes a returning operation answers over the fabric; none for the others. -/
def PortKind.returned (k : PortKind) (old : Nat) : FabricEnd :=
  match k with
  | .amo _ n _ => .data (bytesOf n old)
  | .cas n _ _ => .data (bytesOf n old)
  | .bnd n _ _ => .data (bytesOf n old)
  | _ => .ack

/-- Does a core still wait for the atomic of an issuer? -/
def State.awaitsAtomic (s : State) (id : CoreId) (w : Issuer) : Bool :=
  match (s.coreAt id).wait with
  | some v => decide (v.kind = .atomic) && decide (s.issuerOn id = w)
  | none => false

/-- The address of a returning atomic of the executing core. -/
def State.atomicAddress (s : State) (i : Option Instr) : DWord :=
  match i with
  | some (.amo _ _ _ _ _ a _) => s.rs a
  | some (.cas _ _ _ _ a _ _) => s.rs a
  | some (.amobnd _ _ _ _ a _ _) => s.rs a
  | _ => 0

/-- The end of an operation reaches whoever awaits it (R245, R261). -/
def State.portEnd (s : State) (o : PortOp) (e : Option Nat) : Res :=
  match o.ack, e with
  | .none, some _ => .next s
  | .none, none => .next (s.killIssuer o.who 6)
  | .engine, some _ => .next s
  | .engine, none => .next (s.killIssuer o.who 6)
  | .fabric _ _ _, some old => .next (s.answer o.ack (o.kind.returned old))
  | .fabric _ _ _, none => .next (s.answer o.ack .poison)
  | .core c, r =>
    if s.awaitsAtomic c o.who then
      let t := s.refocus c
      let u : Res := match t.core.wait.bind fun w => t.amoCall w.instr, r with
        | some a, some old => .next (t.amoDone a true old)
        | _, _ => .next (t.fatal 0x46 6 (t.atomicAddress (t.core.wait.map (·.instr))))
      u.refocused s.focus
    else match r with
      | some _ => .next s
      | none => .next (s.killIssuer o.who 6)

/-- Take the first operation of a queue; an entry leaves with its last. -/
def dequeue : List (Nat × List PortOp) → List (Nat × List PortOp)
  | (l, _ :: o :: os) :: rest => (l, o :: os) :: rest
  | _ :: rest => rest
  | [] => []

/-- WRITE_QUEUE_APPLY (R239, R245, R250, R258, R261): a port applies the first operation of its oldest entry.
R239 fixes the order within a line only; that entries of different lines go by age is the model's choice (DESIGN CHOICE, log
entry 128). -/
def execWriteQueueApply (m : Nat) (s : State) : Res :=
  let p := s.port m
  match p.queue with
  | (_, o :: _) :: _ =>
    let s1 := s.setPort m { p with queue := dequeue p.queue }
    (match s1.ram.apply p o with
    | .ok r old => (s1.onRam fun _ => r).portEnd o (some old)
    | .poison r => (s1.onRam fun _ => r).portEnd o none)
  | [] => .next s
  | _ => .next (s.setPort m { p with queue := dequeue p.queue })

/-! ## Queued reads and the patrol -/

/-- May a queued read be served: does no operation queued for its line touch its bytes (R239)? -/
def Port.readReady (p : Port) (r : PortRd) : Bool :=
  (List.range r.n).all fun i => newest (fun o => o.at (r.pa + i)) (p.line (r.pa + i)) == .no

/-- PORT_READ (R239, R257, R261): a port serves its oldest queued read that nothing before it touches. -/
def execPortRead (m : Nat) (s : State) : Res :=
  let p := s.port m
  match p.reads.findIdx? p.readReady with
  | none => .next s
  | some i => match p.reads[i]? with
    | none => .next s
    | some r =>
      let s1 := s.setPort m { p with reads := p.reads.eraseIdx i }
      if s1.ram.poisoned r.pa then .next (s1.reply r.dev r.flow r.seq .poison)
      else match s1.ram.read r.cmp r.pa r.n with
        | some bs => .next (s1.reply r.dev r.flow r.seq (.data bs))
        | none => .next ((s1.onRam fun x => x.found r.pa).reply r.dev r.flow r.seq .poison)

/-- Count a corrected error (R260, Table 09.10). -/
def Port.corrected (p : Port) : Port := { p with mperr := setBits 0 32 (sat32 (bitsAt 0 32 p.mperr + 1)) p.mperr }

/-- PATROL_READ (R260): the patrol reads a block and finds it clean, corrects it, or poisons its granule; an undecodable
block is found whatever the array says. -/
def execPatrolRead (block : Nat) (e : EccKind) (s : State) : Res :=
  let pa := 1024 * block
  if hbmEnd ≤ pa then .next s
  else
    let m := portOf pa
    let s1 := if e = .correctable then s.setPort m (s.port m).corrected else s
    let bad := e = .uncorrectable ∨ (s1.ram.read 0 pa 1024).isNone
    if bad then .next (s1.onRam fun r => r.found pa) else .next s1

/-! ## Migration counters (R264, R265) -/

/-- The notice of Table 09.8. -/
def noticeBytes (frame holder dev ctx mthr m : Nat) : List Byte :=
  bytesOf 8 frame ++ bytesOf 2 holder ++ bytesOf 2 dev ++ bytesOf 4 ctx ++ bytesOf 8 mthr ++ bytesOf 2 m ++ List.replicate 38 0

/-- An access of another device whose page migrates on count reaches a port (R264): its count rises, the key counted
most recently standing last; at MTHR the count returns to 0 and a notice is due. -/
def State.countAt (s : State) (m pa dev ctx : Nat) : State × Option (List Byte) :=
  let p := s.port m
  if !bitAt 16 p.mpcfg then (s, none)
  else
    let frame := pa / 65536
    let key (c : MigCount) : Bool := c.frame == frame && c.dev == dev
    let n := ((p.counters.find? key).map (·.count)).getD 0 + 1
    let others := p.counters.filter fun c => !key c
    let rest := if 256 ≤ others.length then others.drop 1 else others
    let t := bitsAt 0 16 p.mpcfg
    let hit := decide (t ≤ n)
    let s1 := s.setPort m { p with counters := rest ++ [⟨frame, dev, ctx, if hit then 0 else n⟩] }
    (s1, if hit then some (noticeBytes frame s.thisDev dev ctx t m) else none)

/-- The ports that n bytes from an address reach: one for each of their blocks (R23). -/
def portsOf (pa n : Nat) : List Nat := ((List.range ((pa % 1024 + n + 1023) / 1024)).map fun i => portOf (pa + 1024 * i)).eraseDups
/-- An access of n bytes of another device is counted at every port it reaches (R23, R264), with the notices due. -/
def State.countAccess (s : State) (pa n dev ctx : Nat) : State × List (List Byte) :=
  (portsOf pa n).foldl (fun r m =>
    let c := r.1.countAt m pa dev ctx
    (c.1, r.2 ++ c.2.toList)) (s, [])

end Sys2Proof.Machine
end

