-- ==== Sys2Proof/Machine/Trans.lean ====
section
/-!
DEFINITION. The translation cores' instructions and events (R330 to R352): TLBW, TLBINV and TLBPROBE, the answers to
misses with the first-write copy of a shadow (R323, R340), page requests (R347, R348), and the reads and writes that the
actor engine makes of global memory.
-/

namespace Sys2Proof.Machine

/-! ## TLBW, TLBINV, TLBPROBE -/

/-- The width in bytes of a page size. -/
def pageSizeBytes : PageSize → Nat
  | .k4 => 2 ^ 12
  | .k64 => 2 ^ 16
  | .m2 => 2 ^ 21
  | .g1 => 2 ^ 30

/-- Are the two words of an entry as Table 12.4 has them (R343)? -/
def TlbEntry.wellFormed (e : TlbEntry) : Bool :=
  let sz := bitsAt 10 2 e.e0
  let pm := bitsAt 48 16 e.e1
  e.valid && bitsAt 48 4 e.e0 == 0 && !bitAt 1 e.e0 && bitsAt 36 6 e.e1 == 0
    && e.base % e.size == 0 && e.out % e.size == 0
    && (match sz with
      | 0 => decide (pm < 2)
      | 1 => true
      | _ => pm == 0)

/-- Does an invalidation cover a range of a context (R344)? -/
def State.invCovers (s : State) (v : Inval) (ctx base size : Nat) : Bool :=
  if ctx = v.ctx then
    match v.page with
    | none => true
    | some (a, sz) => decide (a < base + size ∧ base < a + pageSizeBytes sz)
  else s.inSubtree v.ctx ctx

/-- Did an invalidation that covers an entry start after an epoch (R343)? -/
def State.staleWalk (s : State) (epoch : Word) (e : TlbEntry) : Bool :=
  s.ctxs.invLog.any fun l =>
    decide ((s.ctxs.epoch - BitVec.ofNat 32 l.1).toNat < (s.ctxs.epoch - epoch).toNat) && s.invCovers l.2 e.ctx e.base e.size

/-- A miss that has been answered leaves its translation core's lists (R332). -/
def State.closeMiss (s : State) (m : Miss) : State :=
  let q := s.transQ (CoreId.queue m.core)
  s.setTransQ (CoreId.queue m.core) { q with queue := q.queue.filter (· != m), taken := q.taken.filter (· != m) }

/-- The miss that a wait is for, and whether its message has left. -/
def WaitKind.missOf : WaitKind → Option (Miss × Bool)
  | .miss _ m sent => some (m, sent)
  | _ => none
/-- What the pipeline of a core waits for, and what its repetition does. -/
def Core.waits (c : Core) : List Wait := c.wait.toList ++ (c.rep.bind (·.wait)).toList
/-- The misses a core waits for. -/
def Core.missings (c : Core) : List (Miss × Bool) := c.waits.filterMap (·.kind.missOf)
/-- The page that is not resident for which an instruction of the core waits. -/
def Core.absentPage (c : Core) : Option (Miss × Nat × Nat × Bool) :=
  c.waits.findSome? fun w => match w.kind with
    | .page m h a walk => some (m, h, a, walk)
    | _ => none
/-- A miss that a core waits for is answered: what the answer brings is kept, and the instruction is issued again. -/
def Core.answered (m : Miss) (es : List TlbEntry) (ns : List (Miss × MissAnswer)) (c : Core) : Core :=
  let mine (w : Option Wait) : Bool := w.any fun w => w.kind.missOf.any fun x => x.1 == m
  let c1 := if mine c.wait then { c with wait := none, latched := c.latched ++ es, noted := c.noted ++ ns } else c
  { c1 with rep := c1.rep.map fun r =>
      if mine r.wait then { r with wait := none, latched := r.latched ++ es, noted := r.noted ++ ns } else r }
/-- The message of a miss has left. -/
def Core.missSent (m : Miss) (c : Core) : Core :=
  let sent (w : Wait) : Wait := if w.kind.missOf = some (m, false) then { w with kind := .miss m.id m true } else w
  { c with wait := c.wait.map sent, rep := c.rep.map fun r => { r with wait := r.wait.map sent } }

/-- Answer a miss of a core by its number: the access is issued again where the core still waits for it (R332, R343). -/
def State.answerMiss (s : State) (id : CoreId) (missId : Nat) : State :=
  match (s.missesOf id).find? fun m => m.id == missId with
  | some m => (s.closeMiss m).modCore id (Core.answered m [] [])
  | none => s

/-- TLBW (R342, R343). -/
def execTlbw (d a b c : SReg) (rsp : Bool) (s : State) : Res :=
  if s.priv < 3 then s.privilege
  else
    let e : TlbEntry := ⟨s.rs a, s.rs b⟩
    match s.coreOfLci (bitsAt 0 14 (s.rs c)) with
    | none => (s.ws d 2).done 16
    | some t =>
      let bad := !e.wellFormed
      let stale := s.staleWalk ((s.rs d).setWidth 32) e
      let s1 := if bad ∨ stale then s else s.modCore t fun k => k.fillTlb s.tick e
      let s2 := if rsp then s1.answerMiss t (bitsAt 16 16 (s.rs c)) else s1
      (s2.ws d (if bad then 2 else if stale then 0 else 1)).done 16

/-- TLBINV of a page or of a context (R344). -/
def State.tlbinvIssue (s : State) (ctx : Nat) (page : Option (Nat × PageSize)) : Res :=
  if s.priv = 0 then s.privilege
  else if !(ctx == s.ctx || s.inSubtree s.ctx ctx) then s.refusedR
  else s.withEntries [s.entry (.tlbinv ctx page) (some .device)] fun t => t.done 8

/-- TLBINV.page (R344). -/
def execTlbinvPage (a b : SReg) (sz : PageSize) (s : State) : Res :=
  let va := (s.rs a).toNat % 2 ^ 48
  s.tlbinvIssue (bitsAt 0 12 (s.rs b)) (some (va / pageSizeBytes sz * pageSizeBytes sz, sz))
/-- TLBINV.ctx (R344). -/
def execTlbinvCtx (b : SReg) (s : State) : Res := s.tlbinvIssue (bitsAt 0 12 (s.rs b)) none

/-- Remove from every core the entries an invalidation covers (R344). -/
def State.dropCovered (s : State) (v : Inval) : State :=
  s.mapCores fun _ c => c.dropTlb fun e => s.invCovers v e.ctx e.base e.size

/-- A TLBINV starts (R343, R344): EPOCH rises and the entries leave; it completes when the walks begun before have
ended. -/
def State.startInval (s : State) (id : CoreId) (ctx : Nat) (page : Option (Nat × PageSize)) : State :=
  let walks := (s.ctxs.trans.flatMap fun e => e.2.taken).filter fun m => m.ctx == ctx || s.inSubtree ctx m.ctx
  let v : Inval := ⟨id, ctx, page, walks⟩
  (s.dropCovered v).onCtxs fun x => { x with
    epoch := x.epoch + 1
    invals := x.invals ++ [v]
    invLog := x.invLog ++ [((x.epoch + 1).toNat, v)] }

/-- Has every walk that a TLBINV waits for ended? -/
def State.invalReady (s : State) (v : Inval) : Bool := v.walks.all fun m => !(s.transQ (CoreId.queue m.core)).taken.contains m

/-- TLBINV_COMPLETE (R344): the oldest started TLBINV that may complete does. -/
def execTlbinvComplete (s : State) : Res := .next (s.onCtxs fun x => { x with invals := x.invals.eraseP s.invalReady })

/-- TLBPROBE (R345). -/
def execTlbprobe (e1 : Bool) (d a b : SReg) (s : State) : Res :=
  if s.priv = 0 ∨ (e1 ∧ s.priv < 2) ∨ (b ≠ 0 ∧ s.priv < 3) then s.privilege
  else
    let ctx := if b = 0 then s.ctx else bitsAt 0 12 (s.rs b)
    let hit := if (s.rs a).toNat / 2 ^ 48 ≠ 0 then none else s.core.tlb.find? fun e => e.hits ctx (s.rs a).toNat
    (s.ws d (match hit with
      | some e => if e1 then e.e1 else e.e0
      | none => 0)).done 8

/-! ## Shadows (R323, R340) -/

/-- Copy a granule as it is stored, its poison with it, into another: both pages carry one compression attribute. -/
def Ram.copyGranule (r : Ram) (src dst : Nat) : Ram :=
  let r1 := [0, 1, 2, 3].foldl (fun r i =>
    { r with codes := Sparse.set 0 r.codes (dst / 1024 + i) (r.code (src / 1024 + i)) }) r
  ({ r1 with
    bytes := memWrite r1.bytes dst (memRead r1.bytes src 4096)
    old := r1.old.filter fun l => l.line / 32 != dst / 4096 }).setPoison dst (r.poisoned src)

/-- Is an operation on a granule still on its way? -/
def State.granuleBusy (s : State) (pa : Nat) : Bool :=
  (s.ram.order.any fun e => e.2.any fun o => o.inGranule (pa / 4096))
    || s.ram.ports.any fun e => e.2.ops.any fun o => o.inGranule (pa / 4096)

/-- How the first write to a shadowed granule ends. -/
inductive FirstWrite where
  | none
  | wait
  | taken (s : State)
  | exhausted

/-- The first write of a context to a listed granule of its armed job takes the next unused frame and copies the
granule into it (R323); entries that map the original there leave. -/
def State.firstWrite (s : State) (x va : Nat) (c : Composed) (kind : Access) : FirstWrite :=
  let v := va / 4096 * 4096
  let g := c.a / 4096 * 4096
  match (if c.host ∨ c.mode ≠ 0 ∨ !c.w ∨ kind = .read then Option.none else s.armedJob x va) with
  | Option.none => .none
  | some j =>
    if j.written.any fun e => e.1 == v then .none
    else if s.granuleBusy g then .wait
    else
      match j.frames.find? fun f => !j.written.any fun e => e.2 == f with
      | Option.none => .exhausted
      | some f =>
        let s1 := s.onRam fun r => r.copyGranule g f
        let s2 := s1.onActs fun a => { a with jobs := a.jobs.map fun k =>
          if k = j then { k with written := k.written ++ [(v, f)] } else k }
        .taken (s2.mapCores fun _ k => k.dropTlb fun e => e.meets x v 4096)

/-! ## Reads and writes of the actor engine -/

/-- How a read of the actor engine ends. -/
inductive EngRead where
  | ok (bs : List Byte)
  /-- a page is not resident: the engine waits for its request -/
  | absent (handler addr : Nat) (isWalk : Bool)
  /-- refused, or poisoned: the exit reason; the memory afterwards -/
  | fail (reason : Nat) (s : State)
  /-- bytes of a page of another device or a host: the engine asks for them -/
  | far (va n : Nat)
  | wait

/-- The device physical address at which a context finds an address, shadows taken into account (R323, R337). -/
def State.engWalk (s : State) (die x va : Nat) (kind : Access) : WalkEnd :=
  match s.walk die x va kind with
  | .ok c =>
    if c.host ∨ c.mode ≠ 0 then .ok c
    else if hbmEnd ≤ c.a then .denied
    else
      let frame := (s.armedJob x va).bind fun j => (j.written.find? fun g => g.1 == va / 4096 * 4096).map (·.2)
      .ok { c with a := match frame with
        | some f => f + c.a % 4096
        | none => c.a }
  | r => r

/-- The engine writes that wait to enter a die's ordering point (R432). -/
def State.lateAt (s : State) (die : Nat) : List LateWrite := Sparse.get [] s.ram.late die

/-- What an engine has of n bytes of a page of another device or a host (R392, R417): the bytes, the reason of a failure, or nothing yet. -/
def State.engFar (s : State) (x va n : Nat) : EngRead :=
  match s.ctxs.engGot.find? fun g => g.ctx == x && g.va == va && g.n == n with
  | some g => (match g.answer with
    | none => .wait
    | some (bs, 0) => .ok bs
    | some (_, why) => .fail why (s.onCtxs fun c => { c with engGot := c.engGot.erase g }))
  | none => .far va n

/-- An engine asks for n bytes of a context's memory at another device or a host, in a flow of its own (R391, R417); where no one can be asked it has
the reason at once. -/
def State.engAsk (s : State) (id : CoreId) (x va n : Nat) : State :=
  let got (t : State) (a : Option (List Byte × Nat)) : State := t.onCtxs fun c => { c with engGot := c.engGot ++ [⟨x, va, n, a⟩] }
  match s.engWalk id.die x va .read with
  | .ok c =>
    if c.host then
      (match s.hostFunc x with
      | some f => got (s.onHub fun h => { h with
          hostReqs := h.hostReqs ++ [⟨.root, true, f, decide ((s.func f).tst = 2), c.a, n, s.tick, some (x, va)⟩] }) none
      | none => got s (some ([], 14)))
    else if s.peerUp c.peer then
      got (s.enqueueReq engineFlow c.peer x (.piece x va n) (.load c.a n ⟨c.mode, c.cmp, x⟩)) none
    else got s (some ([], 10))
  | _ => s

/-- An answer for an engine has come. -/
def State.engAnswer (s : State) (x va n : Nat) (bs : List Byte) (why : Nat) : State :=
  s.onCtxs fun c => { c with engGot := c.engGot.map fun g =>
    if g.ctx = x ∧ g.va = va ∧ g.n = n ∧ g.answer = none then { g with answer := some (bs, why) } else g }

/-- An engine forgets what it has read elsewhere, and reads it again when it next needs it. -/
def State.engForget (s : State) : State := s.onCtxs fun c => { c with engGot := c.engGot.filter fun g => g.answer.isNone }

/-- n bytes of a context's global memory as an engine of a die reads them. -/
def State.engRead (s : State) (die x : Nat) : Nat → Nat → Nat → EngRead
  | 0, _, _ => .ok []
  | fuel + 1, va, n =>
    if n = 0 then .ok []
    else if (s.lateAt die).any fun w => w.ctx == x && decide (w.va < va + n ∧ va < w.va + w.bytes.length) then .wait
    else
      let m := Nat.min n (1024 - va % 1024)
      match s.engWalk die x va .read with
      | .wait => .wait
      | .denied => .fail 14 s
      | .poison pa => .fail 6 (if s.ram.poisoned pa then s else s.onRam fun r => r.found pa)
      | .notResident h a w => if s.ctxs.engDenied.contains (h, a / 4096 * 4096) then .fail 14 s else .absent h a w
      | .ok c =>
        let piece : EngRead := if c.host ∨ c.mode ≠ 0 then s.engFar x va m
          else match s.engineRead die false c.cmp c.a m with
          | .wait => .wait
          | .poison => .fail 6 s
          | .found => .fail 6 (s.onRam fun r => r.found c.a)
          | .ok bs => .ok bs
        match piece with
        | .ok bs => match s.engRead die x fuel (va + m) (n - m) with
          | .ok rest => .ok (bs ++ rest)
          | r => r
        | r => r

/-- A read of n bytes. -/
def State.engBytes (s : State) (die x va n : Nat) : EngRead := s.engRead die x (n / 1024 + 2) va n

/-- The engine waits for a page: its request goes to the hub, in the name of slot 65 of a core. -/
def State.engWant (s : State) (id : CoreId) (x handler addr : Nat) (isWalk : Bool) : State :=
  let w : PageWant := ⟨⟨id, 65, none, 0⟩, x, handler, addr / 4096 * 4096, isWalk, false, false⟩
  let held := s.ctxs.wants.any (fun v => decide (v.who = ⟨id, 65, none, 0⟩ ∧ v.handler = handler ∧ v.addr = addr / 4096 * 4096))
    || s.ctxs.prq.any fun e => e.handler == handler && e.addr == addr / 4096 * 4096
  if held then s else s.onCtxs fun c => { c with wants := c.wants ++ [w] }

/-- An engine's write of bytes of one line enters its die's ordering point, after the first-write copy where a job shadows the
granule (R36, R323), or leaves for another device or a host (R392, R417); `none` while it has to wait. One that cannot be made is passed over (log
entry 115). -/
def State.engPut (s : State) (die : Nat) (w : LateWrite) : Option State :=
  match s.walk die w.ctx w.va .write with
  | .wait => none
  | .ok c =>
    if c.host then some (match s.hostFunc w.ctx with
      | some f => s.onHub fun h => { h with out := h.out ++ [.write f (decide ((s.func f).tst = 2)) c.a w.bytes] }
      | none => s)
    else if c.mode ≠ 0 then
      some (if s.peerUp c.peer then s.enqueueReq engineFlow c.peer w.ctx .none (.store c.a w.bytes ⟨c.mode, c.cmp, w.ctx⟩) else s)
    else if hbmEnd ≤ c.a then some s
    else
      match s.firstWrite w.ctx w.va c .write with
      | .wait => none
      | .exhausted => some s
      | r =>
        let t := match r with
          | .taken t => t
          | _ => s
        (match t.engWalk die w.ctx w.va .write with
        | .ok d => t.intoOrder die ⟨d.a, .store w.bytes (List.range w.bytes.length), d.cmp, ⟨.root, none, 0⟩, none, .none⟩
        | _ => some t)
  | _ => some s

/-- A write of an engine goes now, or waits behind those that wait (R432). -/
def State.engSend (s : State) (die : Nat) (w : LateWrite) : State :=
  let wait := s.onRam fun r => { r with late := Sparse.set [] r.late die (s.lateAt die ++ [w]) }
  if s.lateAt die = [] then (s.engPut die w).getD wait else wait

/-- The oldest waiting engine write of a die goes, if it may. -/
def State.engLate (s : State) (die : Nat) : Option State :=
  match s.lateAt die with
  | [] => none
  | w :: rest => (s.engPut die w).map fun t => t.onRam fun r => { r with late := Sparse.set [] r.late die rest }

/-- An engine of a die writes bytes of a context's memory, line by line. -/
def State.engWrite (s : State) (die x : Nat) : Nat → Nat → List Byte → State
  | 0, _, _ => s
  | fuel + 1, va, bs =>
    match bs with
    | [] => s
    | _ =>
      let m := Nat.min bs.length (128 - va % 128)
      (s.engSend die ⟨x, va, bs.take m⟩).engWrite die x fuel (va + m) (bs.drop m)

/-- A write of bytes. -/
def State.engStore (s : State) (die x va : Nat) (bs : List Byte) : State := s.engWrite die x (bs.length / 128 + 2) va bs

/-- The engine keeps the vector live-ins and predicates of an interrupted firing's record in its actor's save area (R101,
R272): a predicate's bits in the first 16 of its 128 bytes. An actor with no record in the device's tables keeps them in the engine. -/
def State.saveVectors (s : State) (id : CoreId) (sl : Nat) : State :=
  let e := (s.coreAt id).slotAt sl
  match e.actor, e.resume with
  | some x, some r =>
    let base := s.ctxAtbase x.ctx + 0x2000 * x.idx + 0x200
    if s.ctxAtlen x.ctx ≤ x.idx then s
    else
    let s1 := (maskBits 32 r.rcd.vmask.toNat).foldl (fun t i =>
      t.engStore id.die x.ctx (base + 128 * i) (bytesOf 128 (r.rcd.regs.getV (BitVec.ofNat 5 i)).toNat)) s
    [1, 2, 3, 4, 5, 6, 7].foldl (fun t i =>
      t.engStore id.die x.ctx (base + 4096 + 128 * (i - 1)) (bytesOf 128 (r.rcd.regs.getP (BitVec.ofNat 3 i)).toNat)) s1
  | _, _ => s

/-! ## Answers to misses (R332, R337) -/

/-- MISS_RESEND (R332): the message of a core that found the queue full is sent again. -/
def execMissResend (id : CoreId) (s : State) : Res :=
  match (s.coreAt id).missings.find? fun x => !x.2 with
  | some (m, _) =>
    let r := s.sendMiss m
    if r.2 then .next (r.1.modCore id (Core.missSent m)) else .next s
  | none => .next s

/-- A page that is not resident (R332, R348): the open region is aborted, the slot becomes PARKED, and the request goes
to the hub. A core of the hub waits in its access; a pre-emption handler is forced to its save (R373). -/
def State.notResident (s : State) (id : CoreId) (m : Miss) (handler addr : Nat) (isWalk : Bool) : State :=
  let want (slot : Nat) (x : Option ActorId) : PageWant :=
    ⟨⟨id, slot, x, (x.map fun y => (s.actor y).gen).getD 0⟩, m.ctx, handler, addr / 4096 * 4096, isWalk, !isWalk && m.kind != .read, false⟩
  let c := s.coreAt id
  match c.run with
  | .firing sl => ((s.abort id .parked).saveVectors id sl).onCtxs fun x => { x with wants := x.wants ++ [want sl (c.slotAt sl).actor] }
  | .preempt => (s.modCore id fun c => { c with wait := none }).forcedSave id
  | _ => (s.modCore id fun c => { c.unhold with wait := some ⟨.miss m.id m true, .nop⟩ }).onCtxs fun x =>
      { x with wants := x.wants ++ [want 64 none] }

/-- The oldest message of a core in its translation core's queue (R332). -/
def State.messageOf (s : State) (id : CoreId) : Option Miss :=
  (s.transQ (CoreId.queue id)).queue.find? fun m => decide (m.core = id)

/-- TLB_MISS_ANSWER (R332, R336 to R340): the walk of a core's oldest message, and its answer, for which the access is issued
again; a refusal or a page that is not resident acts there, once the instruction's other checks are done (R117). The answer
to a miss that its core waits for no longer, since the access was aborted or its actor ended, changes nothing (log entry 114). -/
def execTlbMissAnswer (id : CoreId) (s : State) : Res :=
  match (s.coreAt id).absentPage with
  | some (m, h, a, w) => .next (s.notResident id m h a w)
  | none =>
    match s.messageOf id with
    | some m =>
      let s1 := s.closeMiss m
      if s.ctxState m.ctx = 2 ∨ !(s.coreAt id).missings.contains (m, true) then .next s1
      else
        let note (t : State) (x : MissAnswer) : Res := .next (t.modCore id (Core.answered m [] [(m, x)]))
        (match s1.walk id.die m.ctx m.va m.kind with
        | .wait => .next s
        | .denied => note s1 (.ends 14)
        | .poison pa => note (if s1.ram.poisoned pa then s1 else s1.onRam fun r => r.found pa) (.ends 6)
        | .notResident h a w => note s1 (.absent h a w)
        | .ok c =>
          (match s1.firstWrite m.ctx m.va c m.kind with
          | .exhausted => note s1 (.ends 15)
          | .wait => .next s
          | r =>
            let s2 := match r with
              | .taken t => t
              | _ => s1
            let e := s2.composedEntry m.ctx m.va c
            .next (s2.modCore id fun k => (k.fillTlb s.tick e).answered m [e] [])))
    | none => .next s

/-! ## Page requests (R347, R348) -/

/-- Is an entry of the queue counted against a context: does its chain hold it? -/
def State.prqHeld (s : State) (x : Nat) : Nat := (s.ctxs.prq.filter fun e => (s.chain e.ctx).contains x).length

/-- Whether a request is admitted, and from which part of the queue: `some true` from the shared pool (R347). -/
def State.prqAdmit (s : State) (w : PageWant) : Option Bool :=
  let p := s.partitionOf w.ctx
  let mine := s.ctxs.prq.filter fun e => e.partition == p
  let quota := (s.chain w.ctx).all fun x => decide (s.prqHeld x < bitsAt 0 10 (s.ccbWord x 12))
  if !quota then none
  else if (mine.filter fun e => !e.shared).length < 16 then some false
  else if (s.ctxs.prq.filter (·.shared)).length < 640 ∧ (mine.filter (·.shared)).length < 320 then some true
  else none

/-- INFO of a page-request trap (R348). -/
def prqInfo (id : Nat) (walk write : Bool) : Nat := id + 2 ^ 10 * walk.toNat + 2 ^ 12 * write.toNat

/-- The hub takes a request: it joins a matching entry, opens one and raises the trap, or goes back (R347, R348). -/
def State.offerRequest (s : State) (w : PageWant) : State :=
  let s1 := s.onCtxs fun x => { x with wants := x.wants.filter (· != w) }
  let same (e : PageReq) : Bool := e.handler == w.handler && e.addr == w.addr && e.walk == w.walk
  let gone : Bool := match w.who.actor with
    | some x => !(s.actor x).st.alive || (s.actor x).gen != w.who.gen || (s.inSlot x && ((s.coreAt w.who.core).slotAt w.who.slot).st != .parked)
    | none => false
  if gone then s1
  else if s.ctxs.prq.any same then
    s1.onCtxs fun x => { x with prq := x.prq.map fun e =>
      if (same e) && !e.waiters.contains w.who then { e with waiters := e.waiters ++ [w.who] } else e }
  else
    match s.prqAdmit w with
    | none => s1.onCtxs fun x => { x with wants := x.wants ++ [{ w with returned := true }] }
    | some shared =>
      match (List.range 1024).find? fun i => !s.ctxs.prq.any fun e => e.id == i with
      | none => s1.onCtxs fun x => { x with wants := x.wants ++ [{ w with returned := true }] }
      | some i =>
        let e : PageReq := ⟨i, w.handler, w.addr, w.walk, w.write, s.partitionOf w.ctx, shared, w.ctx, [w.who], none⟩
        (s1.onCtxs fun x => { x with prq := x.prq ++ [e] }).raiseTrap w.handler 0x80 (prqInfo i w.walk w.write) (dw w.addr) 0
          (s.lciOf w.who.core)

/-- PAGE_REQUEST (R347, R348): the hub takes the request of a core's miss. -/
def execPageRequest (id : CoreId) (s : State) : Res :=
  match s.ctxs.wants.find? fun w => decide (w.who.core = id) && !w.returned with
  | some w => .next (s.offerRequest w)
  | none => .next s
/-- PAGE_REQUEST_RETRY (R347): a returned request is offered again. -/
def execPageRequestRetry (id : CoreId) (s : State) : Res :=
  match s.ctxs.wants.find? fun w => decide (w.who.core = id) && w.returned with
  | some w => .next (s.offerRequest w)
  | none => .next s

end Sys2Proof.Machine
end

