-- ==== Sys2Proof/Machine/Place.lean ====
section
/-!
DEFINITION. Actor names (R269 to R271), images and templates (R275 to R277), placement (R278, R279), and the records the
engine writes back (R272 to R274).
-/

namespace Sys2Proof.Machine

/-! ## Names (R271) -/

/-- May an operation of a context name a target: its own context or a descendant (`tree`), or any context of its
partition; the check concerns live contexts, and for an actor on another device is made there (R271, R399)? -/
def State.mayName (s : State) (ctx : Nat) (tree : Bool) (n : DWord) : Bool :=
  let y := (nameId n).ctx
  s.deviceOf (s.idOf n) != s.thisDev || !s.ctxNamed y
    || (if tree then y == ctx || s.inSubtree ctx y else s.partitionOf y == s.partitionOf ctx)

/-! ## Reads of the engine -/

/-- What a reading operation of the engine gives. -/
inductive Eng (α : Type) where
  | ok (a : α)
  | fail (reason : Nat) (s : State)
  | wait (s : State)

/-- Go on with what was read. -/
def Eng.andThen {α β : Type} (e : Eng α) (k : α → Eng β) : Eng β :=
  match e with
  | .ok a => k a
  | .fail r s => .fail r s
  | .wait s => .wait s

/-- n bytes of a context's memory, read for a core's operation. -/
def State.engGet (s : State) (id : CoreId) (x va n : Nat) : Eng (List Byte) :=
  if 2 ^ 48 < va + n then .fail 14 s
  else
    match s.engBytes id.die x va n with
    | .ok bs => .ok bs
    | .absent h a w => .wait (s.engWant id x h a w)
    | .far va n => .wait (s.engAsk id x va n)
    | .fail r t => .fail r t
    | .wait => .wait s

/-! ## Images and templates -/

/-- A field of bytes: n bytes from offset o. -/
def field (bs : List Byte) (o n : Nat) : Nat := natOf ((bs.drop o).take n)
/-- A 64-bit field. -/
def field8 (bs : List Byte) (o : Nat) : DWord := dw (field bs o 8)

/-- An image's header (R275). -/
structure Image where
  at_ : Nat
  nact : Nat
  textLen : Nat
  actOff : Nat
  deriving DecidableEq, Repr

/-- Is a header one that every use of it accepts (R281, R303)? -/
def goodHeader (bs : List Byte) : Bool :=
  field bs 0 4 == 1 && field bs 8 8 == 512 && (bs.drop 0x3C).all (· == 0)

/-- The image of a header. -/
def imageOf (h : Nat) (bs : List Byte) : Image := ⟨h, field bs 4 4, field bs 0x10 8, field bs 0x28 8⟩

/-- Read an image's header (R275, R303): a bad one is refused. -/
def State.engImage (s : State) (id : CoreId) (x h : Nat) : Eng Image :=
  (s.engGet id x h 512).andThen fun bs => if goodHeader bs then .ok (imageOf h bs) else .fail 4 s

/-- An input port from its template word (Table 10.1). -/
def iportOf (w : DWord) : IPort :=
  { IPort.none with en := bitAt 0 w, ratem1 := w.extractLsb' 1 6, slotsm1 := w.extractLsb' 7 6, size := w.extractLsb' 13 2
                    base := w.extractLsb' 15 9 }
/-- An output port from its two template words (Table 10.1). -/
def oportOf (name w : DWord) : OPort :=
  ⟨bitAt 10 w, name, w.extractLsb' 0 2, w.extractLsb' 8 2, w.extractLsb' 2 6, 0⟩

/-- The record a template describes (R276), for the image at h; its TX bit, of which the rule says nothing, has no effect (DESIGN CHOICE, log
entry 139). -/
def templateRec (h : Nat) (bs : List Byte) : ActorRec :=
  let w1 := field8 bs 0x08
  let en := field8 bs 0x20
  { ActorRec.free with
    nstate := bitsAt 22 9 w1
    q4d := bitAt 4 w1
    tre := bitAt 3 w1
    sge := bitAt 2 w1
    param := field8 bs 0x18
    entryT := BitVec.ofNat 18 (bitsAt 36 18 en)
    entryS := BitVec.ofNat 18 (bitsAt 18 18 en)
    entryD := BitVec.ofNat 18 (bitsAt 0 18 en)
    image := h
    ins := Vector.ofFn fun i : Fin 4 => iportOf (field8 bs (0x40 + 8 * i.val))
    outs := Vector.ofFn fun i : Fin 4 => oportOf (field8 bs (0x60 + 16 * i.val)) (field8 bs (0x68 + 16 * i.val))
    q4 := (bs.drop 0xA0).take 16 }

/-- The beads a ring takes. -/
def IPort.beads (p : IPort) : Nat := if p.en then ceilDiv (p.slots * p.slotBytes) 512 else 0
/-- The runs of beads an actor needs (R278): mailbox, rings, state. -/
def ActorRec.beadNeeds (r : ActorRec) : List Nat := 2 :: ((r.ins.map IPort.beads).toList ++ [r.nstate])

/-- Is a template unusable (R277)? A TEXTLEN that is no multiple of 512 counts as its whole beads (DESIGN CHOICE, log entry 137). -/
def ActorRec.unusable (r : ActorRec) (img : Image) : Bool :=
  decide (448 < r.nstate) || (r.ins.any fun p => p.en && decide (p.slotsm1.toNat < p.ratem1.toNat))
    || decide (img.textLen ≤ r.entryD.toNat) || (r.sge && decide (img.textLen ≤ r.entryS.toNat))
    || (r.tre && decide (img.textLen ≤ r.entryT.toNat))
    || decide (512 < img.textLen / 512 + r.beadNeeds.sum)

/-- Template k of an image, as a record (R276, R277); an unusable one is refused, as is one beyond NACT. -/
def State.engTemplate (s : State) (id : CoreId) (x : Nat) (img : Image) (k : Nat) : Eng ActorRec :=
  if img.nact ≤ k then .fail 4 s
  else (s.engGet id x (img.at_ + img.actOff + 256 * k) 256).andThen fun bs =>
    let r := templateRec img.at_ bs
    if r.unusable img then .fail 4 s else .ok r

/-! ## Placement (R278, R279) -/

/-- One of a list, as the device chooses. -/
def pick {α : Type} (tick : Nat) (xs : List α) : Option α := xs[Config.freeChoice tick % xs.length]?

/-- The first beads of the free runs of n beads from a bead on. -/
def Core.freeRuns (c : Core) (frm n : Nat) : List Nat :=
  ((List.range 512).drop frm).filter fun k => decide (k + n ≤ 512) && (List.range n).all fun i =>
    decide (Sparse.get .free c.beads (k + i) = .free)

/-- Give a slot n beads from k. -/
def Core.own (c : Core) (slot k : Nat) : Nat → Core
  | 0 => c
  | n + 1 => (c.setBead k (.owned slot)).own slot (k + 1) n

/-- Allocate runs of beads for a slot, the first bead of each (0 for a run of none): `order` says in which order the free runs
are tried; every way is tried before none is found. -/
def Core.alloc (c : Core) (slot frm : Nat) (order : List Nat → List Nat) : List Nat → Option (Core × List Nat)
  | [] => some (c, [])
  | 0 :: rest => (c.alloc slot frm order rest).map fun r => (r.1, 0 :: r.2)
  | n :: rest => (order (c.freeRuns frm n)).findSome? fun k =>
      ((c.own slot k n).alloc slot frm order rest).map fun r => (r.1, k :: r.2)

/-- Allocate as the engine chooses: the runs from a freely chosen one on, then those before it. -/
def Core.allocate (c : Core) (tick slot frm : Nat) (needs : List Nat) : Option (Core × List Nat) :=
  c.alloc slot frm (fun ks => ks.drop (Config.freeChoice tick % ks.length) ++ ks.take (Config.freeChoice tick % ks.length)) needs

/-- Is any slot of a core occupied? -/
def Core.occupied (c : Core) : Bool := c.slots.any fun e => e.2.st != .empty
/-- How many slots are. -/
def Core.slotLoad (c : Core) : Nat := (c.slots.filter fun e => e.2.st != .empty).length
/-- The slots in which an actor may be placed: empty, and no forwarding entry stands (R297). -/
def State.emptySlots (s : State) (id : CoreId) : List Nat :=
  (List.range 64).filter fun n => ((s.coreAt id).slotAt n).st == .empty
    && !s.acts.forwards.any fun f => decide (f.core = id ∧ f.slot = n)

/-- Has a change of a context's interval yet to bring it a core from its parent (R380 step 2)? -/
def State.notGrown (s : State) (x : Nat) (id : CoreId) : Bool :=
  s.ctxs.resizing.any fun r => r.ctx == x && !r.grown
    && !decide (bitsAt 50 14 r.word ≤ s.lciOf id ∧ s.lciOf id < bitsAt 50 14 r.word + bitsAt 36 14 r.word)

/-- Does a core belong to a context: it lies in the interval of no live child (R358)? While contexts share the core, only
the one whose slice runs places actors on it. -/
def State.belongs (s : State) (x : Nat) (id : CoreId) : Bool :=
  s.holds x id && !s.notGrown x id
    && !(s.ctxs.ccb.any fun e => s.ctxLive e.1 && decide (e.1 ≠ x) && s.inSubtree x e.1 && s.holds e.1 id)
    && ((s.coreAt id).rotation == [] || (decide ((s.coreAt id).ctx = x) && decide ((s.coreAt id).phase = .running)))

/-- Where an actor comes to stand on a core: the core with beads, slot and text as they would be, and the record. -/
def State.fitOn (s : State) (x : ActorId) (img : Image) (text : List Byte) (r : ActorRec) (id : CoreId) :
    Option (Core × ActorRec) :=
  let c := s.coreAt id
  let fresh := !c.occupied
  let same := c.slots.all fun e => e.2.st == .empty || (match e.2.actor with
    | some y => decide ((s.actor y).image = img.at_)
    | none => false)
  match pick s.tick (s.emptySlots id) with
  | none => none
  | some slot =>
    if !(fresh || same) then none
    else
      let c1 := if fresh then { c.store 0 text with xbound := BitVec.ofNat 18 img.textLen } else c
      (match c1.allocate s.tick slot (c1.xbound.toNat / 512) r.beadNeeds with
      | some (c2, mb :: b0 :: b1 :: b2 :: b3 :: st :: _) =>
        let base (i : Fin 4) : Nat := match i with
          | 0 => b0
          | 1 => b1
          | 2 => b2
          | 3 => b3
        some (c2.setSlot slot ⟨.waiting, some x, none⟩, { r with
          st := .resident
          core := id
          slot := slot
          mbase := mb
          stbase := st
          ins := Vector.ofFn fun i : Fin 4 => { r.ins[i] with base := BitVec.ofNat 9 (base i) } })
      | _ => none)

/-- Insert into a list that an order sorts. -/
def insertBy {α : Type} (le : α → α → Bool) (x : α) : List α → List α
  | [] => [x]
  | y :: ys => if le x y then x :: y :: ys else y :: insertBy le x ys

/-- The cores on which an actor of a context may be placed, the least loaded first, ties by logical index (R278). -/
def State.candidates (s : State) (x : Nat) : List CoreId :=
  let ids := (s.workCores.map (·.1)).filter fun id => s.functional id && s.belongs x id
  let le (a b : CoreId) : Bool := decide ((s.coreAt a).slotLoad < (s.coreAt b).slotLoad)
    || (decide ((s.coreAt a).slotLoad = (s.coreAt b).slotLoad) && decide (s.lciOf a ≤ s.lciOf b))
  ids.foldr (insertBy le) []

/-- Zero beads from a bead on, every tag empty. -/
def Core.wipe (c : Core) (k n : Nat) : Core :=
  (c.store (512 * k) (List.replicate (512 * n) 0)).setTags (512 * k) false (64 * n)

/-- Actors of a context's subtree that take a slot (R279). -/
def State.slotsUsed (s : State) (x : Nat) : Nat :=
  (s.acts.tab.filter fun e => (e.2.st == .resident || e.2.st == .migrating || e.2.death.isSome) && e.2.dev == 0
    && (s.chain (ActorId.ofKey e.1).ctx).contains x).length
/-- Does the actor-slot quota admit n more actors of a context (R279, R357)? -/
def State.slotQuota (s : State) (x n : Nat) : Bool :=
  (s.chain x).all fun y => decide (s.slotsUsed y + n ≤ bitsAt 0 20 (s.ccbWord y 10))

/-- What placing gives: the state, the quota's refusal, or no core. -/
inductive Placed where
  | ok (s : State)
  | quota
  | full

/-- Place an actor with a built record on one of the given cores, in the order given, with its state beads' contents
(R278, R279). -/
def State.placeOn (s : State) (x : ActorId) (img : Image) (text state : List Byte) (r : ActorRec) (ids : List CoreId) :
    Placed :=
  if !s.slotQuota x.ctx 1 then .quota
  else
    match ids.findSome? fun id => s.fitOn x img text r id with
    | none => .full
    | some (c, r1) =>
      let rings (c : Core) : Core := r1.ins.foldl (fun c p => if p.en then c.wipe p.base.toNat p.beads else c) c
      let c1 := rings (c.wipe r1.mbase 2)
      let c2 := (c1.wipe r1.stbase r1.nstate).store (512 * r1.stbase) state
      .ok ((s.setCore r1.core (if r1.nstate = 0 then c1 else c2)).setActor x r1)

/-- What placing needs from memory: the text, and the state's first bytes (R278, R279). -/
def State.engParts (s : State) (id : CoreId) (x : Nat) (img : Image) (r : ActorRec) : Eng (List Byte × List Byte) :=
  (s.engGet id x (img.at_ + 512) img.textLen).andThen fun text =>
    if r.stinit = 0 ∨ r.nstate = 0 then .ok (text, List.replicate (512 * r.nstate) 0)
    else (s.engGet id x r.stinit (512 * r.nstate)).andThen fun st => .ok (text, st)

/-! ## Records in memory (R272 to R274) -/

/-- The actor control block of an actor, as the engine writes it (Table 10.1). -/
def State.controlBlock (s : State) (x : ActorId) : List Byte :=
  let r := s.actor x
  let code : Nat := match r.st with
    | .free => 0
    | .reserved => 1
    | .resident => 2
    | .leaving => 3
    | .restarting => 4
    | .migrating => 5
  let w1 := 2 ^ 48 * (r.xreason % 256) + 2 ^ 40 * code + 2 ^ 22 * r.nstate + 2 ^ 5 * r.mig.isSome.toNat + 2 ^ 4 * r.q4d.toNat
    + 2 ^ 3 * r.tre.toNat + 2 ^ 2 * r.sge.toNat + 2 * r.tx.toNat + (s.super x).sup.toNat
  let dev := if r.dev = 0 then s.thisDev else r.dev - 1
  let res := r.st == .resident || r.st == .migrating
  let place := if r.dev = 0 then 64 * s.lciOf r.core + r.slot % 64 else r.place
  let loc := 2 ^ 52 * dev + 2 ^ 32 * place + res.toNat
  let ports := r.ins.toList.flatMap fun p => bytesOf 8 (2 ^ 15 * p.base.toNat + 2 ^ 13 * p.size.toNat
    + 2 ^ 7 * p.slotsm1.toNat + 2 * p.ratem1.toNat + p.en.toNat)
  let outs := r.outs.toList.flatMap fun p => bytesOf 8 p.name.toNat
    ++ bytesOf 8 (2 ^ 10 * p.en.toNat + 2 ^ 8 * p.dsize.toNat + 2 ^ 2 * p.ratem1.toNat + p.dport.toNat)
  let timers := r.timers.toList.flatMap fun t => bytesOf 8 t.left ++ bytesOf 4 t.tag.toNat
    ++ bytesOf 4 (2 * t.kl.toNat + t.arm.toNat)
  bytesOf 8 (s.nameOf x).toNat ++ bytesOf 8 w1 ++ bytesOf 8 loc ++ bytesOf 8 r.param.toNat
    ++ bytesOf 8 (2 ^ 36 * r.entryT.toNat + 2 ^ 18 * r.entryS.toNat + r.entryD.toNat) ++ bytesOf 8 r.image
    ++ bytesOf 8 r.stinit ++ bytesOf 8 r.super.toNat ++ ports ++ outs ++ r.q4 ++ timers
    ++ bytesOf 8 (2 ^ 23 * r.mbase + 2 ^ 18 * r.mcount + 2 ^ 14 * r.mhead + 2 ^ 9 * r.mrsv) ++ bytesOf 8 r.firings.toNat
    ++ List.replicate 32 0

/-- A link table (R274). -/
def ActorRec.linkTable (r : ActorRec) : List Byte :=
  let used := (r.links.take 16).flatMap fun l =>
    let kind : Nat := match l.kind with
      | .link => 1
      | .watching => 2
      | .watchedBy => 3
    bytesOf 8 l.peer.toNat ++ bytesOf 8 (2 ^ 32 * l.tag.toNat + kind)
  used ++ List.replicate (256 - used.length) 0

/-- The link table of bytes (R274). -/
def linksOf (b : List Byte) : List LinkEntry :=
  (List.range 16).filterMap fun i =>
    let w := field8 b (16 * i + 8)
    let l (k : LinkKind) : LinkEntry := ⟨field8 b (16 * i), k, BitVec.ofNat 32 (bitsAt 32 32 w)⟩
    match bitsAt 0 2 w with
    | 1 => some (l .link)
    | 2 => some (l .watching)
    | 3 => some (l .watchedBy)
    | _ => none

/-- The record that a control block describes (Table 10.1), but for where the actor stands. -/
def blockRec (b : List Byte) : ActorRec :=
  let w1 := field8 b 0x08
  let mb := field8 b 0xD0
  let timer (o : Nat) : Timer := ⟨field b o 8, BitVec.ofNat 32 (field b (o + 8) 4), bitAt 1 (dw (field b (o + 12) 4)), bitAt 0 (dw (field b (o + 12) 4))⟩
  { templateRec (field b 0x28 8) b with
    gen := nameGen (field8 b 0)
    xreason := bitsAt 48 8 w1
    tx := bitAt 1 w1
    stinit := field b 0x30 8
    super := field8 b 0x38
    timers := #v[timer 0xB0, timer 0xC0]
    mbase := bitsAt 23 9 mb
    mcount := bitsAt 18 5 mb
    mhead := bitsAt 14 4 mb
    mrsv := bitsAt 9 5 mb
    firings := field8 b 0xD8 }

/-- An uncorrectable error in service state of a context is charged to it (R367). -/
def State.charge (s : State) (x : Nat) : State :=
  s.onCtxs fun c => { c with failed := if c.failed.contains x then c.failed else c.failed ++ [x] }

/-! ## Jobs and their members (R322, R324) -/

/-- Change a job. -/
def State.modJob (s : State) (pa : Nat) (f : Job → Job) : State :=
  s.onActs fun a => { a with jobs := a.jobs.map fun j => if j.pa = pa then f j else j }

/-- The members of a job that are not free (R322): its root, and every actor that a member's supervision placed. -/
def State.members (s : State) (j : Job) : List ActorId :=
  s.acts.tab.filterMap fun e =>
    if e.2.st = .free ∨ e.2.st = .reserved ∨ e.2.job ≠ some j.pa then none else some (ActorId.ofKey e.1)

/-- Write the engine's words of a job parameter block (Table 11.7); ROOT stays as it is while no root has been placed (R321 step
3). -/
def State.jobWrite (s : State) (die : Nat) (j : Job) : State :=
  let s1 := s.engStore die j.ctx (j.va + 0x40) (bytesOf 8 (2 ^ 8 * j.relaunches + j.jstate))
  let s2 := if j.rootName = 0 then s1 else s1.engStore die j.ctx (j.va + 0x48) (bytesOf 8 j.rootName.toNat)
  s2.engStore die j.ctx (j.va + 0x50) (bytesOf 8 j.launcher.toNat ++ bytesOf 8 j.ctx)

/-- The teardown of a job begins (R324, R325): its block says so, no member is restarted from now on, and every member dies with reason
killed. -/
def State.tearDown (s : State) (j : Job) (reason : Nat) : State :=
  let s1 := (s.modJob j.pa fun k => { k with jstate := 2, reason := reason }).jobWrite (s.actor j.root).core.die
    { j with jstate := 2 }
  (s.members j).foldl (fun t x =>
    let r := t.actor x
    if r.st == .restarting then
      (t.freeIndexOf x).onActs fun a =>
        { a with restarts := a.restarts.filter fun q => !decide (t.idOf q.dead = x) }
    else (State.killN (t.acts.supers.length + 1) t x 1 true).modActor x fun r =>
      { r with quiet := true }) s1

/-- The job that an actor is a member of, while it runs or is torn down. -/
def State.jobOf (s : State) (x : ActorId) : Option Job :=
  s.acts.jobs.find? fun j => (j.jstate == 1 || j.jstate == 2) && decide ((s.actor x).job = some j.pa)

/-- An error in the actor-table or supervisor record of an actor: it tears the job down that the actor belongs to (R324); outside any
job an uncorrectable one is charged to the context (R367). -/
def State.recordError (s : State) (x : ActorId) (why : Nat) : State :=
  match s.jobOf x with
  | some j => if j.jstate = 1 then s.tearDown j why else s
  | none => if why = 6 then s.charge x.ctx else s

/-- Where the record of an actor lies, if this device's tables hold it (R272). -/
def State.recordAt (s : State) (x : ActorId) : Option Nat :=
  if x.own ∧ x.idx < s.ctxAtlen x.ctx then some (s.ctxAtbase x.ctx + 0x2000 * x.idx) else none

/-- The engine writes an actor's record back into its context's table on the device of its name (R272, R273); an error that it meets
there falls on the actor's job or context (R324, R367). While an actor is in its slot the block is the engine's own, and the
record in memory follows when the actor leaves its slot, moves or dies (R273). -/
def State.writeBack (s : State) (x : ActorId) : State :=
  match s.recordAt x with
  | none => s
  | some at' =>
    let die := (s.actor x).core.die
    let s1 := match s.engBytes die x.ctx at' 512 with
      | .fail why t => t.recordError x why
      | _ => s
    let links := (s1.actor x).linkTable
    (s1.engStore die x.ctx at' (s1.controlBlock x ++ links)).modActor x fun r => { r with linkMem := links }

/-- What the engine does next with the link table of a live actor (R272 to R274): it writes what it has changed, and reads what software has
stored there since (log entry 129); `none` where the two agree. -/
def State.linksMove (s : State) (x : ActorId) : Option State :=
  let r := s.actor x
  match s.recordAt x with
  | none => none
  | some at' =>
    if !r.st.alive ∨ r.dev ≠ 0 then none
    else if r.linkMem ≠ r.linkTable then
      some ((s.engStore r.core.die x.ctx (at' + 0x100) r.linkTable).modActor x fun q => { q with linkMem := q.linkTable })
    else match s.engBytes r.core.die x.ctx (at' + 0x100) 256 with
      | .ok bs => if bs = r.linkMem then none else some (s.modActor x fun q => { q with links := linksOf bs, linkMem := bs })
      | _ => none

/-! ## Indices -/

/-- Indices free for new actors from which n free ones follow in a context's table (R281). -/
def State.freeIndex (s : State) (x n : Nat) : Option Nat :=
  let len := s.ctxAtlen x
  let start := if len = 0 then 0 else Config.freeChoice s.tick % len
  ((List.range len).map fun i => (start + i) % len).find? fun b =>
    decide (b + n ≤ len) && (List.range n).all fun i => (s.actor ⟨x, b + i⟩).st == .free
/-- Reserve n indices. -/
def State.reserveIndices (s : State) (x b n : Nat) : State :=
  (List.range n).foldl (fun t i => t.modActor ⟨x, b + i⟩ fun r => { r with st := .reserved }) s
/-- Release n indices. -/
def State.releaseIndices (s : State) (x b n : Nat) : State :=
  (List.range n).foldl (fun t i => t.modActor ⟨x, b + i⟩ fun r =>
    if r.st == .reserved then { r with st := .free } else r) s
/-- The name that the next incarnation of an index has (R269). -/
def State.nextName (s : State) (x : ActorId) : DWord := s.nameWith x (nextGen (s.actor x).gen)

end Sys2Proof.Machine
end

