-- ==== Sys2Proof/Machine/Actor.lean ====
section
/-!
DEFINITION. The actor engine (R280 to R303): the instructions of class 7, indices 0 to 13, at issue and at drain, the
death of an actor, exit signals and control messages, timers, migration and CAPCALL.
-/

namespace Sys2Proof.Machine

/-! ## Mail and notices (R286) -/

/-- Put mail on its way. -/
def State.post (s : State) (m : Mail) : State := s.onActs fun a => { a with mail := a.mail ++ [m] }
/-- An exit signal of the engine to a name (R291). What the engine itself sends, its reader acquires at DEVICE: R290, R319 and
R362 call it a release to the receiver's device (DEDUCED, log entry 117). -/
def State.postExit (s : State) (dst frm : DWord) (reason : Nat) : State :=
  s.post (.exit dst frm reason 0 none false engineFlow .device)
/-- A notice to a name: code, subject and 32 bytes (R286). -/
def State.postNotice (s : State) (dst subject : DWord) (code : Nat) (body : List Byte) : State :=
  s.post (.message dst 0x05 0 subject 0 (bytesOf 8 code ++ body) engineFlow .device)
/-- The incarnation of an issuer, dying ones too. -/
def State.issuing (s : State) (w : Issuer) : Option ActorId :=
  match w.actor with
  | some x => if (s.actor x).gen = w.gen && ((s.actor x).st == .resident || (s.actor x).st == .migrating
      || (s.actor x).st == .leaving) then some x else none
  | none => none
/-- An exit signal to an issuer that still exists. -/
def State.exitTo (s : State) (w : Issuer) (frm : DWord) (reason : Nat) : State :=
  match s.issuerName w with
  | some me => s.postExit me frm reason
  | none => s

/-- Write an entry into a ring of a service core, or of the root monitor (R360): `none` when it is full. -/
def State.ringWrite (s : State) (id : CoreId) (i : Nat) (bs : List Byte) : Option State :=
  let k := CoreId.ringBase id + i
  let r := Sparse.get (0, 0) s.ctxs.rings k
  if (r.1 + 512 - r.2) % 512 = 256 then none
  else
    let at' := 0x30000 + 0x4000 * i + 64 * (r.1 % 256)
    some ((s.modCore id fun c => c.store at' bs).onCtxs fun x =>
      { x with rings := Sparse.set (0, 0) x.rings k ((r.1 + 1) % 512, r.2) })
/-- A notice to whoever issued an operation: an actor's mailbox, or the notice ring of a core of the hub, where a full
ring drops it (R265, R360, R362). -/
def State.noticeTo (s : State) (w : Issuer) (subject : DWord) (code : Nat) (body : List Byte) : State :=
  match w.core with
  | .work _ => (match s.issuerName w with
    | some me => s.postNotice me subject code body
    | none => s)
  | id => (s.ringWrite id 1 (mailBytes 0x05 0 subject 0 (bytesOf 8 code ++ body))).getD s

/-- A request of the entry at the head of a core to another device, which awaits no answer; it stays while its flow waits. -/
def State.sendOp (s : State) (e : Entry) (d : Nat) (r : FabricReq) : State × Bool :=
  match s.trySend e.who.core.key e.ctx d e.who .none r with
  | (s1, some _) => (s1, true)
  | (s1, none) => (s1, false)

/-- Does the entry at the head of a core await an answer of another device? -/
def State.headWaits (s : State) (id : CoreId) : Bool :=
  s.fab.outs.any fun f => f.2.unacked.any fun q => q.wait == .head id
/-- An operation on a name of another device: its request leaves once, and the entry stays at the head until the answer has its
effect (R280, R284, R294). -/
def State.sendHead (s : State) (e : Entry) (d : Nat) (r : FabricReq) : State × Bool :=
  if s.headWaits e.who.core then (s, false)
  else ((s.trySend e.who.core.key e.ctx d e.who (.head e.who.core) r).1, false)

/-! ## At issue -/

/-- Issue an instruction of one entry (R280). -/
def State.actorIssue (s : State) (op : ActorOp) (rel : Option Scope) (n : Nat) : Res :=
  s.withEntries [s.entry (.actor op) rel] fun t => t.done n

/-- Go on only where one more entry finds room (R95): reservations come with the entry. -/
def State.ifRoom (s : State) (k : Res) : Res :=
  match s.room 1 with
  | .capacity => s.killReason 12 0
  | .stall => .next s
  | .ok => k

/-- Issue one entry with n link-table entries of the issuer, or end it (R117, R274): a full table is refused before the room is looked at. Code that
is no actor has no table. -/
def State.withLinks (s : State) (n : Nat) (k : State → Res) : Res :=
  if n = 0 then s.ifRoom (k s)
  else
    match s.core.actor? with
    | none => s.refusedR
    | some x =>
      let r := s.actor x
      if 16 < r.links.length + r.linkRsv + n then s.refusedR
      else s.ifRoom (k (s.modActor x fun r => { r with linkRsv := r.linkRsv + n }))

/-- The 128 B pieces of a range. -/
def pieces (va n : Nat) : List DWord := (List.range (n / 128)).map fun i => dw (va + 128 * i)

/-- SPAWN (R281). -/
def execSpawn (f : SpawnF) (s : State) : Res :=
  let h := s.rs f.a
  if h.toNat / 2 ^ 48 ≠ 0 ∨ h.toNat % 512 ≠ 0 then s.badAddress h
  else
    s.loadGlobals 128 (pieces h.toNat 512) fun s hs =>
      let hd := hs.flatten
      let img := imageOf h.toNat hd
      let n := if f.all then img.nact else 1
      if !goodHeader hd ∨ (!f.all ∧ img.nact ≤ f.k.toNat) then s.refusedR
      else
        s.loadGlobals 128 (pieces (h.toNat + img.actOff + (if f.all then 0 else 256 * f.k.toNat)) (256 * n)) fun s _ =>
          s.withLinks (if f.lk ∨ f.mn then n else 0) fun t =>
            match t.freeIndex t.ctx n with
            | none => s.killReason 15 0
            | some b =>
              let name := t.nextName ⟨t.ctx, b⟩
              let op : ActorOp := .spawn h.toNat (s.rs f.b) f.k.toNat (if f.c = 0 then none else some (s.rs f.c)) f.lk f.mn f.all
                f.tag b n
              ((t.reserveIndices t.ctx b n).withEntries [t.entry (.actor op) none] fun u => (u.ws f.d name).done 12)

/-- EXIT (R282): the region commits; the actor ends with the reason. -/
def execExit (a : SReg) (s : State) : Res :=
  let r := (s.rs a).toNat % 256
  if !s.core.canCommit then .next s
  else
    match s.core.actor? with
    | some x => .next ((s.commit s.focus).kill x r)
    | none => .next (s.fatal ((0x40 + r) % 256) r 0)

/-- KILL (R283). -/
def execKill (a : SReg) (s : State) : Res := s.actorIssue (.kill (s.rs a)) none 8
/-- LINK (R274, R284). -/
def execLink (a : SReg) (s : State) : Res :=
  s.withLinks 1 fun t => t.actorIssue (.link (s.rs a)) none 8
/-- UNLINK (R284). -/
def execUnlink (a : SReg) (s : State) : Res := s.actorIssue (.unlink (s.rs a)) none 8
/-- MONITOR (R274, R284). -/
def execMonitor (a b : SReg) (s : State) : Res :=
  s.withLinks 1 fun t => t.actorIssue (.monitor (s.rs a) ((s.rs b) &&& 0xFFFFFFFF)) none 8
/-- UNMON (R284). -/
def execUnmon (a b : SReg) (s : State) : Res := s.actorIssue (.unmon (s.rs a) ((s.rs b) &&& 0xFFFFFFFF)) none 8
/-- SIGNAL.msg (R33, R287). -/
def execSignalMsg (scope : Scope) (a b c : SReg) (s : State) : Res :=
  let sc := s.clamp scope
  s.withEntries [s.entry (.actor (.message (s.rs a) (bytesOf 8 (s.rs b).toNat ++ bytesOf 4 (s.rs c).toNat))) (some sc.1)]
    fun t => (t.clamped sc.2).done 8
/-- SIGNAL.exit (R33, R287). -/
def execSignalExit (scope : Scope) (a b : SReg) (s : State) : Res :=
  let sc := s.clamp scope
  s.withEntries [s.entry (.actor (.exitSig (s.rs a) ((s.rs b).toNat % 256))) (some sc.1)]
    fun t => (t.clamped sc.2).done 8
/-- SELF (R288). -/
def execSelf (d : SReg) (s : State) : Res := (s.ws d s.core.selfn).done 8
/-- SELF.stable (R288). -/
def execSelfStable (d : SReg) (s : State) : Res := (s.ws d (setBits 0 16 0 s.core.selfn)).done 8
/-- SELF.tx (R288). -/
def execSelfTx (a : SReg) (s : State) : Res := s.actorIssue (.selfTx (bitAt 0 (s.rs a))) none 8
/-- TIMER, either kind (R289). -/
def State.timerIssue (s : State) (k kl : Bool) (a b : SReg) : Res :=
  if (s.rs a).toNat / 2 ^ 48 ≠ 0 then s.refusedR
  else s.actorIssue (.timer k kl (s.rs a).toNat ((s.rs b).setWidth 32)) none 8
/-- TIMER (R289). -/
def execTimer (k : Bool) (a b : SReg) (s : State) : Res := s.timerIssue k false a b
/-- TIMER.kill (R289). -/
def execTimerKill (k : Bool) (a b : SReg) (s : State) : Res := s.timerIssue k true a b
/-- CAPCALL (R299): ownership comes before refused (R117). -/
def execCapcall (a b c : SReg) (s : State) : Res :=
  let p := la (s.rs b)
  if !s.mayReach p 64 then s.notOwned p
  else if (s.rs a).toNat / 2 ^ 16 ≠ 0 ∨ p % 64 ≠ 0 then s.refusedR
  else s.actorIssue (.capcall (s.rs a).toNat p ((s.rs c).setWidth 32)) none 8
/-- MIGRATE (R296). -/
def execMigrate (a b : SReg) (s : State) : Res :=
  if bitsAt 14 4 (s.rs b) ≠ 0 ∨ (s.rs b).toNat / 2 ^ 30 ≠ 0 then s.refusedR
  else s.actorIssue (.migrate (s.rs a) (s.rs b)) none 8
/-- PORTCFG (R294). -/
def execPortcfg (k : BitVec 2) (a b : SReg) (s : State) : Res :=
  if (s.rs b).toNat / 4 ≠ 0 then s.refusedR
  else s.actorIssue (.portcfg k.toNat (s.rs a) (s.rs b).toNat) none 8
/-- CONSUME (R295). -/
def execConsume (k : BitVec 2) (a : SReg) (s : State) : Res :=
  match s.core.actor? with
  | none => s.refusedR
  | some x =>
    let p := (s.actor x).inPort k.toNat
    if 64 < (s.rs a).toNat ∨ !p.en ∨ s.core.tsw.sf then s.refusedR
    else (s.modActor x fun r => r.setIn k.toNat { r.inPort k.toNat with adv := Nat.min (s.rs a).toNat p.filled, ca := true }).done 8

/-! ## SPAWN at drain -/

/-- The output ports of actor j of a group: references to templates become names, or leave the port unbound (R281). -/
def State.bindRefs (s : State) (x b : Nat) (all : Bool) (group : List ActorRec) (r : ActorRec) : ActorRec :=
  { r with outs := r.outs.map fun p =>
    if bitAt 63 p.name then
      let u := p.name.toNat % 2 ^ 63
      match (if all then group[u]? else none) with
      | some t => { p with name := s.nameWith ⟨x, b + u⟩ 0, dsize := (t.inPort p.dport.toNat).size }
      | none => { p with name := 0, en := false }
    else p }

/-- The templates of a group. -/
def State.engTemplates (s : State) (id : CoreId) (x : Nat) (img : Image) : List Nat → Eng (List ActorRec)
  | [] => .ok []
  | k :: ks => (s.engTemplate id x img k).andThen fun r => (s.engTemplates id x img ks).andThen fun rs => .ok (r :: rs)

/-- What placing a group gives. -/
inductive Group where
  | ok (s : State)
  | fail (reason : Nat) (s : State)
  | wait (s : State)

/-- Place the records of a group at the indices from b on. -/
def State.placeGroup (s : State) (id : CoreId) (x : Nat) (img : Image) (ids : State → List CoreId) :
    Nat → List ActorRec → Group
  | _, [] => .ok s
  | b, r :: rest =>
    match s.engParts id x img r with
    | .fail e t => .fail e t
    | .wait t => .wait t
    | .ok (text, st) =>
      let r1 := { r with gen := nextGen (s.actor ⟨x, b⟩).gen }
      match s.placeOn ⟨x, b⟩ img text st r1 (ids s) with
      | .quota => .fail 15 s
      | .full => .fail 4 s
      | .ok t => t.placeGroup id x img ids (b + 1) rest

/-- Link or watch the new actors of a group (R281): a dying issuer is linked, and watches no more. -/
def State.joinGroup (s : State) (w : Issuer) (lk mn : Bool) (tag : Word) (x b n : Nat) : State :=
  match s.issuing w with
  | none => s
  | some me =>
    (List.range n).foldl (fun t i =>
      let y : ActorId := ⟨x, b + i⟩
      let t1 := if lk then (t.modActor me fun r => { r with links := r.links ++ [⟨t.nameOf y, .link, 0⟩] }).modActor y fun r =>
          { r with links := r.links ++ [⟨t.nameOf me, .link, 0⟩] } else t
      if mn && (s.alive w).isSome then
        (t1.modActor me fun r => { r with links := r.links ++ [⟨t.nameOf y, .watching, tag⟩] }).modActor y fun r =>
          { r with links := r.links ++ [⟨t.nameOf me, .watchedBy, tag⟩] }
      else t1) s

/-- Release link-table entries that an issuer reserved. -/
def State.freeLinks (s : State) (w : Issuer) (n : Nat) : State :=
  match s.issuing w with
  | some x => s.modActor x fun r => { r with linkRsv := r.linkRsv - n }
  | none => s

/-- A SPAWN drains (R281): the whole group is placed, or none of it and the issuer receives an exit signal. `none` while
the engine waits for a page. -/
def State.drainSpawn (s : State) (w : Issuer) (x h : Nat) (param : DWord) (k : Nat) (core : Option DWord)
    (lk mn all : Bool) (tag : Word) (b n : Nat) : State × Bool :=
  let name := s.nextName ⟨x, b⟩
  let over' (t : State) : State := if lk || mn then t.freeLinks w n else t
  let failed (t : State) (reason : Nat) : State × Bool :=
    (over' ((t.releaseIndices x b n).exitTo w name reason), true)
  if !s.ctxNamed x then failed s 4
  else
    let cores : Option (State → List CoreId) := match core with
      | none => some fun t => t.candidates x
      | some c => match s.coreOfLci c.toNat with
        | some t => if s.holds x t then some fun u => if u.belongs x t then [t] else [] else none
        | none => none
    let built := (s.engImage w.core x h).andThen fun img =>
      (s.engTemplates w.core x img (if all then List.range n else [k])).andThen fun rs =>
        .ok (img, rs.map fun r =>
          { s.bindRefs x b all rs r with param := r.param + param })
    match cores, built with
    | none, _ => failed s 4
    | _, .fail e t => failed t e
    | _, .wait t => (t, false)
    | some ids, .ok (img, rs) =>
      match s.placeGroup w.core x img ids b rs with
      | .fail e _ => failed s e
      | .wait t => (s.onCtxs fun c => { c with wants := t.ctxs.wants }, false)
      | .ok t => (over' (t.joinGroup w lk mn tag x b n), true)

/-! ## Links, monitors and signals at drain -/

/-- Has an actor room for one more link-table entry? -/
def ActorRec.linkRoom (r : ActorRec) : Bool := decide (r.links.length + r.linkRsv < 16)

/-- Carry out an operation on a name: the issuer is refused a target outside what it may name (R271); the entry stays while
the name's restart or migration runs (R270). -/
def State.onName (s : State) (e : Entry) (tree : Bool) (n : DWord) (gone : State → State) (here : State → ActorId → State)
    (away : State → Nat → State × Bool) : State × Bool :=
  if !s.mayName e.ctx tree n then (s.killIssuer e.who 4, true)
  else
    match s.resolve n with
    | .gone => (gone s, true)
    | .here x => (here s x, true)
    | .wait => (s, false)
    | .away d => away s d

/-- The link-table entry of an actor for a name, of a kind, with a tag if one is given. -/
def State.linkFor (s : State) (i : ActorId) (n : DWord) (k : LinkKind) (tag : Option Word) : Option LinkEntry :=
  (s.actor i).links.find? fun l => l.kind == k && decide (s.idOf l.peer = s.idOf n)
    && (nameGen n == 0 || nameGen l.peer == nameGen n) && (tag.all fun t => l.tag == t)
/-- Remove one entry from an actor's link table. -/
def State.unlinkEntry (s : State) (i : ActorId) (l : Option LinkEntry) : State :=
  match l with
  | some l => s.modActor i fun r => { r with links := r.links.erase l }
  | none => s
/-- Add an entry to an actor's link table. -/
def State.addLink (s : State) (i : ActorId) (l : LinkEntry) : State := s.modActor i fun r => { r with links := r.links ++ [l] }
/-- A down message to an issuer (R284). -/
def State.downTo (s : State) (w : Issuer) (frm : DWord) (reason : Nat) (tag : Word) : State :=
  match s.issuerName w with
  | some me => s.post (.message me 0x02 reason frm tag [] engineFlow .device)
  | none => s

/-- LINK drains (R284). One that names its issuer writes an entry at each end of the link, which is two in the one table, with one
reservation (DESIGN CHOICE, log entry 138). -/
def State.drainLink (s : State) (e : Entry) (n : DWord) : State × Bool :=
  let me := e.who
  s.onName e false n
    (fun t => (t.freeLinks me 1).exitTo me n 10)
    (fun t x => match t.issuing me with
      | none => t
      | some i =>
        let nx := t.nameOf x
        let t1 := t.freeLinks me 1
        if (t.linkFor i nx .link none).isSome then t1
        else if !(t.actor x).linkRoom then t1.exitTo me nx 4
        else (t1.addLink i ⟨nx, .link, 0⟩).addLink x ⟨t.nameOf i, .link, 0⟩)
    (fun t d => match t.issuing me with
      | none => (t, true)
      | some i => if (t.linkFor i n .link none).isSome then (t.freeLinks me 1, true) else t.sendHead e d (.link n (t.nameOf i)))

/-- UNLINK drains (R284). Of code that is no actor it does nothing (DESIGN CHOICE, log entry 20). -/
def State.drainUnlink (s : State) (e : Entry) (n : DWord) : State × Bool :=
  s.onName e false n id
    (fun t x => match t.issuing e.who with
      | none => t
      | some i => (t.modActor i fun r => r.dropLink (t.nameOf x) .link none).modActor x fun r => r.dropLink (t.nameOf i) .link none)
    (fun t d => match t.issuing e.who with
      | none => (t, true)
      | some i => if (t.linkFor i n .link none).isSome then t.sendHead e d (.unlink n (t.nameOf i)) else (t, true))

/-- MONITOR drains (R284). -/
def State.drainMonitor (s : State) (e : Entry) (n : DWord) (tag : Word) : State × Bool :=
  s.onName e false n
    (fun t => (t.freeLinks e.who 1).downTo e.who n 10 tag)
    (fun t x => match t.issuing e.who with
      | none => t
      | some i =>
        let t1 := t.freeLinks e.who 1
        if !(t.actor x).linkRoom then t1.downTo e.who (t.nameOf x) 4 tag
        else if (t.alive e.who).isNone then t1
        else (t1.addLink i ⟨t.nameOf x, .watching, tag⟩).addLink x ⟨t.nameOf i, .watchedBy, tag⟩)
    (fun t d => match t.alive e.who with
      | none => (t.freeLinks e.who 1, true)
      | some i => t.sendHead e d (.watch n (t.nameOf i) tag))

/-- UNMON drains (R284). Of code that is no actor it does nothing (DESIGN CHOICE, log entry 20). -/
def State.drainUnmon (s : State) (e : Entry) (n : DWord) (tag : Word) : State × Bool :=
  s.onName e false n id
    (fun t x => match t.issuing e.who with
      | none => t
      | some i =>
        if (t.linkFor i (t.nameOf x) .watching (some tag)).isSome then
          (t.modActor i fun r => r.dropLink (t.nameOf x) .watching (some tag)).modActor x fun r =>
            r.dropLink (t.nameOf i) .watchedBy (some tag)
        else t)
    (fun t d => match t.issuing e.who with
      | none => (t, true)
      | some i =>
        if (t.linkFor i n .watching (some tag)).isSome then t.sendHead e d (.unwatch n (t.nameOf i) tag) else (t, true))

/-- KILL drains (R283). -/
def State.drainKill (s : State) (e : Entry) (n : DWord) : State × Bool :=
  s.onName e true n id (fun t x => t.kill x 1)
    (fun t d => t.sendOp e d (.kill n ((t.issuerName e.who).getD (mkName t.thisDev e.ctx 0 0)) 1))

/-- The message counts of the actor engine of a core's cluster (R359). -/
def State.msgCount (s : State) (id : CoreId) (x : Nat) : Nat :=
  Sparse.get 0 s.ctxs.msgs (4096 * (CoreId.queue id % 1000) + x)
/-- Does the message window of a core's cluster admit one more entry of a context (R357, R359)? -/
def State.msgRoom (s : State) (id : CoreId) (x : Nat) : Bool :=
  (s.chain x).all fun y => decide (s.msgCount id y < bitsAt 0 16 (s.ccbWord y 11))
/-- Count an entry. -/
def State.countMsg (s : State) (id : CoreId) (x : Nat) : State :=
  s.onCtxs fun c => { c with msgs := (s.chain x).foldl (fun m y =>
    Sparse.set 0 m (4096 * (CoreId.queue id % 1000) + y) (s.msgCount id y + 1)) c.msgs }

/-- The bytes of an exit signal as a message (R286): that of a timer carries its number. -/
def exitBytes (frm : DWord) (reason : Nat) (tag : Word) (timer : Option Nat) : List Byte :=
  mailBytes 0x01 reason frm tag (match timer with
    | some k => bytesOf 8 k
    | none => [])
/-- The receiver of mail. -/
def Mail.dst : Mail → DWord
  | .exit d _ _ _ _ _ _ _ => d
  | .message d _ _ _ _ _ _ _ => d
/-- Is mail an exit signal? -/
def Mail.isExit : Mail → Bool
  | .exit _ _ _ _ _ _ _ _ => true
  | _ => false
/-- The request that carries mail to another device. -/
def Mail.request : Mail → FabricReq
  | .exit dst frm reason tag timer link _ sc => .exitSignal dst frm reason tag timer link sc
  | .message dst kind reason w1 tag body _ sc => .message dst (mailBytes kind reason w1 tag body) sc
/-- The source of the flow on which mail leaves the device, and the sender it names. -/
def Mail.source : Mail → Nat × DWord
  | .exit _ frm _ _ _ _ src _ => (src, frm)
  | .message _ _ _ w1 _ _ src _ => (src, w1)

/-- The receiver of the mail that a request carries. -/
def mailTo : FabricReq → Option DWord
  | .message n _ _ => some n
  | .exitSignal n _ _ _ _ _ _ => some n
  | _ => none
/-- The mail for an actor that is out on a flow or waits to leave on it, oldest first. -/
def State.mailOn (s : State) (x : ActorId) (flow : Nat) : List FabricReq :=
  ((s.outFlow flow).unacked.map (·.req) ++ (s.fab.pending.filter fun q => decide (flowKey q.src q.dev = flow)).map (·.req)).filter
    fun r => (mailTo r).any fun n => decide (s.idOf n = x)
/-- The flows that carry mail. -/
def State.mailFlows (s : State) : List Nat := s.fab.outs.map (·.1) ++ s.fab.pending.map fun q => flowKey q.src q.dev
/-- Is mail for an actor out on another flow than the one given (R298): no later mail for it may overtake that? -/
def State.mailElsewhere (s : State) (x : ActorId) (flow : Option Nat) : Bool :=
  s.mailFlows.any fun f => some f != flow && !(s.mailOn x f).isEmpty

/-- SIGNAL drains (R287): a release at its scope; then the message or the exit signal is on its way, to another device on the
core's own flow (R391), behind what is already on its way to the receiver (R298). Code that is no actor signs with name 0 (DESIGN CHOICE, log
entry 20). -/
def State.drainSignal (s : State) (id : CoreId) (e : Entry) (n : DWord) (m : DWord → Mail) (counts : Bool) : State × Bool :=
  if !s.performed id (e.rel.getD .core) then (s, false)
  else if counts && !s.msgRoom id e.ctx then (s, false)
  else
    let counted (t : State) : State := if counts then t.countMsg id e.ctx else t
    let mail := m ((s.issuerName e.who).getD 0)
    let x := s.idOf n
    if !s.mayName e.ctx false n then ((counted s).killIssuer e.who 4, true)
    else
      match s.resolve n with
      | .away d =>
        if (s.acts.mail.any fun k => decide (s.idOf k.dst = x)) || s.mailElsewhere x (some (flowKey id.key d)) then (s, false)
        else (match s.trySend id.key e.ctx d e.who .none mail.request with
          | (t, some _) => (counted t, true)
          | (t, none) => (t, false))
      | _ => ((counted s).post mail, true)

/-- SELF.tx drains (R288). Of code that is no actor it does nothing (DESIGN CHOICE, log entry 20). -/
def State.drainSelfTx (s : State) (e : Entry) (on : Bool) : State :=
  match s.alive e.who with
  | none => s
  | some x => if on && !(s.actor x).sge then s.kill x 4 else s.modActor x fun r => { r with tx := on }

/-- Timer k of an actor. -/
def ActorRec.timer (r : ActorRec) (k : Bool) : Timer := if k then r.timers[1] else r.timers[0]
/-- Set timer k. -/
def ActorRec.setTimer (r : ActorRec) (k : Bool) (t : Timer) : ActorRec :=
  { r with timers := if k then r.timers.set 1 t else r.timers.set 0 t }

/-- TIMER drains (R289). Of code that is no actor it does nothing (DESIGN CHOICE, log entry 20). -/
def State.drainTimer (s : State) (e : Entry) (k kl : Bool) (cycles : Nat) (tag : Word) : State :=
  match s.alive e.who with
  | none => s
  | some x => s.modActor x fun r => r.setTimer k (if cycles = 0 then Timer.none else ⟨cycles, tag, kl, true⟩)

/-- Output port k of an actor is unbound (R294). -/
def State.unbind (s : State) (i : ActorId) (k : Nat) : State :=
  s.modActor i fun r => r.setOut k { r.outPort k with en := false }
/-- Output port k of an actor is bound to an input port of a slot size (R294). -/
def State.bindPort (s : State) (i : ActorId) (k : Nat) (n : DWord) (dport : Nat) (size : BitVec 2) : State :=
  s.modActor i fun r => r.setOut k { r.outPort k with en := true, name := n, dport := BitVec.ofNat 2 dport, dsize := size }

/-- PORTCFG drains (R294). -/
def State.drainPortcfg (s : State) (e : Entry) (k : Nat) (n : DWord) (dport : Nat) : State × Bool :=
  match s.alive e.who with
  | none => (s, true)
  | some i =>
    if n = 0 then (s.unbind i k, true)
    else
      s.onName e false n
        (fun t => (t.unbind i k).exitTo e.who n 10)
        (fun t x =>
          let p := (t.actor x).inPort dport
          if p.en then t.bindPort i k n dport p.size else (t.unbind i k).exitTo e.who n 4)
        (fun t d => t.sendHead e d (.portcfg n (t.nameOf i) dport))

/-! ## Migration (R296, R297) -/

/-- The notice of a migration's end (R296): code 1 for moved, 2 for refused. -/
def State.tellMove (s : State) (a : Asker) (subject : DWord) (code : Nat) : State :=
  match a with
  | .here w => s.noticeTo w subject code []
  | .name n => s.postNotice n subject code []
  | .service d p => s.enqueueReq engineFlow d 0 .none (.migrationNotice p (mailBytes 0x05 0 subject 0 (bytesOf 8 code)))

/-- MIGRATE drains (R296): a gone name gives the notice of a migration refused; an actor on another device is moved by that. -/
def State.drainMigrate (s : State) (e : Entry) (n v : DWord) : State × Bool :=
  s.onName e true n
    (fun t => t.noticeTo e.who n 2 [])
    (fun t x => t.modActor x fun r => { r with mig := some ⟨bitsAt 0 14 v, bitsAt 18 12 v, .here e.who, false, false⟩ })
    (fun t d => t.sendOp e d (.migrate n ((t.issuerName e.who).getD (mkName t.thisDev e.ctx 0 0)) v))

/-- May an actor's migration begin (R296 step 1)? -/
def State.migrationReady (s : State) (x : ActorId) : Bool :=
  let r := s.actor x
  let sl := (s.coreAt r.core).slotAt r.slot
  (match r.mig with
  | some m => !m.started
  | none => false) && r.st == .resident && sl.st == .waiting && sl.resume.isNone

/-- MIGRATION_START (R296). -/
def execMigrationStart (x : ActorId) (s : State) : Res :=
  if s.migrationReady x then
    .next (s.modActor x fun r => { r with mig := r.mig.map fun m => { m with started := true } })
  else .next s

/-- Does a SEND, a copy command or a Bezel operation of an incarnation still run (R164, R228)? -/
def State.engaged (s : State) (id : CoreId) (w : Issuer) : Bool :=
  let c := s.coreAt id
  (c.tileQ.any fun t => decide (t.who = w) && t.phase != .done) || (c.transferQ.any fun t => decide (t.who = w))
    || (match id with
    | .work p => (s.bezelQueue p).any fun o => decide (o.who = w)
    | _ => false)
/-- The issuer record of an actor's incarnation. -/
def State.asIssuer (s : State) (x : ActorId) : Issuer := ⟨(s.actor x).core, some x, (s.actor x).gen⟩

/-- May the move of an actor be made (R296 step 2, R297)? The messages it has sent to other devices have arrived: what it sends from its new core
cannot overtake them (R298). -/
def State.moveReady (s : State) (x : ActorId) : Bool :=
  let r := s.actor x
  (match r.mig with
  | some m => m.started && !m.sent
  | none => false) && s.storesCount r.core == 0 && !s.engaged r.core (s.asIssuer x)
    && s.inSlot x && (r.ins.all fun p => p.rsv == 0)
    && !(s.fab.outs.any fun f => f.2.unacked.any fun q => decide (q.who = s.asIssuer x) && (mailTo q.req).isSome) && decide ((s.acts.forwards.filter fun f => decide (f.core = r.core)).length < 16)

/-- Free a slot: its beads, its windows, and the slot itself (R126, R290). -/
def Core.freeSlot (c : Core) (n : Nat) : Core :=
  { c with
    slots := Sparse.set Slot.none c.slots n Slot.none
    beads := c.beads.filter fun b => b.2 != .owned n && b.2 != .transit n
    wins := c.wins.map fun w => if winEn w && !winNs w && winOwner w == n then setBits 51 1 0 w else w }

/-- The runs of beads an actor's contents lie in, as (bead, beads). -/
def ActorRec.runs (r : ActorRec) : List (Nat × Nat) :=
  (r.mbase, 2) :: ((r.ins.map fun p => (p.base.toNat, p.beads)).toList ++ [(r.stbase, r.nstate)])

/-- Copy n beads with their tags from one core to another. -/
def Core.copyBeads (dst src : Core) (k f : Nat) : Nat → Core
  | 0 => dst
  | n + 1 =>
    let c := dst.store (512 * k) (src.load (512 * f) 512)
    let c1 := (List.range 64).foldl (fun c i => c.setTag (512 * k + 8 * i) (src.tag (512 * f + 8 * i))) c
    c1.copyBeads src (k + 1) (f + 1) n

/-- The record that this device's tables hold follows a move: the location (R273, R296 step 4), and a supervisor's timestamps, which its new
core cannot read (R315). -/
def State.relocated (s : State) (x : ActorId) : State :=
  (if (s.super x).sup then s.modSuper x fun r => r.setField 3 4 5 0 else s).writeBack x

/-- What a move leaves behind: the forwarding entry of the old slot (R297), and the new location in the directory entry of the actor's
home, here or on another device (R273, R296 step 4). -/
def State.departed (s : State) (x : ActorId) (core : CoreId) (slot : Nat) : State :=
  let s1 := s.onActs fun a => { a with forwards := a.forwards ++ [⟨core, slot, x⟩] }
  let r := s1.actor x
  let place := if r.dev = 0 then 2 ^ 20 * s.thisDev + 64 * s.lciOf r.core + r.slot % 64 else 2 ^ 20 * (r.dev - 1) + r.place
  if x.own then s1.relocated x
  else s1.enqueueReq engineFlow (s.homeOf x) x.ctx .none (.located (s1.nameOf x) place)

/-- An actor leaves its core for a place on another (R296 steps 3 and 4, R297). -/
def State.moved (s : State) (x : ActorId) (c : Core) (r1 : ActorRec) : State :=
  let r := s.actor x
  let src := s.coreAt r.core
  let c1 := ((r1.runs.zip r.runs).foldl (fun c e => c.copyBeads src e.1.1 e.2.1 e.1.2) c)
  let s1 := (s.setCore r1.core c1).modCore r.core fun c => c.freeSlot r.slot
  (s1.setActor x { r1 with mig := none }).departed x r.core r.slot

/-- The request that carries an actor to another device (R296 step 3). -/
def State.moveRequest (s : State) (x : ActorId) (core : Nat) : FabricReq :=
  let r := s.actor x
  let c := s.coreAt r.core
  .move (s.nameOf x) core (s.controlBlock x) r.linkTable (r.ins.toList.map fun p => (p.filled, p.head))
    (r.runs.flatMap fun e => c.load (512 * e.1) (512 * e.2))
    (r.runs.flatMap fun e => (List.range (64 * e.2)).map fun i => c.tag (512 * e.1 + 8 * i))

/-- The requests that wait at the ports of an actor that has left for another device follow it (R296, R297): those of this device's cores
ask again, and those of other devices are sent on. -/
def State.redirectAsks (s : State) (x : ActorId) (dev : Nat) : State :=
  (s.actor x).asks.foldl (fun t a => match a.2 with
    | .core _ => t.askAgain x a.1 a.2 .gone
    | .fabric d f q gen bs =>
      t.enqueueReq engineFlow dev x.ctx (.relay d f q) (.tile (s.nameWith x gen) a.1 bs)) (s.modActor x ActorRec.noAsks)

/-- What this device keeps of an actor that has left it: where it now is. Its timers, links and reservations have moved with it. -/
def ActorRec.movedTo (r : ActorRec) (dev place : Nat) : ActorRec :=
  { r with
    st := .resident, mig := none, dev := dev + 1, place := place
    timers := Vector.replicate 2 Timer.none, links := [], linkRsv := 0, mrsv := 0 }

/-- The other device has answered a move (R296 steps 4 and 5): with the actor's place there, or that it cannot hold it. An actor
that died here meanwhile is ended there. -/
def State.moveAnswer (s : State) (x : ActorId) (name : DWord) (dev : Nat) (e : FabricEnd) : State :=
  let r := s.actor x
  match (if s.nameOf x = name ∧ r.st = .migrating then r.mig else none), e with
  | some m, .data bs =>
    let s1 := ((s.modCore r.core fun c => c.freeSlot r.slot).modActor x fun r => r.movedTo dev (natOf bs)).redirectAsks x dev
    (s1.departed x r.core r.slot).tellMove m.asker name 1
  | some m, _ => (s.modActor x fun r => { r with st := .resident, mig := none }).tellMove m.asker name 2
  | none, .data _ => s.enqueueReq engineFlow dev x.ctx .none (.kill name name (s.actor x).xreason)
  | none, _ => s

/-- An actor arrives from another device (R296 step 3): where it now stands, or `none` where this device cannot hold it. -/
def State.arrive (s : State) (name : DWord) (core : Nat) (block links : List Byte) (rings : List (Nat × Nat))
    (bytes : List Byte) (tags : List Bool) : Option (State × Nat) :=
  let x := s.idOf name
  match s.coreOfLci core with
  | none => none
  | some t =>
    if !s.belongs x.ctx t ∨ !s.slotQuota x.ctx 1 then none
    else
      let r0 := blockRec block
      let r1 := { r0 with
        links := linksOf links
        mscopes := List.replicate r0.mcount .system
        job := (s.actor x).job
        ins := Vector.ofFn fun i : Fin 4 =>
          let g := rings.getD i.val (0, 0)
          { r0.ins[i] with
            filled := g.1
            head := g.2
            scopes := (List.range r0.ins[i].slots).map fun j => (j, scopeNum .system) } }
      match s.engImage t x.ctx r0.image with
      | .ok img => (match s.engGet t x.ctx (r0.image + 512) img.textLen with
        | .ok text => (match s.fitOn x img text r1 t with
          | some (c, r2) =>
            let fill := r2.runs.foldl (fun (a : Core × List Byte × List Bool) e =>
              let c1 := a.1.store (512 * e.1) (a.2.1.take (512 * e.2))
              ((List.range (64 * e.2)).foldl (fun c i => c.setTag (512 * e.1 + 8 * i) (a.2.2.getD i false)) c1,
                a.2.1.drop (512 * e.2), a.2.2.drop (64 * e.2))) (c, bytes, tags)
            let s1 := (s.setCore t fill.1).setActor x { r2 with dev := 0, mig := none }
            let s2 := if x.own then s1.relocated x else s1.modSuper x fun q => { q with sup := bitAt 0 (field8 block 8) }
            some (s2, 64 * s.lciOf t + r2.slot)
          | none => none)
        | _ => none)
      | _ => none

/-- An actor moves to the first of the given cores of this device that holds it (R278, R296): a core in no use has the text
read from the image, which can make the move wait; where no core holds the actor, the move fails. -/
def State.moveTo (s : State) (x : ActorId) (ids : List CoreId) : Eng State :=
  let r := s.actor x
  let known : Image := ⟨r.image, 0, (s.coreAt r.core).xbound.toNat, 0⟩
  match ids.findSome? fun id => (s.fitOn x known [] r id).map fun p => (id, p) with
  | none => .fail 15 s
  | some (id, c, r1) =>
    if (s.coreAt id).occupied then .ok (s.moved x c r1)
    else (s.engImage r.core x.ctx r.image).andThen fun img =>
      (s.engGet r.core x.ctx (r.image + 512) img.textLen).andThen fun text =>
        match s.fitOn x img text r id with
        | some (c2, r2) => .ok (s.moved x c2 r2)
        | none => .fail 15 s

/-- MIGRATION_MOVE (R296, R297): to a core of this device at once; to another device its contents leave, and the answer ends the
move. -/
def execMigrationMove (x : ActorId) (s : State) : Res :=
  let r := s.actor x
  match r.mig.filter fun m => decide (m.core < 2 ^ 14), s.moveReady x with
  | some m, true =>
    let stay (t : State) : State := (t.modActor x fun r => { r with mig := none }).tellMove m.asker (t.nameOf x) 2
    if m.dev = s.thisDev then
      match s.coreOfLci m.core with
      | some t =>
        if s.belongs x.ctx t then
          match s.moveTo x [t] with
          | .ok u => .next ((u.grantAll x).tellMove m.asker (u.nameOf x) 1)
          | .fail _ t => .next (stay t)
          | .wait t => .next t
        else .next (stay s)
      | none => .next (stay s)
    else if s.peerUp m.dev then
      match s.trySend r.core.key x.ctx m.dev ⟨.root, none, 0⟩ (.move x) (s.moveRequest x m.core) with
      | (t, some _) => .next (t.modActor x fun r => { r with st := .migrating, mig := some { m with sent := true } })
      | (t, none) => .next t
    else .next (stay s)
  | _, _ => .next s

/-- FORWARDING_REDIRECT (R297): reservation requests that reached the old slot of a moved actor are granted at its new
ring. -/
def execForwardingRedirect (id : CoreId) (s : State) : Res :=
  .next ((s.acts.forwards.filter fun f => decide (f.core = id)).foldl (fun t f => t.grantAll f.actor) s)

/-- DIRECTORY_UPDATE_ACKNOWLEDGED (R297): the oldest forwarding entry of a core is released, and what this device still held of
another's actor that moved on is gone. -/
def execDirectoryUpdateAcknowledged (id : CoreId) (s : State) : Res :=
  match s.acts.forwards.find? fun f => decide (f.core = id) with
  | none => .next s
  | some f =>
    let s1 := s.onActs fun a => { a with forwards := a.forwards.erase f }
    .next (if !f.actor.own ∧ (s.actor f.actor).dev ≠ 0 then s1.modActor f.actor fun r => { r with st := .free, dev := 0 } else s1)

/-! ## Death (R290) -/

/-- May steps 2 to 6 of a death run: have the entries the actor committed drained, SENDs apart, and are its stores
performed on the device (R290 step 3)? -/
def State.deathReady (s : State) (x : ActorId) : Bool :=
  let r := s.actor x
  let w := s.asIssuer x
  r.death == some .signals
    && !((s.coreAt r.core).committed.any fun e => decide (e.who = w) && !(match e.kind with
      | .send _ => true
      | _ => false))
    && s.performed r.core .device

/-- The running job whose root an actor's incarnation is. -/
def State.jobOfRoot (s : State) (x : ActorId) : Option Job :=
  s.acts.jobs.find? fun j => decide (j.root = x) && j.jstate == 1 && decide (s.nameOf x = j.rootName)

/-- Steps 4 and 5 of a death for one link-table entry (R290, R401): the other end's entry goes, and its owner is told. -/
def State.signalEnd (s : State) (x : ActorId) (l : LinkEntry) : State :=
  let r := s.actor x
  let me := s.nameOf x
  let y := s.idOf l.peer
  let away := s.deviceOf y ≠ s.thisDev
  let same := !away ∧ (s.actor y).gen = nameGen l.peer
  let reason := if s.ctxState x.ctx = 4 ∧ r.xreason = 11 ∧ away then 10 else r.xreason
  match l.kind with
  | .watching => s
  | .link => (if same then s.modActor y fun q => q.dropLink me .link none else s).post
      (.exit l.peer me reason 0 none true r.core.key .device)
  | .watchedBy => (if same then s.modActor y fun q => q.dropLink me .watching (some l.tag) else s).post
      (.message l.peer 0x02 reason me l.tag [] r.core.key .device)

/-- Step 6 of a death (R290, R324, R364): it is handed to the restart engine, its traps find another handler, and its job
learns it. -/
def State.handDeath (s : State) (x : ActorId) : State :=
  let r := s.actor x
  let me := s.nameOf x
  let s0 := if x.idx ≠ 0 then s else s.onCtxs fun c =>
    { c with traps := c.traps.map fun m => if m.holder = some x.ctx then { m with holder := none } else m }
  let s1 := if r.super != 0 && !r.quiet then
      s0.onActs fun a => { a with deaths := a.deaths ++ [⟨s.idOf r.super, me, r.xreason⟩] }
    else s0
  match s1.jobOfRoot x with
  | some j =>
    if r.xreason = 0 then s1.modJob j.pa fun k => { k with normalEnd := true }
    else s1.tearDown j r.xreason
  | none => s1

/-- DEATH_SIGNALS (R290 steps 4 to 6, R292, R324, R401). What becomes of an actor of another device's table is that device's to say, which learns of the
death when its steps are over (`execSlotReclaim`). -/
def execDeathSignals (x : ActorId) (s : State) : Res :=
  if !s.deathReady x then .next s
  else
    let r := s.actor x
    let ofKind (k : LinkKind) : List LinkEntry := r.links.filter fun l => l.kind == k
    let s1 := (ofKind .link ++ ofKind .watchedBy).foldl (fun t l => t.signalEnd x l) s
    let again := s.acts.restarts.any fun q => decide (s.idOf q.dead = x)
    let s2 := s1.modActor x fun q => { q with
      links := []
      linkRsv := 0
      death := some .reclaim
      st := if again then .restarting else q.st }
    .next (if x.own then s2.handDeath x else s2)

/-- May step 7 of a death run (R164, R228, R290)? -/
def State.reclaimReady (s : State) (x : ActorId) : Bool :=
  let r := s.actor x
  r.death == some .reclaim && !s.engaged r.core (s.asIssuer x)
    && (!s.inSlot x || !(s.coreAt r.core).beads.any fun b => b.2 == .transit r.slot)

/-- SLOT_RECLAIM (R126, R290 step 7): beads are freed and the slot is EMPTY; the index is free unless the restart engine
has the death. The home of an actor of another device's table learns of the death, and the requests that waited at its ports go on
there (R156, R317 step 1). -/
def execSlotReclaim (x : ActorId) (s : State) : Res :=
  if !s.reclaimReady x then .next s
  else
    let r := s.actor x
    let pending := s.acts.deaths.any fun d => decide (d.dead = s.nameOf x)
    let s1 := s.modCore r.core fun c => { (if s.inSlot x then c.freeSlot r.slot else c) with
      tileQ := c.tileQ.filter fun t => !(t.last && decide (t.who = s.asIssuer x)) }
    let s2 := s1.modActor x fun q => { q with
      death := none
      quiet := false
      st := if q.st = .restarting ∨ pending then q.st else .free }
    if x.own then .next ((if (s2.actor x).st = .free then s2.returnAsks x else s2).writeBack x)
    else .next ((s2.redirectAsks x (s.homeOf x)).enqueueReq r.core.key (s.homeOf x) x.ctx .none (.died (s.nameOf x) r.xreason))

/-! ## Arrivals (R285, R291, R298) -/

/-- The first mail of a kind that nothing earlier for the same receiver precedes, and whose receiver resolves (R270,
R298). -/
def State.nextMail (s : State) (isExit : Bool) : List Mail → List ActorId → Option Mail
  | [], _ => none
  | m :: rest, seen =>
    let x := s.idOf m.dst
    let waits := match s.resolve m.dst with
      | .wait => true
      | .here y => !s.inSlot y || s.mailElsewhere x none
      | .away d => s.mailElsewhere x (some (flowKey m.source.1 d))
      | .gone => false
    if m.isExit = isExit ∧ !seen.contains x ∧ !waits then some m else s.nextMail isExit rest (x :: seen)

/-- Take mail that arrives. -/
def State.takeMail (s : State) (m : Mail) : State := s.onActs fun a => { a with mail := a.mail.erase m }

/-- An exit signal meets an actor (R291). -/
def State.exitArrive (s : State) (x : ActorId) (frm : DWord) (reason : Nat) (tag : Word) (timer : Option Nat)
    (sc : Scope) : State :=
  let r := s.actor x
  if r.tx then s.mailArrive x (exitBytes frm reason tag timer) sc
  else if reason = 0 then s
  else s.kill x reason

/-- Mail leaves for the device its receiver is on; it stays while its flow waits. -/
def State.sendMail (s : State) (m : Mail) (d : Nat) : State :=
  match s.trySend m.source.1 (nameId m.source.2).ctx d ⟨.root, none, 0⟩ .none m.request with
  | (s1, some _) => s1.takeMail m
  | (s1, none) => s1

/-- EXIT_SIGNAL_ARRIVAL (R291): an exit signal arrives, or goes to the device its receiver is on. -/
def execExitSignalArrival (s : State) : Res :=
  match s.nextMail true s.acts.mail [] with
  | some m =>
    (match s.resolve m.dst, m with
    | .here x, .exit _ frm reason tag timer _ _ sc => .next ((s.takeMail m).exitArrive x frm reason tag timer sc)
    | .away d, _ => .next (s.sendMail m d)
    | _, _ => .next (s.takeMail m))
  | none => .next s

/-- CONTROL_MESSAGE_ARRIVAL (R285): a control message arrives, or goes to the device its receiver is on. -/
def execControlMessageArrival (s : State) : Res :=
  match s.nextMail false s.acts.mail [] with
  | some m =>
    (match s.resolve m.dst, m with
    | .here x, .message _ kind reason w1 tag body _ sc =>
      .next ((s.takeMail m).mailArrive x (mailBytes kind reason w1 tag body) sc)
    | .away d, _ => .next (s.sendMail m d)
    | _, _ => .next (s.takeMail m))
  | none => .next s

/-- TIMER_EXPIRY (R289): an armed timer reaches zero. It counts cycles of the core its actor stands on: none while the actor's context is
saved, whose save area holds it (R378). -/
def execTimerExpiry (x : ActorId) (k : Bool) (s : State) : Res :=
  let r := s.actor x
  let t := r.timer k
  if !t.arm ∨ r.st = .leaving ∨ r.st = .migrating ∨ r.dev ≠ 0 ∨ !s.inSlot x then .next s
  else
    let s1 := s.modActor x fun r => r.setTimer k Timer.none
    if t.kl then .next (s1.kill x 9)
    else .next (s1.post (.exit (s1.nameOf x) (s1.nameOf x) 9 t.tag (some k.toNat) false engineFlow .device))

/-! ## CAPCALL at drain (R299) -/

/-- Find a key among registry entries (Table 10.7): its place. -/
def findKey (bs : List Byte) (key : DWord) : Option Nat := (List.range 256).find? fun i => field8 bs (16 * i) == key

/-- The registry service (Table 10.7): status, result, and the bytes to write back with their offset. Registering key 0, which marks an empty
entry, answers 0 and leaves the entry empty (DESIGN CHOICE, log entry 136). -/
def registry (bs req : List Byte) (op : Nat) : Nat × List Byte × Option (Nat × List Byte) :=
  let key := field8 req 8
  let hit := if key = 0 then none else findKey bs key
  match op with
  | 1 => (match hit, findKey bs 0 with
    | some _, _ => (5, [], none)
    | none, none => (6, [], none)
    | none, some i => (0, [], some (16 * i, bytesOf 8 key.toNat ++ bytesOf 8 (field req 16 8))))
  | 2 => (match hit with
    | some i => (0, bytesOf 8 (field bs (16 * i + 8) 8), none)
    | none => (7, [], none))
  | _ => (match hit with
    | some i => (0, [], some (16 * i, List.replicate 16 0))
    | none => (7, [], none))

/-- Live actors of a context. -/
def State.liveActors (s : State) (x : Nat) : Nat :=
  (s.acts.tab.filter fun e => decide ((ActorId.ofKey e.1).ctx = x)
    && (e.2.st == .resident || e.2.st == .restarting || e.2.st == .migrating)).length

/-- The information service (Table 10.7). -/
def State.information (s : State) (x : Nat) : List Byte :=
  bytesOf 8 (2 ^ 24 * s.ctxPidx x + 2 ^ 16 * s.ctxDepth x + x) ++ bytesOf 8 (s.ctxCbase x) ++ bytesOf 8 (s.ctxClen x)
    ++ bytesOf 8 (s.liveActors x)

/-- The partition service core of a context, or the root monitor. -/
def State.serviceOf (s : State) (x : Nat) : CoreId := if x = 0 then .root else .service (s.ctxPidx x)

/-- What the gate answers to a CAPCALL: done with a status and a result, forwarded, or waiting for memory. -/
inductive Gate where
  | done (s : State) (status : Nat) (result : List Byte)
  | forwarded (s : State)
  | wait (s : State)

/-- A failed read of the capability table: an uncorrectable error is charged to the context (R367); the status is not
stated. -/
def State.gateFail (s : State) (x reason : Nat) : Gate :=
  .done (if reason = 6 then s.charge x else s) (Config.freeWord s.tick).toNat []

/-- The gate (R299, R303, Table 10.7). -/
def State.gate (s : State) (id : CoreId) (x index : Nat) (caller : DWord) (tag : Word) (req : List Byte) : Gate :=
  if bitsAt 0 16 (s.ccbWord x 9) ≤ index then .done s 2 []
  else
    match s.engGet id x (bitsAt 4 44 (s.ccbWord x 8) * 16 + 16 * index) 16 with
    | .wait t => .wait t
    | .fail r t => t.gateFail x r
    | .ok e =>
      let w0 := field8 e 0
      let type := bitsAt 0 8 w0
      let target := (field8 e 8).toNat
      let op := field req 0 8
      if type = 0 ∨ w0.toNat / 2 ^ 10 ≠ 0 then .done s 2 []
      else if s.ctxState x = 2 then .done s 1 []
      else
        let right (b : Nat) : Bool := bitAt (8 + b) w0
        match type with
        | 1 =>
          if !right 0 then .done s 3 []
          else (match s.ringWrite (s.serviceOf x) 2 (Config.serviceRequest caller tag req) with
            | some t => .forwarded t
            | none => .done s 4 [])
        | 2 =>
          if op = 0 ∨ 3 < op then .done s 8 []
          else if !(if op = 2 then right 0 else right 1) then .done s 3 []
          else (match s.engGet id x target 4096 with
            | .wait t => .wait t
            | .fail _ t => .done t (Config.freeWord s.tick).toNat []
            | .ok bs =>
              let r := registry bs req op
              let s1 := match r.2.2 with
                | some (o, w) => s.engStore id.die x (target + o) w
                | none => s
              .done s1 r.1 r.2.1)
        | 3 => if op ≠ 1 then .done s 8 [] else if !right 0 then .done s 3 [] else .done s 0 (s.information x)
        | _ => .done s 2 []

/-- Reply reservations held in a context's subtree (R359). -/
def State.repliesHeld (s : State) (x : Nat) : Nat :=
  ((s.acts.tab.filter fun e => (s.chain (ActorId.ofKey e.1).ctx).contains x).map fun e => e.2.mrsv).sum

/-- CAPCALL drains (R299, R359). -/
def State.drainCapcall (s : State) (id : CoreId) (e : Entry) (index a : Nat) (tag : Word) : State × Bool :=
  if !s.msgRoom id e.ctx then (s, false)
  else
    let req := (s.coreAt id).load a 64
    let caller := (s.issuerName e.who).getD 0
    let full := match s.alive e.who with
      | some x => decide (16 ≤ (s.actor x).mcount + (s.actor x).mrsv)
      | none => false
    match s.alive e.who, full with
    | some x, true => ((s.countMsg id e.ctx).kill x 8, true)
    | me, _ =>
      let quota := (s.chain e.ctx).all fun y => decide (s.repliesHeld y < bitsAt 16 10 (s.ccbWord y 12))
      let g := if quota then s.gate id e.ctx index caller tag req else .done s 9 []
      let book (t : State) (fwd : Bool) (st : Nat) (res : List Byte) : State × Bool :=
        let t1 := match me with
          | some x => t.modActor x fun r => { r with mrsv := r.mrsv + 1 }
          | none => t
        ((t1.countMsg id e.ctx).onActs fun a => { a with
          capcalls := a.capcalls ++ [⟨caller, e.ctx, index, tag, me.isSome, fwd, st, res⟩] }, true)
      match g with
      | .wait t => (t, false)
      | .forwarded t => book t true 0 []
      | .done t st res => book t false st res

/-- Can a reply go to its caller now, wherever the caller is by then (R297, R299)? -/
def State.replyReady (s : State) (c : Capcall) : Bool :=
  !c.reserved || match s.resolve c.caller with
    | .here x => s.inSlot x
    | .wait => false
    | _ => true

/-- A reply is written through the reservation it uses (R285, R299); without a signal entry it is discarded. -/
def State.replyWrite (s : State) (x : ActorId) (bs : List Byte) (sc : Scope) : State :=
  let s1 := s.modActor x fun r => { r with mrsv := r.mrsv - 1 }
  if (s.actor x).sge then s1.mailWrite x bs sc else s1

/-- CAPCALL_REPLY (R299): the oldest reply reaches its caller's mailbox through the reservation, on the device the caller is by then; what a
service core answers is its own. Its scope is DEVICE, as of all that the engine sends (DEDUCED, log entry 117). -/
def execCapcallReply (s : State) : Res :=
  match s.acts.capcalls.find? s.replyReady with
  | none => .next s
  | some c =>
    let s1 := s.onActs fun a => { a with capcalls := a.capcalls.erase c }
    let ans : Nat × List Byte := if !c.forwarded then (c.status, c.result)
      else if s.ctxState c.ctx = 2 then (1, [])
      else ((Config.serviceResult s.tick).1.toNat, (Config.serviceResult s.tick).2)
    let bs := mailBytes 0x04 0 (dw c.index) c.tag (bytesOf 8 ans.1 ++ ans.2)
    match c.reserved, s1.resolve c.caller with
    | true, .here x => .next (s1.replyWrite x bs .device)
    | true, .away d => .next (s1.enqueueReq engineFlow d c.ctx .none (.message c.caller bs .device))
    | _, _ => .next s1

/-- MESSAGE_WINDOW (R359): a message window of a cluster begins. -/
def execMessageWindow (cl : Nat) (s : State) : Res :=
  .next (s.onCtxs fun c => { c with msgs := c.msgs.filter fun e => e.1 / 4096 != cl })

end Sys2Proof.Machine
end

