-- ==== Sys2Proof/Machine/Supervise.lean ====
section
/-!
DEFINITION. Supervision, restart and jobs (R304 to R326): SUPCFG and RESTART at issue and at drain, the restart
engine's decisions and sequence, and jobs with their shadows.
-/

namespace Sys2Proof.Machine

/-- SVBASE (Table 13.2). -/
def State.ctxSvbase (s : State) (x : Nat) : Nat := bitsAt 12 36 (s.ccbWord x 7) * 4096

/-! ## Child specifications (Table 11.2) -/

/-- K. -/
def specK (b : List Byte) : Nat := field b 0x09 1
/-- START. -/
def specStart (b : List Byte) : Bool := bitAt 7 (field8 b 0x08)
/-- TX. -/
def specTx (b : List Byte) : Bool := bitAt 4 (field8 b 0x08)
/-- REL. -/
def specRel (b : List Byte) : Bool := bitAt 3 (field8 b 0x08)
/-- GROUP. -/
def specGroup (b : List Byte) : Nat := bitsAt 24 3 (field8 b 0x58)
/-- Does RMASK restart the child after a reason? -/
def specRestarts (b : List Byte) (reason : Nat) : Bool := bitAt (Nat.min reason 17) (field8 b 0x58)
/-- Does a specification have a bit where R309 allows none? -/
def specBad (b : List Byte) : Bool :=
  bitsAt 0 3 (field8 b 0x08) != 0 || bitsAt 27 37 (field8 b 0x58) != 0 || bitsAt 18 6 (field8 b 0x58) != 0
    || (b.drop 0x60).any (· != 0)

/-! ## At issue -/

/-- Which firing of its actor the running code is: the firings before it. -/
def State.firingMark (s : State) : List Byte :=
  bytesOf 8 ((s.core.actor?.map fun x => (s.actor x).firings.toNat).getD 0)

/-- SUPCFG.policy (R308). For an actor of another device's table SVBASE is that of its context here (log entry 118). -/
def execSupcfgPolicy (a b : SReg) (s : State) : Res :=
  let p := (s.rs a).toNat
  let w := (s.rs b).toNat
  let bad := p / 2 ^ 13 ≠ 0 ∨ bitsAt 3 5 (s.rs a) ≠ 0 ∨ bitAt 1 (s.rs a) ∨ w / 2 ^ 48 ≠ 0 ∨ (bitAt 2 (s.rs a) ∧ w = 0)
    ∨ s.ctxSvbase s.ctx = 0 ∨ s.core.actor?.isNone
  if bad then s.refusedR else s.actorIssue (.supcfg 0 (s.rs a) (s.rs b) s.firingMark) none 8

/-- Is a SUPCFG.policy of the running firing held in the store buffer (R309)? -/
def State.policyHeld (s : State) : Bool :=
  (s.core.openB ++ s.core.committed).any fun e => decide (e.who = s.who) && match e.kind with
    | .actor (.supcfg 0 _ _ mark) => mark == s.firingMark
    | _ => false

/-! ## Records in memory (R304) -/

/-- Where the record of an actor lies in its context. -/
def State.superAt (s : State) (x : ActorId) : Nat := s.ctxSvbase x.ctx + 0x1000 * x.idx

/-- The engine reads a record again: words that software has stored replace those the engine had not changed. A record
that cannot be read stays as the engine knows it; the error tears down a running job that the supervisor belongs to (R324),
and an uncorrectable one outside any job is charged to the context (R367). -/
def State.syncSuper (s : State) (x : ActorId) : State :=
  if s.ctxSvbase x.ctx = 0 ∨ !x.own then s
  else
    match s.engBytes (s.actor x).core.die x.ctx (s.superAt x) 4096 with
    | .ok bs => s.modSuper x fun r =>
        let ws := (List.range 512).zip (dwordsOf bs)
        ws.foldl (fun r e =>
          let m := Sparse.get 0 r.mem e.1
          if m = e.2 then r
          else
            let r1 := { r with mem := Sparse.set 0 r.mem e.1 e.2 }
            if r.word e.1 = m then r1.setWord e.1 e.2 else r1) r
    | .fail why t => t.recordError x why
    | _ => s

/-- The words the engine has changed and memory does not hold. -/
def SuperRec.changed (r : SuperRec) : List (Nat × DWord) :=
  (r.words.filter fun e => Sparse.get 0 r.mem e.1 != e.2)
    ++ (r.mem.filter fun e => Sparse.get 0 r.words e.1 == 0).map fun e => (e.1, 0)

/-- The engine writes the words it has changed. -/
def State.flushSuper (s : State) (x : ActorId) : State :=
  if s.ctxSvbase x.ctx = 0 ∨ !x.own then s
  else
    let s1 := (s.super x).changed.foldl (fun t e =>
      t.engStore (s.actor x).core.die x.ctx (s.superAt x + 8 * e.1) (bytesOf 8 e.2.toNat)) s
    s1.modSuper x fun r => { r with mem := r.words }

/-- An operation of the engine on a record: read, changed, written. -/
def State.withSuper (s : State) (x : ActorId) (f : SuperRec → SuperRec) : State :=
  let t := s.syncSuper x
  if (t.actor x).st.alive then (t.modSuper x f).flushSuper x else t

/-- Change what the engine keeps of a child entry. -/
def State.modEntry (s : State) (x : ActorId) (f : SuperRec → SuperRec) : State := (s.modSuper x f).flushSuper x

/-- Reserve the lowest free child entry of a supervisor and an index for the child (R309 steps 3 and 4): the state, the entry and the child's name, or
the reason of the failure. -/
def State.reserveChild (s : State) (me : ActorId) : Except Nat (State × Nat × DWord) :=
  match (List.range 30).find? fun e => !(s.super me).used e && !(s.super me).held.contains e with
  | none => .error 4
  | some e => match s.freeIndex me.ctx 1 with
    | none => .error 15
    | some i =>
      let t := (s.reserveIndices me.ctx i 1).modEntry me fun r =>
        let r1 := r.setUsed e true
        { r1 with held := r.held ++ [e] }
      .ok (t, e, s.nextName ⟨me.ctx, i⟩)

/-- The entry of a SUPCFG.add with what it has reserved (R309 step 5). -/
def State.addIssued (s : State) (d : SReg) (e : Nat) (name : DWord) (spec : List Byte) : Res :=
  s.withEntries [s.entry (.actor (.supcfg 1 (dw e) name spec)) none] fun u => (u.ws d name).done 8

/-- SUPCFG.add (R309). The reservations of a supervisor that is on another device than its name's are made there, where its record is, and the core
waits for the answer (log entry 118). -/
def execSupcfgAdd (d a : SReg) (s0 : State) : Res :=
  let s := match s0.core.actor? with
    | some me => s0.syncSuper me
    | none => s0
  let p := la (s.rs a)
  if s0.core.actor?.isSome ∧ (s.alive s0.who).isNone then .next s
  else if p % 128 ≠ 0 then s.badAddress (s.rs a)
  else if !s.mayReach p 128 then s.notOwned p
  else
    let spec := s.core.load p 128
    match s.core.actor? with
    | none => s.refusedR
    | some me =>
      if (!(s.super me).sup && !s.policyHeld) ∨ specBad spec then s.refusedR
      else
        s.ifRoom
          (if me.own then
            match s.reserveChild me with
            | .error r => s.killReason r 0
            | .ok (t, e, name) => t.addIssued d e name spec
          else
            let home := s.homeOf me
            if !s.peerUp home then s.killReason 10 0
            else match s.trySend s.focus.key s.ctx home s.who (.core s.focus) (.supcfg (s.nameOf me) 5 0 0 []) with
              | (t, some q) => .next (t.onCore fun c =>
                  { c with wait := some ⟨.fabric (flowKey s.focus.key home) q (.host 0) 0 0, .supcfgAdd d a⟩ })
              | (t, none) => .next t)

/-- SUPCFG.remove (R310). -/
def execSupcfgRemove (a : SReg) (s : State) : Res :=
  if 29 < (s.rs a).toNat ∨ s.core.actor?.isNone then s.refusedR else s.actorIssue (.supcfg 2 (s.rs a) 0 []) none 8
/-- SUPCFG.launch (R312). -/
def execSupcfgLaunch (a : SReg) (s : State) : Res :=
  if (s.rs a).toNat % 64 ≠ 0 ∨ (s.rs a).toNat / 2 ^ 48 ≠ 0 then s.badAddress (s.rs a)
  else s.actorIssue (.supcfg 3 (s.rs a) 0 []) none 8
/-- RESTART.child (R311). -/
def execRestartChild (a : SReg) (s : State) : Res :=
  if 29 < (s.rs a).toNat ∨ s.core.actor?.isNone then s.refusedR else s.actorIssue (.restart false (s.rs a)) none 8
/-- RESTART.job (R312): the block's device physical address names the job. -/
def execRestartJob (a : SReg) (s : State) : Res :=
  if (s.rs a).toNat % 64 ≠ 0 ∨ (s.rs a).toNat / 2 ^ 48 ≠ 0 then s.badAddress (s.rs a)
  else s.translating (s.rs a) .read false fun t =>
    s.actorIssue (.restart true (match t.place with
      | .dev pa => dw pa
      | _ => BitVec.allOnes 64)) none 8

/-! ## Building a child (R317 steps 3 to 6) -/

/-- The record of a child from its template, its specification and its supervisor's name (R317 step 4). -/
def childRec (r : ActorRec) (spec : List Byte) (super : DWord) : ActorRec :=
  { r with
    param := r.param + field8 spec 0x18
    stinit := field spec 0x20 8
    tx := specTx spec
    super := super
    outs := Vector.ofFn fun i : Fin 4 =>
      let name := field8 spec (0x30 + 8 * i.val)
      let b := dw (field spec (0x50 + i.val) 1)
      if name = 0 then { r.outs[i] with en := false, name := 0 }
      else { r.outs[i] with en := true, name := name, dport := b.extractLsb' 0 2, dsize := b.extractLsb' 2 2 } }

/-- The record of a child of an actor, which is a member of the same job (R322). -/
def State.childOf (s : State) (x : ActorId) (spec : List Byte) (r : ActorRec) : ActorRec :=
  { childRec r spec (s.nameOf x) with job := (s.actor x).job }

/-- Publish one zero-filled slot in input port 0, its tags full (R306, R317 step 5, R365). -/
def State.publishStart (s : State) (x : ActorId) : State :=
  let r := s.actor x
  let p := r.inPort 0
  if p.en then
    (s.modCore r.core fun c => c.setTags (p.slotAddr 0) true (p.slotBytes / 8)).modActor x fun r =>
      r.setIn 0 { r.inPort 0 with filled := 1 }
  else s

/-- What building and placing an actor gives. -/
inductive Built where
  | ok (s : State)
  /-- no core, or an unusable template -/
  | full
  | quota
  /-- a bad image header (R303), or a read that failed -/
  | fail (reason : Nat) (s : State)
  | wait (s : State)

/-- Does a request that waits at a port of an actor name it with generation 0 (R156)? -/
def State.anyGen (s : State) (x : ActorId) (p : Nat) (a : PortAsk) : Bool :=
  match a with
  | .core c => ((s.coreAt c).tileQ.find? fun t => t.phase == .waiting x p).any fun t => match t.kind with
      | .send _ _ _ _ name _ => nameGen name == 0
      | _ => false
  | .fabric _ _ _ gen _ => gen == 0

/-- The requests that waited at the ports of the last incarnation (R156, R317 step 6): those with generation 0 are granted in the
new rings; the others go back, and find their name gone or their port not configured. -/
def State.regrant (s : State) (x : ActorId) (asks : List (Nat × PortAsk)) : State :=
  let keep (a : Nat × PortAsk) : Bool := ((s.actor x).inPort a.1).en && s.anyGen x a.1 a.2
  let s1 := s.modActor x fun r => { r with
    ins := Vector.ofFn fun i : Fin 4 => { r.ins[i] with asks := (asks.filter fun a => a.1 == i.val && keep a).map (·.2) } }
  let s2 := (asks.filter fun a => !keep a).foldl (fun t a =>
    t.askAgain x a.1 a.2 (if s.anyGen x a.1 a.2 then .refused else .gone)) s1
  s2.grantAll x

/-- Build an actor from template k of an image and place it at an index with a generation (R317 steps 3 to 6): the quota and the room on a core are
looked at before the text and state are read. What any agent of the device has stored is performed for the new incarnation before its first firing
(R319). -/
def State.build (s : State) (id : CoreId) (x : ActorId) (gen h k : Nat) (f : ActorRec → ActorRec) (start : Bool)
    (ids : List CoreId) : Built :=
  let asks := (s.actor x).asks
  if !s.slotQuota x.ctx 1 then .quota
  else match s.engImage id x.ctx h with
  | .fail e t => .fail e t
  | .wait t => .wait t
  | .ok img => match s.engTemplate id x.ctx img k with
    | .fail e t => if e = 4 then .full else .fail e t
    | .wait t => .wait t
    | .ok r0 =>
      let r1 := { f r0 with gen := gen }
      if (ids.findSome? fun id => s.fitOn x img [] r1 id).isNone then .full
      else match s.engParts id x.ctx img r1 with
      | .fail e t => .fail e t
      | .wait t => .wait t
      | .ok (text, st) => match s.placeOn x img text st r1 ids with
        | .quota => .quota
        | .full => .full
        | .ok t =>
          let t1 := t.podAcquire (t.actor x).core .device
          .ok ((if start then t1.publishStart x else t1).regrant x asks)

/-! ## At drain -/

/-- SUPCFG.policy drains (R308). JOB is kept while the index is a running job's root (R305). -/
def State.drainPolicy (s : State) (x : ActorId) (p w : DWord) : State :=
  s.withSuper x fun r =>
    let r1 : SuperRec := if r.sup then r else { r with words := r.words.filter fun e => e.1 == 2 && (s.jobOfRoot x).isSome }
    let r2 := { r1 with sup := true }
    (r2.setWord 0 p).setWord 1 w

/-- A child entry as SUPCFG.add writes it (R306, R309): the specification with the engine's fields. -/
def SuperRec.writeSpec (r : SuperRec) (e : Nat) (spec : List Byte) (name : DWord) : SuperRec :=
  let r1 := (List.range 16).foldl (fun r i => r.setWord (childWord e i) (field8 spec (8 * i))) r
  let r2 := r1.setWord (childWord e 0) name
  let w1 := (setBits 32 32 0 (setBits 16 8 0 (setBits 6 1 0 (r2.word (childWord e 1)))))
  (r2.setWord (childWord e 1) w1).setUsed e true

/-- The child of a SUPCFG.add is placed, or its reservations are released and the issuer has an exit signal (R309): `false` while the engine, at a
core's port, waits for a page. -/
def State.addChild (s : State) (me : ActorId) (id : CoreId) (e : Nat) (name : DWord) (spec : List Byte) : State × Bool :=
  let y := s.idOf name
  let failed (t : State) (reason : Nat) : State × Bool :=
    (((t.releaseIndices y.ctx y.idx 1).modEntry me fun r => r.release e).postExit (t.nameOf me) name reason, true)
  let core := field spec 0x28 2
  let ids := if core / 2 ^ 15 % 2 = 1 then
      (match s.coreOfLci (core % 2 ^ 14) with
      | some t => if s.belongs y.ctx t then [t] else []
      | none => [])
    else s.candidates y.ctx
  match s.build id y (nameGen name) (field spec 0x10 8) (specK spec) (s.childOf me spec) (specStart spec) ids with
  | .ok t =>
    if (t.actor y).tx && !(t.actor y).sge then failed s 4
    else (t.withSuper me fun r => { r.writeSpec e spec name with held := r.held.filter (· != e) }, true)
  | .full => failed s 4
  | .quota => failed s 15
  | .fail r t => failed t r
  | .wait t => (t, false)

/-- An operation on a supervisor's record at drain: here, or where the record is (R304, log entry 118); it is awaited there. -/
def State.onRecord (s : State) (e : Entry) (me : ActorId) (f : Nat) (x y : DWord) (bytes : List Byte) (here : State × Bool) : State × Bool :=
  if me.own then here
  else if !s.peerUp (s.homeOf me) then (s, true)
  else s.sendHead e (s.homeOf me) (.supcfg (s.nameOf me) f x y bytes)

/-- SUPCFG.add drains (R307, R309). -/
def State.drainAdd (s : State) (en : Entry) (e : Nat) (name : DWord) (spec : List Byte) : State × Bool :=
  match s.alive en.who with
  | none => (s.releaseReserved en.who en.kind, true)
  | some me => s.onRecord en me 1 (dw e) name spec (s.addChild me en.who.core e name spec)

/-- SUPCFG.remove drains (R310). -/
def State.drainRemove (s0 : State) (x : ActorId) (e : Nat) : State :=
  let s := s0.syncSuper x
  let c := (s.super x).child e
  if (s.super x).sup && c.used then
    let s1 := s.modEntry x fun r => r.setUsed e false
    let y := s.idOf c.name
    if (s1.actor y).gen = nameGen c.name then State.killN (s1.acts.supers.length + 1) s1 y 1 true else s1
  else s

/-- RESTART.child drains (R311). -/
def State.drainRestartChild (s0 : State) (x : ActorId) (e : Nat) : State :=
  let s := s0.syncSuper x
  let c := (s.super x).child e
  if (s.super x).sup && c.used && !c.dead && decide ((s.actor (s.idOf c.name)).gen = nameGen c.name) then
    s.kill (s.idOf c.name) 1
  else s

/-! ## Jobs (R320 to R326) -/

/-- Every entry of a context's translations leaves, and no walk under way fills (R340). -/
def State.invalidateCtx (s : State) (x : Nat) : State :=
  let v : Inval := ⟨.root, x, none, []⟩
  (s.dropCovered v).onCtxs fun c => { c with epoch := c.epoch + 1, invLog := c.invLog ++ [((c.epoch + 1).toNat, v)] }

/-- A job notice (Table 11.6). -/
def State.jobNotice (s : State) (dst : DWord) (code : Nat) (subject : DWord) (w32 : Nat) (va relaunches : Nat) : State :=
  if dst = 0 then s
  else s.postNotice dst subject code (bytesOf 8 w32 ++ bytesOf 8 va ++ bytesOf 8 relaunches)

/-- Does a block break a check of R321 that its bytes alone decide? -/
def blockBad (b : List Byte) : Bool :=
  field b 0 4 != 1 || (field b 0x40 1 == 1 || field b 0x40 1 == 2 || decide (4 < field b 0x40 1)) || decide (256 < field b 4 2)
    || decide (3 < field b 7 1) || field b 0x11 7 != 0 || field b 0x42 6 != 0
    || bitsAt 12 52 (field8 b 0x58) != 0 || (((b.drop 0x38).take 8).any (· != 0)) || ((b.drop 0x60).any (· != 0))

/-- The granules of a shadow list (R321): aligned, distinct, in local pages of the context, or the reason of the failure; the engine waits for a page
that is not resident. -/
def State.granulesOf (s : State) (id : CoreId) (x : Nat) : List DWord → List (Nat × Nat) → Eng (List (Nat × Nat))
  | [], acc => .ok acc.reverse
  | g :: rest, acc =>
    if g.toNat % 4096 ≠ 0 ∨ g.toNat / 2 ^ 48 ≠ 0 ∨ acc.any (·.1 == g.toNat) then .fail 4 s
    else match s.walk id.die x g.toNat .read with
    | .ok c => if c.host ∨ c.mode ≠ 0 then .fail 4 s else s.granulesOf id x rest ((g.toNat, c.a) :: acc)
    | .wait => .wait s
    | .notResident h a w => if s.ctxs.engDenied.contains (h, a / 4096 * 4096) then .fail 4 s else .wait (s.engWant id x h a w)
    | _ => .fail 4 s

/-- The frames of a shadow pool: one that the engine cannot reach as a local page it may write is none of the pool (DESIGN CHOICE, log entry 140). -/
def State.framesOf (s : State) (die x base n : Nat) : List Nat :=
  (List.range n).filterMap fun i => match s.walk die x (base + 4096 * i) .write with
    | .ok c => if c.host ∨ c.mode ≠ 0 then none else some c.a
    | _ => none

/-- The record of a job's root from its template: the template's parameter plus the block's, TX of the flags, no
supervisor, no port bound (R321). -/
def rootRec (b : List Byte) (r : ActorRec) : ActorRec :=
  { r with
    param := r.param + field8 b 0x18
    tx := bitAt 1 (dw (field b 7 1))
    super := 0
    outs := r.outs.map fun p => { p with en := false, name := 0 } }

/-- Place the root of a job at a free index (R321 step 2): the state and the root, or the reason of the failure. -/
def State.placeRoot (s : State) (id : CoreId) (x pa : Nat) (b : List Byte) : Eng (State × ActorId) :=
  match s.freeIndex x 1 with
  | none => .fail 15 s
  | some i =>
    match s.build id ⟨x, i⟩ (nextGen (s.actor ⟨x, i⟩).gen) (field b 8 8) (field b 0x10 1)
        (fun r => { rootRec b r with job := some pa }) (bitAt 0 (dw (field b 7 1))) (s.candidates x) with
    | .ok t => .ok (t, ⟨x, i⟩)
    | .full => .fail 4 s
    | .quota => .fail 15 s
    | .fail r t => .fail r t
    | .wait t => .wait t

/-- A job's root index is one no more: its record's JOB returns to 0, whoever has the index by now (Table 11.1). -/
def State.clearJobWord (s : State) (j : Job) : State :=
  if (s.super j.root).word 2 = dw j.va then s.modEntry j.root fun r => r.setWord 2 0 else s

/-- A launched or relaunched root: the block is written, the root's record holds the job, the shadows are armed (R321
step 3, R323). -/
def State.launched (s : State) (die : Nat) (j : Job) (x : ActorId) (code w32 : Nat) : State :=
  let j1 := { j with root := x, rootName := s.nameOf x, jstate := 1, normalEnd := false, written := []
                     armed := !j.granules.isEmpty }
  let s1 := s.onActs fun a => { a with jobs := (a.jobs.filter fun k => k.pa != j.pa) ++ [j1] }
  let s2 := (s1.jobWrite die j1).modEntry x fun r => r.setWord 2 (dw j1.va)
  let s3 := if j1.armed then s2.invalidateCtx j.ctx else s2
  s3.jobNotice j.launcher code (s.nameOf x) w32 j.va j.relaunches

/-- What a block says of its shadows: the granules and the frames, or the reason of the failure (R321). -/
def State.shadowsOf (s : State) (id : CoreId) (x : Nat) (b : List Byte) : Eng (List (Nat × Nat) × List Nat) :=
  (s.engGet id x (field b 0x20 8) (8 * field b 4 2)).andThen fun l =>
    (s.granulesOf id x ((List.range (field b 4 2)).map fun i => field8 l (8 * i)) []).andThen fun gs =>
      .ok (gs, s.framesOf id.die x (field b 0x28 8) (field b 0x30 8))

/-- SUPCFG.launch drains (R321): `false` while the engine waits for a page. The checks that the block's own bytes and the
context decide come before the shadow list is read (DEDUCED, log entry 78). A read of the root's image or state that fails tears
the new job down (R324). -/
def State.drainLaunch (s : State) (en : Entry) (va : Nat) : State × Bool :=
  let x := en.ctx
  let id := en.who.core
  let me := (s.issuerName en.who).getD 0
  let refused (t : State) (reason : Nat) : State × Bool := (t.jobNotice me 21 0 reason va 0, true)
  match s.engWalk id.die x va .read, s.engGet id x va 128 with
  | .wait, _ => (s, false)
  | _, .fail r t => refused t r
  | _, .wait t => (t, false)
  | .ok c, .ok b =>
    if blockBad b ∨ s.ctxSvbase x = 0 then refused s 4 else
    (match s.shadowsOf id x b with
    | .fail r t => refused t r
    | .wait t => (t, false)
    | .ok (gs, fs) =>
      let other := s.acts.jobs.any fun j => j.ctx == x && j.pa != c.a && !j.granules.isEmpty && j.jstate == 1
      if other then refused s 4
      else
        let j : Job := ⟨c.a, va, x, me, en.who.actor.getD ⟨x, 0⟩, 0, 0, 1, 0, false, gs, fs, [], false⟩
        let entered (t : State) (k : Job) : State := t.onActs fun a => { a with jobs := (a.jobs.filter fun q => q.pa != j.pa) ++ [k] }
        (match s.placeRoot id x c.a b with
        | .wait t => (t, false)
        | .fail r t =>
          if r = 6 ∨ r = 14 then ((entered t j).tearDown j r, true)
          else refused ((entered t { j with jstate := 4 }).jobWrite id.die { j with jstate := 4 }) r
        | .ok (t, r) => (t.launched id.die j r 18 0, true)))
  | _, .ok _ => refused s 14

/-- RESTART.job drains (R312, R324). -/
def State.drainRestartJob (s : State) (en : Entry) (pa : Nat) : State :=
  match s.acts.jobs.find? fun j => j.pa == pa with
  | none => s
  | some j =>
    if !(j.ctx == en.ctx || s.inSubtree en.ctx j.ctx) then s.killIssuer en.who 4
    else if j.jstate = 1 then s.tearDown j 1
    else s

/-- SUPCFG and RESTART drain (R307). -/
def State.drainSup (s : State) (en : Entry) (f : Nat) (x y : DWord) (bytes : List Byte) : State × Bool :=
  match f with
  | 1 => s.drainAdd en x.toNat y bytes
  | 3 => s.drainLaunch en x.toNat
  | _ => match s.alive en.who with
    | none => (s, true)
    | some me => s.onRecord en me f x y bytes (if f = 0 then s.drainPolicy me x y else s.drainRemove me x.toNat, true)

/-- RESTART.child drains (R307, R311). -/
def State.drainChild (s : State) (en : Entry) (x : DWord) : State × Bool :=
  match s.alive en.who with
  | none => (s, true)
  | some me => s.onRecord en me 4 x 0 [] (s.drainRestartChild me x.toNat, true)

/-! ## The restart engine (R313 to R319) -/

/-- The NH most recent timestamps of a record that lie within its window (Table 11.1, R315). -/
def SuperRec.recent (r : SuperRec) (now : DWord) : Nat :=
  let nh := Nat.min (bitsAt 4 5 (r.word 3)) 16
  let head := bitsAt 0 4 (r.word 3)
  ((List.range nh).filter fun j =>
    decide ((now - r.word (16 + (head + 31 - j) % 16)).toNat < bitsAt 0 48 (r.word 1))).length

/-- Record a timestamp (R315). -/
def SuperRec.stamp (r : SuperRec) (now : DWord) : SuperRec :=
  let head := bitsAt 0 4 (r.word 3)
  (r.setWord (16 + head) now).setWord 3
    (dw (2 ^ 4 * Nat.min (Nat.min (bitsAt 4 5 (r.word 3)) 16 + 1) 16 + (head + 1) % 16))

/-- Advance a core's CYC to the present (R19). -/
def State.readCyc (s : State) (id : CoreId) : State :=
  s.modCore id fun c => { c with cyc := c.cyc + 1 + Config.freeWord s.tick % 65536 }

/-- The rate check (R315): the state with a timestamp recorded, or `none` when the intensity is exceeded. CYC of a core of another device is a free
value (log entry 118). -/
def State.rateCheck (s : State) (x : ActorId) : Option State :=
  let a := s.actor x
  let s1 := if a.dev = 0 then s.readCyc a.core else s
  let now := if a.dev = 0 then (s1.coreAt a.core).cyc else Config.freeWord s.tick
  let r := s1.super x
  if bitAt 2 (r.word 0) && decide (bitsAt 8 5 (r.word 0) + 1 ≤ r.recent now) then none
  else some (s1.modEntry x fun r => r.stamp now)

/-- Notice 17 to a supervisor (Table 11.6). -/
def State.endedNotice (s : State) (x : ActorId) (dead : DWord) (e reason : Nat) : State :=
  s.postNotice (s.nameOf x) dead 17 (bytesOf 8 (e + 2 ^ 8 * reason))

/-- A child ends without a restart (Table 11.4). -/
def State.endChild (s : State) (x : ActorId) (e : Nat) (reason : Nat) : State :=
  let c := (s.super x).child e
  let y := s.idOf c.name
  let s1 := s.modEntry x fun r =>
    if specRel c.spec then r.setUsed e false
    else (r.setField (childWord e 1) 16 8 reason).setField (childWord e 1) 6 1 1
  (if s.nameOf y = c.name ∧ (s.actor y).st ≠ .free then s1.freeIndexOf y else s1).endedNotice x c.name e reason

/-- An index waits for its restart: its state is restarting once the death's signals have gone (R290 step 6), and the death is no event. -/
def State.awaitRestart (s : State) (x : ActorId) : State :=
  s.modActor x fun r => { r with quiet := true, st := if r.death = some .signals ∨ r.dev ≠ 0 then r.st else .restarting }

/-- The restart of a group under all-for-one (R314): the other resident members die, absorbed, and once every death is complete each entry that
is not DEAD is restarted or ends in its turn. -/
def State.restartGroup (s : State) (x : ActorId) (dead : DWord) (reason : Nat) (group : List Nat) : State :=
  let s1 := group.foldl (fun t e =>
    let c := (t.super x).child e
    let y := s.idOf c.name
    if c.name = dead ∨ c.dead ∨ (t.actor y).gen ≠ nameGen c.name then t
    else State.killN (t.acts.supers.length + 1) t y 1 true) s
  let live := group.filter fun e => !((s.super x).child e).dead
  let ends (e : Nat) : Bool := ((s.super x).child e).name != dead && !specRestarts ((s.super x).child e).spec 1
  let names := group.map fun e => ((s.super x).child e).name
  let s2 := s1.onActs fun a => { a with deaths := a.deaths.filter fun d => !(decide (d.super = x) && names.contains d.dead) }
  let waitFor := live.map fun e => s.idOf ((s.super x).child e).name
  let s3 := live.foldl (fun t e => t.awaitRestart (t.idOf ((s.super x).child e).name)) s2
  s3.onActs fun a => { a with restarts := a.restarts ++ live.map fun e =>
    let c := (s.super x).child e
    ⟨x, e, if c.name = dead then reason else 1, c.name, true, ends e, waitFor⟩ }

/-- The running job of a supervisor whose record cannot be read, with the reason of the teardown and the memory
afterwards (R324). -/
def State.lostRecord (s : State) (x : ActorId) : Option (Job × Nat × State) :=
  if s.ctxSvbase x.ctx = 0 then none
  else
    match s.engBytes (s.actor x).core.die x.ctx (s.superAt x) 4096 with
    | .fail r t => ((s.jobOf x).filter fun j => j.jstate == 1).map fun j => (j, r, t)
    | _ => none

/-- RESTART_EVENT (R313 to R316, R324): the restart engine takes the oldest death handed to supervisor x, one at a time. -/
def execRestartEvent (x : ActorId) (s : State) : Res :=
  match (if s.acts.restarts.any fun q => decide (q.super = x) then none
      else s.acts.deaths.find? fun d => decide (d.super = x)) with
  | none => .next s
  | some d =>
    let y := s.idOf d.dead
    match s.lostRecord x with
    | some (j, reason, t) =>
      .next (((t.onActs fun a => { a with deaths := a.deaths.erase d }).freeIndexOf y).tearDown j reason)
    | none =>
    let s1 := (s.onActs fun a => { a with deaths := a.deaths.erase d }).syncSuper x
    let r := s1.super x
    let up := (s.actor x).st == .resident || (s.actor x).st == .migrating
    match r.children.find? fun c => c.2.name == d.dead with
    | none => .next (s1.freeIndexOf y)
    | some (e, c) =>
      if !up ∨ !r.sup then .next (s1.freeIndexOf y)
      else
        let s2 := s1.modEntry x fun r => r.setField (childWord e 1) 16 8 d.reason
        if ((s.jobOf x).map (·.jstate)) = some 2 then .next (s2.freeIndexOf y)
        else if !specRestarts c.spec d.reason then .next (s2.endChild x e d.reason)
        else
          match s2.rateCheck x with
          | none => .next ((s2.freeIndexOf y).kill x 16)
          | some s3 =>
            if bitsAt 0 2 (r.word 0) = 1 then
              let group := (r.children.filter fun k => specGroup k.2.spec == specGroup c.spec).map (·.1)
              .next (s3.restartGroup x d.dead d.reason group)
            else
              .next ((s3.awaitRestart y).onActs fun a =>
                { a with restarts := a.restarts ++ [⟨x, e, d.reason, d.dead, false, false, [y]⟩] })

/-- The restart of an entry that may run now (R314, R317 step 1): every death it waits for has completed, and no earlier
restart of its supervisor is left. -/
def State.restartReady (s : State) (x : ActorId) (e : Nat) : Option Restart :=
  match s.acts.restarts.find? fun r => decide (r.super = x) with
  | some r => if r.entry = e && r.waitFor.all fun y => (s.actor y).death.isNone && (s.actor y).dev == 0 then some r else none
  | none => none

/-- RESTART_SEQUENCE (R277, R317, R318, R324). -/
def execRestartSequence (x : ActorId) (e : Nat) (s : State) : Res :=
  match s.restartReady x e with
  | none => .next s
  | some q =>
    let y := s.idOf q.dead
    match s.lostRecord x with
    | some (j, reason, t) =>
      .next (((t.onActs fun a => { a with restarts := a.restarts.erase q }).freeIndexOf y).tearDown j reason)
    | none =>
    let s1 := (s.onActs fun a => { a with restarts := a.restarts.erase q }).syncSuper x
    let c := (s1.super x).child e
    let old := s.actor y
    let name := s.nextName y
    let ids := (if s.belongs y.ctx old.core then [old.core] else []) ++ s.candidates y.ctx
    let named (t : State) : State := (t.modEntry x fun r =>
      (r.setWord (childWord e 0) name).setField (childWord e 1) 32 32 (sat32 (c.restarts + 1))).modActor y fun r =>
        { r with gen := nameGen name }
    let dead (t : State) : State :=
      ((named t).modEntry x fun r => r.setField (childWord e 1) 6 1 1).freeIndexOf y
    if !c.used ∨ old.st ≠ .restarting ∨ s.nameOf y ≠ q.dead then .next (if old.st = .restarting then s1.freeIndexOf y else s1)
    else if q.ends then .next (s1.endChild x e 1)
    else
      match s1.build (s.actor x).core y (nameGen name) (field c.spec 0x10 8) (specK c.spec) (s.childOf x c.spec)
          (specStart c.spec) ids with
      | .wait t => .next (t.onActs fun a => { a with restarts := q :: a.restarts })
      | .full => .next ((dead s1).kill x 15)
      | .quota => .next ((dead s1).kill x 15)
      | .fail 4 t => .next ((dead t).kill x 4)
      | .fail r t =>
        (match s.jobOf x with
        | some j => .next (((named t).freeIndexOf y).tearDown j r)
        | none => .next ((dead t).kill x r))
      | .ok t =>
        let t1 := named t
        let now := (t1.coreAt (t1.actor x).core).cyc
        let body := bytesOf 8 (e + 2 ^ 8 * q.reason + 2 ^ 16 * q.group.toNat) ++ bytesOf 8 q.dead.toNat
          ++ bytesOf 8 ((t1.super x).recent now) ++ bytesOf 8 (t1.lciOf (t1.actor y).core)
        .next (t1.postNotice (t1.nameOf x) name 16 body)

/-- Has every member of a job completed its death? -/
def State.jobDone (s : State) (j : Job) : Bool := (s.members j).isEmpty

/-- A job's shadows are disarmed (R325, R326). -/
def State.disarm (s : State) (j : Job) : State :=
  let s1 := if j.armed then s.invalidateCtx j.ctx else s
  s1.modJob j.pa fun k => { k with armed := false, written := [] }

/-- A job ends, or fails: its block and its launcher are told. -/
def State.jobEnd (s : State) (j : Job) (jstate code w32 : Nat) : State :=
  let s1 := s.modJob j.pa fun k => { k with jstate := jstate }
  (s1.jobWrite (s.actor j.root).core.die { j with jstate := jstate }).jobNotice j.launcher code j.rootName w32 j.va j.relaunches

/-- The core whose port the engine's reads for a job go through. -/
def State.jobCore (s : State) (j : Job) : CoreId := (s.candidates j.ctx).headD (s.actor j.root).core

/-- JOB_TEARDOWN (R325): every member of job j has died: the shadows are discarded, the block is read again, and the root is
relaunched or the job has failed. A relaunch that meets an error in its shadow list or in the root's image or state is torn down in its turn (R324);
with the block itself unreadable the allowed relaunches are unknown and the job has failed. A job of a revoked context ends
without a notice, and so does one of a context in reset, whose actors are treated alike (R382, log entry 119). -/
def execJobTeardown (i : Nat) (s : State) : Res :=
  match s.acts.jobs[i]? with
  | none => .next s
  | some j =>
    if j.jstate ≠ 2 ∨ !s.jobDone j then .next s
    else
      let s1 := (s.clearJobWord j).disarm j
      let id := s.jobCore j
      let held (t : State) : Res := .next { t with acts := s.acts }
      if s.ctxState j.ctx ≠ 1 ∧ s.ctxState j.ctx ≠ 3 then .next (s1.modJob j.pa fun k => { k with jstate := 4 })
      else
        match s1.engGet id j.ctx j.va 128 with
        | .wait t => held t
        | .fail r t => .next (t.jobEnd j 4 21 r)
        | .ok b =>
          if j.relaunches < field b 6 1 then
            (match s1.shadowsOf id j.ctx b with
            | .wait t => held t
            | .fail r t =>
              let j1 := { j with relaunches := j.relaunches + 1, armed := false, written := [], granules := [], frames := [] }
              if r = 6 ∨ r = 14 then .next ((t.modJob j.pa fun _ => { j1 with jstate := 1 }).tearDown { j1 with jstate := 1 } r)
              else .next (t.jobEnd j1 4 21 r)
            | .ok (gs, fs) =>
              let j1 := { j with relaunches := j.relaunches + 1, armed := false, written := [], granules := gs, frames := fs }
              (match s1.placeRoot id j.ctx j.pa b with
              | .wait t => held t
              | .fail r t =>
                if r = 6 ∨ r = 14 then .next ((t.modJob j.pa fun _ => { j1 with jstate := 1 }).tearDown { j1 with jstate := 1 } r)
                else .next (t.jobEnd j1 4 21 r)
              | .ok (t, x) => .next (t.launched id.die j1 x 20 j.reason)))
          else .next (s1.jobEnd j 4 21 j.reason)

/-- May the shadows of a job be committed: its root ended normally, its members' deaths are complete, and nothing is on
its way to its granules (R326)? -/
def State.commitReady (s : State) (j : Job) : Bool :=
  j.jstate == 1 && j.normalEnd && s.jobDone j && !(j.granules.any fun g => s.granuleBusy g.2)
    && !(j.written.any fun w => s.granuleBusy w.2)

/-- Copy the frames of a job over its granules in the order of its list (R326): whether one stayed uncopied. -/
def State.commitShadows (s : State) (j : Job) : State × Bool :=
  j.granules.foldl (fun r g => match j.written.find? fun w => w.1 == g.1 with
    | none => r
    | some (_, f) =>
      if r.1.ram.poisoned f then (r.1, true)
      else ((r.1.onRam fun m => m.copyGranule f g.2).mapCores fun _ c => c.dropTlb fun e => e.mapsGranule s.thisDev g.2, r.2))
    (s, false)

/-- JOB_SHADOW_COMMIT (R326). -/
def execJobShadowCommit (i : Nat) (s : State) : Res :=
  match s.acts.jobs[i]? with
  | none => .next s
  | some j =>
    if !s.commitReady j then .next s
    else
      let r := s.commitShadows j
      .next (((r.1.clearJobWord j).disarm j).jobEnd j 3 19 (if r.2 then 6 else 0))

end Sys2Proof.Machine
end

