-- ==== Sys2Proof/Machine/Slice.lean ====
section
/-!
DEFINITION. The firing unit (R88 to R92, R167), the scrub of a core (R369, R370), and slices (R371 to R379): the save
point, the pre-emption handler, the save area and its restore, debt and the watchdog.
-/

namespace Sys2Proof.Machine

/-! ## The firing unit -/

/-- The effective priority of a context (R357, R359). -/
def State.ctxPri (s : State) (x : Nat) : Nat := s.effective x 16 8 2
/-- Does a context hold the slice of a core (R88, R371)? -/
def State.holdsSlice (s : State) (id : CoreId) (x : Nat) : Bool :=
  let c := s.coreAt id
  c.phase == .running && (c.rotation == [] || decide (c.ctx = x))

/-- The rank of R89 at which a slot is ready and eligible; `none` where it is not. A slot whose migration waits to move
starts no firing (R296). -/
def State.slotRank (s : State) (id : CoreId) (n : Nat) : Option Nat :=
  let sl := (s.coreAt id).slotAt n
  match sl.actor with
  | none => none
  | some x =>
    let r := s.actor x
    let moving := (r.mig.map (·.started)) == some true
    if sl.st != .waiting || !s.holdsSlice id x.ctx || moving then none
    else if sl.resume.isSome then some 3
    else if 0 < r.mcount then some 2
    else if r.ins.all fun p => !p.en || decide (p.rate ≤ p.filled) then some 1
    else none

/-- Priority and rank of a ready slot as one number. -/
def State.slotKey (s : State) (id : CoreId) (n : Nat) : Option Nat :=
  (s.slotRank id n).map fun k => 4 * ((((s.coreAt id).slotAt n).actor.map fun x => s.ctxPri x.ctx).getD 0) + k

/-- The slot the firing unit chooses (R90): the greatest key, the first met above the pointer. -/
def State.chosenSlot (s : State) (id : CoreId) : Option Nat :=
  let order := (List.range 64).map fun i => ((s.coreAt id).pointer + 1 + i) % 64
  (order.foldl (fun (best : Option (Nat × Nat)) n => match s.slotKey id n, best with
    | some k, some (b, m) => if b < k then some (k, n) else some (b, m)
    | some k, none => some (k, n)
    | none, b => b) none).map (·.2)

/-- The entry registers of a firing (Table 03.7). -/
def entryRegs (r : ActorRec) (g : Regs) (signal : Bool) : Regs :=
  let port (i : Nat) : DWord := let p := r.inPort i; if p.en then dw (p.slotAddr p.head) else 0
  let head : List DWord := if signal then [0, dw (r.mailAddr r.mhead), 0, 0, 0] else [0, port 0, port 1, port 2, port 3]
  let all := head ++ [if r.nstate = 0 then 0 else dw (512 * r.stbase), r.firings, r.param]
  { g with
    s := Vector.ofFn fun i : Fin 32 => all.getD i.val 0
    rm := .rne
    flags := 0
    q4 := if r.q4d then r.q4 else g.q4 }

/-- Start a firing that is not resumed (R91, R364): SENT returns to 0 (R163); a signal firing acquires at the scope of its
message (R298), a data firing at the widest scope of the tiles that made it ready (R167). -/
def State.startFiring (s : State) (id : CoreId) (n : Nat) (x : ActorId) (signal : Bool) : State :=
  let r := s.actor x
  let s0 := s.modActor x fun r => { r with outs := r.outs.map fun p => { p with sent := 0 } }
  let sc := if signal then r.mscopes.headD .core else scopeOf ((r.ins.toList.map IPort.acquires).foldl Nat.max 0)
  (s0.podAcquire id sc).modCore id fun c =>
    let msg := c.load (r.mailAddr r.mhead) 16
    let w0 := dwOf (msg.take 8)
    let trapMsg := signal && bitsAt 0 8 w0 == 6
    let entry := if signal then r.entryS else r.entryD
    ({ c.setSlot n ⟨.running, some x, none⟩ with
      run := .firing n
      pointer := n
      pc := entry
      regs := entryRegs r c.regs signal
      tsw := { Tsw.reset with
        sf := signal
        priv := if trapMsg then 1 else 0
        cpri := BitVec.ofNat 2 (s.ctxPri x.ctx) }
      traps := { c.traps with
        thnd := if r.tre then r.entryT else 0
        tcause := if trapMsg then mkCause (bitsAt 32 32 w0) 0 (bitsAt 8 8 w0) else c.traps.tcause
        taddr := if trapMsg then dwOf (msg.drop 8) else c.traps.taddr }
      selfn := s.nameOf x
      slotReg := BitVec.ofNat 6 n
      wait := none
      taken := 0 }).unhold.openRegion entry 0xFFFFFFFE 0

/-- Resume a firing (R92, R94, R101). -/
def State.resumeFiring (s : State) (id : CoreId) (n : Nat) (x : ActorId) (r : Resume) : State :=
  s.modCore id fun c =>
    let c1 := (c.setSlot n ⟨.running, some x, none⟩).restore r.rcd r.apb
    { c1.unhold with
      run := .firing n
      pointer := n
      tsw := { c1.tsw with cpri := BitVec.ofNat 2 (s.ctxPri x.ctx) }
      selfn := s.nameOf x
      slotReg := BitVec.ofNat 6 n
      wait := none
      taken := 0 }

/-- The record a slot resumes from, with the vector live-ins and predicates that the actor's save area holds (R101). -/
def State.resumeVectors (s : State) (id : CoreId) (x : ActorId) (r : Resume) : Eng Resume :=
  if s.ctxAtlen x.ctx ≤ x.idx then .ok r
  else
    (s.engGet id x.ctx (s.ctxAtbase x.ctx + 0x2000 * x.idx + 0x200) 4992).andThen fun vec =>
      let g := r.rcd.regs
      .ok { r with rcd := { r.rcd with regs := { g with
        v := Vector.ofFn fun i : Fin 32 =>
          if r.rcd.vmask.getLsbD i.val then BitVec.ofNat 1024 (field vec (128 * i.val) 128) else g.v[i]
        p := Vector.ofFn fun i : Fin 8 =>
          if i.val = 0 then g.p[i] else BitVec.ofNat 128 (field vec (4096 + 128 * (i.val - 1)) 16) } } }

/-- FIRING_CHOICE (R90 to R92): the firing unit of an idle core chooses a ready slot and starts its firing. Where the save area of a
firing to be resumed cannot be read, the error falls on the actor's job (R324), an uncorrectable one outside any on the context (R367), and a
refusal of translation there ends the actor. -/
def execFiringChoice (id : CoreId) (s : State) : Res :=
  let c := s.coreAt id
  if c.run ≠ .idle ∨ !id.regions then .next s
  else
    match s.chosenSlot id with
    | none => .next s
    | some n =>
      let sl := c.slotAt n
      (match sl.actor, sl.resume with
      | some x, some r => (match s.resumeVectors id x r with
        | .ok r1 => .next (s.resumeFiring id n x r1)
        | .wait t => .next t
        | .fail why t =>
          let u := t.recordError x why
          .next (if why = 6 ∨ (t.jobOf x).isSome then u else u.kill x why))
      | some x, none => .next (s.startFiring id n x (s.slotRank id n == some 2))
      | none, _ => .next s)

/-! ## The scrub (R369, R370, Table 13.10) -/

/-- The strands of departing contexts on a core, those among them whose entry an earlier scrub disabled. -/
def tenantStrands (t : Nat → Bool) (c : Core) : List Nat :=
  (List.range 16).filter fun k => if h : k < 16 then t (strandCtx (c.strands[k]'h)) else false

/-- Registers after a scrub. -/
def Regs.scrubbed : Regs := { Regs.reset with flags := 0 }

/-- The core's own part of the scrub (Table 13.10). What the table does not list keeps its value (R7): TSW, REGENT and LIVEIN, which
the firing unit replaces, OVRET, which `Core.handedOn` takes, and the NREDs whose results are still to come (log entry 120). -/
def Core.scrubbed (q : Nat) (t : Nat → Bool) (c : Core) : Core :=
  { c with
    run := .idle
    regs := Regs.scrubbed
    traps := { TrapRegs.reset with ovret := c.traps.ovret }
    region := { Record.reset with entry := c.region.entry, smask := c.region.smask, vmask := c.region.vmask }
    xbound := 0
    ovh := 0
    taken := 0
    wait := none
    rep := none
    mem := []
    tags := []
    beads := []
    openB := []
    committed := []
    slots := []
    wins := Vector.replicate 8 0
    strands := c.strands.map fun e => if strandEn e && t (strandCtx e) then setBits 31 1 0 e else e
    recvq := c.recvq.filter fun r => !t r.ctx
    transferQ := []
    tileQ := c.tileQ.filter fun q => q.last && q.phase == .done
    bzSeq := 0
    tileTypes := Vector.replicate 16 false
    bzmap := bzmapReset q
    tlb := c.tlb.filter fun e => !t e.ctx
    latched := []
    noted := []
    got := [] }

/-- A core passes to its next tenant, who reads nothing that the last one wrote (R370): OVRET, which the table of the scrub does not
list, is cleared (DEDUCED, log entry 122). -/
def Core.handedOn (c : Core) : Core := { c with traps := { c.traps with ovret := 0 } }

/-- The tenant that leaves a core is scrubbed from it, from its part of the Bezel, and from its cluster's
invariant-load cache (R34, R369). -/
def State.scrubCore (s : State) (id : CoreId) (t : Nat → Bool) : State :=
  match id with
  | .work p =>
    let b := s.bezel (posOctet p)
    let z := (s.coreAt id).bzmap
    let b1 := (maskBits 16 (acm z)).foldl (fun b i => b.setTile i Tile.reset) b
    let b2 := { b1 with banks := (maskBits 16 (bwm z)).foldl (fun m i => Sparse.set Bank.reset m i Bank.reset) b1.banks }
    ((s.setBezel (posOctet p) (b2.setQueue (octetPos p) [])).modCore id fun c => (c.scrubbed (octetPos p) t).handedOn).onRam fun r =>
      { r with invs := r.invs.filter fun l => !(l.cluster == posCluster p && t l.ctx) }
  | _ => s

/-- The strands of contexts that leave a core contribute absent lanes from now on (R133), and no result is awaited for them. -/
def State.leaveStrands (s : State) (id : CoreId) (t : Nat → Bool) : State :=
  s.modCore id fun c =>
    let waits := c.nredWaits.filter fun w => !t w.ctx
    { c with
      router := { c.router with left := c.router.left ++ (tenantStrands t c).filter fun k => !c.router.left.contains k }
      nredWaits := waits
      strandIn := c.strandIn.filter fun e => !t e.2.1 }

/-- What contexts that leave a core have there while another tenant holds it: receive-queue entries, strand entries, TLB entries and
saves (Table 13.10, R368 step 5). -/
def State.scrubAbsent (s : State) (id : CoreId) (t : Nat → Bool) : State :=
  s.modCore id fun c => { c with
    recvq := c.recvq.filter fun r => !t r.ctx
    strands := c.strands.map fun e => if strandEn e && t (strandCtx e) then setBits 31 1 0 e else e
    tlb := c.tlb.filter fun e => !t e.ctx
    saves := c.saves.filter fun e => !t e.1 }

/-- A context starts running on a core: WT goes to BZMAP (R359). -/
def State.startOn (s : State) (id : CoreId) (x : Nat) : State :=
  s.modCore id fun c => { c with bzmap := setBits 48 4 (s.effective x 13 0 4) c.bzmap }

/-- A SEND without a slot is discarded with its request, and its bead leaves transit (R166, R368). One with LAST, whose instruction
is yet to be performed, counts in SENT no more: the instruction is issued again (R163, R165). -/
def State.dropSend (s : State) (id : CoreId) (t : TileCmd) : State :=
  match t.kind with
  | .send a k _ _ _ _ =>
    let s1 := s.modCore id fun c => c.landBead (beadOf a)
    let s2 := match t.phase with
      | .waiting x p => s1.modActor x fun r => r.setIn p { r.inPort p with asks := (r.inPort p).asks.erase (.core id) }
      | _ => s1
    (match t.last, s.alive t.who with
    | true, some x => s2.modActor x fun r => r.setOut k { r.outPort k with sent := (r.outPort k).sent - 1 }
    | _, _ => s2)
  | .mcast _ _ _ _ => s

/-- A SEND of a tenant that still waits for a ring reservation (R166). -/
def TileCmd.waitsOf (t : Nat → Bool) (q : TileCmd) : Bool :=
  t q.ctx && (match q.kind, q.phase with
    | .mcast _ _ _ _, _ => false
    | _, .remote _ _ => false
    | _, p => p.unsettled)

/-- The commands of a tenant on a core that wait for a ring reservation, and its Bezel operations not started, are
discarded (R166, R368 step 3). -/
def State.dropWaiting (s : State) (id : CoreId) (t : Nat → Bool) (bezelToo : Bool) : State :=
  let c := s.coreAt id
  let gone := c.tileQ.filter (TileCmd.waitsOf t)
  let s1 := gone.foldl (fun u q => u.dropSend id q) s
  let s2 := s1.modCore id fun k => { k with tileQ := k.tileQ.filter fun q => !q.waitsOf t }
  match id, bezelToo with
  | .work p, true => s2.modBezelQueue p fun l => l.filter (·.started)
  | _, _ => s2

/-- Has everything of a tenant on a core left it (R368 step 3)? -/
def State.tenantGone (s : State) (id : CoreId) (t : Nat → Bool) : Bool :=
  let c := s.coreAt id
  !(c.committed.any fun e => t e.ctx) && !(c.transferQ.any fun q => t q.ctx) &&
    !(c.tileQ.any fun q => t q.ctx && q.phase != .done) && s.bezelCount id == 0

/-! ## The save area (R374, R377, R378) -/

/-- Where the save area of a core lies (R377). -/
def State.saveBase (s : State) (id : CoreId) (x : Nat) : Nat := s.ctxCsave x + 0x100000 * (s.lciOf id - s.ctxCbase x)
/-- Is bead k in a save with a bitmap: code beads always are (R374)? -/
def Core.savesBead (c : Core) (bitmap : List Byte) (k : Nat) : Bool :=
  (bitmap.getD (k / 8) 0).getLsbD (k % 8) || c.bead k == .code

/-- The bits of TSW that a record holds, in their places (Table 13.11a). -/
def Tsw.recorded (t : Tsw) (apb : Bool) : Nat :=
  2 ^ 11 * t.ovp.toNat + 2 ^ 10 * t.ov.toNat + 2 ^ 4 * t.priv.toNat + 2 ^ 3 * t.rp.toNat + 2 ^ 2 * t.sf.toNat
    + 2 * t.it.toNat + apb.toNat

/-- The scalar part of a slot's record, from offset 0x100 on (Table 13.11a). -/
def resumeBytes (parked : Bool) (r : Resume) : List Byte :=
  let g := r.rcd.regs
  bytesOf 8 (1 + 2 * parked.toNat) ++ bytesOf 8 r.rcd.entry.toNat
    ++ bytesOf 8 (2 ^ 32 * r.rcd.vmask.toNat + r.rcd.smask.toNat)
    ++ ((List.range 31).flatMap fun i => bytesOf 8 (g.getS (BitVec.ofNat 5 (i + 1))).toNat)
    ++ bytesOf 8 g.flags.toNat ++ bytesOf 8 g.rm.code ++ g.q4
    ++ bytesOf 8 (r.rcd.tsw.recorded r.apb) ++ bytesOf 8 r.rcd.traps.tpc.toNat ++ bytesOf 8 r.rcd.traps.tcause.toNat
    ++ bytesOf 8 r.rcd.traps.taddr.toNat ++ bytesOf 8 r.rcd.traps.thnd.toNat ++ bytesOf 8 r.rcd.traps.ovret.toNat
    ++ List.replicate 416 0

/-- The slot record of slot n (R378). -/
def State.slotRecord (s : State) (id : CoreId) (n : Nat) : List Byte :=
  let sl := (s.coreAt id).slotAt n
  match sl.actor with
  | none => List.replicate 1024 0
  | some x => s.controlBlock x ++ match sl.resume with
    | some r => resumeBytes (sl.st == .parked) r
    | none => List.replicate 768 0

/-- The byte that stands for a bead's state in the ownership table of a save. -/
def Bead.byte : Bead → Byte
  | .free => 0
  | .code => 1
  | .owned n => BitVec.ofNat 8 (0x40 + n % 64)
  | .transit n => BitVec.ofNat 8 (0x80 + n % 64)

/-- A receive-queue entry in a save: 80 bytes. -/
def Received.bytes (r : Received) : List Byte :=
  (r.payload ++ List.replicate (64 - r.payload.length) 0) ++ bytesOf 4 r.src ++ bytesOf 4 r.tag.toNat
    ++ bytesOf 8 (scopeNum r.scope)

/-- The page at offset 0x5_1000 (Table 13.11): the table gives the order; the model's places follow it. -/
def State.saveMisc (s : State) (id : CoreId) (x : Nat) (bitmap : List Byte) : List Byte :=
  let c := s.coreAt id
  let own := (List.range 512).map fun k => (c.bead k).byte
  let recv := (c.recvq.filter fun r => r.ctx == x).take 16
  let tiles := match id with
    | .work p => (List.range 16).flatMap fun i =>
        let t := (s.bezel (posOctet p)).tile i
        [BitVec.ofNat 8 t.isInt.toNat, BitVec.ofNat 8 t.cond.toNat]
    | _ => []
  let bs := own ++ bytesOf 8 c.xbound.toNat ++ bytesOf 8 c.ovh.toNat ++ (c.wins.toList.flatMap fun w => bytesOf 8 w.toNat)
    ++ bytesOf 8 c.bzmap.toNat ++ bytesOf 8 recv.length ++ recv.flatMap Received.bytes
    ++ List.replicate (80 * (16 - recv.length)) 0 ++ bitmap ++ tiles
  bs ++ List.replicate (4096 - bs.length) 0

/-- The pieces a save writes, by offset (R377). -/
def State.savePieces (s : State) (id : CoreId) (x : Nat) (forced : Bool) (bitmap : List Byte) : List (Nat × List Byte) :=
  let c := s.coreAt id
  let ks := (List.range 512).filter (c.savesBead bitmap)
  let beads := ks.map fun k => (512 * k, c.load (512 * k) 512)
  let tags := ks.map fun k => (0x40000 + 8 * k, bytesOf 8
    (((List.range 64).filter fun i => c.tag (512 * k + 8 * i)).foldl (fun n i => n + 2 ^ i) 0))
  let slots := (List.range 64).map fun n => (0x41000 + 0x400 * n, s.slotRecord id n)
  let bz := match id, forced with
    | .work p, true =>
      let b := s.bezel (posOctet p)
      let ts := maskBits 16 (acm c.bzmap)
      let ws := maskBits 16 (bwm c.bzmap)
      ((List.range ts.length).zip ts).map (fun e => (0x52000 + 0x6000 * e.1, (b.tile e.2).saved))
        ++ ((List.range ws.length).zip ws).flatMap fun e =>
          [(0xB2000 + 0x2000 * e.1, memRead (b.bank e.2).bytes 0 8192), (0xD2000 + e.1, [BitVec.ofNat 8 (b.bank e.2).tag.code.toNat])]
    | _, _ => []
  beads ++ tags ++ slots ++ [(0x51000, s.saveMisc id x bitmap)] ++ bz

/-- The save of R377: the pieces go to memory, and the core stands in its wait for the scrub. -/
def State.saveCore (s : State) (id : CoreId) (forced : Bool) (bitmap : List Byte) : State :=
  let x := (s.coreAt id).ctx
  let base := s.saveBase id x
  let s1 := (s.savePieces id x forced bitmap).foldl (fun t e => t.engStore id.die x (base + e.1) e.2) s
  s1.modCore id fun c => { c with
    run := .idle
    phase := .saving forced bitmap true
    saves := c.saves.filter (fun e => e.1 != x) ++ [(x, forced, Nat.min 16 (c.recvq.filter fun r => r.ctx == x).length)] }

/-! ## The restore (R375, R377, R378) -/

/-- Several reads of the engine in order. -/
def State.engGets (s : State) (id : CoreId) (x : Nat) : List (Nat × Nat) → Eng (List (List Byte))
  | [] => .ok []
  | (va, n) :: rest => (s.engGet id x va n).andThen fun b => (s.engGets id x rest).andThen fun bs => .ok (b :: bs)

/-- The record a slot resumes from: its scalar part from the slot record, vectors and predicates from the actor's save
area (R101, R378). A code of RM that is no rounding mode reads as RNE (DESIGN CHOICE, log entry 134). -/
def resumeOf (b vec : List Byte) : Resume :=
  let f (o : Nat) : DWord := field8 b o
  let live := f 0x110
  let t := f 0x230
  let regs : Regs := {
    s := Vector.ofFn fun i : Fin 32 => if i.val = 0 then 0 else f (0x118 + 8 * (i.val - 1))
    v := Vector.ofFn fun i : Fin 32 => BitVec.ofNat 1024 (field vec (128 * i.val) 128)
    p := Vector.ofFn fun i : Fin 8 => if i.val = 0 then 0 else BitVec.ofNat 128 (field vec (4096 + 128 * (i.val - 1)) 16)
    q4 := (b.drop 0x220).take 16
    rm := (RMode.ofCode (field b 0x218 1 % 8)).getD .rne
    flags := BitVec.ofNat 6 (field b 0x210 8) }
  let tsw : Tsw := { Tsw.reset with
    ovp := BitVec.ofNat 2 (bitsAt 11 2 t), ov := bitAt 10 t, priv := BitVec.ofNat 2 (bitsAt 4 4 t), rp := bitAt 3 t
    sf := bitAt 2 t, it := bitAt 1 t }
  let traps : TrapRegs := ⟨f 0x240, f 0x248, (f 0x238).setWidth 18, (f 0x250).setWidth 18, (f 0x258).setWidth 18⟩
  ⟨⟨(f 0x108).setWidth 18, live.setWidth 32, (live >>> 32).setWidth 32, regs, tsw, traps⟩, bitAt 0 t⟩

/-- Does a request for a page still concern a waiter? -/
def State.stillWaits (s : State) (w : Waiter) : Bool :=
  (s.ctxs.prq.any fun e => e.waiters.contains w) || s.ctxs.wants.any fun v => v.who == w

/-- The slot a record describes, if its actor still lives there. -/
def State.slotOf (s : State) (id : CoreId) (n : Nat) (b vec : List Byte) : Slot :=
  let name := field8 b 0
  let x := s.idOf name
  let r := s.actor x
  if name ≠ 0 ∧ r.gen = nameGen name ∧ r.st.alive ∧ r.core = id ∧ r.slot = n then
    let flags := field8 b 0x100
    let parked := bitAt 1 flags && s.stillWaits ⟨id, n, some x, r.gen⟩
    ⟨if parked then .parked else .waiting, some x, if bitAt 0 flags then some (resumeOf b vec) else none⟩
  else Slot.none

/-- The fields of the control block that a slot caches, as a slot record gives them back (R273, R378): all but the incarnation, the
actor's state and place, and MIGP, which are the engine's (log entry 122). -/
def ActorRec.restored (r : ActorRec) (b : List Byte) : ActorRec :=
  let n := blockRec b
  { r with
    nstate := n.nstate, q4d := n.q4d, tre := n.tre, sge := n.sge, tx := n.tx, param := n.param
    entryT := n.entryT, entryS := n.entryS, entryD := n.entryD, image := n.image, stinit := n.stinit, super := n.super
    ins := Vector.ofFn fun i : Fin 4 => { r.ins[i] with
      en := n.ins[i].en, ratem1 := n.ins[i].ratem1, slotsm1 := n.ins[i].slotsm1, size := n.ins[i].size, base := n.ins[i].base }
    outs := Vector.ofFn fun i : Fin 4 => { n.outs[i] with sent := r.outs[i].sent }
    q4 := n.q4, mbase := n.mbase, mcount := n.mcount, mhead := n.mhead, mrsv := n.mrsv, firings := n.firings
    xreason := n.xreason, timers := n.timers }

/-- The receive-queue entries of a save. -/
def recvOf (x : Nat) (m : List Byte) : List Received :=
  (List.range (Nat.min (field m 600 8) 16)).map fun i =>
    let b := (m.drop (608 + 80 * i)).take 80
    ⟨b.take 64, field b 64 4, BitVec.ofNat 32 (field b 68 4), x, scopeOf (field b 72 8)⟩

/-- A core as the tenant's save area gives it back: ownership, bounds, windows but those of a slot whose actor has gone (R126), BZMAP and
receive queue, what it held before what has come since (R137), the contents and tags of saved beads, and the slots. -/
def State.restoredCore (s : State) (id : CoreId) (x : Nat) (m tags slots : List Byte) (vecs : Nat → List Byte)
    (beads : List (Nat × List Byte)) : Core :=
  let c := s.coreAt id
  let sls := (List.range 64).map fun n => (n, s.slotOf id n ((slots.drop (0x400 * n)).take 0x400) (vecs n))
  let live (n : Nat) : Bool := sls.any fun e => e.1 == n && e.2.actor.isSome
  let own := (List.range 512).map fun k =>
    let v := ((m.getD k 0).toNat)
    (k, if 0x40 ≤ v ∧ v < 0xC0 ∧ live (v % 64) then Bead.owned (v % 64) else Bead.free)
  let c1 : Core := { c with
    xbound := BitVec.ofNat 18 (field m 512 8)
    ovh := BitVec.ofNat 18 (field m 520 8)
    wins := Vector.ofFn fun i : Fin 8 =>
      let w := field8 m (528 + 8 * i.val)
      if winEn w && !winNs w && !live (winOwner w) then setBits 51 1 0 w else w
    bzmap := field8 m 592
    recvq := recvOf x m ++ c.recvq
    saves := c.saves.map fun e => if e.1 = x then (e.1, e.2.1, 0) else e
    beads := own.filter fun e => e.2 != .free
    slots := sls.filter fun e => decide (e.2 ≠ Slot.none)
    phase := .running
    run := .idle }
  beads.foldl (fun c e =>
    let w := field8 tags (8 * e.1)
    (List.range 64).foldl (fun c i => c.setTag (512 * e.1 + 8 * i) (bitAt i w)) (c.store (512 * e.1) e.2)) c1

/-- The control blocks of the slots that came back (R378). -/
def State.restoreBlocks (s : State) (c : Core) (slots : List Byte) : State :=
  c.slots.foldl (fun t e => match e.2.actor with
    | some x =>
      let b := (slots.drop (0x400 * e.1)).take 256
      (t.modActor x fun r => r.restored b).modSuper x fun r => { r with sup := bitAt 0 (field8 b 8) }
    | none => t) s

/-- Restore the tiles and banks of a forced save (R375, R377). -/
def State.restoreBezel (s : State) (id : CoreId) (m : List Byte) (tiles banks : List (List Byte)) (tagBytes : List Byte) :
    State :=
  match id with
  | .work p =>
    let c := s.coreAt id
    let ts := (maskBits 16 (acm c.bzmap)).zip tiles
    let ws := (maskBits 16 (bwm c.bzmap)).zip (banks.zip tagBytes)
    let isInt (i : Nat) : Bool := (m.getD (1952 + 2 * i) 0).toNat % 2 == 1
    let b := s.bezel (posOctet p)
    let b1 := ts.foldl (fun b e => b.setTile e.1 { Tile.restored (isInt e.1) e.2 with
      cond := BitVec.ofNat 6 (m.getD (1953 + 2 * e.1) 0).toNat }) b
    let b2 := { b1 with banks := ws.foldl (fun k e => Sparse.set Bank.reset k e.1
      ⟨memWrite [] 0 e.2.1, (Fmt.ofCode (BitVec.ofNat 3 e.2.2.toNat)).getD .bf16⟩) b1.banks }
    (s.setBezel (posOctet p) b2).modCore id fun c =>
      { c with tileTypes := Vector.ofFn fun i : Fin 16 => isInt i.val && (acm c.bzmap).testBit i.val }
  | _ => s

/-- The save area of a context is restored on a scrubbed core; without a save the core starts as the scrub left it. A
poisoned area is charged to the context (R367, R377). -/
def State.restoreCore (s : State) (id : CoreId) : State :=
  let c := s.coreAt id
  let x := c.ctx
  let base := s.saveBase id x
  let fresh (t : State) : State := (t.modCore id fun c => { c with phase := .running }).startOn id x
  match c.saves.find? fun e => e.1 == x with
  | none => fresh s
  | some (_, forced, _) =>
    let first := s.engGets id x [(base + 0x51000, 4096), (base + 0x40000, 4096), (base + 0x41000, 0x10000)]
    let all := first.andThen fun p => match p with
      | [m, tags, slots] =>
        let bm := (m.drop 1888).take 64
        let code := field m 512 8
        let ks := (List.range 512).filter fun k => (bm.getD (k / 8) 0).getLsbD (k % 8) || decide (512 * k < code)
        let nt := (maskBits 16 (acm (field8 m 592))).length
        let nb := (maskBits 16 (bwm (field8 m 592))).length
        let names := (List.range 64).map fun n => s.idOf (field8 (slots.drop (0x400 * n)) 0)
        (s.engGets id x (ks.map fun k => (base + 512 * k, 512))).andThen fun beads =>
          (s.engGets id x ((List.range 64).map fun n =>
            if bitAt 0 (field8 (slots.drop (0x400 * n)) 0x100) ∧ (names.getD n ⟨0, 0⟩).idx < s.ctxAtlen x then
              (s.ctxAtbase x + 0x2000 * ((names.getD n ⟨0, 0⟩).idx) + 0x200, 4992) else (base, 0))).andThen fun vecs =>
            (if forced then
              (s.engGets id x (((List.range nt).map fun i => (base + 0x52000 + 0x6000 * i, 24576))
                ++ ((List.range nb).map fun i => (base + 0xB2000 + 0x2000 * i, 8192)) ++ [(base + 0xD2000, nb)]))
            else .ok []).andThen fun bz =>
              let c1 := s.restoredCore id x m tags slots (fun n => vecs.getD n []) (ks.zip beads)
              let s1 := (s.setCore id c1).restoreBlocks c1 slots
              let s2 := if forced then s1.restoreBezel id m (bz.take nt) ((bz.drop nt).take nb) (bz.getD (nt + nb) []) else s1
              .ok (s2.startOn id x)
      | _ => .fail 14 s
    match all with
    | .ok t => t
    | .wait t => t
    | .fail _ t => (fresh t).onCtxs fun k => { k with failed := k.failed ++ [x] }

/-! ## Slices -/

/-- SLICE_END (R371, R372): T0 passes on a core that contexts share. -/
def execSliceEnd (id : CoreId) (s : State) : Res :=
  let c := s.coreAt id
  if c.rotation ≠ [] ∧ c.phase = .running then .next (s.modCore id fun c => { c with phase := .ending }) else .next s

/-- Does a core still wait for an atomic that it has issued (R100, R372)? -/
def Core.awaitsAtomic (c : Core) : Bool :=
  match c.wait with
  | some w => (match w.kind, w.instr with
    | .atomic, _ => true
    | .fabric _ _ _ _ _, .amo _ _ _ _ _ _ _ => true
    | .fabric _ _ _ _ _, .cas _ _ _ _ _ _ _ => true
    | .fabric _ _ _ _ _, .amobnd _ _ _ _ _ _ _ => true
    | _, _ => false)
  | none => false

/-- The pre-emption handler starts (R373): code of the departing context at privilege 1, in an implicit region. -/
def State.startHandler (s : State) (id : CoreId) : State :=
  s.modCore id fun c =>
    let all : List DWord := [0, dw c.ctx, dw (s.ctxDebt c.ctx)]
    ({ c with
      run := .preempt
      phase := .handler
      pc := BitVec.ofNat 18 (s.ctxPent c.ctx)
      regs := { c.regs with s := Vector.ofFn fun i : Fin 32 => all.getD i.val 0 }
      tsw := { Tsw.reset with priv := 1, cpri := BitVec.ofNat 2 (s.ctxPri c.ctx) } }).openRegion
        (BitVec.ofNat 18 (s.ctxPent c.ctx)) 0xFFFFFFFE 0

/-- SAVE_POINT (R372, R373, R377): the running firing's region is aborted, its slot waits with a resume pending, and the
handler or the forced save starts; a forced save that a fault or the budget began is written. -/
def execSavePoint (id : CoreId) (s : State) : Res :=
  let c := s.coreAt id
  match c.phase with
  | .ending =>
    if c.awaitsAtomic then .next s
    else
      let s1 := match c.run with
        | .firing sl => (s.abort id .waiting).saveVectors id sl
        | _ => s
      let pent := s.ctxPent c.ctx
      if pent ≠ 0 ∧ pent < c.xbound.toNat then .next (s1.startHandler id)
      else .next (s1.saveCore id true (s1.coreAt id).allBeads)
  | .saving forced bm false => .next (s.saveCore id forced bm)
  | _ => .next s

/-- PREEMPTION_BUDGET_EXPIRY (R373): the handler has not issued CTXDONE by S + PBUD. -/
def execPreemptionBudgetExpiry (id : CoreId) (s : State) : Res :=
  if (s.coreAt id).phase = .handler then .next (s.forcedSave id) else .next s

/-- WATCHDOG (R379): no save point by the limit: the context's actors on the core end, trap 0x85 rises, and nothing is
saved. -/
def execWatchdog (id : CoreId) (s : State) : Res :=
  let c := s.coreAt id
  if c.phase = .ending then
    let xs := c.slots.filterMap fun e => e.2.actor.filter fun x => x.ctx == c.ctx
    let s1 := xs.foldl (fun t x => t.kill x 15) s
    .next ((s1.modCore id fun k => { k with
      phase := .saving false [] true
      run := .idle
      wait := none
      saves := k.saves.filter fun e => e.1 != c.ctx }).raiseTrap c.ctx 0x85 0 0 0 (s.lciOf id))
  else .next s

/-- CTXDONE (R361, R373, R374): ends a pre-emption handler; its region commits and the save runs. -/
def execCtxdone (a : SReg) (s : State) : Res :=
  if s.core.run ≠ .preempt then s.illegal
  else
    let p := la (s.rs a)
    if s.rs a ≠ 0 ∧ p % 64 ≠ 0 then .next (s.forcedSave s.focus)
    else if s.rs a ≠ 0 ∧ !s.mayReach p 64 then s.notOwned p
    else if !s.core.canCommit then .next s
    else
      let bm := if s.rs a = 0 then s.core.allBeads else s.core.load p 64
      .next ((s.commit s.focus).saveCore s.focus false bm)

/-- May the departing tenant be scrubbed from a core, or the next one be restored (R372 steps 5 to 7)? -/
def State.scrubReady (s : State) (id : CoreId) : Bool :=
  let c := s.coreAt id
  match c.phase with
  | .saving _ _ true => (s.dropWaiting id (fun y => y == c.ctx) false).tenantGone id fun y => y == c.ctx
  | .restoring => true
  | _ => false

/-- The order in which the turns of a rotation follow that of a context. -/
def turnsAfter (rot : List Nat) (x : Nat) : List Nat :=
  if rot.contains x then (rot.dropWhile (· != x)).drop 1 ++ rot.takeWhile (· != x) ++ [x] else rot
/-- The least key of a list, with what it belongs to; the first of equals. -/
def leastKey : List (Nat × Nat) → Option (Nat × Nat)
  | [] => none
  | e :: rest => match leastKey rest with
    | some f => if f.1 < e.1 then some f else some e
    | none => some e

/-- The context whose turn is next (R371): a turn whose debt covers the slice is skipped, and the debt falls by the slice; a context
is skipped as often as its slice goes into its debt before it holds the core again. -/
def State.nextTurn (s : State) (rot : List Nat) (x : Nat) : State × Nat :=
  let turns := turnsAfter rot x
  let n := turns.length
  let places := (List.range n).zip turns
  match leastKey (places.map fun e => (s.ctxDebt e.2 / s.ctxSlice e.2 * n + e.1, e.2)) with
  | none => (s, x)
  | some (k, y) =>
    (places.foldl (fun t e =>
      let skips := k / n + if e.1 < k % n then 1 else 0
      if skips = 0 then t else t.setCcbField e.2 23 0 32 (s.ctxDebt e.2 - skips * s.ctxSlice e.2)) s, y)

/-- SCRUB (R369, R371, R375, R379): the departing tenant is scrubbed, the cycles since T0 are its debt, and the next
context's save area is restored. -/
def execScrub (id : CoreId) (s : State) : Res :=
  if !s.scrubReady id then .next s
  else
    let c := s.coreAt id
    let x := c.ctx
    match c.phase with
    | .restoring => .next (s.restoreCore id)
    | _ =>
      let s1 := (s.dropWaiting id (fun y => y == x) false).scrubCore id fun y => y == x
      let s2 := s1.setCcbField x 23 0 32 (sat32 (s.ctxDebt x + (Config.freeWord s.tick).toNat % 2 ^ 32))
      let r := s2.nextTurn c.rotation x
      .next ((r.1.modCore id fun c => { c with ctx := r.2, phase := .restoring }).restoreCore id)

end Sys2Proof.Machine
end

