-- ==== Sys2Proof/Machine/Context.lean ====
section
/-!
DEFINITION. Contexts (R353 to R385): CTXNEW, CTXSET, CTXREVOKE and CTXSTAT at issue and at drain, the checks of Table
13.6, trap messages, revocation, changes of interval, failed contexts, and faults of service state.
-/

namespace Sys2Proof.Machine

/-! ## Who may issue -/

/-- The handler actor of a context (R363): the incarnation of index 0 with a signal entry. -/
def State.handlerActor (s : State) (x : Nat) : Option ActorId :=
  let r := s.actor ⟨x, 0⟩
  if s.ctxH x && (r.st.alive || r.st == .restarting) && r.sge then some ⟨x, 0⟩ else none

/-- May the executing code issue CTXNEW, CTXSET and CTXREVOKE (R361)? -/
def State.ctxPrivileged (s : State) : Bool :=
  s.priv != 0 || (match s.core.actor? with
    | some x => s.handlerActor x.ctx == some x
    | none => false)

/-- Is an operand permitted: a live descendant of the issuing context, bits [63:12] zero (R362)? -/
def State.ctxPermitted (s : State) (x : Nat) (v : DWord) : Bool :=
  decide (v.toNat < 4096) && decide (v.toNat ≠ x) && s.inSubtree x v.toNat

/-! ## Words of a CCB (Table 13.2) -/

/-- The bits of word i that name a field. -/
def ccbMask : Nat → Nat
  | 1 => 2 ^ 64 - 2 ^ 36
  | 2 => 2 ^ 48 - 2 ^ 12
  | 3 => 2 ^ 49 - 2 ^ 12
  | 4 => 2 ^ 48 - 2 ^ 12 + 15
  | 5 => 2 ^ 48 - 2 ^ 13
  | 6 => 2 ^ 24 - 1
  | 7 => 2 ^ 48 - 2 ^ 12
  | 8 => 2 ^ 48 - 2 ^ 4
  | 9 => 2 ^ 16 - 1
  | 10 => 2 ^ 20 - 1
  | 11 => 2 ^ 16 - 1
  | 12 => 2 ^ 26 - 2 ^ 16 + 2 ^ 10 - 1
  | 13 => 15
  | 14 => 2 ^ 9 - 1
  | 15 => 2 ^ 64 - 2 ^ 32 + 2 ^ 24 - 1
  | 16 => 2 ^ 10 + 2 ^ 9 + 2 ^ 8 + 2 ^ 4 + 7
  | 17 => 2 ^ 48 - 2 ^ 20
  | 18 => 2 ^ 18 - 1
  | 19 => 2 ^ 48 - 2 ^ 9
  | 20 => 2 ^ 8 - 1
  | 21 => 2 ^ 64 - 1
  | _ => 0

/-- May CTXSET change word i: has it RW fields? -/
def ccbRw (i : Nat) : Bool := [1, 2, 3, 4, 8, 9, 10, 11, 12, 13, 14, 15, 16, 18].contains i

/-- The value an inherited word takes, from the creator's word (R356, Table 13.2). -/
def inherited (i : Nat) (creator : DWord) : DWord :=
  match i with
  | 1 => creator
  | 3 => 2 ^ 48
  | 4 => creator &&& 15
  | 10 => creator
  | 11 => creator
  | 12 => creator
  | 13 => creator
  | 14 => creator
  | 15 => creator
  | 16 => creator &&& 0x307
  | _ => 0

/-- The words of a child of x (R356). -/
def State.childWords (s : State) (x num : Nat) (ovr : Word) (t : List DWord) : List DWord :=
  (List.range 32).map fun i =>
    if i = 0 then dw (2 ^ 52 * x + 2 ^ 48 * (s.ctxDepth x + 1) + 2 ^ 36 * num + 2 ^ 32
      + 2 ^ 24 * (if x = 0 then num - 1 else s.ctxPidx x))
    else if 22 ≤ i then 0
    else if ovr.getLsbD i then t.getD i 0 else inherited i (s.ccbWord x i)

/-! ## Checks (Table 13.6) -/

/-- Does a word carry bits outside its fields, or break a limit of status 6 by itself? -/
def badWord (i : Nat) (v : DWord) : Bool := decide (Nat.land v.toNat (2 ^ 64 - 1 - ccbMask i) ≠ 0)

/-- Status 6 over the words of a context: reserved bits, TROOT, the window, WT, CSAVE with SLICE, INITIMG with ATLEN. -/
def badWords (w : List DWord) : Bool :=
  let g (i : Nat) : DWord := w.getD i 0
  ((List.range 21).any fun i => badWord (i + 1) (g (i + 1)))
    || bitsAt 12 36 (g 4) == 0
    || decide (2 ^ 48 < bitsAt 12 36 (g 2) * 4096 + bitsAt 12 37 (g 3) * 4096)
    || bitsAt 0 4 (g 13) == 0
    || (bitsAt 20 28 (g 17) != 0 && decide (bitsAt 32 32 (g 15) < 65536))
    || (bitsAt 9 39 (g 19) != 0 && bitsAt 0 24 (g 6) == 0)

/-- Status 5: a field above the parent's effective value (R357). -/
def State.aboveParent (s : State) (p : Nat) (w : List DWord) : Bool :=
  let over' (i lo n : Nat) : Bool := decide (s.effective p i lo n < bitsAt lo n (w.getD i 0))
  over' 10 0 20 || over' 11 0 16 || over' 12 16 10 || over' 12 0 10 || over' 13 0 4 || over' 16 8 2 || over' 16 0 3
    || decide (256 < bitsAt 0 9 (w.getD 14 0))

/-- Does a logical index lie in an interval? -/
def inInterval (base len n : Nat) : Bool := decide (base ≤ n ∧ n < base + len)

/-- Statuses 1 to 3 of an interval that context x, or a new child (`none`), of parent p would take. -/
def State.intervalFaults (s : State) (p : Nat) (x : Option Nat) (base len : Nat) (csave : Bool) : List Nat :=
  let outside : Bool := decide (len = 0 ∨ s.functionalCount < base + len ∨ base < s.ctxCbase p ∨ s.ctxCbase p + s.ctxClen p < base + len)
  let kidOut : Bool := match x with
    | some y => s.ctxs.ccb.any fun e => s.ctxLive e.1 && decide (s.ctxParent e.1 = y ∧ e.1 ≠ 0) &&
        (decide (s.ctxCbase e.1 < base) || decide (base + len < s.ctxCbase e.1 + s.ctxClen e.1))
    | none => false
  let clash := s.ctxs.ccb.any fun e => s.ctxLive e.1 && decide (e.1 ≠ 0 ∧ s.ctxParent e.1 = p) && decide (some e.1 ≠ x)
    && decide (s.ctxCbase e.1 < base + len ∧ base < s.ctxCbase e.1 + s.ctxClen e.1) && (!csave || s.ctxCsave e.1 == 0)
  let taken := s.acts.tab.any fun e => decide ((ActorId.ofKey e.1).ctx = p) && e.2.st.alive && e.2.dev == 0
    && inInterval base len (s.lciOf e.2.core)
    && !(match x with
      | some y => inInterval (s.ctxCbase y) (s.ctxClen y) (s.lciOf e.2.core)
      | none => false)
  (if outside ∨ kidOut then [1] else []) ++ (if clash then [2] else []) ++ (if taken then [3] else [])

/-- The status of a refusal: where several checks fail, the table does not say which is given. -/
def State.statusOf (s : State) (fs : List Nat) : Option Nat := fs[Config.freeChoice s.tick % fs.length]?

/-- The checks of CTXNEW (R362, Table 13.6): a 25th partition has no number, and its status is 4. -/
def State.newFaults (s : State) (x num : Nat) (w : List DWord) : List Nat :=
  if num = 0 then [4]
  else (if 8 < s.ctxDepth x + 1 then [4] else [])
    ++ s.intervalFaults x none (bitsAt 50 14 (w.getD 1 0)) (bitsAt 36 14 (w.getD 1 0)) (bitsAt 20 28 (w.getD 17 0) != 0)
    ++ (if s.aboveParent x w then [5] else []) ++ (if badWords w then [6] else [])
    ++ (if s.ctxState x ≠ 1 then [7] else [])

/-! ## Rotations (R358, R371) -/

/-- Does a context stand on a core: its interval holds it, but while a change of interval runs, the cores added only once they have
passed from the parent, and those removed until it is over (R380)? -/
def State.standsBy (s : State) (x : Nat) (id : CoreId) : Bool :=
  match s.ctxs.resizing.find? fun r => r.ctx == x with
  | some r => (s.coreAt id).router.val && (inInterval (bitsAt 50 14 r.word) (bitsAt 36 14 r.word) (s.lciOf id)
      || (r.grown && s.holds x id))
  | none => s.holds x id

/-- The deepest live contexts that hold a core, in order of creation. -/
def State.tenants (s : State) (id : CoreId) : List Nat :=
  s.ctxs.created.filter fun x => s.ctxLive x && s.standsBy x id &&
    !(s.ctxs.ccb.any fun e => s.ctxLive e.1 && decide (e.1 ≠ x) && s.inSubtree x e.1 && s.standsBy e.1 id)

/-- Every core's rotation follows the tree: cores that several contexts hold share them by slices, and the one that stood there
goes on; a core whose context has gone turns to the next. -/
def State.syncRotations (s : State) : State :=
  (s.workCores.map (·.1)).foldl (fun t id =>
    let ts := t.tenants id
    let c := t.coreAt id
    let rot := if ts.length < 2 then [] else ts
    let cur := if ts.contains c.ctx then c.ctx else ts.headD 0
    if rot = c.rotation ∧ cur = c.ctx then t
    else t.modCore id fun c => { c with
      rotation := rot
      ctx := cur
      phase := if c.rotation = [] ∨ cur = c.ctx then c.phase else .restoring }) s

/-- The cores of a context that no descendant of it holds. -/
def State.coresOf (s : State) (x : Nat) : List CoreId :=
  (s.workCores.map (·.1)).filter fun id => (s.tenants id).contains x

/-! ## Notices of contexts (Table 13.5) -/

/-- A context notice: code, context number, and the second field. -/
def State.ctxNotice (s : State) (w : Issuer) (code x v : Nat) : State := s.noticeTo w 0 code (bytesOf 8 x ++ bytesOf 8 v)

/-! ## At issue -/

/-- The lowest free number from a number on (R362). -/
def State.freeCtx (s : State) (lo hi : Nat) : Option Nat :=
  ((List.range (hi + 1)).drop lo).find? fun n => !s.ctxLive n && !s.ctxs.reserved.contains n

/-- The number CTXNEW reserves (R362); 0 for a 25th partition. -/
def State.newNumber (s : State) (num : BitVec 12) (rq : Bool) : Option Nat :=
  let n := num.toNat
  let wanted (lo hi : Nat) : Option Nat :=
    if rq ∧ lo ≤ n ∧ n ≤ hi ∧ !s.ctxLive n ∧ !s.ctxs.reserved.contains n then some n else s.freeCtx lo hi
  if s.ctx = 0 then some ((wanted 1 24).getD 0) else wanted 25 4095

/-- CTXNEW (R355, R356, R361, R362). -/
def execCtxnew (d a : SReg) (ovr : Word) (num : BitVec 12) (rq : Bool) (s : State) : Res :=
  let va := s.rs a
  if !s.ctxPrivileged then s.privilege
  else if va.toNat % 256 ≠ 0 ∨ va.toNat / 2 ^ 48 ≠ 0 then s.badAddress va
  else
    s.loadGlobals 128 [va, va + 128] fun s bs =>
      let t := bs.flatten
      s.ifRoom
        (match s.newNumber num rq with
        | none => s.killReason 15 0
        | some n =>
          let words := (List.range 32).map fun i => field8 t (8 * i)
          let s1 := if n = 0 then s else s.onCtxs fun c => { c with reserved := c.reserved ++ [n] }
          s1.withEntries [s1.entry (.actor (.ctxnew n ovr words)) none] fun u => (u.ws d (dw n)).done 16)

/-- CTXSET (R361, R362). -/
def execCtxset (a b c : SReg) (s : State) : Res :=
  if !s.ctxPrivileged then s.privilege
  else if 31 < (s.rs b).toNat ∨ !s.ctxPermitted s.ctx (s.rs a) then s.refusedR
  else s.actorIssue (.ctxset (s.rs a).toNat (s.rs b).toNat (s.rs c)) none 8

/-- CTXREVOKE (R361, R362). -/
def execCtxrevoke (a : SReg) (s : State) : Res :=
  if !s.ctxPrivileged then s.privilege
  else if !s.ctxPermitted s.ctx (s.rs a) then s.refusedR
  else s.actorIssue (.ctxrevoke (s.rs a).toNat) none 8

/-- Word k of a CCB with the fields the engine counts (Table 13.2). -/
def State.ccbStat (s : State) (x k : Nat) : DWord :=
  if k = 24 ∧ s.ctxLive x ∧ x ≠ 0 then dw (2 ^ 40 * (s.prqHeld x % 1024) + s.liveActors x % 2 ^ 20) else s.ccbWord x k

/-- CTXSTAT (R362, R433). -/
def execCtxstat (d a : SReg) (k : BitVec 5) (s : State) : Res :=
  let v := s.rs a
  let x := if v = 0 then s.ctx else v.toNat
  let ok := v = 0 ∨ (v.toNat < 4096 ∧ v.toNat = s.ctx) ∨ s.ctxPermitted s.ctx v
  (s.ws d (if ok then s.ccbStat x k.toNat else 0)).done 8

/-! ## Revocation (R368) -/

/-- The work cores of the intervals of a set of contexts. -/
def State.intervals (s : State) (xs : List Nat) : List CoreId :=
  (s.workCores.map (·.1)).filter fun id => xs.any fun x => s.standsBy x id

/-- A context of a set. -/
def inSet (xs : List Nat) (x : Nat) : Bool := xs.contains x

/-- The work cores on which contexts of a set stand now: not those whose slice another tenant holds. -/
def State.standsOn (s : State) (xs : List Nat) : List CoreId :=
  (s.workCores.map (·.1)).filter fun id =>
    let c := s.coreAt id
    (xs.any fun x => s.standsBy x id) && (c.rotation == [] || xs.contains c.ctx)

/-- Every actor of a set of contexts dies with reason revoked, and none is restarted (Table 13.9 step 2, R382). -/
def State.killContexts (s : State) (xs : List Nat) : State :=
  let ids := (s.acts.tab.map fun e => ActorId.ofKey e.1).filter fun x => xs.contains x.ctx
  let s1 := s.onActs fun a => { a with
    restarts := a.restarts.filter fun r => !xs.contains r.super.ctx
    deaths := a.deaths.filter fun d => !xs.contains d.super.ctx
    capcalls := a.capcalls.map fun c => if xs.contains c.ctx then { c with forwarded := false, status := 1, result := [] } else c }
  ids.foldl (fun t x =>
    let r := t.actor x
    if r.st.alive then (State.killN (t.acts.supers.length + 1) t x 11 true)
    else if r.st == .restarting then t.modActor x fun r => { r with st := .free }
    else if r.st == .leaving then t.modActor x fun r => { r with quiet := true }
    else t) s1

/-- A page-request entry without the waiters of a set of contexts: none is left where no other waits; an entry that another context
has joined counts for that one (R347). -/
def PageReq.without (t : Nat → Bool) (e : PageReq) : Option PageReq :=
  if !t e.ctx then some e
  else match e.waiters.filterMap fun w => (w.actor.filter fun x => !t x.ctx).map fun x => (w, x.ctx) with
    | [] => none
    | w :: ws => some { e with ctx := w.2, waiters := (w :: ws).map (·.1) }

/-- What the engine holds for a set of contexts is discarded: misses, page requests, trap messages, and pre-emption
handlers stop (Table 13.9 step 1). -/
def State.discardHeld (s : State) (xs : List Nat) : State :=
  let t := inSet xs
  let s1 := s.onCtxs fun c => { c with
    traps := c.traps.filter fun m => !t m.target
    prq := (c.prq.filter fun e => !t e.handler).filterMap (PageReq.without t)
    wants := c.wants.filter fun w => !t w.ctx
    engDenied := c.engDenied.filter fun e => !t e.1
    trans := c.trans.map fun e => (e.1, { e.2 with
      queue := e.2.queue.filter fun m => !t m.ctx
      taken := e.2.taken.filter fun m => !t m.ctx }) }
  let s2 := (s1.standsOn xs).foldl (fun u id =>
    if (u.coreAt id).run = .preempt then (u.discardRegion id).modCore id fun c => { c with run := .idle } else u) s1
  (s2.intervals xs).foldl (fun u id => u.leaveStrands id t) s2

/-- Revocation of context x begins, or joins the one in progress (R368). -/
def State.revoke (s : State) (x : Nat) (tell : List Issuer) : State :=
  if s.ctxState x = 2 then
    match s.ctxs.revoking.find? fun r => r.ctx == x || s.inSubtree r.ctx x with
    | some r => s.onCtxs fun c => { c with revoking := c.revoking.map fun q =>
        if q = r then { q with tell := q.tell ++ tell } else q }
    | none => s
  else
    let xs := s.subtree x
    let joined := s.ctxs.revoking.filter fun r => xs.contains r.ctx
    let s1 := xs.foldl (fun t y => t.setCcbField y 0 32 4 2) (s.tdispError (inSet xs))
    let s2 := (s1.killContexts xs).discardHeld xs
    s2.onCtxs fun c => { c with
      resizing := c.resizing.filter fun r => !xs.contains r.ctx
      revoking := (c.revoking.filter fun r => !xs.contains r.ctx) ++ [⟨x, tell ++ joined.flatMap (·.tell)⟩] }

/-- Commands that wait for reservations and Bezel operations not started are discarded on the cores of a set of contexts
(Table 13.9 step 3). -/
def State.dropTenants (s : State) (xs : List Nat) : State :=
  (s.standsOn xs).foldl (fun t id => t.dropWaiting id (inSet xs) true) s

/-- Are the actors of a set of contexts gone, and everything of theirs drained (Table 13.9 steps 2 and 3)? -/
def State.drained (s : State) (xs : List Nat) : Bool :=
  (s.acts.tab.all fun e => !xs.contains (ActorId.ofKey e.1).ctx || e.2.death.isNone) &&
    (s.standsOn xs).all fun id => s.tenantGone id (inSet xs)

/-- Does a SEND of a set of contexts wait for a reservation on one of some cores? -/
def State.sendWaits (s : State) (xs : List Nat) (ids : List CoreId) : Bool :=
  ids.any fun id => (s.coreAt id).tileQ.any (TileCmd.waitsOf (inSet xs))

/-- May a revocation go on: are there SENDs to discard, or has everything drained? -/
def State.revokeReady (s : State) (x : Nat) : Bool :=
  let xs := s.subtree x
  (s.ctxs.revoking.any fun r => r.ctx == x) && (s.sendWaits xs (s.standsOn xs) || (s.dropTenants xs).drained xs)

/-- A function whose context has been revoked is unbound, its waiting messages discarded (R384, R415). -/
def Func.unbind (f : Func) : Func :=
  { f with bind := setBits 63 1 0 f.bind, head := f.tail, rst := false, next := none, stop := false, ended := false }

/-- A function's host is told that a reset is complete (R382). -/
def State.tellHost (s : State) (n : Nat) : State := s.onHub fun h => { h with out := h.out ++ [.resetDone n] }

/-- Steps 4 to 6 of a revocation (Table 13.9). -/
def State.endRevoke (s : State) (x : Nat) : State :=
  let xs := s.subtree x
  let t := inSet xs
  let up := s.ctxParent x
  let ids := s.standsOn xs
  let s1 := s.invalidateCtx x
  let s2 := s1.onRam fun r => { r with invs := r.invs.filter fun l => !t l.ctx }
  let s3 := (s.intervals xs).foldl (fun u id => if ids.contains id then u.scrubCore id t else u.scrubAbsent id t) s2
  let fns := s.hub.funcs.filterMap fun e => if e.2.bound && t e.2.ctx then some (e.1, e.2.rst) else none
  let s4 := fns.foldl (fun u e =>
    let u1 := u.setFunc e.1 (u.func e.1).unbind
    if e.2 then u1.tellHost e.1 else u1) s3
  let told := ((s.ctxs.revoking.find? fun r => r.ctx == x).map (·.tell)).getD []
  let s5 := s4.onCtxs fun c => { c with
    ccb := c.ccb.filter fun e => !t e.1
    created := c.created.filter fun y => !t y
    revoking := c.revoking.filter fun r => r.ctx != x
    failed := c.failed.filter fun y => !t y
    resets := c.resets.filter fun n => !fns.any fun e => e.1 == n
    msgs := c.msgs.filter fun e => !t (e.1 % 4096) }
  let s6 := s5.onActs fun a => { a with
    tab := a.tab.filter fun e => !t (ActorId.ofKey e.1).ctx
    supers := a.supers.filter fun e => !t (ActorId.ofKey e.1).ctx
    jobs := a.jobs.filter fun j => !t j.ctx
    forwards := a.forwards.filter fun f => !t f.actor.ctx }
  let s7 := (s6.onFab fun f => { f with
    buckets := f.buckets.filter fun e => !t (e.1 / 24)
    waiting := f.waiting.filter fun e => !t (e.2 / 24) }).mapCores fun _ c =>
      { c with saves := c.saves.filter fun e => !t e.1 }
  let s8 := s7.syncRotations
  let s9 := (ids.filter fun id => (s8.coreAt id).rotation = []).foldl (fun u id => u.startOn id up) s8
  told.foldl (fun u w => u.ctxNotice w 10 x 0) s9

/-- REVOCATION_COMPLETE (R368 steps 3 to 6): SENDs that wait for a reservation are discarded; once everything has drained
the last steps run. -/
def execRevocationComplete (x : Nat) (s : State) : Res :=
  let t := s.dropTenants (s.subtree x)
  if (s.ctxs.revoking.any fun r => r.ctx == x) ∧ t.drained (s.subtree x) then .next (t.endRevoke x) else .next t

/-! ## At drain -/

/-- Place the initial actor of a context (R365). -/
def State.placeInitial (s : State) (id : CoreId) (x : Nat) : Built :=
  let h := bitsAt 9 39 (s.ccbWord x 19) * 512
  if h = 0 then .ok s
  else s.build id ⟨x, 0⟩ (nextGen (s.actor ⟨x, 0⟩).gen) h (bitsAt 0 8 (s.ccbWord x 20))
    (fun r => { r with param := r.param + s.ccbWord x 21, super := 0 }) true (s.candidates x)

/-- The initial actor of a new context is placed and the issuer is told; a failure revokes the context (R362): `false`
while the engine waits for a page. -/
def State.finishNew (s : State) (e : Entry) (n : Nat) : State × Bool :=
  let done (t : State) : State := t.onCtxs fun c => { c with reserved := c.reserved.filter (· != n) }
  let bad (t : State) : State × Bool := (((done t).revoke n []).ctxNotice e.who 9 n 9, true)
  match s.placeInitial e.who.core n with
  | .wait t => (t, false)
  | .ok t => ((done t).ctxNotice e.who 8 n 0xFF, true)
  | .full => bad s
  | .quota => bad s
  | .fail _ t => bad t

/-- CTXNEW drains (R356, R361, R362, R365): its notice is a release at DEVICE. -/
def State.drainCtxnew (s : State) (e : Entry) (n : Nat) (ovr : Word) (t : List DWord) : State × Bool :=
  if !s.performed e.who.core .device then (s, false)
  else if n ≠ 0 ∧ s.ctxLive n then s.finishNew e n
  else
    let w := s.childWords e.ctx n ovr t
    match s.statusOf (s.newFaults e.ctx n w) with
    | some st => ((s.onCtxs fun c => { c with reserved := c.reserved.filter (· != n) }).ctxNotice e.who 9 n st, true)
    | none =>
      let s1 := (s.onCtxs fun c => { c with ccb := Sparse.put c.ccb n w, created := c.created ++ [n] }).syncRotations
      let s2 := (s1.coresOf n).foldl (fun u id => if (u.coreAt id).rotation = [] then u.startOn id n else u) s1
      s2.finishNew e n

/-- The checks of CTXSET on a word (Table 13.6). -/
def State.setFaults (s : State) (issuer x i : Nat) (v : DWord) : List Nat :=
  let p := s.ctxParent x
  let w := ((List.range 32).map (s.ccbWord x)).set i v
  let part := s.ctxDepth x == 1 && decide (1 ≤ i ∧ i ≤ 3) && decide (issuer ≠ 0)
  (if !s.ctxPermitted issuer (dw x) ∨ !ccbRw i ∨ part then [8] else [])
    ++ (if s.ctxState x ≠ 1 ∨ s.ctxState p ≠ 1 then [7] else [])
    ++ (if badWords w then [6] else []) ++ (if s.aboveParent p ((List.replicate 32 0).set i v) then [5] else [])
    ++ (if i = 1 then s.intervalFaults p (some x) (bitsAt 50 14 v) (bitsAt 36 14 v) (s.ctxCsave x != 0) else [])

/-- CTXSET drains (R362, R418, R422), its notice and its TLBINV a release at DEVICE: word index 32 + i stands for a change of word i
that awaits its invalidation. -/
def State.drainCtxset (s : State) (e : Entry) (x i : Nat) (v : DWord) : State × Bool :=
  let id := e.who.core
  if !s.performed id .device then (s, false)
  else if 32 ≤ i then
    if s.ctxs.invals.any fun a => decide (a.core = id ∧ a.ctx = x ∧ a.page = none) then (s, false)
    else (s.ctxNotice e.who 8 x (i - 32), true)
  else
    match s.statusOf (s.setFaults e.ctx x i v) with
    | some st => (s.ctxNotice e.who 9 x st, true)
    | none =>
      let s1 := s.setCcbWord x i v
      let s2 := if 1 ≤ i ∧ i ≤ 4 then
          let u := s1.tdispError (fun y => y == x)
          if s.ctxDepth x = 1 then
            u.extend (29 + (x - 1)) (Config.sm3 ((List.range 4).flatMap fun j => bytesOf 8 (u.ccbWord x (j + 1)).toNat))
          else u
        else s1
      if i = 1 then
        let s3 := s2.setCcbField x 0 32 4 3
        (s3.onCtxs fun c => { c with resizing := c.resizing ++ [⟨x, s.ccbWord x 1, e.who, 0, false⟩] }, true)
      else if 2 ≤ i ∧ i ≤ 4 then
        let s3 := s2.startInval id x none
        (s3.modCore id fun c => { c with committed := match c.committed with
          | h :: rest => { h with kind := .actor (.ctxset x (32 + i) v) } :: rest
          | [] => [] }, false)
      else (s2.ctxNotice e.who 8 x i, true)

/-- CTXREVOKE drains (R362): a target that is not permitted by now is refused with status 8. -/
def State.drainCtxrevoke (s : State) (e : Entry) (x : Nat) : State × Bool :=
  if !s.performed e.who.core .device then (s, false)
  else if s.ctxPermitted e.ctx (dw x) then (s.revoke x [e.who], true)
  else (s.ctxNotice e.who 9 x 8, true)

/-! ## Changes of interval (R380) -/

/-- The cores of a context's subtree that a change of interval takes from it: held before, not now. -/
def State.removedCores (s : State) (r : Resizing) : List CoreId :=
  (s.workCores.map (·.1)).filter fun id => (s.coreAt id).router.val
    && inInterval (bitsAt 50 14 r.word) (bitsAt 36 14 r.word) (s.lciOf id) && !s.holds r.ctx id
/-- The cores it adds. -/
def State.addedCores (s : State) (r : Resizing) : List CoreId :=
  (s.workCores.map (·.1)).filter fun id => (s.coreAt id).router.val
    && !inInterval (bitsAt 50 14 r.word) (bitsAt 36 14 r.word) (s.lciOf id) && s.holds r.ctx id

/-- The actors that still stand on removed cores. -/
def State.stranded (s : State) (r : Resizing) : List ActorId :=
  let ids := s.removedCores r
  (s.acts.tab.filter fun e => decide ((ActorId.ofKey e.1).ctx = r.ctx) && e.2.st.alive && ids.contains e.2.core).map
    fun e => ActorId.ofKey e.1

/-- What a change of interval can do next. -/
inductive ResizeStep where
  /-- the added cores pass from the parent -/
  | grow
  | begin (x : ActorId)
  | move (x : ActorId)
  | drop
  | finish
  | wait
  deriving DecidableEq, Repr

/-- The cores added that pass from the parent: those no sibling holds (R358, R380). -/
def State.passingCores (s : State) (r : Resizing) : List CoreId :=
  (s.addedCores r).filter fun id => (s.tenants id).all fun y => y == s.ctxParent r.ctx

/-- May the cores added pass from the parent: has everything of it there drained, SENDs that wait for a reservation apart (R166,
R369, R380)? -/
def State.growReady (s : State) (r : Resizing) : Bool :=
  let up := s.ctxParent r.ctx
  (s.passingCores r).all fun id => (s.dropWaiting id (fun y => y == up) true).tenantGone id fun y => y == up

/-- The added cores pass from the parent, whose strands they leave, after its scrub of them (R133, R380 step 2): those that siblings hold
have nothing of the parent's, and are shared from now on. -/
def State.grow (s : State) (r : Resizing) : State :=
  let t (y : Nat) : Bool := y == s.ctxParent r.ctx
  let new := s.passingCores r
  let s1 := new.foldl (fun u id => ((u.dropWaiting id t true).leaveStrands id t).scrubCore id t) s
  let s2 := (s1.onCtxs fun c => { c with resizing := c.resizing.map fun q => if q = r then { q with grown := true } else q }).syncRotations
  new.foldl (fun u id => if (u.coreAt id).rotation = [] then u.startOn id r.ctx else u) s2

/-- The next step of a change of interval: the added cores pass, an actor stops firing, an actor moves, the SENDs that still wait for a
reservation on the cores given up are discarded (R166), or all is done. -/
def State.resizeStep (s : State) (r : Resizing) : ResizeStep :=
  let xs := s.stranded r
  let ids := s.removedCores r
  if !r.grown then (if s.growReady r then .grow else .wait)
  else
  match xs.find? fun x => (s.actor x).mig.isNone && ((s.coreAt (s.actor x).core).slotAt (s.actor x).slot).st == .waiting
      && ((s.coreAt (s.actor x).core).slotAt (s.actor x).slot).resume.isNone with
  | some x => .begin x
  | none => match xs.find? fun x => ((s.actor x).mig.any fun m => m.core == 2 ^ 14) && s.moveReady x with
    | some x => .move x
    | none =>
      if xs = [] ∧ s.sendWaits [r.ctx] ids then .drop
      else if xs = [] ∧ (s.acts.tab.all fun e => !(decide ((ActorId.ofKey e.1).ctx = r.ctx) && ids.contains e.2.core)
          || e.2.death.isNone) ∧ ids.all (fun id => !(s.standsOn [r.ctx]).contains id || (s.dropWaiting id (fun y => y == r.ctx) true).tenantGone id fun y => y == r.ctx)
      then .finish else .wait

/-- The end of a change of interval (R380 steps 4 and 5): the removed cores are scrubbed of the context where it stands on them, and
what a save area holds for others is abandoned. -/
def State.endResize (s : State) (r : Resizing) : State :=
  let t (y : Nat) : Bool := y == r.ctx
  let up := s.ctxParent r.ctx
  let gone := s.removedCores r
  let here := gone.filter (s.standsOn [r.ctx]).contains
  let s1 := gone.foldl (fun u id => u.leaveStrands id t) s
  let s2 := gone.foldl (fun u id =>
    if here.contains id then ((u.dropWaiting id t true).scrubCore id t).scrubAbsent id t else u.scrubAbsent id t) s1
  let s3 := (s2.setCcbField r.ctx 0 32 4 1).onCtxs fun c => { c with resizing := c.resizing.erase r }
  let s4 := s3.syncRotations
  let s5 := here.foldl (fun u id => if (u.coreAt id).rotation = [] then u.startOn id up else u) s4
  s5.ctxNotice r.who 11 r.ctx r.died

/-- RESIZE (R380): a drained change of word 1 takes its next step. -/
def execResize (x : Nat) (s : State) : Res :=
  match s.ctxs.resizing.find? fun r => r.ctx == x with
  | none => .next s
  | some r => match s.resizeStep r with
    | .grow => .next (s.grow r)
    | .begin y => .next (s.modActor y fun q => { q with mig := some ⟨2 ^ 14, s.thisDev, .here s.who, true, false⟩ })
    | .move y =>
      (match s.moveTo y (s.candidates x) with
      | .ok u => .next (u.grantAll y)
      | .fail _ t => .next ((t.kill y 15).onCtxs fun c => { c with resizing := c.resizing.map fun q =>
          if q = r then { q with died := q.died + 1 } else q })
      | .wait t => .next t)
    | .drop => .next ((s.removedCores r).foldl (fun u id => u.dropWaiting id (fun y => y == r.ctx) true) s)
    | .finish => .next (s.endResize r)
    | .wait => .next s

/-! ## Trap messages (R363, R364) -/

/-- Where a trap message can go now. -/
inductive Route where
  | actor (x : ActorId)
  | ring (id : CoreId)
  | wait
  deriving DecidableEq, Repr

/-- Has a context's handler died with a restart still possible, so that its messages stay held for the next incarnation (R364, log
entry 124)? -/
def State.handlerReturns (s : State) (x : Nat) : Bool :=
  let r := s.actor ⟨x, 0⟩
  s.ctxH x && r.st == .leaving && r.super != 0 && !r.quiet && r.sge

/-- The route of a trap for a context (R363, R364): its handler, or that of the nearest ancestor that has one. -/
def State.route (s : State) : Nat → Nat → Route
  | 0, _ => .ring .root
  | n + 1, x =>
    if x = 0 then .ring .root
    else if s.ctxDepth x ≤ 1 then .ring (.service (s.ctxPidx x))
    else
      match s.handlerActor x with
      | none => if s.handlerReturns x then .wait else s.route n (s.ctxParent x)
      | some y =>
        let r := s.actor y
        if r.st.alive ∧ r.mcount + r.mrsv < 16 ∧ s.inSlot y then .actor y else .wait

/-- The bytes of a trap message (Table 13.8). -/
def TrapMsg.bytes (m : TrapMsg) : List Byte :=
  bytesOf 8 (6 + 2 ^ 8 * (m.code % 256) + 2 ^ 16 * (m.target % 4096) + 2 ^ 32 * (m.info % 2 ^ 32)) ++ bytesOf 8 m.taddr.toNat
    ++ bytesOf 8 m.name.toNat ++ bytesOf 8 (m.lci % 2 ^ 14) ++ List.replicate 32 0

/-- The context whose handler a route leads to. -/
def Route.ctx : Route → Nat
  | .actor x => x.ctx
  | .ring (.service p) => p + 1
  | _ => 0

/-- Deliver a held trap message on its route; `none` where it must wait. The handler's context may then complete the page
request it carries (R349). -/
def State.deliverTrap (s : State) (m : TrapMsg) : Option State :=
  let route := s.route 9 m.target
  let got (t : State) : State := if m.code = 0x80 then
      t.onCtxs fun c => { c with prq := c.prq.map fun e =>
        if e.id = m.info % 1024 then { e with receiver := some route.ctx } else e }
    else t
  match route with
  | .wait => none
  | .ring id => (s.ringWrite id 0 m.bytes).map fun t => got (t.onCtxs fun c => { c with traps := c.traps.erase m })
  | .actor x => some (got ((s.mailWrite x m.bytes .core).onCtxs fun c => { c with traps := c.traps.map fun q =>
      if q = m then { q with holder := some x.ctx } else q }))

/-- The oldest held message that can be delivered, none passing an earlier one for the same target (R348). -/
def State.nextTrap (s : State) : List TrapMsg → List Nat → Option State
  | [], _ => none
  | m :: rest, seen =>
    if m.holder.isSome then s.nextTrap rest seen
    else if seen.contains m.target then s.nextTrap rest seen
    else match s.deliverTrap m with
      | some t => some t
      | none => s.nextTrap rest (m.target :: seen)

/-- TRAP_MESSAGE_DELIVERY (R348, R364). -/
def execTrapMessageDelivery (s : State) : Res := .next ((s.nextTrap s.ctxs.traps []).getD s)

/-! ## Failed contexts and service state (R367, R384, R385) -/

/-- The nearest context with FD = 1 in a chain; a partition counts as one (R367). -/
def State.faultDomain (s : State) (x : Nat) : Option Nat :=
  (s.chain x).find? fun y => bitAt 4 (s.ccbWord y 16) || s.ctxDepth y == 1

/-- CONTEXT_FAILED (R367): an error charged to context x. -/
def execContextFailed (x : Nat) (s : State) : Res :=
  let s1 := s.onCtxs fun c => { c with failed := c.failed.filter (· != x) }
  match s.faultDomain x with
  | none => .next s1
  | some y => .next ((s1.revoke y []).raiseTrap (s.ctxParent y) 0x84 y 0 0 0)

/-- SERVICE_CORE_FAULT (R385): an event outside its own execution stops a service core. -/
def execServiceCoreFault (p code : Nat) (s : State) : Res :=
  .next ((s.modCore (.service p) fun c => { c with run := .stopped, wait := none }).raiseTrap 0
    (if code % 256 = 0x42 then 0x81 else 0x82) (p % 32 + 256 * (code % 256)) 0 0 0)

/-- The functions bound in a subtree see a reset (R384). -/
def State.resetFuncs (s : State) (x : Nat) : State :=
  (s.hub.funcs.filter fun e => e.2.bound && s.inSubtree x e.2.ctx).foldl (fun t e => t.setFunc e.1 { t.func e.1 with rst := true }) s

/-- SERVICE_UNCORRECTABLE (R384). -/
def execServiceUncorrectable (u : ServiceUnit) (s : State) : Res :=
  match u with
  | .service p =>
    let s1 := if s.ctxLive (p + 1) then (s.resetFuncs (p + 1)).revoke (p + 1) [] else s
    .next (s1.raiseTrap 0 0xC0 (p % 32) 0 0 0)
  | .root => .next s.deviceReset

/-- SCRUN_WRITE (R385, Table 15.1): the root monitor restarts a stopped service core. -/
def execScrunWrite (p : Nat) (v : DWord) (s : State) : Res := .next (s.scrun p v)

end Sys2Proof.Machine
end

