-- ==== Sys2Proof/Machine/Locket.lean ====
section
/-!
DEFINITION. The Beyma fabric interface (R390 to R409): requests that arrive from other devices, the answers to this
device's own, resends and the loss of a device, tokens, rounds that span devices, and Locket streams.
-/

namespace Sys2Proof.Machine

/-! ## Requests that arrive (R396, R399, R400) -/

/-- The partition of this device that owns a range, where an import entry admits an access of a device's partition
(R400, Table 14.4). -/
def State.admitted (s : State) (dev pidx pa n : Nat) (write : Bool) : Option Nat :=
  (List.range 256).findSome? fun i =>
    let e := Sparse.get 0 s.fab.imports (2 * i)
    let base := bitsAt 12 28 e * 4096
    let len := bitsAt 12 28 (Sparse.get 0 s.fab.imports (2 * i + 1)) * 4096
    if bitAt 63 e && bitsAt 56 6 e == dev && bitsAt 51 5 e == pidx && (!write || bitAt 62 e)
        && decide (base ≤ pa ∧ pa + n ≤ base + len ∧ pa + n ≤ hbmEnd) then
      some (bitsAt 40 5 e)
    else none

/-- Where a request stands once it has arrived: answered, its answer due later, or waiting at the interface (R432), which may first ask for a
page. -/
inductive Arrived where
  | answered (s : State) (e : FabricEnd)
  | later (s : State)
  | wait (s : State)

/-- Send a notice of the migration counters to the requesting partition's service core (R265): its sender is the partition that
holds the frame, and it waits for its flow and tokens (R396, R402). -/
def State.sendNotice (s : State) (p dev pidx : Nat) (bs : List Byte) : State :=
  s.enqueueReq engineFlow dev (p + 1) .none (.migrationNotice pidx bs)

/-- A memory request: admission, the owning partition's state, counting, and on to the port (R264, R399, R400). -/
def State.memRequest (s : State) (dev pidx pa n : Nat) (write : Bool) (via : PageUse) (go : State → Arrived) : Arrived :=
  match s.admitted dev pidx pa n write with
  | none => .answered s .refused
  | some p =>
    if !s.ctxNamed (p + 1) then .answered s .gone
    else
      match go s with
      | .wait t => .wait t
      | .later t =>
        if via.mode = 3 then
          let c := t.countAccess pa n dev via.ctx
          .later (c.2.foldl (fun u bs => u.sendNotice p dev pidx bs) c.1)
        else .later t
      | r => r

/-- An operation from the fabric joins those that wait for their ports. -/
def State.fromFabric (s : State) (o : PortOp) : Arrived :=
  .later (s.onRam fun r => { r with order := Sparse.set [] r.order fabricPoint (s.orderAt fabricPoint ++ [o]) })

/-- May a request from a partition of another device name an actor's context (R271): a context of its partition, or for an
operation that ends actors the context of the issuer's name or a descendant? -/
def State.mayAsk (s : State) (pidx : Nat) (tree : Option DWord) (x : ActorId) : Bool :=
  match tree with
  | none => decide (s.partitionOf x.ctx = pidx + 1)
  | some frm => (nameId frm).ctx == x.ctx || s.inSubtree (nameId frm).ctx x.ctx

/-- Must mail wait at the interface, since earlier mail for the same actor is still out from here, sent on to where the actor was (R297, R298)? Mail
that comes back itself waits for no other than what precedes it. -/
def State.mailBehind (s : State) (y : ActorId) (r : FabricReq) : Bool :=
  let out := (s.mailFlows.map (s.mailOn y)).filter fun l => !l.isEmpty
  (mailTo r).isSome && (if out.any fun l => l.contains r then !(out.any fun l => l.head? == some r) else !out.isEmpty)

/-- Does a request meet an operation of an actor on that peer which is on its way: the two ends of a link or monitor change as one step (R284), so that
what the peer's death sends waits for the answer? -/
def State.meetsOperation (s : State) (y : ActorId) (frm : DWord) : Bool :=
  s.fab.outs.any fun f => f.2.unacked.any fun q => decide (q.who = s.asIssuer y) && (match q.req with
    | .link n _ => decide (s.idOf n = s.idOf frm)
    | .unlink n _ => decide (s.idOf n = s.idOf frm)
    | .watch n _ _ => decide (s.idOf n = s.idOf frm)
    | .unwatch n _ _ => decide (s.idOf n = s.idOf frm)
    | _ => false)
/-- The peer whose end of a link or monitor a request closes. -/
def closesFor : FabricReq → Option DWord
  | .message _ bs _ => if field bs 0 1 = 2 then some (field8 bs 8) else none
  | .exitSignal _ frm _ _ _ link _ => if link then some frm else none
  | _ => none

/-- A request for an actor by its name (R270, R297, R399): the addressed context first, then whether the issuer may name it, then
the actor, here or where it has moved on to. A name of another device that is not here goes on to that device; what that device itself has sent
here finds it gone, but for a tile, which a restart may yet receive (R156). -/
def State.nameRequest (s : State) (at' : Nat × Nat × Nat) (r : FabricReq) (n : DWord) (may : State → ActorId → Bool)
    (k : ActorId → Arrived) : Arrived :=
  let x := s.idOf n
  let home := !x.own && at'.1 == s.homeOf x
  if !s.ctxNamed x.ctx then .answered s .gone
  else
    match s.resolve n with
    | .here y =>
      if !may s y then .answered s .denied
      else if !s.inSlot y || s.mailBehind y r || (closesFor r).any (s.meetsOperation y) then .wait s
      else k y
    | .wait => .wait s
    | .away d =>
      if home && d == s.homeOf x then (match r with
        | .tile _ _ _ => if s.mayReturn n then .wait s else .answered s .gone
        | _ => .answered s .gone)
      else .later (s.enqueueReq engineFlow d x.ctx (.relay at'.1 at'.2.1 at'.2.2) r)
    | .gone => .answered s .gone

/-- A control message from another device: a down message ends the watching entry it answers (R292), and a reply uses its reservation
(R299). -/
def State.messageIn (s : State) (y : ActorId) (bs : List Byte) (sc : Scope) : State :=
  if field bs 0 1 = 4 ∧ 0 < (s.actor y).mrsv then s.replyWrite y bs sc
  else
    let s1 := if field bs 0 1 = 2 then
        s.modActor y fun r => r.dropLink (field8 bs 8) .watching (some (BitVec.ofNat 32 (field bs 16 4)))
      else s
    s1.mailArrive y bs sc

/-- An actor of this device has died on another, where its steps are over (R290): a supervisor's children die with it (R316), and the restart engine
and its job learn it. -/
def State.diedAway (s0 : State) (x : ActorId) (reason : Nat) : State :=
  let s := if (s0.super x).sup then s0.orphan x fun t y => State.killN (t.acts.supers.length + 1) t y 1 true else s0
  let again := s.acts.restarts.any fun q => decide (s.idOf q.dead = x)
  let s1 := (s.modActor x fun r => { r with
    dev := 0, links := [], linkRsv := 0, mrsv := 0, xreason := reason, death := none
    st := if again then .restarting else .leaving }).handDeath x
  let pending := s1.acts.deaths.any fun d => decide (d.dead = s1.nameOf x)
  let s2 := s1.modActor x fun r => { r with quiet := false }
  (if (s2.actor x).st = .leaving ∧ !pending then s2.freeIndexOf x else s2).writeBack x

/-- What the home of a supervisor that is on another device does for one of its operations (R308 to R311, log entry 118): `false` while the engine
waits for a page. -/
def State.remoteSup (s : State) (me : ActorId) (f : Nat) (x y : DWord) (bytes : List Byte) : State × FabricEnd × Bool :=
  match f with
  | 0 => if s.ctxSvbase me.ctx = 0 then (s, .refused, true) else (s.drainPolicy me x y, .ack, true)
  | 1 => let r := s.addChild me (s.actor me).core x.toNat y bytes
         (r.1, .ack, r.2)
  | 2 => (s.drainRemove me x.toNat, .ack, true)
  | 4 => (s.drainRestartChild me x.toNat, .ack, true)
  | 5 => (match (s.syncSuper me).reserveChild me with
    | .error r => (s, .data (bytesOf 8 r), true)
    | .ok (t, e, name) => (t, .data (bytesOf 8 0 ++ bytesOf 8 e ++ bytesOf 8 name.toNat), true))
  | _ => ((s.releaseIndices (nameId y).ctx (nameId y).idx 1).modEntry me fun r => r.release x.toNat, .ack, true)

/-- Word 0 of FSTRAND k. -/
def State.fstrand (s : State) (k : Nat) : DWord := Sparse.get 0 s.fab.fstrand (2 * k)
/-- A value of a strand round as a request carries it. -/
def strandValOf (op fmt : Nat) (lanes : List (BitVec 32)) (counts : List Nat) (conds : FlagSet) : StrandVal :=
  ⟨op, fmt, (lanes.zip counts).map fun c => ⟨if c.2 = 0 then none else some c.1.toNat, c.2, 0⟩, conds⟩
/-- The lanes that a request carries. -/
def StrandVal.words (v : StrandVal) : List (BitVec 32) :=
  v.lanes.map fun c => BitVec.ofNat 32 (if c.count = 0 then 0 else c.val.getD 0)
/-- The root nodes of a strand on this device: a router, or a die's base-tier node (R132, R435). -/
def State.strandRoots (s : State) (k : Nat) : List StrandNode :=
  ((s.workCores.map fun q : CoreId × Nat => StrandNode.router q.2) ++ (List.range 9).map StrandNode.base).filter fun n =>
    s.strandOn n k && decide (strandUp (s.strandAt n k) = 4)
/-- The source number of the flows of the hub's strand rounds. -/
def strandFlow : Nat := engineFlow + 1
/-- The child devices of FSTRAND k, in increasing number. -/
def State.strandKids (s : State) (k : Nat) : List Nat := maskBits 64 (Sparse.get 0 s.fab.fstrand (2 * k + 1)).toNat
/-- Has a device left a strand (R404)? -/
def State.strandGone (s : State) (k d : Nat) : Bool := s.fab.departed.contains (k, d)

/-- A round's result goes down to this device's members and to every child device that is left (R403, R404). -/
def State.strandDown (s : State) (k : Nat) (v : StrandVal) : State :=
  let t := (s.strandRoots k).foldl (fun t n => t.strandDeliver n k v) s
  ((s.strandKids k).filter fun d => !s.strandGone k d).foldl (fun t d =>
    t.enqueueReq strandFlow d (bitsAt 52 12 (s.fstrand k)) .none
      (.strandResult k v.words (v.lanes.map (·.count)) v.conds)) t

/-- Perform a request of another device (R391, R392, R396, R399, R403). A write of a whole granule is one step that clears its
poison (R262, R263). -/
def State.perform (s : State) (dev flow seq pidx : Nat) (r : FabricReq) : Arrived :=
  let op (pa : Nat) (k : PortKind) (via : PageUse) : PortOp :=
    ⟨pa, k, via.cmp, ⟨.root, none, 0⟩, none, .fabric dev flow seq⟩
  let here := (dev, flow, seq)
  match r with
  | .load pa n via => s.memRequest dev pidx pa n false via fun t =>
      if (t.orderAt fabricPoint).any fun o => (List.range n).any fun i => o.at (pa + i) != .no then .wait t
      else
        let p := t.port (portOf pa)
        .later (t.setPort (portOf pa) { p with reads := p.reads ++ [⟨pa, n, dev, flow, seq, via.cmp⟩] })
  | .store pa bs via => s.memRequest dev pidx pa bs.length true via fun t =>
      t.fromFabric (op pa (if bs.length = 4096 ∧ pa % 4096 = 0 then .granule bs
        else if bs.length = 1024 ∧ pa % 1024 = 0 then .block bs else .store bs (List.range bs.length)) via)
  | .masked pa bs mask via => s.memRequest dev pidx pa bs.length true via fun t => t.fromFabric (op pa (.store bs mask) via)
  | .amo pa n o y via => s.memRequest dev pidx pa n true via fun t => t.fromFabric (op pa (.amo o n y) via)
  | .cas pa n y z via => s.memRequest dev pidx pa n true via fun t => t.fromFabric (op pa (.cas n y z) via)
  | .amobnd pa n y z via => s.memRequest dev pidx pa n true via fun t => t.fromFabric (op pa (.bnd n y z) via)
  | .elem pa o f cnt rm es via =>
      let n := es.foldl (fun m e => Nat.max m (e.1 + slotSize f cnt)) 0
      s.memRequest dev pidx pa n true via fun t => t.fromFabric (op pa (.elem ⟨o, f, cnt, rndMode rm .rne, es⟩) via)
  | .tile n p bs => s.nameRequest here r n (fun _ _ => true) fun _ =>
      (match s.destOf n p with
      | .here y =>
        let ip := (s.actor y).inPort p
        let tile := bs.take ip.slotBytes
        if 0 < ip.freeCount then
          .answered ((s.modActor y fun r => r.setIn p (r.inPort p).reserve).writeTile y p ip.next tile .system) .ack
        else if ip.asks.length < 16 then
          .later (s.modActor y fun r => r.setIn p { r.inPort p with asks := (r.inPort p).asks ++ [.fabric dev flow seq (nameGen n) tile] })
        else .wait s
      | .gone 4 => .answered s .refused
      | .wait => .wait s
      | _ => .answered s .gone)
  | .message n bs sc => s.nameRequest here r n (fun t x => field bs 0 1 != 3 || t.mayAsk pidx none x) fun y =>
      .answered (s.messageIn y bs sc) .ack
  | .exitSignal n frm reason tag timer link sc => s.nameRequest here r n (fun t x => link || t.mayAsk pidx none x) fun y =>
      .answered ((if link then s.modActor y fun r => r.dropLink frm .link none else s).exitArrive y frm reason tag timer sc) .ack
  | .link n frm => s.nameRequest here r n (fun t x => t.mayAsk pidx none x) fun y =>
      let me := FabricEnd.data (bytesOf 8 (s.nameOf y).toNat)
      if (s.linkFor y frm .link none).isSome then .answered s me
      else if !(s.actor y).linkRoom then .answered s .refused
      else .answered (s.addLink y ⟨frm, .link, 0⟩) me
  | .unlink n frm => s.nameRequest here r n (fun t x => t.mayAsk pidx none x) fun y =>
      .answered (s.modActor y fun r => r.dropLink frm .link none) .ack
  | .watch n frm tag => s.nameRequest here r n (fun t x => t.mayAsk pidx none x) fun y =>
      if !(s.actor y).linkRoom then .answered s .refused
      else .answered (s.addLink y ⟨frm, .watchedBy, tag⟩) (.data (bytesOf 8 (s.nameOf y).toNat))
  | .unwatch n frm tag => s.nameRequest here r n (fun t x => t.mayAsk pidx none x) fun y =>
      .answered (s.modActor y fun r => r.dropLink frm .watchedBy (some tag)) .ack
  | .kill n frm why => s.nameRequest here r n (fun t x => t.mayAsk pidx (some frm) x) fun y => .answered (s.kill y why) .ack
  | .portcfg n _ p => s.nameRequest here r n (fun t x => t.mayAsk pidx none x) fun y =>
      let ip := (s.actor y).inPort p
      .answered s (if ip.en then .data [ip.size.setWidth 8] else .refused)
  | .migrate n frm v => s.nameRequest here r n (fun t x => t.mayAsk pidx (some frm) x) fun y =>
      .answered (s.modActor y fun r => { r with mig := some ⟨bitsAt 0 14 v, bitsAt 18 12 v,
        if nameGen frm = 0 then .service dev pidx else .name frm, false, false⟩ }) .ack
  | .move n core block links rings bytes tags =>
      if !s.ctxNamed (nameId n).ctx then .answered s .gone
      else (match s.arrive n core block links rings bytes tags with
        | some (t, place) => .answered (t.grantAll (t.idOf n)) (.data (bytesOf 4 place))
        | none => .answered s .refused)
  | .died n reason =>
      let x := s.idOf n
      .answered (if x.own ∧ s.nameOf x = n ∧ (s.actor x).dev ≠ 0 then s.diedAway x reason else s) .ack
  | .located n place =>
      let x := s.idOf n
      .answered (if x.own ∧ s.nameOf x = n ∧ (s.actor x).dev ≠ 0 ∧ place / 2 ^ 20 ≠ s.thisDev then
        (s.modActor x fun r => { r with dev := place / 2 ^ 20 + 1, place := place % 2 ^ 20 }).relocated x
      else s) .ack
  | .supcfg n f x y bs =>
      let me := s.idOf n
      if !me.own ∨ s.nameOf me ≠ n ∨ (s.actor me).dev = 0 ∨ !s.ctxNamed me.ctx then .answered s .gone
      else (match s.remoteSup me f x y bs with
        | (t, e, true) => .answered t e
        | (t, _, false) => .wait t)
  | .strandValue k op fmt lanes counts conds =>
      let e := s.fstrand k
      if !bitAt 51 e ∨ !(s.strandKids k).contains dev then .answered s .refused
      else if !s.ctxNamed (bitsAt 52 12 e) ∨ s.strandGone k dev then .answered s .gone
      else .answered (s.onFab fun f => { f with rounds := f.rounds ++ [(k, dev, strandValOf op fmt lanes counts conds)] }) .ack
  | .strandResult k lanes counts conds =>
      let e := s.fstrand k
      if !bitAt 51 e ∨ bitsAt 38 6 e ≠ dev then .answered s .refused
      else if !s.ctxNamed (bitsAt 52 12 e) then .answered s .gone
      else
        let t := s.onFab fun f => { f with strandUps := f.strandUps.eraseP fun u => u.1 == k }
        .answered (t.strandDown k (strandValOf (bitsAt 48 3 e) (bitsAt 45 3 e) lanes counts conds)) .ack
  | .migrationNotice p bs => .answered ((s.ringWrite (.service p) 1 bs).getD s) .ack
  | .granule _ _ _ _ => .answered s .refused

/-- A flow this device receives. -/
def State.inFlow (s : State) (dev flow : Nat) : InFlow := Sparse.get ⟨0, []⟩ s.fab.ins (flowKey flow dev)

/-- The next number is expected (R396). -/
def State.expectNext (s : State) (dev flow : Nat) : State :=
  let f := s.inFlow dev flow
  s.onFab fun b => { b with
    ins := Sparse.put b.ins (flowKey flow dev) { f with expected := (f.expected + 1) % 2 ^ 32 } }

/-- May an arrival be taken now: it is none the receiver keeps waiting at the interface? -/
def State.arrivalReady (s : State) (dev flow seq pidx : Nat) (r : FabricReq) : Bool :=
  decide (seq ≠ (s.inFlow dev flow).expected) || (match s.perform dev flow seq pidx r with
    | .wait t => decide (t.ctxs.wants ≠ s.ctxs.wants)
    | _ => true)

/-- Does an arrival stay at the interface (R432)? -/
def State.arrivalStays (s : State) (dev flow seq pidx : Nat) (r : FabricReq) : Bool :=
  decide (seq = (s.inFlow dev flow).expected) && (match s.perform dev flow seq pidx r with
    | .wait _ => true
    | _ => false)

/-- FABRIC_REQUEST_ARRIVAL (R396): the expected number is performed; a lower one is acknowledged again from the replies
kept, a higher one discarded, and neither changes anything. -/
def execFabricRequestArrival (dev flow seq pidx : Nat) (r : FabricReq) (s : State) : Res :=
  if seq ≠ (s.inFlow dev flow).expected then .next s
  else
    match s.perform dev flow seq pidx r with
    | .answered t e => .next ((t.expectNext dev flow).reply dev flow seq e)
    | .later t => .next (t.expectNext dev flow)
    | .wait t => .next t

/-! ## Answers to this device's requests -/

/-- An access of a core's waiting code fails with a reason (R392, R398, R399, R400, R417). -/
def State.coreFails (s : State) (id : CoreId) (reason : Nat) (addr : DWord) : State :=
  ((s.refocus id).fatal (0x40 + reason) reason addr).refocus s.focus

/-- The instruction that a returning atomic's value completes, on the core that waits for it. -/
def State.atomicAnswer (s : State) (id : CoreId) (i : Instr) (bs : List Byte) : Option State :=
  let t := s.refocus id
  (t.amoCall i).map fun a => ((t.onCore fun c => { c with wait := none }).amoDone a false (natOf bs)).refocus s.focus

/-- The SUPCFG.add of a core that waits for the reservations of its supervisor's home goes on with them, or ends with the reason (R309). -/
def State.addAnswer (s : State) (id : CoreId) (i : Instr) (bs : List Byte) : Option State :=
  match i with
  | .supcfgAdd d a =>
    let t := (s.refocus id).onCore fun c => { c with wait := none }
    let r := match field bs 0 8 with
      | 0 => t.addIssued d (field bs 8 8) (field8 bs 16) (t.core.load (la (t.rs a)) 128)
      | why => t.killReason why 0
    (match r with
    | .next u => some (u.refocus s.focus)
    | _ => none)
  | _ => none

/-- Lines of the remote-line cache: 32 MiB of 128 B (R393). -/
def remoteLines : Nat := 2 ^ 18

/-- A line is filled by the answer to a request that left at an epoch and count (R393); a full cache gives up another, which the
device chooses. -/
def State.fillLine (s : State) (p : Place) (epoch left : Nat) (bs : List Byte) : State :=
  match p with
  | .peer d pa .cached => s.onFab fun f =>
      let kept := f.lines.filter fun l => !(l.dev == d && l.line == pa / 128)
      let room := if remoteLines ≤ kept.length then kept.eraseIdx (Config.freeChoice s.tick % kept.length) else kept
      { f with lines := room ++ [⟨d, pa / 128, epoch, bs, left, f.count⟩] }
  | _ => s

/-- The lines of a cached-remote page that a request loads or writes. -/
def metLines (r : FabricReq) : List Nat :=
  match r with
  | .load pa _ via => if via.mode = 2 then [pa / 128] else []
  | r => reqLines r
/-- An answer has arrived: its core has met what it brings, or what it wrote (R27). A line that was filled while a write of it was on its way is given
up, since it may hold what the write replaced. -/
def State.noteArrival (s : State) (dev : Nat) (q : OutReq) : State :=
  ((metLines q.req).foldl (fun t line => t.modCore q.who.core fun c => c.metLine dev line s.fab.count) s).onFab fun f =>
    { f with
      count := f.count + 1
      lines := f.lines.filter fun l => !(l.dev == dev && (reqLines q.req).contains l.line) }

/-- The reason with which an answer ends its requester. -/
def endReason : FabricEnd → Option Nat
  | .gone => some 10
  | .refused => some 4
  | .poison => some 6
  | _ => none

/-- An answer reaches the core that waits for it; a core that no longer does drops it (R399). What a stale request brings
serves no load: the instruction is issued again (R27). -/
def State.coreAnswer (s : State) (id : CoreId) (flow seq : Nat) (e : FabricEnd) (stale : Bool) (left : Nat) : State :=
  match (s.coreAt id).wait with
  | some ⟨.fabric f q p epoch addr, i⟩ =>
    if f = flow ∧ q = seq then
      match e with
      | .data bs => ((s.atomicAnswer id i bs).or (s.addAnswer id i bs)).getD
          (if stale then s.modCore id fun c => { c with wait := none }
          else (s.fillLine p epoch left bs).modCore id fun c => c.keep p bs)
      | .ack => s
      | _ => s.coreFails id ((endReason e).getD 10) addr
    else s
  | _ => s

/-- What an operation on a name of another device does at its issuer once that device has answered (R274, R284, R294): with the
peer's actual name, a slot size, or a refusal. -/
def State.nameAnswer (s : State) (w : Issuer) (op : ActorOp) (e : FabricEnd) : State :=
  match op, e with
  | .link _, .data bs =>
    let n := dw (natOf bs)
    let t := s.freeLinks w 1
    (match t.issuing w with
    | some i => if (t.linkFor i n .link none).isSome then t else t.addLink i ⟨n, .link, 0⟩
    | none => t)
  | .link _, .denied => (s.freeLinks w 1).killIssuer w 4
  | .link n, .refused => (s.freeLinks w 1).exitTo w n 4
  | .link n, _ => (s.freeLinks w 1).exitTo w n 10
  | .unlink n, .ack => (match s.issuing w with
    | some i => s.unlinkEntry i (s.linkFor i n .link none)
    | none => s)
  | .unmon n tag, .ack => (match s.issuing w with
    | some i => s.unlinkEntry i (s.linkFor i n .watching (some (tag.setWidth 32)))
    | none => s)
  | .monitor _ tag, .data bs =>
    let n := dw (natOf bs)
    let t := s.freeLinks w 1
    (match t.alive w with
    | some i => t.addLink i ⟨n, .watching, tag.setWidth 32⟩
    | none => t.enqueueReq w.core.key (t.deviceOf (t.idOf n)) ((w.actor.map (·.ctx)).getD 0) .none
        (.unwatch n ((t.issuerName w).getD 0) (tag.setWidth 32)))
  | .monitor _ _, .denied => (s.freeLinks w 1).killIssuer w 4
  | .monitor n tag, .refused => (s.freeLinks w 1).downTo w n 4 (tag.setWidth 32)
  | .monitor n tag, _ => (s.freeLinks w 1).downTo w n 10 (tag.setWidth 32)
  | .portcfg k n dport, .data bs => (match s.alive w with
    | some i => s.bindPort i k n dport (BitVec.ofNat 2 (natOf bs))
    | none => s)
  | .portcfg k n _, .refused => (match s.alive w with
    | some i => (s.unbind i k).exitTo w n 4
    | none => s)
  | .portcfg _ _ _, .denied => s.killIssuer w 4
  | .supcfg 0 _ _ _, .ack => (match s.alive w with
    | some i => s.modSuper i fun r => { r with sup := true }
    | none => s)
  | .portcfg k n _, _ => (match s.alive w with
    | some i => (s.unbind i k).exitTo w n 10
    | none => s)
  | _, .denied => s.killIssuer w 4
  | _, _ => s

/-- The answer that the entry at the head of a core awaits has come: the operation has its effect, and the entry leaves (R280). -/
def State.headAnswer (s : State) (c : CoreId) (e : FabricEnd) : State :=
  match (s.coreAt c).committed with
  | [] => s
  | en :: _ => (match en.kind with
    | .actor op => s.nameAnswer en.who op e
    | _ => s).popCommitted c

/-- One more granule of a stream is acknowledged (R407). -/
def streamAcked (t : Nat) (xs : List Stream) : List Stream :=
  xs.map fun x => if x.ticket = t then { x with acked := x.acked + 1 } else x

/-- The end of a request that no one waits for (R156, R271, R296, R399). -/
def State.loneAnswer (s : State) (w : Issuer) (dev : Nat) (r : FabricReq) (e : FabricEnd) : State :=
  let lost := match endReason e with
    | some why => s.killIssuer w why
    | none => s
  let denied := if e = .denied then s.killIssuer w 4 else s
  match r with
  | .store _ _ _ => lost
  | .masked _ _ _ _ => lost
  | .amo _ _ _ _ _ => lost
  | .cas _ _ _ _ _ => lost
  | .amobnd _ _ _ _ _ => lost
  | .elem _ _ _ _ _ _ _ => lost
  | .message _ _ _ => denied
  | .exitSignal _ _ _ _ _ _ _ => denied
  | .kill _ _ _ => denied
  | .migrate n _ _ => if (endReason e).isSome then s.noticeTo w n 2 [] else denied
  | .strandResult k _ _ _ => if (endReason e).isNone then s else s.onFab fun f => { f with
      departed := if f.departed.contains (k, dev) then f.departed else f.departed ++ [(k, dev)] }
  | .granule t _ _ _ => if e = .ack then s.onFab fun f => { f with streams := streamAcked t f.streams } else s
  | _ => s

/-- The line that a copy's request brings of a cached-remote page is filled, unless it was written meanwhile (R27, R393). -/
def State.copyFill (s : State) (dev : Nat) (q : OutReq) (bs : List Byte) : State :=
  match q.req with
  | .load pa _ via => if via.mode = 2 && !q.stale then s.fillLine (.peer dev pa .cached) q.epoch q.left bs else s
  | _ => s

/-- The reservations of a SUPCFG.add that no core waits for any more are released (R307). -/
def State.dropReserved (s : State) (c : CoreId) (flow : Nat) (q : OutReq) (e : FabricEnd) : State :=
  match q.req, e, (s.coreAt c).wait with
  | .supcfg n 5 _ _ _, .data bs, w =>
    let waits := match w with
      | some ⟨.fabric f k _ _ _, _⟩ => decide (f = flow ∧ k = q.seq)
      | _ => false
    if waits || field bs 0 8 != 0 then s
    else s.enqueueReq engineFlow (flow % 64) (nameId n).ctx .none (.supcfg n 6 (field8 bs 8) (field8 bs 16) [])
  | _, _, _ => s

/-- The end of a request reaches whoever sent it. -/
def State.endRequest (s : State) (flow : Nat) (q : OutReq) (e : FabricEnd) : State :=
  match q.wait with
  | .core c => (s.dropReserved c flow q e).coreAnswer c flow q.seq e q.stale q.left
  | .tile c => s.tileReply c flow q.seq e
  | .copy c => (match e with
    | .data bs => (s.copyFill (flow % 64) q bs).glAnswer c (.fabric flow q.seq) bs
    | .ack => s
    | _ => s.glFail c (.fabric flow q.seq) ((endReason e).getD 10))
  | .head c => s.headAnswer c e
  | .move x => (match q.req with
    | .move n _ _ _ _ _ _ => s.moveAnswer x n (flow % 64) e
    | _ => s)
  | .relay dev f seq => s.reply dev f seq e
  | .piece x va n => (match e with
    | .data bs => s.engAnswer x va n bs 0
    | e => s.engAnswer x va n [] ((endReason e).getD 10))
  | .none => s.loneAnswer q.who (flow % 64) q.req e
  | .engine => s.loneAnswer q.who (flow % 64) q.req e

/-- FABRIC_REPLY_ARRIVAL (R396, R399): an acknowledgement or answer takes its request from those unacknowledged. -/
def execFabricReplyArrival (flow seq : Nat) (r : FabricEnd) (s : State) : Res :=
  let f := s.outFlow flow
  match f.unacked.find? fun q => q.seq == seq with
  | none => .next s
  | some q =>
    let s1 := s.onFab fun b => { b with
      outs := Sparse.put b.outs flow { f with unacked := f.unacked.filter fun x => x.seq != seq } }
    .next ((s1.endRequest flow q r).noteArrival (flow % 64) q)

/-! ## Recovery and loss (R395 to R398, R404) -/

/-- The links and monitors of an actor that reach a lost device (R293). -/
def State.peerLost (s : State) (d : Nat) (x : ActorId) : State :=
  let hit (l : LinkEntry) : Bool :=
    (s.deviceOf (s.idOf l.peer) == d || nameDev l.peer == d) && d != s.thisDev
  let ls := (s.actor x).links.filter hit
  let s1 := s.modActor x fun r => { r with links := r.links.filter fun l => !hit l }
  ls.foldl (fun t l => match l.kind with
    | .link => t.postExit (t.nameOf x) l.peer 10
    | .watching => t.post (.message (t.nameOf x) 0x02 10 l.peer l.tag [] engineFlow .device)
    | .watchedBy => t) s1

/-- The strands of whose rounds a device is a child or the parent. -/
def State.strandsWith (s : State) (d : Nat) : List Nat :=
  (List.range 16).filter fun k => bitAt 51 (s.fstrand k) &&
    ((s.strandKids k).contains d || (!bitAt 44 (s.fstrand k) && bitsAt 38 6 (s.fstrand k) == d))

/-- A request to a device that is none of the domain ends (R270, R398). -/
def State.endUnsent (s : State) (q : EngReq) : State :=
  s.endRequest (flowKey q.src q.dev) ⟨0, q.req, ⟨.root, none, 0⟩, q.wait, 0, false, 0, 0⟩ .gone

/-- Does the value of a round await its result from a device? -/
def State.upAt (s : State) (d : Nat) (u : Nat × StrandVal) : Bool :=
  let e := s.fstrand u.1
  bitAt 51 e && !bitAt 44 e && bitsAt 38 6 e == d
/-- The rounds whose value went to a lost parent end at this device, as the root of its own subtree (R404). -/
def State.roundsDown (s : State) (d : Nat) : State :=
  (s.fab.strandUps.filter (s.upAt d)).foldl (fun t u => t.strandDown u.1 u.2.result)
    (s.onFab fun f => { f with strandUps := f.strandUps.filter fun u => !s.upAt d u })

/-- A device is declared lost (R398, R404): its flows end, and its name holders learn it (R293). -/
def State.deviceLost (s : State) (d : Nat) : State :=
  let flows := s.fab.outs.filter fun e => e.1 % 64 == d
  let s1 := s.onFab fun f => { f with
    fbdom := Sparse.set 0 f.fbdom d (setBits 62 1 1 (Sparse.get 0 f.fbdom d))
    outs := f.outs.map fun e => if e.1 % 64 = d then (e.1, { e.2 with unacked := [] }) else e
    pending := f.pending.filter fun q => q.dev != d
    departed := f.departed ++ ((s.strandsWith d).map fun k => (k, d)).filter fun e => !f.departed.contains e
    streams := f.streams.map fun x => if field x.desc 0x18 4 = d then { x with failed := true } else x }
  let s2 := flows.foldl (fun t e => e.2.unacked.foldl (fun t q => t.endRequest e.1 q .gone) t) s1
  let s3 := (s.fab.pending.filter fun q => q.dev == d).foldl (fun t q => t.endUnsent q) s2
  let s4 := s3.roundsDown d
  (s4.acts.tab.map fun e => ActorId.ofKey e.1).foldl (fun t x =>
    if (t.actor x).st.alive ∧ (t.actor x).dev = 0 then t.peerLost d x else t) s4

/-- DEVICE_LOST (R398): the ports to the device have all been gone for long enough. How long they have, no register tells. -/
def execDeviceLost (d : Nat) (s : State) : Res :=
  if bitsAt 0 24 (Sparse.get 0 s.fab.fbdom d) = 0 then .next (s.deviceLost d) else .next s

/-- The first request of an engine that can leave: no earlier one of its flow waits (R396). Where tokens are short its context is
marked as waiting (R402); one for a device that is no member of the domain ends. -/
def State.pendingMove (s : State) : Option State :=
  let qs := s.fab.pending
  (List.range qs.length).findSome? fun i => match qs[i]? with
    | none => none
    | some q =>
      if (qs.take i).any fun p => p.src == q.src && p.dev == q.dev then none
      else
        let left (t : State) : State := t.onFab fun f => { f with pending := qs.eraseIdx i }
        if !s.peerUp q.dev then some ((left s).endUnsent q)
        else match s.trySend q.src q.ctx q.dev ⟨.root, none, 0⟩ q.wait q.req with
          | (t, some _) => some (left t)
          | (t, none) => if t.fab.buckets = s.fab.buckets ∧ t.fab.waiting = s.fab.waiting then none else some t

/-- NRETRY, where 0 reads as 1 (Table 14.1). -/
def State.nretry (s : State) : Nat := Nat.max 1 (bitsAt 24 4 s.fab.fbe2e)

/-- END_TO_END_RESEND (R396, R398): the oldest unacknowledged request of a flow and every later one are sent again;
after NRETRY resends the device is declared lost. -/
def execEndToEndResend (flow : Nat) (s : State) : Res :=
  let f := s.outFlow flow
  match f.unacked with
  | [] => .next s
  | q :: _ =>
    if s.nretry ≤ q.tries then .next (s.deviceLost (flow % 64))
    else .next (s.onFab fun b => { b with
      outs := Sparse.put b.outs flow { f with unacked := f.unacked.map fun x => { x with tries := x.tries + 1 } } })

/-- One more, saturating at 16 bits. -/
def sat16 (n : Nat) : Nat := Nat.min (n + 1) 65535

/-- A port's link leads nowhere until it has trained (Table 14.1): it leaves every PMASK. -/
def leavePmask (p : Nat) (m : Sparse DWord) : Sparse DWord := m.map fun e => (e.1, setBits p 1 0 e.2)

/-- LINK_REPLAY (R395): RPL and CRCE rise; after 32 consecutive failed replays the port retrains. Whether the replay before this
one succeeded is not visible: a free value. -/
def execLinkReplay (p : Nat) (s : State) : Res :=
  let v := Sparse.get 0 s.fab.fbport p
  let n := if Config.freeBool s.tick then 1 else Sparse.get 0 s.fab.replays p + 1
  let up := setBits 48 16 (sat16 (bitsAt 48 16 v)) (setBits 32 16 (sat16 (bitsAt 32 16 v)) v)
  let train := decide (32 ≤ n)
  .next (s.onFab fun f => { f with
    replays := Sparse.set 0 f.replays p (if train then 0 else n)
    fbport := Sparse.set 0 f.fbport p (if train then setBits 0 2 1 (setBits 2 4 0 up) else up)
    fbdom := if train then leavePmask p f.fbdom else f.fbdom })

/-- PORT_RETRAIN (R395, Table 14.1): the port comes up towards a device, or fails and leaves every PMASK. A link that is up does not
retrain. -/
def execPortRetrain (p : Nat) (ok : Bool) (lanes peer : Nat) (s : State) : Res :=
  let v := Sparse.get 0 s.fab.fbport p
  if bitsAt 0 2 v = 2 ∨ 24 ≤ p then .next s
  else
    let new := if ok then setBits 0 2 2 (setBits 2 4 lanes v) else setBits 0 2 3 (setBits 2 4 0 v)
    let s1 := s.onFab fun f => { f with fbport := Sparse.set 0 f.fbport p new, fbdom := leavePmask p f.fbdom }
    let e := Sparse.get 0 s1.fab.fbdom peer
    .next (if ok then s1.onFab fun f => { f with fbdom := Sparse.set 0 f.fbdom peer (setBits p 1 1 e) } else s1)

/-- FBDOM_LOST_CLEAR (R398). -/
def execFbdomLostClear (d priv : Nat) (s : State) : Res := .next (s.lostClear d priv)

/-! ## Tokens (R402) -/

/-- TOK of a context. -/
def State.tok (s : State) (x : Nat) : Nat := bitsAt 0 9 (s.ccbWord x 14)
/-- The live children of a context. -/
def State.liveKids (s : State) (x : Nat) : List Nat :=
  (s.ctxs.ccb.map (·.1)).filter fun y => decide (y ≠ 0) && s.ctxLive y && decide (s.ctxParent y = x)
/-- The sum of TOK over the live children of a context. -/
def State.tokSum (s : State) (x : Nat) : Nat := ((s.liveKids x).map s.tok).sum
/-- The share of a context, as numerator and denominator. -/
def State.share (s : State) : Nat → Nat → Nat × Nat
  | 0, _ => (0, 1)
  | n + 1, x =>
    if x = 0 then (1, 1)
    else
      let p := s.ctxParent x
      let r := s.share n p
      (r.1 * s.tok x, r.2 * Nat.max 256 (s.tokSum p))
/-- The own grant of a context at a port: what its children's shares leave. -/
def State.grantAt (s : State) (x p : Nat) : Nat :=
  let r := s.share 10 x
  let t := s.tokSum x
  let m := Nat.max 256 t
  (Sparse.get fbrateReset s.fab.fbrate p).toNat * r.1 * (m - t) / (r.2 * m)

/-- The buckets of a port for the next interval, by context. -/
def State.refill (s : State) (p : Nat) (xs : List Nat) : List (Nat × Nat) :=
  let waits (x : Nat) : Bool := s.fab.waiting.any fun e => e.2 == 24 * x + p
  let pool := ((xs.filter fun x => !waits x).map fun x => s.bucket x p).sum
  let all := ((xs.filter waits).map fun x => s.grantAt x p).sum
  xs.map fun x =>
    let g := s.grantAt x p
    (24 * x + p, g + if waits x ∧ 0 < all then pool * g / all else 0)

/-- TOKEN_INTERVAL (R402): every bucket is set to its grant and its part of the pool. -/
def execTokenInterval (s : State) : Res :=
  let xs := (s.ctxs.ccb.map (·.1)).filter fun x => s.ctxLive x
  let new := (List.range 24).flatMap fun p => s.refill p xs
  .next (s.onFab fun f => { f with buckets := new.foldl (fun m e => Sparse.set 0 m e.1 e.2) [] })

/-! ## Rounds that span devices (R403, R404) -/

/-- Do the entries of the device's routers disagree with FSTRAND k? -/
def State.strandDiffers (s : State) (k : Nat) : Bool :=
  let e := s.fstrand k
  s.workCores.any fun q =>
    let r := s.strandAt (.router q.2) k
    strandEn r && (strandOp r != bitsAt 48 3 e || strandFmt r != bitsAt 45 3 e || strandCtx r != bitsAt 52 12 e)

/-- Has this device no value of its own for strand k: the context is gone, or every member below its roots has left (R133,
R404)? -/
def State.hubSilent (s : State) (k : Nat) : Bool :=
  let roots := s.strandRoots k
  !s.ctxNamed (bitsAt 52 12 (s.fstrand k)) || (!roots.isEmpty && roots.all fun n => s.strandSilent k strandFuel n)
/-- Is the hub the root of strand k, or of what is left of it (R403, R404)? -/
def State.hubRoot (s : State) (k : Nat) : Bool :=
  let e := s.fstrand k
  bitAt 44 e || s.strandGone k (bitsAt 38 6 e)

/-- The values of a round at the hub: the children in increasing number, the device's own last (R403). One that has left
gives absent lanes, and a device whose own context is gone gives nothing else, whatever its children have sent (R404). A round no one has
contributed to is sent up once, and not again before its result. -/
def State.hubValues (s : State) (k : Nat) : Option (List StrandVal) :=
  let e := s.fstrand k
  let find (d : Nat) : Option StrandVal := (s.fab.rounds.find? fun r => r.1 == k && r.2.1 == d).map (·.2.2)
  let absent := StrandVal.absent (bitsAt 48 3 e) (bitsAt 45 3 e) 0
  let kids := (s.strandKids k).map fun d => (find d).or (if s.strandGone k d then some absent else none)
  let own := (find s.thisDev).or (if s.hubSilent k then some absent else none)
  let sent := s.fab.strandUps.any fun u => u.1 == k
  let idle := !(s.fab.rounds.any fun r => r.1 == k) && (s.hubRoot k || sent)
  if !bitAt 51 e then none
  else if !s.ctxNamed (bitsAt 52 12 e) then (if s.hubRoot k ∨ sent then none else some [absent])
  else if idle then none else (kids ++ [own]).mapM id

/-- The first value of each device leaves the round. -/
def hubRest (k : Nat) : List Nat → List (Nat × Nat × StrandVal) → List (Nat × Nat × StrandVal)
  | _, [] => []
  | seen, r :: rest =>
    if r.1 = k ∧ !seen.contains r.2.1 then hubRest k (r.2.1 :: seen) rest else r :: hubRest k seen rest

/-- Combine a round at the hub and send it on; `none` while it is incomplete. -/
def State.hubCombine (s : State) (k : Nat) : Option State :=
  (s.hubValues k).map fun vs =>
    let e := s.fstrand k
    let op := bitsAt 48 3 e
    let fmt := bitsAt 45 3 e
    let v := if s.strandDiffers k then StrandVal.absent op fmt (flagOr (vs.map (·.conds)) ||| flagAP)
      else strandCombine op fmt vs
    let s1 := s.onFab fun f => { f with
      rounds := if s.ctxNamed (bitsAt 52 12 e) then hubRest k [] f.rounds else f.rounds.filter fun r => r.1 != k }
    if s.hubRoot k then s1.strandDown k v.result
    else (s1.onFab fun f => { f with strandUps := f.strandUps ++ [(k, v)] }).enqueueReq strandFlow (bitsAt 38 6 e)
      (bitsAt 52 12 e) .none (.strandValue k op fmt v.words (v.lanes.map (·.count)) v.conds)

/-- HUB_STRAND_COMBINE (R403). -/
def execHubStrandCombine (k : Nat) (s : State) : Res := .next ((s.hubCombine k).getD s)

/-! ## LOCKET (R405 to R408) -/

/-- BASE of a stream. -/
def Stream.base (x : Stream) : Nat := field x.desc 0x08 8
/-- The granules of a stream. -/
def Stream.granules (x : Stream) : Nat := field x.desc 0x10 8 / 4096
/-- The safe tier of a stream. -/
def Stream.safe (x : Stream) : Nat := field x.desc 0x18 4
/-- CODED. -/
def Stream.coded (x : Stream) : Bool := bitAt 0 (field8 x.desc 0x00 >>> 32)

/-- Does a descriptor break R406? -/
def badStream (tick : Nat) (bs : List Byte) : Bool :=
  let base := field bs 0x08 8
  let len := field bs 0x10 8
  let st := field bs 0x28 8
  decide (field bs 0 4 ≠ 1 ∨ 1 < field bs 4 4 ∨ 63 < field bs 0x18 4 ∨ field bs 0x24 4 ≠ 0 ∨ base % 4096 ≠ 0 ∨ len % 4096 ≠ 0
    ∨ len = 0 ∨ st % 64 ≠ 0 ∨ hbmEnd < st + 64 ∨ hbmEnd < base + len)
    || !((bs.drop 0x30).all (· == 0))
    || (decide (field bs 0x1C 4 = 0 ∨ 8 < field bs 0x1C 4) && Config.freeBool tick)

/-- Word 0 of a status block. -/
def Stream.status (x : Stream) (state reason : Nat) : DWord := dw (state + 2 ^ 8 * reason + 2 ^ 16 * x.ticket)
/-- The status block (Table 14.8). -/
def Stream.block (x : Stream) (state reason : Nat) : List Byte :=
  bytesOf 8 (x.status state reason).toNat ++ bytesOf 8 x.bytes ++ bytesOf 8 x.acked ++ bytesOf 8 x.poisoned
    ++ List.replicate 32 0

/-- Write a stream's status block. -/
def State.writeStatus (s : State) (x : Stream) (state reason : Nat) : State :=
  let o : PortOp := ⟨field x.desc 0x28 8, .store (x.block state reason) (List.range 64), 0, ⟨.root, none, 0⟩, none, .none⟩
  s.onRam fun r => { r with order := Sparse.set [] r.order fabricPoint (s.orderAt fabricPoint ++ [o]) }

/-- LOCKET.start (R405, R407). -/
def execLocketStart (d a : SReg) (s : State) : Res :=
  if s.priv < 2 then s.privilege
  else
    let x := (s.rs a).toNat
    let fail (r : Nat) : Res := (s.ws d (dw (2 ^ 8 * r))).done 8
    if x % 64 ≠ 0 ∨ hbmEnd < x + 64 then fail 1
    else
      match s.readTarget false ⟨.dev x, 0, 0⟩ (s.rs a) 64 with
      | .again t => .next t
      | .poison t => t.killReason 6 (s.rs a)
      | .ok bs =>
        let e := Sparse.get 0 s.fab.fbdom (field bs 0x18 4)
        if badStream s.tick bs then fail 1
        else if !bitAt 63 e ∨ !bitAt 61 e ∨ bitAt 62 e then fail 2
        else
          match ([1, 2, 3, 4] : List Nat).find? fun t => !(s.fab.streams.any fun x => x.ticket == t) with
          | none => fail 3
          | some t =>
            let st : Stream := ⟨t, bs, s.focus, 0, 0, 0, 0, false, false, []⟩
            let s1 := (s.onFab fun f => { f with streams := f.streams ++ [st] }).writeStatus st 1 0
            (s1.ws d (dw t)).done 8

/-- LOCKET.stat (R405, R407). -/
def execLocketStat (d a : SReg) (s : State) : Res :=
  if s.priv < 2 then s.privilege
  else
    let w := match s.fab.streams.find? fun x => x.ticket == bitsAt 0 3 (s.rs a) with
      | some x => x.status 1 0
      | none => 0
    (s.ws d w).done 8

/-- LOCKET.stop (R405, R407). -/
def execLocketStop (a : SReg) (s : State) : Res :=
  if s.priv < 2 then s.privilege
  else
    let stop (x : Stream) : Stream := if x.ticket = bitsAt 0 3 (s.rs a) then { x with stopping := true } else x
    (s.onFab fun f => { f with streams := f.streams.map stop }).done 8

/-- The bytes of block b as a stream reads it at its port, before or after each operation there but not amid them (R407, R408): coded sectors as they
stand, or the bytes. `none` while operations of the port on the block come first; what has not reached the port is not read. -/
def State.streamBlock (s : State) (coded : Bool) (b : Nat) : Option (Option (List Byte)) :=
  if (s.port (portOf (1024 * b))).ops.any fun o => o.inGranule (b / 4) then none
  else if coded then some (some (memRead s.ram.bytes (1024 * b) (128 * sectorsOf (s.ram.code b))))
  else some (s.ram.read 0 (1024 * b) 1024)

/-- The context whose tokens a stream takes. -/
def Stream.ctx (x : Stream) : Nat :=
  match x.issuer with
  | .service p => p + 1
  | _ => 0

/-- A stream as it stands after a move. -/
def State.putStream (s : State) (y : Stream) : State :=
  s.onFab fun f => { f with streams := f.streams.map fun z => if z.ticket = y.ticket then y else z }

/-- The next move of a stream (R407, R408): a block of its granule is read, and the granule leaves once it is read whole; `none`
while nothing of the stream can move. -/
def State.streamMove (s : State) (x : Stream) : Option State :=
  if x.stopping ∨ x.failed ∨ x.granules ≤ x.sent then none
  else
    let g := x.base / 4096 + x.sent
    if x.held.length < 4 then
      (s.streamBlock x.coded (4 * g + x.held.length)).map fun b => s.putStream { x with held := x.held ++ [b] }
    else
      let poison := s.ram.poisoned (4096 * g) || x.held.contains none
      let bytes := if poison then [] else x.held.flatMap fun p => p.getD []
      let req := FabricReq.granule x.ticket (4096 * x.sent) bytes poison
      let flow := flowKey (engineFlow + 1 + x.ticket) x.safe
      if !s.flowRoom flow then none
      else
        match s.takeTokens flow x.ctx req ((s.portsTo x.safe).take (field x.desc 0x1C 4)) with
        | (t, false) => if t.fab.buckets = s.fab.buckets ∧ t.fab.waiting = s.fab.waiting then none else some t
        | (s1, true) =>
          let n := if poison then (Config.freeWord s.tick).toNat % 4097 else bytes.length
          let y := { x with sent := x.sent + 1, bytes := x.bytes + n, poisoned := x.poisoned + (if poison then 1 else 0), held := [] }
          let s2 := (s1.sendReq flow ⟨x.issuer, none, 0⟩ .none req).putStream y
          some (if y.sent % 4096 = 0 then s2.writeStatus y 1 0 else s2)

/-- How a stream is over (R407), if it is. -/
def Stream.over (x : Stream) : Option StreamEnd :=
  if x.failed then some .failed
  else if x.granules ≤ x.acked then some .done
  else if x.stopping ∧ x.acked = x.sent then some .stopped
  else none

/-- LOCKET_STREAM_END (R407): the status block is written, the ticket freed, and the issuer has its notice. -/
def execLocketStreamEnd (t : Nat) (how : StreamEnd) (s : State) : Res :=
  match s.fab.streams.find? fun x => x.ticket == t with
  | none => .next s
  | some x =>
    if x.over ≠ some how then .next s
    else
      let state := match how with
        | .done => 2
        | .stopped => 3
        | .failed => 4
      let reason := if how = .failed then 10 else 0
      let s1 := (s.writeStatus x state reason).onFab fun f => { f with streams := f.streams.filter fun z => z.ticket != t }
      .next (s1.noticeTo ⟨x.issuer, none, 0⟩ 0 (if how = .failed then 14 else 13)
        (bytesOf 8 (field x.desc 0x20 4) ++ bytesOf 8 (x.status state reason).toNat))

end Sys2Proof.Machine
end

