-- ==== Sys2Proof/Machine/HostAttach.lean ====
section
/-!
DEFINITION. Hosts, virtual functions and their reset, TDISP, SPDM and Hallmark, boot and the package (R145, R382, R411
to R431).
-/

namespace Sys2Proof.Machine

/-! ## Reset of a function (R382) -/

/-- Begin a reset of the function bound to context x: step 1. -/
def State.beginReset (s : State) (n x : Nat) : State :=
  let s1 := s.setCcbField x 0 32 4 4
  let s2 := (s1.liveKids x).foldl (fun t y => t.revoke y []) s1
  s2.setFunc n { s2.func n with ended := false }

/-- The descendants have gone: the actors of the context end, and what the engine holds for it is discarded (step 2). -/
def State.endActors (s : State) (n x : Nat) : State :=
  let s1 := (s.killContexts [x]).discardHeld [x]
  let s2 := (s1.onCtxs fun c => { c with resizing := c.resizing.filter fun r => r.ctx != x }).onFab fun f => { f with
    buckets := f.buckets.filter fun e => e.1 / 24 != x
    waiting := f.waiting.filter fun e => e.2 / 24 != x }
  s2.setFunc n { s2.func n with ended := true }

/-- Have the descendants of a resetting context gone, and is everything of its own drained? -/
def State.resetDrained (s : State) (x : Nat) : Bool :=
  decide (s.subtree x = [x]) && (s.dropTenants [x]).drained [x]

/-- The write of VFBIND that waited for the reset takes effect (R413). A binding to a context that has gone or been bound meanwhile is
refused: the function stays unbound, with ERR set (R381). -/
def State.applyBind (s : State) (n : Nat) : State :=
  let f := s.func n
  match f.next with
  | none => s
  | some v =>
    let s1 := s.setCcbWord f.ctx 22 0
    let off := { f with next := none, bind := setBits 48 12 (bitsAt 48 12 v) (setBits 63 1 0 f.bind) }
    let y := bitsAt 48 12 v
    if bitAt 63 v ∧ (y = 0 ∨ s1.ctxState y ≠ 1 ∨ bitAt 15 (s1.ccbWord y 22)) then
      s1.setFunc n { f with next := none, bind := setBits 62 1 1 (setBits 63 1 0 f.bind) }
    else if bitAt 63 v then
      (s1.setFunc n { off with bind := setBits 63 1 1 off.bind }).setCcbWord (bitsAt 48 12 v) 22 (dw (2 ^ 15 + n))
    else s1.setFunc n off

/-- Every capability of a context is revoked: the entries of its table become those of no service (R299, R382 step 3). -/
def State.revokeCaps (s : State) (x : Nat) : State :=
  s.engStore 0 x (bitsAt 4 44 (s.ccbWord x 8) * 16) (List.replicate (16 * bitsAt 0 16 (s.ccbWord x 9)) 0)

/-- The context of a reset is scrubbed and its service core told, its capabilities are revoked, the generations of its indices stay
(R269), its held requests and counts return to zero, and it is live again, its
initial actor placed, and the host is told (R382 steps 2 to 5); unchanged but for what a wait for memory adds while that
placement waits. -/
def State.endReset (s : State) (n x : Nat) : State :=
  let t := inSet [x]
  let s1 := ((s.dropTenants [x]).revokeCaps x).invalidateCtx x
  let s2 := s1.onRam fun r => { r with invs := r.invs.filter fun l => !t l.ctx }
  let s3 := (s2.intervals [x]).foldl (fun u id => if (s2.standsOn [x]).contains id then u.scrubCore id t else u.scrubAbsent id t) s2
  let s4 := s3.onActs fun a => { a with
    tab := a.tab.map fun e => if t (ActorId.ofKey e.1).ctx then (e.1, { ActorRec.free with gen := e.2.gen }) else e
    supers := a.supers.filter fun e => !t (ActorId.ofKey e.1).ctx
    jobs := a.jobs.filter fun j => !t j.ctx
    forwards := a.forwards.filter fun f => !t f.actor.ctx }
  let s5 := (s4.mapCores fun _ c => { c with saves := c.saves.filter fun e => !t e.1 }).onCtxs fun c => { c with
    failed := c.failed.filter fun y => !t y
    msgs := c.msgs.filter fun e => !t (e.1 % 4096)
    resets := c.resets.filter (· != n) }
  let s5a := (s5.ringWrite (s5.serviceOf x) 1 (mailBytes 0x05 0 0 0 (bytesOf 8 12 ++ bytesOf 8 x))).getD s5
  let s5b := (s2.standsOn [x]).foldl (fun u id => u.startOn id x) s5a
  let s6 := s5b.setCcbField x 0 32 4 1
  let over' (u : State) : State :=
    let f := u.func n
    let f1 := { f with head := f.tail, rst := false, stop := false, ended := false }
    ((u.setFunc n (if f.stop then f1.setTst 0 else f1)).applyBind n).tellHost n
  match s6.placeInitial .root x with
  | .wait u => { s with ram := u.ram, ctxs := { s.ctxs with wants := u.ctxs.wants } }
  | .ok u => over' u
  | .fail _ u => over' u
  | _ => over' s6

/-- May the reset of a function move on? -/
def State.resetReady (s : State) (n : Nat) : Bool :=
  let f := s.func n
  s.ctxs.resets.contains n && (!f.bound || (s.ctxState f.ctx != 2 &&
    (s.ctxState f.ctx != 4 || (!f.ended && decide (s.subtree f.ctx = [f.ctx])) || s.sendWaits [f.ctx] (s.standsOn [f.ctx]) || s.resetDrained f.ctx)))

/-- FUNCTION_RESET (R382): a requested reset begins, ends the context's actors once its descendants have gone, discards the SENDs that wait for a reservation, or completes once
everything has drained. One that meets a
revocation joins it (R415). -/
def execFunctionReset (n : Nat) (s : State) : Res :=
  let f := s.func n
  if !s.resetReady n then .next s
  else if !f.bound then
    .next ((s.onCtxs fun c => { c with resets := c.resets.filter (· != n) }).setFunc n { f with rst := false, stop := false })
  else if s.ctxState f.ctx ≠ 4 then .next (s.beginReset n f.ctx)
  else if !f.ended ∧ s.subtree f.ctx = [f.ctx] then .next (s.endActors n f.ctx)
  else if s.resetDrained f.ctx then .next (s.endReset n f.ctx)
  else .next (s.dropTenants [f.ctx])

/-! ## The function BAR (R414, R415) -/

/-- FSTAT of a function (Table 15.3). -/
def Func.fstat (f : Func) : DWord :=
  dw (2 ^ 4 * f.ovf.toNat + 2 ^ 2 * f.tst + 2 * f.rst.toNat + f.bound.toNat)
/-- What a host reads at an offset of a function's BAR (Table 15.3): TAIL, HEAD, FSTAT, zero at FRESET, and the ring's slots. -/
def Func.barRead (f : Func) (o : Nat) : DWord :=
  if o = 0 then dw f.tail
  else if o = 8 then dw f.head
  else if o = 0x10 then f.fstat
  else if 0x1000 ≤ o ∧ o < 0x2000 then dwOf (memRead f.slots (o - 0x1000) 8)
  else 0
/-- Does the CXL link carry what a host sends: once Zaran has enabled it, and in recovery for no virtual function (R424, R425)? -/
def State.hostReaches (s : State) : Bool := s.hub.link && !s.hub.recovery

/-- MBTAIL_WRITE (R414): the host writes slots, then TAIL; a TAIL write it may not make is ignored and sets OVF. An access that
carries a number that no slot has is another of the host's accesses to the function (log entry 123): 64 writes FSTAT, where a 1 clears OVF
(R6); 65 enables or disables MSI-X vector 0 (R416); 66 reads the register at an offset of the BAR. -/
def execMbtailWrite (n : Nat) (v : DWord) (slots : List (Nat × List Byte)) (s : State) : Res :=
  if !s.hostReaches ∨ 512 ≤ n then .next s
  else
    let f := s.func n
    match slots.find? fun e => decide (64 ≤ e.1) with
    | some (64, bs) => .next (s.setFunc n { f with ovf := f.ovf && !bitAt 4 (dw (natOf (bs.take 8))) })
    | some (65, bs) => .next (s.setFunc n { f with msix := bitAt 0 (dw (natOf (bs.take 8))) })
    | some (66, bs) =>
      let o := natOf (bs.take 8) / 8 * 8
      .next (s.onHub fun h => { h with out := h.out ++ [.bar n o (f.barRead o)] })
    | some _ => .next s
    | none =>
      let put (m : Mem) (e : Nat × List Byte) : Mem := if e.1 < 64 then memWrite m (64 * e.1) (e.2.take 64) else m
      let f1 := { f with slots := slots.foldl put f.slots }
      let tail := v.toNat % 128
      let bad : Bool := decide (64 < (tail + 128 - f.head) % 128) || f.rst || !f.bound || decide (f.tst = 3)
      .next (s.setFunc n (if bad then { f1 with ovf := true } else { f1 with tail := tail }))

/-- The actor that a function's next message goes to, once it can (R415). -/
def State.hostReceiver (s : State) (n : Nat) : Option ActorId :=
  let f := s.func n
  let x : ActorId := ⟨f.ctx, f.entry⟩
  let r := s.actor x
  if f.head ≠ f.tail ∧ f.bound ∧ !f.rst ∧ f.tst ≠ 3 ∧ s.ctxNamed f.ctx ∧ r.st = .resident ∧ s.inSlot x ∧ r.sge
      ∧ r.mcount + r.mrsv < 16 then some x
  else none

/-- HOST_MESSAGE_DELIVERY (R415): the message of slot HEAD becomes a control message of KIND 0x07. -/
def execHostMessageDelivery (n : Nat) (s : State) : Res :=
  match s.hostReceiver n with
  | none => .next s
  | some x =>
    let f := s.func n
    let m := memRead f.slots (64 * (f.head % 64)) 64
    let bs := mailBytes 0x07 0 (dw n) (BitVec.ofNat 32 (field m 0 4)) ((m.drop 8).take 40)
    .next ((s.mailWrite x bs .system).setFunc n { f with head := (f.head + 1) % 128 })

/-- FRESET_WRITE (R414, R418): GO requests the reset of R382, which TDISP has not asked for. -/
def execFresetWrite (n : Nat) (v : DWord) (s : State) : Res :=
  let f := s.func n
  if !s.hostReaches ∨ 512 ≤ n ∨ !bitAt 0 v ∨ !f.bound then .next s
  else
    let f1 := if f.tst = 1 ∨ f.tst = 2 then f.setTst 3 else f
    .next ((s.setFunc n f1).requestReset n)

/-- VFBIND_WRITE (R412, R413). -/
def execVfbindWrite (w : Writer) (n : Nat) (v : DWord) (s : State) : Res :=
  .next (if n < 512 then s.vfbind w n v true else s)
/-- VFIRQ_WRITE (R416). -/
def execVfirqWrite (v : DWord) (s : State) : Res := .next (s.vfirq v)

/-! ## Host memory (R417) -/

/-- The first host request of a core ends; those of the actor engines stand under the root monitor's core, which has none of its own (log entry 68). -/
def State.hostEnd (s : State) (c : CoreId) (data : Option (List Byte)) (reason : Nat) : State :=
  match s.hub.hostReqs.find? fun r => decide (r.core = c) with
  | none => s
  | some r =>
    let s1 := s.onHub fun h => { h with hostReqs := h.hostReqs.erase r }
    match data, r.piece with
    | some bs, some (x, va) => s1.engAnswer x va r.n ((bs ++ List.replicate (r.n - bs.length) 0).take r.n) 0
    | none, some (x, va) => s1.engAnswer x va r.n [] reason
    | some bs, none =>
      let got := (bs ++ List.replicate (r.n - bs.length) 0).take r.n
      if r.copy then s1.glAnswer c (.host r.tag) got
      else (match (s1.coreAt c).wait with
        | some ⟨.host p _, _⟩ => s1.modCore c fun k => k.keep p got
        | _ => s1)
    | none, none =>
      if r.copy then s1.glFail c (.host r.tag) reason
      else (match (s1.coreAt c).wait with
        | some ⟨.host _ a, _⟩ => s1.coreFails c reason a
        | _ => s1)

/-- HOST_COMPLETION (R417). -/
def execHostCompletion (c : CoreId) (r : HostEnd) (s : State) : Res :=
  .next (match r with
    | .data bs => s.hostEnd c (some bs) 0
    | .unsupported => s.hostEnd c none 14
    | .poison => s.hostEnd c none 6)

/-- HOST_COMPLETION_TIMEOUT (R417). -/
def execHostCompletionTimeout (c : CoreId) (s : State) : Res := .next (s.hostEnd c none 10)

/-- FABRIC_MANAGER_BIND (R411): a logical device is bound to a host, unless another is bound to that host. -/
def execFabricManagerBind (ld host : Nat) (s : State) : Res :=
  if 16 ≤ ld ∨ (s.hub.ldHost.any fun e => e.1 != ld && e.2 == host + 1) then .next s
  else .next (s.onHub fun h => { h with ldHost := Sparse.put h.ldHost ld (host + 1) })

/-! ## TDISP (R418, R419) -/

/-- Does a port answer SPDM requests: a physical function once the CXL link is enabled, in recovery only logical device 0's (R424, R425), and the
management interface always (R430)? -/
def State.answersSpdm (s : State) (p : SpdmPort) : Bool :=
  match p with
  | .doe pf => if s.hub.recovery then pf == 0 else s.hub.link
  | .mctp => true

/-- Is a TDISP request for function n answered: over the DOE mailbox of its logical device's physical function, which in recovery
is that of logical device 0 alone (R420, R425)? -/
def State.answersTdisp (s : State) (n : Nat) : Bool := decide (n < 512) && s.answersSpdm (.doe (n / 32))
/-- LOCK_INTERFACE (R418). -/
def execLockInterface (n : Nat) (s : State) : Res :=
  .next (if s.answersTdisp n ∧ (s.func n).tst = 0 then s.setFunc n ((s.func n).setTst 1) else s)
/-- START_INTERFACE (R418). -/
def execStartInterface (n : Nat) (s : State) : Res :=
  .next (if s.answersTdisp n ∧ (s.func n).tst = 1 then s.setFunc n ((s.func n).setTst 2) else s)
/-- STOP_INTERFACE (R418): the reset of R382, which leaves CONFIG_UNLOCKED; nothing is bound to reset otherwise. -/
def execStopInterface (n : Nat) (s : State) : Res :=
  let f := s.func n
  if !s.answersTdisp n then .next s
  else if f.bound then .next ((s.setFunc n { f with stop := true }).requestReset n)
  else .next (s.setFunc n (f.setTst 0))

/-- The interface report (R419): the function number, then a record of 48 B for each context of the chain. -/
def State.interfaceReport (s : State) (n : Nat) : List Byte :=
  let f := s.func n
  let rec' (x : Nat) : List Byte := bytesOf 8 x ++ bytesOf 8 (s.ctxDepth x)
    ++ ([1, 2, 3, 4] : List Nat).flatMap fun i => bytesOf 8 (s.ccbWord x i).toNat
  bytesOf 8 n ++ (if f.bound then (s.chain f.ctx).flatMap rec' else [])
/-- GET_DEVICE_INTERFACE_REPORT (R419). -/
def execGetDeviceInterfaceReport (n : Nat) (s : State) : Res :=
  .next (if s.answersTdisp n then s.onHub fun h => { h with out := h.out ++ [.report (s.interfaceReport n)] } else s)

/-! ## SPDM and Hallmark (R420 to R422) -/

/-- Answer an SPDM request, with its effect on the count of sessions. -/
def State.spdmCount (s : State) (p : SpdmPort) (r : SpdmResp) (count : Nat → Nat) : State :=
  if s.answersSpdm p then s.onHub fun h => { h with out := h.out ++ [.spdm p r], sessions := count h.sessions } else s
/-- Answer an SPDM request. -/
def State.spdm (s : State) (p : SpdmPort) (r : SpdmResp) : State := s.spdmCount p r id
/-- The bytes of a request's response that the SPDM standard fixes. -/
def State.spdmBody (s : State) (req : Nat) : List Byte := Config.spdmBytes req s.tick
/-- Measurement register i (R422). -/
def State.meas (s : State) (i : Nat) : List Byte := Sparse.get (List.replicate 32 0) s.hub.meas i

/-- GET_VERSION (R420). -/
def execGetVersion (p : SpdmPort) (s : State) : Res := .next (s.spdm p (.version (s.spdmBody 0)))
/-- GET_CAPABILITIES (R420). -/
def execGetCapabilities (p : SpdmPort) (s : State) : Res := .next (s.spdm p (.capabilities (s.spdmBody 1)))
/-- NEGOTIATE_ALGORITHMS (R420). -/
def execNegotiateAlgorithms (p : SpdmPort) (s : State) : Res := .next (s.spdm p (.algorithms (s.spdmBody 2)))
/-- The certificate chain of a slot (R420): slot 0 from the fuses, slot 1 once Zaran has written it; there is no other. -/
def State.certSlot (s : State) (slot : Nat) : Option (List Byte) :=
  match slot with
  | 0 => some Config.certChain
  | 1 => s.hub.ownerCert
  | _ => none
/-- GET_DIGESTS (R420): the SM3 digests of the chains of the slots that hold one. -/
def execGetDigests (p : SpdmPort) (s : State) : Res :=
  .next (s.spdm p (.digests (([0, 1] : List Nat).filterMap fun i => (s.certSlot i).map Config.sm3)))
/-- GET_CERTIFICATE (R420); of a slot that holds none it is no supported request (log entry 101). -/
def execGetCertificate (p : SpdmPort) (slot : Nat) (s : State) : Res :=
  .next (s.spdm p (match s.certSlot slot with
    | some chain => .certificate slot chain
    | none => .unsupported))
/-- CHALLENGE (R421): a signed CHALLENGE_AUTH; of a slot that holds none it is no supported request (log entry 101). -/
def execChallenge (p : SpdmPort) (slot : Nat) (s : State) : Res :=
  let body := s.spdmBody 3
  .next (s.spdm p (match s.certSlot slot with
    | some _ => .challengeAuth slot body (Config.hallmarkSign body)
    | none => .unsupported))
/-- GET_MEASUREMENTS (R421, R422): the register of the index, signed. -/
def execGetMeasurements (p : SpdmPort) (idx : Nat) (s : State) : Res :=
  let body := s.spdmBody 4
  .next (s.spdm p (.measurements idx (s.meas idx) body (Config.hallmarkSign (s.meas idx ++ body))))
/-- KEY_EXCHANGE (R420, R421): a signed response, and a session opens. -/
def execKeyExchange (p : SpdmPort) (s : State) : Res :=
  let body := s.spdmBody 5
  .next (s.spdmCount p (.keyExchangeRsp body (Config.hallmarkSign body)) (· + 1))
/-- FINISH (R420). -/
def execFinish (p : SpdmPort) (s : State) : Res := .next (s.spdm p (.finishRsp (s.spdmBody 6)))
/-- END_SESSION (R420): a session closes. -/
def execEndSession (p : SpdmPort) (s : State) : Res :=
  .next (s.spdmCount p .endSessionAck (· - 1))
/-- Any other request: ERROR with UnsupportedRequest (R420). -/
def execUnsupportedRequest (p : SpdmPort) (s : State) : Res := .next (s.spdm p .unsupported)

/-! ## Boot (R145, R423 to R425) and the package (R426 to R429) -/

/-- Add every 32-bit word of bytes, modulo 2³² (R145, Table 04.8). -/
def wordSum : Nat → List Byte → Word
  | 0, _ => 0
  | n + 1, bs => BitVec.ofNat 32 (natOf (bs.take 4)) + wordSum n (bs.drop 4)

/-- CORNER_CORE_START (R145): the hub writes a die's boot program and runtime image into core (0,0), makes the program's
beads code, and starts it, once Zaran runs on the root monitor core and no recovery stops the boot (R424, R425). -/
def execCornerCoreStart (die : Nat) (prog image : List Byte) (s : State) : Res :=
  if !s.hub.boot ∨ s.hub.recovery ∨ (s.coreAt .root).run ≠ .service ∨ 9 ≤ die then .next s
  else
    let img := (image ++ List.replicate (0x4000 - image.length) 0).take 0x4000
    let args : List DWord := [0, dw die, dw (0xC000010100 + 8 * die), 0x20000, 0x4000]
    .next (s.modCore (.work (1024 * die)) fun c =>
      let c1 := (c.store 0 prog).store 0x20000 img
      { c1 with
        run := .boot
        pc := 0
        xbound := BitVec.ofNat 18 (ceilDiv prog.length 512 * 512)
        ovh := 0
        beads := []
        bsum := c.bsum + wordSum 0x1000 img
        regs := { Regs.reset with s := Vector.ofFn fun i : Fin 32 => args.getD i.val 0 }
        tsw := { Tsw.reset with priv := 3 }
        wait := none
        rep := none
        region := ⟨0, 0xFFFFFFFE, 0, { Regs.reset with s := Vector.ofFn fun i : Fin 32 => args.getD i.val 0 },
          { Tsw.reset with priv := 3 }, c.traps⟩ })

/-- BEND_WRITE (R423): a write of 1 ends boot mode, or sets BFAIL; writes of 0 are ignored. -/
def execBendWrite (v : DWord) (s : State) : Res := .next (if bitAt 0 v then s.bend else s)

/-- BOOT_TIMEOUT (R425): a started die's END is missing, since its boot program still runs or has stopped at a fault (R434), and the device stays in
recovery. -/
def execBootTimeout (die : Nat) (s : State) : Res :=
  let run := (s.coreAt (.work (1024 * die))).run
  .next (if s.hub.boot ∧ (run = .boot ∨ run = .stopped) then s.onHub fun h => { h with recovery := true } else s)

/-- DEVICE_RESET (R424 steps 1 and 2): the device as after reset, the boot ROM measured into register 1, and the root
monitor core started at privilege 3. -/
def execDeviceReset (s : State) : Res :=
  let s1 := s.deviceReset
  let s2 := s1.extend 1 (Config.sm3 Config.bootRom)
  .next (s2.modCore .root fun c => { c with run := .service, pc := BitVec.ofNat 18 (4 * Config.bootEntry.toNat) })

/-- THERMAL_THROTTLE (R427): the clocks run so many sixteenths below nominal, eight at most. -/
def execThermalThrottle (steps : Nat) (s : State) : Res :=
  .next (s.onHub fun h => { h with scale := 16 - Nat.min steps 8 })

/-- THERMAL_TRIP (R429): the device enters reset, and the trip is reported. -/
def execThermalTrip (s : State) : Res := .next (s.deviceReset.onHub fun h => { h with tripped := true })

/-- POWER_REMOVAL (R426): all device state is lost; fuses and the boot flash stay, and the owner's certificate, which is written once (R420). -/
def execPowerRemoval (s : State) : Res :=
  let s1 := s.deviceReset
  .next { s1 with ram := State.reset.ram, hub := { s1.hub with powered := false } }

end Sys2Proof.Machine
end

