-- ==== Sys2Proof/Machine/Drain.lean ====
section
/-!
DEFINITION. The drain of the store buffer (R96): what becomes of the committed entry at the head of a core.
-/

namespace Sys2Proof.Machine

/-! ## Entries of memory -/

/-- The first run of consecutive offsets in a mask, and the rest. -/
def firstRun : Nat → List Nat → List Nat × List Nat
  | n, j :: rest => if n = j then let r := firstRun (n + 1) rest; (j :: r.1, r.2) else ([], j :: rest)
  | _, [] => ([], [])
/-- The runs of a mask: first offset and length. -/
def maskRuns : Nat → List Nat → List (Nat × Nat)
  | 0, _ => []
  | _, [] => []
  | n + 1, j :: rest => let r := firstRun (j + 1) rest; (j, r.1.length + 1) :: maskRuns n r.2

/-- A scalar operation on a control register (R22). -/
def State.drainCtl (s : State) (id : CoreId) (pa : Nat) (k : PortKind) : State :=
  match k with
  | .red _ n _ =>
    let w := ctlWriter id
    (match k.scalar (natOf (s.ctlBytes pa n)) with
    | some v => s.ctlStore w.1 w.2 pa (bytesOf n v) 2
    | none => s)
  | _ => s

/-- An operation of an entry leaves for its place (R96, R242, R392), or stays while its way is not free. A release to
another device waits until what it orders is performed (R30, R244); one to a place of this device, until it is for the cores it concerns, from which
what is still on its way to other devices is sealed off (R409). -/
def State.drainOp (s : State) (id : CoreId) (e : Entry) (t : Target) (k : PortKind) : State × Bool :=
  let ready := (e.rel.map fun sc => s.performed id sc) != some false
  let here := (e.rel.map fun sc => s.performedHere id sc) != some false
  match t.place with
  | .dev pa =>
    if hbmEnd ≤ pa then (if ready then (s.drainCtl id pa k, true) else (s, false))
    else
      match here, s.intoOrder id.die ⟨pa, k, t.cmp, e.who, e.rel, .none⟩ with
      | true, some s1 => (if e.rel.isSome then s1.seal id else s1, true)
      | _, _ => (s, false)
  | .peer d pa m =>
    if !ready then (s, false)
    else if !s.peerUp d then (s.killIssuer e.who 10, true)
    else (match s.trySend id.key e.ctx d e.who .none (k.request pa ⟨m.code, t.cmp, t.ctx⟩) with
      | (s1, some _) => (s1, true)
      | (s1, none) => (s1, false))
  | .host _ => (s, true)

/-- A store drains: into the ordering point, to control space, to another device, or to a
host (R20, R96, R392, R417), a release as in `State.drainOp`. -/
def State.drainStore (s : State) (id : CoreId) (e : Entry) (t : Target) (bs : List Byte) (mask : List Nat) :
    State × Bool :=
  let runs := maskRuns (bs.length + 1) mask
  let piece (r : Nat × Nat) : List Byte := (bs.drop r.1).take r.2
  let ready := (e.rel.map fun sc => s.performed id sc) != some false
  let here := (e.rel.map fun sc => s.performedHere id sc) != some false
  match t.place with
  | .dev pa =>
    if hbmEnd ≤ pa then
      let w := ctlWriter id
      if ready then (runs.foldl (fun u r => u.ctlStore w.1 w.2 (pa + r.1) (piece r) (r.2 + 1)) s, true) else (s, false)
    else
      match here, s.intoOrder id.die ⟨pa, .store bs mask, t.cmp, e.who, e.rel, .none⟩ with
      | true, some s1 => (if e.rel.isSome then s1.seal id else s1, true)
      | _, _ => (s, false)
  | .peer d pa m =>
    if !ready then (s, false)
    else if !s.peerUp d then (s.killIssuer e.who 10, true)
    else
      let via : PageUse := ⟨m.code, t.cmp, t.ctx⟩
      let req : FabricReq := match runs with
        | [r] => .store (pa + r.1) (piece r) via
        | _ => .masked pa bs mask via
      if mask = [] then (s, true)
      else (match s.trySend id.key e.ctx d e.who .none req with
        | (s1, none) => (s1, false)
        | (s1, some _) => (s1, true))
  | .host ha =>
    if !ready then (s, false)
    else
      match s.hostFunc t.ctx with
      | some f => (runs.foldl (fun u r => u.onHub fun h => { h with
          out := h.out ++ [.write f (decide ((s.func f).tst = 2)) (ha + r.1) (piece r)] }) s, true)
      | none => (s.killIssuer e.who 14, true)

/-! ## Entries of engines -/

/-- An operation of the actor, supervision and context engines drains (R280 to R323, R362). -/
def State.drainActor (s : State) (id : CoreId) (e : Entry) (op : ActorOp) : State × Bool :=
  match op with
  | .spawn h param k core lk mn all tag b n => s.drainSpawn e.who e.ctx h param k core lk mn all tag b n
  | .kill n => s.drainKill e n
  | .link n => s.drainLink e n
  | .unlink n => s.drainUnlink e n
  | .monitor n tag => s.drainMonitor e n (tag.setWidth 32)
  | .unmon n tag => s.drainUnmon e n (tag.setWidth 32)
  | .message n bs => s.drainSignal id e n
      (fun me => .message n 0x03 0 me (BitVec.ofNat 32 (natOf (bs.drop 8))) (bs.take 8) id.key (e.rel.getD .core)) true
  | .exitSig n r => s.drainSignal id e n (fun me => .exit n me r 0 none false id.key (e.rel.getD .core)) false
  | .selfTx on => (s.drainSelfTx e on, true)
  | .timer k kl cycles tag => (s.drainTimer e k kl cycles tag, true)
  | .portcfg k n dport => s.drainPortcfg e k n dport
  | .migrate n core => s.drainMigrate e n core
  | .capcall index a tag => s.drainCapcall id e index a tag
  | .supcfg f x y bs => s.drainSup e f x y bs
  | .restart false x => s.drainChild e x
  | .restart true pa => (s.drainRestartJob e pa.toNat, true)
  | .ctxnew n ovr ws => s.drainCtxnew e n ovr ws
  | .ctxset x i v => s.drainCtxset e x i v
  | .ctxrevoke x => s.drainCtxrevoke e x

/-- What becomes of the head entry of a core: the state, and whether the entry has left. -/
def State.drainHead (s : State) (id : CoreId) (e : Entry) : State × Bool :=
  match e.kind with
  | .store t bs mask => s.drainStore id e t bs mask
  | .red t op n y => s.drainOp id e t (.red op n y)
  | .elem t r => s.drainOp id e t (.elem r)
  | .poisonclr t => s.drainOp id e t .poisonclr
  | .copy c => if (s.coreAt id).transferQ.length < 16 then (s.drainCopy id c, true) else (s, false)
  | .send c => if (s.coreAt id).tilesHeld < 8 then
      (s.modCore id fun k => { k with tileQ := k.tileQ ++ [s.boundNow c] }, true) else (s, false)
  | .mcast c => if (s.coreAt id).tilesHeld < 8 then (s.drainMcast id c, true) else (s, false)
  | .nred k p f lanes slot => if (s.coreAt id).nredFree k e.ctx then (s.drainNred id e.who e.ctx k p f lanes slot, true) else (s, false)
  | .nsend _ _ _ => (s, false)
  | .nsendRaw h => (s.drainRaw id h, true)
  | .actor op => s.drainActor id e op
  | .tlbinv ctx page => if s.performed id .device then (s.startInval id ctx page, true) else (s, false)

/-- STORE_BUFFER_DRAIN (R96): the committed entry at the head of a core drains once its way is free. The message of an
NSEND goes by NSEND_DELIVERY. -/
def execStoreBufferDrain (id : CoreId) (s : State) : Res :=
  match (s.coreAt id).committed with
  | [] => .next s
  | e :: _ =>
    let r := s.drainHead id e
    .next (if r.2 then r.1.popCommitted id else r.1)

end Sys2Proof.Machine
end

