-- ==== Sys2Proof/Machine/Integer.lean ====
section
/-!
DEFINITION. Class 0: the integer instructions (R104, R105, Table 03.11). Each operation is computed exactly on the
operands read as n-bit numbers and narrowed at the end.
-/

namespace Sys2Proof.Machine

/-! ## The operations of Table 03.11 -/

/-- v of ADD (Table 03.11). -/
def addOp (_ : Nat) (x y : Int) : Int := x + y
/-- v of SUB (Table 03.11). -/
def subOp (_ : Nat) (x y : Int) : Int := x - y
/-- v of MUL (Table 03.11). -/
def mulOp (_ : Nat) (x y : Int) : Int := x * y
/-- v of MULH (Table 03.11). -/
def mulhOp (n : Nat) (x y : Int) : Int := x * y / 2 ^ n
/-- v of MULHN (Table 03.11). -/
def mulhnOp (n : Nat) (x y : Int) : Int := x * y / 2 ^ n
/-- v of DIV (Table 03.11). -/
def divOp (_ : Nat) (x y : Int) : Int := if y = 0 then -1 else x.tdiv y
/-- v of DIVN (Table 03.11). -/
def divnOp (n : Nat) (x y : Int) : Int := if y = 0 then 2 ^ n - 1 else x / y
/-- v of REM (Table 03.11). -/
def remOp (_ : Nat) (x y : Int) : Int := if y = 0 then x else x.tmod y
/-- v of REMN (Table 03.11). -/
def remnOp (_ : Nat) (x y : Int) : Int := if y = 0 then x else x % y
/-- v of SHL (Table 03.11). -/
def shlOp (n : Nat) (x y : Int) : Int := x * 2 ^ (y % n).toNat
/-- v of SHR (Table 03.11). -/
def shrOp (n : Nat) (x y : Int) : Int := x / 2 ^ (y % n).toNat
/-- v of SAR (Table 03.11). -/
def sarOp (n : Nat) (x y : Int) : Int := x / 2 ^ (y % n).toNat
/-- v of MIN (Table 03.11). -/
def minOp (_ : Nat) (x y : Int) : Int := if x < y then x else y
/-- v of MAX (Table 03.11). -/
def maxOp (_ : Nat) (x y : Int) : Int := if x < y then y else x
/-- v of MINN (Table 03.11). -/
def minnOp (_ : Nat) (x y : Int) : Int := if x < y then x else y
/-- v of MAXN (Table 03.11). -/
def maxnOp (_ : Nat) (x y : Int) : Int := if x < y then y else x
/-- v of AND (Table 03.11). -/
def andOp (x y : DWord) : DWord := x &&& y
/-- v of OR (Table 03.11). -/
def orOp (x y : DWord) : DWord := x ||| y
/-- v of XOR (Table 03.11). -/
def xorOp (x y : DWord) : DWord := x ^^^ y
/-- v of ANDN (Table 03.11). -/
def andnOp (x y : DWord) : DWord := x &&& ~~~y
/-- v of CMP (Table 03.11). -/
def cmpOp (c : Cond) (w : Bool) (x y : DWord) : DWord := if condHolds c w x y then 1 else 0
/-- Leading zeros of x in n bits (Table 03.11). -/
def clzOp (n x : Nat) : Nat := if x = 0 then n else n - 1 - Nat.log2 x
/-- Trailing zeros of x in n bits (Table 03.11). -/
def ctzOp (n x : Nat) : Nat := ((List.range n).find? fun i => x.testBit i).getD n
/-- One bits of x in n bits (Table 03.11). -/
def popcOp (n x : Nat) : Nat := (maskBits n x).length
/-- EXT (R105). -/
def extOp (k : ExtKind) (x : DWord) : DWord :=
  match k with
  | .s8 => sextLow 8 x
  | .s16 => sextLow 16 x
  | .s32 => sextLow 32 x
  | .z8 => zextLow 8 x
  | .z16 => zextLow 16 x
  | .z32 => zextLow 32 x
/-- m of R105. -/
def fieldMask (pos len : Nat) : Nat := (2 ^ len - 1) * 2 ^ pos
/-- BFX (R105). -/
def bfxOp (sgn : Bool) (pos len : Nat) (x : DWord) : DWord :=
  let f := x.toNat / 2 ^ pos % 2 ^ len
  if sgn && f.testBit (len - 1) then BitVec.ofInt 64 ((f : Int) - 2 ^ len) else dw f
/-- BFI (R105). -/
def bfiOp (pos len : Nat) (old x : DWord) : DWord :=
  let m := dw (fieldMask pos len)
  (old &&& ~~~m) ||| ((x <<< pos) &&& m)

/-! ## Shared forms -/

/-- Write a result and go on: s[d] := v (R104). -/
def State.putS (s : State) (d : SReg) (v : DWord) (n : Nat) : Res := (s.ws d v).done n

/-- An operation on n-bit two's complement integers (R104). -/
def intS (f : Nat → Int → Int → Int) (w : Bool) (x y : DWord) : DWord := narrow w (f (opWidth w) (readS w x) (readS w y))
/-- An operation on n-bit unsigned integers (R104). -/
def intU (f : Nat → Int → Int → Int) (w : Bool) (x y : DWord) : DWord := narrow w (f (opWidth w) (readU w x) (readU w y))
/-- SAR: a signed operand and an unsigned count (Table 03.11). -/
def intM (f : Nat → Int → Int → Int) (w : Bool) (x y : DWord) : DWord := narrow w (f (opWidth w) (readS w x) (readU w y))
/-- A bitwise operation (R104). -/
def intB (f : DWord → DWord → DWord) (w : Bool) (x y : DWord) : DWord := narrow w (f x y).toInt

/-! ## Instructions -/

/-- ADD (R104). -/
def execAdd (w : Bool) (d a b : SReg) (s : State) : Res :=
  s.putS d (intS addOp w (s.rs a) (s.rs b)) 8
/-- ADD, immediate form (R104). -/
def execAddImm (w : Bool) (d a : SReg) (imm : Word) (s : State) : Res :=
  s.putS d (intS addOp w (s.rs a) (sext32 imm)) 8
/-- SUB (R104). -/
def execSub (w : Bool) (d a b : SReg) (s : State) : Res :=
  s.putS d (intS subOp w (s.rs a) (s.rs b)) 8
/-- SUB, immediate form (R104). -/
def execSubImm (w : Bool) (d a : SReg) (imm : Word) (s : State) : Res :=
  s.putS d (intS subOp w (s.rs a) (sext32 imm)) 8
/-- MUL (R104). -/
def execMul (w : Bool) (d a b : SReg) (s : State) : Res :=
  s.putS d (intS mulOp w (s.rs a) (s.rs b)) 8
/-- MUL, immediate form (R104). -/
def execMulImm (w : Bool) (d a : SReg) (imm : Word) (s : State) : Res :=
  s.putS d (intS mulOp w (s.rs a) (sext32 imm)) 8
/-- MULH (R104). -/
def execMulh (w : Bool) (d a b : SReg) (s : State) : Res :=
  s.putS d (intS mulhOp w (s.rs a) (s.rs b)) 8
/-- MULH, immediate form (R104). -/
def execMulhImm (w : Bool) (d a : SReg) (imm : Word) (s : State) : Res :=
  s.putS d (intS mulhOp w (s.rs a) (sext32 imm)) 8
/-- MULHN (R104). -/
def execMulhn (w : Bool) (d a b : SReg) (s : State) : Res :=
  s.putS d (intU mulhnOp w (s.rs a) (s.rs b)) 8
/-- MULHN, immediate form (R104). -/
def execMulhnImm (w : Bool) (d a : SReg) (imm : Word) (s : State) : Res :=
  s.putS d (intU mulhnOp w (s.rs a) (sext32 imm)) 8
/-- DIV (R104). -/
def execDiv (w : Bool) (d a b : SReg) (s : State) : Res :=
  s.putS d (intS divOp w (s.rs a) (s.rs b)) 8
/-- DIV, immediate form (R104). -/
def execDivImm (w : Bool) (d a : SReg) (imm : Word) (s : State) : Res :=
  s.putS d (intS divOp w (s.rs a) (sext32 imm)) 8
/-- DIVN (R104). -/
def execDivn (w : Bool) (d a b : SReg) (s : State) : Res :=
  s.putS d (intU divnOp w (s.rs a) (s.rs b)) 8
/-- DIVN, immediate form (R104). -/
def execDivnImm (w : Bool) (d a : SReg) (imm : Word) (s : State) : Res :=
  s.putS d (intU divnOp w (s.rs a) (sext32 imm)) 8
/-- REM (R104). -/
def execRem (w : Bool) (d a b : SReg) (s : State) : Res :=
  s.putS d (intS remOp w (s.rs a) (s.rs b)) 8
/-- REM, immediate form (R104). -/
def execRemImm (w : Bool) (d a : SReg) (imm : Word) (s : State) : Res :=
  s.putS d (intS remOp w (s.rs a) (sext32 imm)) 8
/-- REMN (R104). -/
def execRemn (w : Bool) (d a b : SReg) (s : State) : Res :=
  s.putS d (intU remnOp w (s.rs a) (s.rs b)) 8
/-- REMN, immediate form (R104). -/
def execRemnImm (w : Bool) (d a : SReg) (imm : Word) (s : State) : Res :=
  s.putS d (intU remnOp w (s.rs a) (sext32 imm)) 8
/-- AND (R104). -/
def execAnd (w : Bool) (d a b : SReg) (s : State) : Res :=
  s.putS d (intB andOp w (s.rs a) (s.rs b)) 8
/-- AND, immediate form (R104). -/
def execAndImm (w : Bool) (d a : SReg) (imm : Word) (s : State) : Res :=
  s.putS d (intB andOp w (s.rs a) (sext32 imm)) 8
/-- OR (R104). -/
def execOr (w : Bool) (d a b : SReg) (s : State) : Res :=
  s.putS d (intB orOp w (s.rs a) (s.rs b)) 8
/-- OR, immediate form (R104). -/
def execOrImm (w : Bool) (d a : SReg) (imm : Word) (s : State) : Res :=
  s.putS d (intB orOp w (s.rs a) (sext32 imm)) 8
/-- XOR (R104). -/
def execXor (w : Bool) (d a b : SReg) (s : State) : Res :=
  s.putS d (intB xorOp w (s.rs a) (s.rs b)) 8
/-- XOR, immediate form (R104). -/
def execXorImm (w : Bool) (d a : SReg) (imm : Word) (s : State) : Res :=
  s.putS d (intB xorOp w (s.rs a) (sext32 imm)) 8
/-- ANDN (R104). -/
def execAndn (w : Bool) (d a b : SReg) (s : State) : Res :=
  s.putS d (intB andnOp w (s.rs a) (s.rs b)) 8
/-- ANDN, immediate form (R104). -/
def execAndnImm (w : Bool) (d a : SReg) (imm : Word) (s : State) : Res :=
  s.putS d (intB andnOp w (s.rs a) (sext32 imm)) 8
/-- SHL (R104). -/
def execShl (w : Bool) (d a b : SReg) (s : State) : Res :=
  s.putS d (intU shlOp w (s.rs a) (s.rs b)) 8
/-- SHL, immediate form (R104). -/
def execShlImm (w : Bool) (d a : SReg) (imm : Word) (s : State) : Res :=
  s.putS d (intU shlOp w (s.rs a) (sext32 imm)) 8
/-- SHR (R104). -/
def execShr (w : Bool) (d a b : SReg) (s : State) : Res :=
  s.putS d (intU shrOp w (s.rs a) (s.rs b)) 8
/-- SHR, immediate form (R104). -/
def execShrImm (w : Bool) (d a : SReg) (imm : Word) (s : State) : Res :=
  s.putS d (intU shrOp w (s.rs a) (sext32 imm)) 8
/-- SAR (R104). -/
def execSar (w : Bool) (d a b : SReg) (s : State) : Res :=
  s.putS d (intM sarOp w (s.rs a) (s.rs b)) 8
/-- SAR, immediate form (R104). -/
def execSarImm (w : Bool) (d a : SReg) (imm : Word) (s : State) : Res :=
  s.putS d (intM sarOp w (s.rs a) (sext32 imm)) 8
/-- MIN (R104). -/
def execMin (w : Bool) (d a b : SReg) (s : State) : Res :=
  s.putS d (intS minOp w (s.rs a) (s.rs b)) 8
/-- MIN, immediate form (R104). -/
def execMinImm (w : Bool) (d a : SReg) (imm : Word) (s : State) : Res :=
  s.putS d (intS minOp w (s.rs a) (sext32 imm)) 8
/-- MAX (R104). -/
def execMax (w : Bool) (d a b : SReg) (s : State) : Res :=
  s.putS d (intS maxOp w (s.rs a) (s.rs b)) 8
/-- MAX, immediate form (R104). -/
def execMaxImm (w : Bool) (d a : SReg) (imm : Word) (s : State) : Res :=
  s.putS d (intS maxOp w (s.rs a) (sext32 imm)) 8
/-- MINN (R104). -/
def execMinn (w : Bool) (d a b : SReg) (s : State) : Res :=
  s.putS d (intU minnOp w (s.rs a) (s.rs b)) 8
/-- MINN, immediate form (R104). -/
def execMinnImm (w : Bool) (d a : SReg) (imm : Word) (s : State) : Res :=
  s.putS d (intU minnOp w (s.rs a) (sext32 imm)) 8
/-- MAXN (R104). -/
def execMaxn (w : Bool) (d a b : SReg) (s : State) : Res :=
  s.putS d (intU maxnOp w (s.rs a) (s.rs b)) 8
/-- MAXN, immediate form (R104). -/
def execMaxnImm (w : Bool) (d a : SReg) (imm : Word) (s : State) : Res :=
  s.putS d (intU maxnOp w (s.rs a) (sext32 imm)) 8
/-- CMP (R105). -/
def execCmp (w : Bool) (cond : Cond) (d a b : SReg) (s : State) : Res := s.putS d (cmpOp cond w (s.rs a) (s.rs b)) 8
/-- CMP, immediate form (R105). -/
def execCmpImm (w : Bool) (cond : Cond) (d a : SReg) (imm : Word) (s : State) : Res :=
  s.putS d (cmpOp cond w (s.rs a) (sext32 imm)) 8
/-- SEL (R105). -/
def execSel (d a b c : SReg) (s : State) : Res := s.putS d (if s.rs c ≠ 0 then s.rs a else s.rs b) 8
/-- CLZ (R105). -/
def execClz (w : Bool) (d a : SReg) (s : State) : Res :=
  s.putS d (narrow w (clzOp (opWidth w) (readN w (s.rs a)))) 8
/-- CTZ (R105). -/
def execCtz (w : Bool) (d a : SReg) (s : State) : Res :=
  s.putS d (narrow w (ctzOp (opWidth w) (readN w (s.rs a)))) 8
/-- POPC (R105). -/
def execPopc (w : Bool) (d a : SReg) (s : State) : Res :=
  s.putS d (narrow w (popcOp (opWidth w) (readN w (s.rs a)))) 8
/-- EXT (R105). -/
def execExt (k : ExtKind) (d a : SReg) (s : State) : Res := s.putS d (extOp k (s.rs a)) 8
/-- BFX (R105). -/
def execBfx (sgn : Bool) (pos lenM1 : BitVec 6) (d a : SReg) (s : State) : Res :=
  s.putS d (bfxOp sgn pos.toNat (lenM1.toNat + 1) (s.rs a)) 8
/-- BFI (R105). -/
def execBfi (pos lenM1 : BitVec 6) (d a : SReg) (s : State) : Res :=
  s.putS d (bfiOp pos.toNat (lenM1.toNat + 1) (s.rs d) (s.rs a)) 8
/-- LI (R105). -/
def execLi (d : SReg) (lit : DWord) (s : State) : Res := s.putS d lit 12
/-- ADDPC (R105). -/
def execAddpc (d : SReg) (imm : Word) (s : State) : Res :=
  s.putS d ((s.core.pc + imm.setWidth 18).setWidth 64) 8

end Sys2Proof.Machine
end

