-- ==== Sys2Proof/Machine/Dispatch.lean ====
section
/-!
DEFINITION. One arm per instruction and event: a direct call of its meaning.
-/

namespace Sys2Proof.Machine

/-- The meaning of an instruction. -/
def exec (i : Instr) (s : State) : Host.Outcome State Fault Refusal :=
  match i with
  | .add w d a b => Sys2Proof.Machine.execAdd w d a b s
  | .addImm w d a imm => Sys2Proof.Machine.execAddImm w d a imm s
  | .sub w d a b => Sys2Proof.Machine.execSub w d a b s
  | .subImm w d a imm => Sys2Proof.Machine.execSubImm w d a imm s
  | .mul w d a b => Sys2Proof.Machine.execMul w d a b s
  | .mulImm w d a imm => Sys2Proof.Machine.execMulImm w d a imm s
  | .mulh w d a b => Sys2Proof.Machine.execMulh w d a b s
  | .mulhImm w d a imm => Sys2Proof.Machine.execMulhImm w d a imm s
  | .mulhn w d a b => Sys2Proof.Machine.execMulhn w d a b s
  | .mulhnImm w d a imm => Sys2Proof.Machine.execMulhnImm w d a imm s
  | .div w d a b => Sys2Proof.Machine.execDiv w d a b s
  | .divImm w d a imm => Sys2Proof.Machine.execDivImm w d a imm s
  | .divn w d a b => Sys2Proof.Machine.execDivn w d a b s
  | .divnImm w d a imm => Sys2Proof.Machine.execDivnImm w d a imm s
  | .rem w d a b => Sys2Proof.Machine.execRem w d a b s
  | .remImm w d a imm => Sys2Proof.Machine.execRemImm w d a imm s
  | .remn w d a b => Sys2Proof.Machine.execRemn w d a b s
  | .remnImm w d a imm => Sys2Proof.Machine.execRemnImm w d a imm s
  | .and w d a b => Sys2Proof.Machine.execAnd w d a b s
  | .andImm w d a imm => Sys2Proof.Machine.execAndImm w d a imm s
  | .or w d a b => Sys2Proof.Machine.execOr w d a b s
  | .orImm w d a imm => Sys2Proof.Machine.execOrImm w d a imm s
  | .xor w d a b => Sys2Proof.Machine.execXor w d a b s
  | .xorImm w d a imm => Sys2Proof.Machine.execXorImm w d a imm s
  | .andn w d a b => Sys2Proof.Machine.execAndn w d a b s
  | .andnImm w d a imm => Sys2Proof.Machine.execAndnImm w d a imm s
  | .shl w d a b => Sys2Proof.Machine.execShl w d a b s
  | .shlImm w d a imm => Sys2Proof.Machine.execShlImm w d a imm s
  | .shr w d a b => Sys2Proof.Machine.execShr w d a b s
  | .shrImm w d a imm => Sys2Proof.Machine.execShrImm w d a imm s
  | .sar w d a b => Sys2Proof.Machine.execSar w d a b s
  | .sarImm w d a imm => Sys2Proof.Machine.execSarImm w d a imm s
  | .min w d a b => Sys2Proof.Machine.execMin w d a b s
  | .minImm w d a imm => Sys2Proof.Machine.execMinImm w d a imm s
  | .max w d a b => Sys2Proof.Machine.execMax w d a b s
  | .maxImm w d a imm => Sys2Proof.Machine.execMaxImm w d a imm s
  | .minn w d a b => Sys2Proof.Machine.execMinn w d a b s
  | .minnImm w d a imm => Sys2Proof.Machine.execMinnImm w d a imm s
  | .maxn w d a b => Sys2Proof.Machine.execMaxn w d a b s
  | .maxnImm w d a imm => Sys2Proof.Machine.execMaxnImm w d a imm s
  | .cmp w cond d a b => Sys2Proof.Machine.execCmp w cond d a b s
  | .cmpImm w cond d a imm => Sys2Proof.Machine.execCmpImm w cond d a imm s
  | .sel d a b c => Sys2Proof.Machine.execSel d a b c s
  | .clz w d a => Sys2Proof.Machine.execClz w d a s
  | .ctz w d a => Sys2Proof.Machine.execCtz w d a s
  | .popc w d a => Sys2Proof.Machine.execPopc w d a s
  | .ext k d a => Sys2Proof.Machine.execExt k d a s
  | .bfx sgn pos lenM1 d a => Sys2Proof.Machine.execBfx sgn pos lenM1 d a s
  | .bfi pos lenM1 d a => Sys2Proof.Machine.execBfi pos lenM1 d a s
  | .li d lit => Sys2Proof.Machine.execLi d lit s
  | .addpc d imm => Sys2Proof.Machine.execAddpc d imm s
  | .br w cond a b off => Sys2Proof.Machine.execBr w cond a b off s
  | .bri w cond a y off => Sys2Proof.Machine.execBri w cond a y off s
  | .jmp off => Sys2Proof.Machine.execJmp off s
  | .jal d off => Sys2Proof.Machine.execJal d off s
  | .jr a imm => Sys2Proof.Machine.execJr a imm s
  | .jalr d a imm => Sys2Proof.Machine.execJalr d a imm s
  | .region smask => Sys2Proof.Machine.execRegion smask s
  | .regionVec smask vmask => Sys2Proof.Machine.execRegionVec smask vmask s
  | .waitc sel n => Sys2Proof.Machine.execWaitc sel n s
  | .rep nM1 sd sa sb sc count => Sys2Proof.Machine.execRep nM1 sd sa sb sc count s
  | .trapi imm => Sys2Proof.Machine.execTrapi imm s
  | .ldl k d a imm => Sys2Proof.Machine.execLdl k d a imm s
  | .stl k a b imm => Sys2Proof.Machine.execStl k a b imm s
  | .ldg k inv d a imm => Sys2Proof.Machine.execLdg k inv d a imm s
  | .stg k a b imm => Sys2Proof.Machine.execStg k a b imm s
  | .ldaq k scope d a imm => Sys2Proof.Machine.execLdaq k scope d a imm s
  | .strl k scope a b imm => Sys2Proof.Machine.execStrl k scope a b imm s
  | .ldf tgt d a imm => Sys2Proof.Machine.execLdf tgt d a imm s
  | .ldfp tgt d a imm => Sys2Proof.Machine.execLdfp tgt d a imm s
  | .ste a b imm => Sys2Proof.Machine.execSte a b imm s
  | .steRem a b c => Sys2Proof.Machine.execSteRem a b c s
  | .tagw full tgt a imm => Sys2Proof.Machine.execTagw full tgt a imm s
  | .tagr tgt d a imm => Sys2Proof.Machine.execTagr tgt d a imm s
  | .vldl fmt gd d a imm => Sys2Proof.Machine.execVldl fmt gd d a imm s
  | .vstl fmt gd d a imm => Sys2Proof.Machine.execVstl fmt gd d a imm s
  | .vldg fmt gd d a imm => Sys2Proof.Machine.execVldg fmt gd d a imm s
  | .vstg fmt gd d a imm => Sys2Proof.Machine.execVstg fmt gd d a imm s
  | .vlds fmt gd d a b imm => Sys2Proof.Machine.execVlds fmt gd d a b imm s
  | .vsts fmt gd d a b imm => Sys2Proof.Machine.execVsts fmt gd d a b imm s
  | .vgath fmt gd loc sh d a b => Sys2Proof.Machine.execVgath fmt gd loc sh d a b s
  | .vscat fmt gd loc sh d a b => Sys2Proof.Machine.execVscat fmt gd loc sh d a b s
  | .amo op ord w scope d a b => Sys2Proof.Machine.execAmo op ord w scope d a b s
  | .cas ord w scope d a b c => Sys2Proof.Machine.execCas ord w scope d a b c s
  | .amobnd ord w scope d a b c => Sys2Proof.Machine.execAmobnd ord w scope d a b c s
  | .red op rl w scope a b => Sys2Proof.Machine.execRed op rl w scope a b s
  | .redf op cnt rl scope fmt a b => Sys2Proof.Machine.execRedf op cnt rl scope fmt a b s
  | .vred op cnt rl scope fmt gd a b => Sys2Proof.Machine.execVred op cnt rl scope fmt gd a b s
  | .fence scope => Sys2Proof.Machine.execFence scope s
  | .clinit a b => Sys2Proof.Machine.execClinit a b s
  | .arrive scope d a b => Sys2Proof.Machine.execArrive scope d a b s
  | .arrivew scope d a b => Sys2Proof.Machine.execArrivew scope d a b s
  | .clwait scope a b c => Sys2Proof.Machine.execClwait scope a b c s
  | .vadd fmt gd d a b => Sys2Proof.Machine.execVadd fmt gd d a b s
  | .vsub fmt gd d a b => Sys2Proof.Machine.execVsub fmt gd d a b s
  | .vmul fmt gd d a b => Sys2Proof.Machine.execVmul fmt gd d a b s
  | .vfma fmt gd d a b c => Sys2Proof.Machine.execVfma fmt gd d a b c s
  | .vfms fmt gd d a b c => Sys2Proof.Machine.execVfms fmt gd d a b c s
  | .vmin fmt gd d a b => Sys2Proof.Machine.execVmin fmt gd d a b s
  | .vmax fmt gd d a b => Sys2Proof.Machine.execVmax fmt gd d a b s
  | .vdiv fmt gd d a b => Sys2Proof.Machine.execVdiv fmt gd d a b s
  | .vsqrt fmt gd d a => Sys2Proof.Machine.execVsqrt fmt gd d a s
  | .vmag fmt gd d a => Sys2Proof.Machine.execVmag fmt gd d a s
  | .vneg fmt gd d a => Sys2Proof.Machine.execVneg fmt gd d a s
  | .vand fmt gd d a b => Sys2Proof.Machine.execVand fmt gd d a b s
  | .vor fmt gd d a b => Sys2Proof.Machine.execVor fmt gd d a b s
  | .vxor fmt gd d a b => Sys2Proof.Machine.execVxor fmt gd d a b s
  | .vshl fmt gd d a b => Sys2Proof.Machine.execVshl fmt gd d a b s
  | .vshr fmt g d a b => Sys2Proof.Machine.execVshr fmt g d a b s
  | .vsar fmt g d a b => Sys2Proof.Machine.execVsar fmt g d a b s
  | .vadds fmt g d a b => Sys2Proof.Machine.execVadds fmt g d a b s
  | .vsubs fmt g d a b => Sys2Proof.Machine.execVsubs fmt g d a b s
  | .vcvt dst src rnd part g d a => Sys2Proof.Machine.execVcvt dst src rnd part g d a s
  | .vcmp fmt cond g d a b => Sys2Proof.Machine.execVcmp fmt cond g d a b s
  | .vsel fmt k g d a b c => Sys2Proof.Machine.execVsel fmt k g d a b c s
  | .vexp2 g d a => Sys2Proof.Machine.execVexp2 g d a s
  | .vlog2 g d a => Sys2Proof.Machine.execVlog2 g d a s
  | .vrcp g d a => Sys2Proof.Machine.execVrcp g d a s
  | .vrsq g d a => Sys2Proof.Machine.execVrsq g d a s
  | .vsca fmt sv rnd g d a b => Sys2Proof.Machine.execVsca fmt sv rnd g d a b s
  | .vvoid fmt g d => Sys2Proof.Machine.execVvoid fmt g d s
  | .vpres fmt g d a => Sys2Proof.Machine.execVpres fmt g d a s
  | .vmov fmt gd d a => Sys2Proof.Machine.execVmov fmt gd d a s
  | .vbcast fmt gd d src => Sys2Proof.Machine.execVbcast fmt gd d src s
  | .vextr fmt gd d a b => Sys2Proof.Machine.execVextr fmt gd d a b s
  | .vins fmt gd d a b => Sys2Proof.Machine.execVins fmt gd d a b s
  | .vperm fmt gd d a b => Sys2Proof.Machine.execVperm fmt gd d a b s
  | .vslide fmt gd dn d a b => Sys2Proof.Machine.execVslide fmt gd dn d a b s
  | .vzip fmt gd hi d a b => Sys2Proof.Machine.execVzip fmt gd hi d a b s
  | .vunzip fmt gd od d a b => Sys2Proof.Machine.execVunzip fmt gd od d a b s
  | .vcompr fmt gd d a => Sys2Proof.Machine.execVcompr fmt gd d a s
  | .vexpq4 gd part d a => Sys2Proof.Machine.execVexpq4 gd part d a s
  | .qtld gd a => Sys2Proof.Machine.execQtld gd a s
  | .vreduce fmt gd op d a => Sys2Proof.Machine.execVreduce fmt gd op d a s
  | .vscan fmt gd op ex d a => Sys2Proof.Machine.execVscan fmt gd op ex d a s
  | .vcount fmt gd d a => Sys2Proof.Machine.execVcount fmt gd d a s
  | .whilelt fmt gd d a b => Sys2Proof.Machine.execWhilelt fmt gd d a b s
  | .vlq fmt d => Sys2Proof.Machine.execVlq fmt d s
  | .pand d a b => Sys2Proof.Machine.execPand d a b s
  | .por d a b => Sys2Proof.Machine.execPor d a b s
  | .pnot d a => Sys2Proof.Machine.execPnot d a s
  | .pcnt fmt d a => Sys2Proof.Machine.execPcnt fmt d a s
  | .pfirst fmt d a => Sys2Proof.Machine.execPfirst fmt d a s
  | .pset fmt d k => Sys2Proof.Machine.execPset fmt d k s
  | .nred fmt g a b k => Sys2Proof.Machine.execNred fmt g a b k s
  | .nsend scope a b tag => Sys2Proof.Machine.execNsend scope a b tag s
  | .nsendRaw scope a b => Sys2Proof.Machine.execNsendRaw scope a b s
  | .nrecv d => Sys2Proof.Machine.execNrecv d s
  | .mcast a k => Sys2Proof.Machine.execMcast a k s
  | .bld scope fmt a k aq rl => Sys2Proof.Machine.execBld scope fmt a k aq rl s
  | .mma scope fmt d a k nbm1 aq rl => Sys2Proof.Machine.execMma scope fmt d a k nbm1 aq rl s
  | .mzero scope fmt d aq rl => Sys2Proof.Machine.execMzero scope fmt d aq rl s
  | .mdrain f => Sys2Proof.Machine.execMdrain f s
  | .mstat sel d c => Sys2Proof.Machine.execMstat sel d c s
  | .msave scope d a aq rl => Sys2Proof.Machine.execMsave scope d a aq rl s
  | .mrest scope fmt d a aq rl => Sys2Proof.Machine.execMrest scope fmt d a aq rl s
  | .cpy f => Sys2Proof.Machine.execCpy f s
  | .cpy2 f => Sys2Proof.Machine.execCpy2 f s
  | .send f => Sys2Proof.Machine.execSend f s
  | .sendLast f => Sys2Proof.Machine.execSendLast f s
  | .poisonclr a => Sys2Proof.Machine.execPoisonclr a s
  | .spawn f => Sys2Proof.Machine.execSpawn f s
  | .exit a => Sys2Proof.Machine.execExit a s
  | .kill a => Sys2Proof.Machine.execKill a s
  | .link a => Sys2Proof.Machine.execLink a s
  | .unlink a => Sys2Proof.Machine.execUnlink a s
  | .monitor a b => Sys2Proof.Machine.execMonitor a b s
  | .unmon a b => Sys2Proof.Machine.execUnmon a b s
  | .signalMsg scope a b c => Sys2Proof.Machine.execSignalMsg scope a b c s
  | .signalExit scope a b => Sys2Proof.Machine.execSignalExit scope a b s
  | .self d => Sys2Proof.Machine.execSelf d s
  | .selfStable d => Sys2Proof.Machine.execSelfStable d s
  | .selfTx a => Sys2Proof.Machine.execSelfTx a s
  | .timer k a b => Sys2Proof.Machine.execTimer k a b s
  | .timerKill k a b => Sys2Proof.Machine.execTimerKill k a b s
  | .capcall a b c => Sys2Proof.Machine.execCapcall a b c s
  | .migrate a b => Sys2Proof.Machine.execMigrate a b s
  | .portcfg k a b => Sys2Proof.Machine.execPortcfg k a b s
  | .consume k a => Sys2Proof.Machine.execConsume k a s
  | .supcfgPolicy a b => Sys2Proof.Machine.execSupcfgPolicy a b s
  | .supcfgAdd d a => Sys2Proof.Machine.execSupcfgAdd d a s
  | .supcfgRemove a => Sys2Proof.Machine.execSupcfgRemove a s
  | .supcfgLaunch a => Sys2Proof.Machine.execSupcfgLaunch a s
  | .restartChild a => Sys2Proof.Machine.execRestartChild a s
  | .restartJob a => Sys2Proof.Machine.execRestartJob a s
  | .getcMissb d => Sys2Proof.Machine.execGetcMissb d s
  | .tlbw d a b c rsp => Sys2Proof.Machine.execTlbw d a b c rsp s
  | .tlbinvPage a b sz => Sys2Proof.Machine.execTlbinvPage a b sz s
  | .tlbinvCtx b => Sys2Proof.Machine.execTlbinvCtx b s
  | .tlbprobe e1 d a b => Sys2Proof.Machine.execTlbprobe e1 d a b s
  | .getc d num => Sys2Proof.Machine.execGetc d num s
  | .setc num a => Sys2Proof.Machine.execSetc num a s
  | .setcImm num imm => Sys2Proof.Machine.execSetcImm num imm s
  | .ctxnew d a ovr num rq => Sys2Proof.Machine.execCtxnew d a ovr num rq s
  | .ctxset a b c => Sys2Proof.Machine.execCtxset a b c s
  | .ctxrevoke a => Sys2Proof.Machine.execCtxrevoke a s
  | .ctxstat d a k => Sys2Proof.Machine.execCtxstat d a k s
  | .ctxdone a => Sys2Proof.Machine.execCtxdone a s
  | .scrunWrite p v => Sys2Proof.Machine.execScrunWrite p v s
  | .locketStart d a => Sys2Proof.Machine.execLocketStart d a s
  | .locketStat d a => Sys2Proof.Machine.execLocketStat d a s
  | .locketStop a => Sys2Proof.Machine.execLocketStop a s
  | .taggedWaitComplete c => Sys2Proof.Machine.execTaggedWaitComplete c s
  | .remoteAccessRequest c => Sys2Proof.Machine.execRemoteAccessRequest c s
  | .claspReleaseAnswer c => Sys2Proof.Machine.execClaspReleaseAnswer c s
  | .nsendDelivery c => Sys2Proof.Machine.execNsendDelivery c s
  | .strandNodeCombine n k => Sys2Proof.Machine.execStrandNodeCombine n k s
  | .strandResultWrite c k => Sys2Proof.Machine.execStrandResultWrite c k s
  | .mcastMemberWrite c => Sys2Proof.Machine.execMcastMemberWrite c s
  | .mcastComplete c => Sys2Proof.Machine.execMcastComplete c s
  | .discover pos => Sys2Proof.Machine.execDiscover pos s
  | .discoverAck die => Sys2Proof.Machine.execDiscoverAck die s
  | .assign die => Sys2Proof.Machine.execAssign die s
  | .bezelOpStart oct => Sys2Proof.Machine.execBezelOpStart oct s
  | .bezelOpComplete oct => Sys2Proof.Machine.execBezelOpComplete oct s
  | .copyCommandStart c q => Sys2Proof.Machine.execCopyCommandStart c q s
  | .copyCommandComplete c q n => Sys2Proof.Machine.execCopyCommandComplete c q n s
  | .reservationRequest c => Sys2Proof.Machine.execReservationRequest c s
  | .reservationResend c => Sys2Proof.Machine.execReservationResend c s
  | .slotPublication c => Sys2Proof.Machine.execSlotPublication c s
  | .storeBufferDrain c => Sys2Proof.Machine.execStoreBufferDrain c s
  | .orderingPointPass die n => Sys2Proof.Machine.execOrderingPointPass die n s
  | .writeQueueApply port => Sys2Proof.Machine.execWriteQueueApply port s
  | .portRead port => Sys2Proof.Machine.execPortRead port s
  | .deathSignals x => Sys2Proof.Machine.execDeathSignals x s
  | .slotReclaim x => Sys2Proof.Machine.execSlotReclaim x s
  | .migrationStart x => Sys2Proof.Machine.execMigrationStart x s
  | .migrationMove x => Sys2Proof.Machine.execMigrationMove x s
  | .forwardingRedirect c => Sys2Proof.Machine.execForwardingRedirect c s
  | .restartEvent x => Sys2Proof.Machine.execRestartEvent x s
  | .restartSequence x e => Sys2Proof.Machine.execRestartSequence x e s
  | .jobTeardown j => Sys2Proof.Machine.execJobTeardown j s
  | .jobShadowCommit j => Sys2Proof.Machine.execJobShadowCommit j s
  | .missResend c => Sys2Proof.Machine.execMissResend c s
  | .tlbMissAnswer c => Sys2Proof.Machine.execTlbMissAnswer c s
  | .pageRequest c => Sys2Proof.Machine.execPageRequest c s
  | .pageRequestRetry c => Sys2Proof.Machine.execPageRequestRetry c s
  | .firingChoice c => Sys2Proof.Machine.execFiringChoice c s
  | .revocationComplete x => Sys2Proof.Machine.execRevocationComplete x s
  | .resize x => Sys2Proof.Machine.execResize x s
  | .contextFailed x => Sys2Proof.Machine.execContextFailed x s
  | .savePoint c => Sys2Proof.Machine.execSavePoint c s
  | .scrub c => Sys2Proof.Machine.execScrub c s
  | .hubStrandCombine k => Sys2Proof.Machine.execHubStrandCombine k s
  | .hostMessageDelivery n => Sys2Proof.Machine.execHostMessageDelivery n s
  | .bezelIsolationSlot oct => Sys2Proof.Machine.execBezelIsolationSlot oct s
  | .patrolRead block e => Sys2Proof.Machine.execPatrolRead block e s
  | .timerExpiry x k => Sys2Proof.Machine.execTimerExpiry x k s
  | .prqdoneWrite c v => Sys2Proof.Machine.execPrqdoneWrite c v s
  | .windowWrite k v => Sys2Proof.Machine.execWindowWrite k v s
  | .bzmapWrite v => Sys2Proof.Machine.execBzmapWrite v s
  | .strandWrite k v => Sys2Proof.Machine.execStrandWrite k v s
  | .registerWrite r v => Sys2Proof.Machine.execRegisterWrite r v s
  | .sliceEnd c => Sys2Proof.Machine.execSliceEnd c s
  | .preemptionBudgetExpiry c => Sys2Proof.Machine.execPreemptionBudgetExpiry c s
  | .watchdog c => Sys2Proof.Machine.execWatchdog c s
  | .functionReset n => Sys2Proof.Machine.execFunctionReset n s
  | .serviceCoreFault p code => Sys2Proof.Machine.execServiceCoreFault p code s
  | .serviceUncorrectable u => Sys2Proof.Machine.execServiceUncorrectable u s
  | .locketStreamEnd t how => Sys2Proof.Machine.execLocketStreamEnd t how s
  | .fabricRequestArrival dev flow seq pidx r => Sys2Proof.Machine.execFabricRequestArrival dev flow seq pidx r s
  | .endToEndResend flow => Sys2Proof.Machine.execEndToEndResend flow s
  | .linkReplay p => Sys2Proof.Machine.execLinkReplay p s
  | .portRetrain p ok lanes peer => Sys2Proof.Machine.execPortRetrain p ok lanes peer s
  | .deviceLost d => Sys2Proof.Machine.execDeviceLost d s
  | .hostCompletionTimeout c => Sys2Proof.Machine.execHostCompletionTimeout c s
  | .mbtailWrite n v slots => Sys2Proof.Machine.execMbtailWrite n v slots s
  | .fresetWrite n v => Sys2Proof.Machine.execFresetWrite n v s
  | .vfbindWrite w n v => Sys2Proof.Machine.execVfbindWrite w n v s
  | .vfirqWrite v => Sys2Proof.Machine.execVfirqWrite v s
  | .lockInterface n => Sys2Proof.Machine.execLockInterface n s
  | .startInterface n => Sys2Proof.Machine.execStartInterface n s
  | .stopInterface n => Sys2Proof.Machine.execStopInterface n s
  | .getDeviceInterfaceReport n => Sys2Proof.Machine.execGetDeviceInterfaceReport n s
  | .getVersion p => Sys2Proof.Machine.execGetVersion p s
  | .getCapabilities p => Sys2Proof.Machine.execGetCapabilities p s
  | .negotiateAlgorithms p => Sys2Proof.Machine.execNegotiateAlgorithms p s
  | .getDigests p => Sys2Proof.Machine.execGetDigests p s
  | .getCertificate p slot => Sys2Proof.Machine.execGetCertificate p slot s
  | .challenge p slot => Sys2Proof.Machine.execChallenge p slot s
  | .getMeasurements p idx => Sys2Proof.Machine.execGetMeasurements p idx s
  | .keyExchange p => Sys2Proof.Machine.execKeyExchange p s
  | .finish p => Sys2Proof.Machine.execFinish p s
  | .endSession p => Sys2Proof.Machine.execEndSession p s
  | .unsupportedRequest p => Sys2Proof.Machine.execUnsupportedRequest p s
  | .cornerCoreStart die prog image => Sys2Proof.Machine.execCornerCoreStart die prog image s
  | .bendWrite v => Sys2Proof.Machine.execBendWrite v s
  | .bootTimeout die => Sys2Proof.Machine.execBootTimeout die s
  | .thermalThrottle steps => Sys2Proof.Machine.execThermalThrottle steps s
  | .fabricReplyArrival flow seq r => Sys2Proof.Machine.execFabricReplyArrival flow seq r s
  | .hostCompletion c r => Sys2Proof.Machine.execHostCompletion c r s
  | .directoryUpdateAcknowledged c => Sys2Proof.Machine.execDirectoryUpdateAcknowledged c s
  | .messageWindow cl => Sys2Proof.Machine.execMessageWindow cl s
  | .fbdomLostClear d priv => Sys2Proof.Machine.execFbdomLostClear d priv s
  | .fabricManagerBind ld host => Sys2Proof.Machine.execFabricManagerBind ld host s
  | .endF => Sys2Proof.Machine.execEndF s
  | .eret => Sys2Proof.Machine.execEret s
  | .nop => Sys2Proof.Machine.execNop s
  | .padWord => Sys2Proof.Machine.execPadWord s
  | .exitSignalArrival => Sys2Proof.Machine.execExitSignalArrival s
  | .controlMessageArrival => Sys2Proof.Machine.execControlMessageArrival s
  | .capcallReply => Sys2Proof.Machine.execCapcallReply s
  | .tlbinvComplete => Sys2Proof.Machine.execTlbinvComplete s
  | .trapMessageDelivery => Sys2Proof.Machine.execTrapMessageDelivery s
  | .tokenInterval => Sys2Proof.Machine.execTokenInterval s
  | .deviceReset => Sys2Proof.Machine.execDeviceReset s
  | .thermalTrip => Sys2Proof.Machine.execThermalTrip s
  | .powerRemoval => Sys2Proof.Machine.execPowerRemoval s

end Sys2Proof.Machine
end

