-- ==== Sys2Proof/Machine/Issue.lean ====
section
/-!
DEFINITION. What the executing core does next: an instruction fetched and run, or an instruction of the repetition
buffer (R108, R109).
-/

namespace Sys2Proof.Machine

/-- May a translation core execute an instruction (R333)? -/
def translExecutes (i : Instr) : Bool :=
  match i with
  | .region _ => false
  | .regionVec _ _ => false
  | .rep _ _ _ _ _ _ => false
  | .trapi _ => false
  | .ldl _ _ _ _ => true
  | .stl _ _ _ _ => true
  | .ldg _ _ _ _ _ => true
  | .stg _ _ _ _ => true
  | .ldaq _ _ _ _ _ => true
  | .strl _ _ _ _ _ => true
  | .getc _ _ => true
  | .getcMissb _ => true
  | .setc _ _ => true
  | .setcImm _ _ => true
  | .tlbw _ _ _ _ _ => true
  | .tlbinvPage _ _ _ => true
  | .tlbinvCtx _ => true
  | .tlbprobe _ _ _ _ => true
  | i => decide (opClass i ≤ 1)

/-- Does the executing core execute an instruction at all? -/
def State.executes (s : State) (i : Instr) : Bool :=
  match s.focus with
  | .transl _ => translExecutes i
  | _ => true

/-- Does an instruction depend on a register that iterations read or set: RM, or the sticky flags (R83, R176)? -/
def usesModes : Instr → Bool
  | .getc _ n => decide (n.toNat = 4)
  | .setc n _ => decide (n.toNat = 3 ∨ n.toNat = 4)
  | .setcImm n _ => decide (n.toNat = 3 ∨ n.toNat = 4)
  | _ => false

/-- Is an instruction of the scalar pipeline ordered after the iterations of a repetition that still runs: a vector, Bezel or copy
instruction (R108), or one that depends on RM (0x003) or FLAGS (0x004) (R83, R176)? -/
def Core.afterRep (c : Core) (i : Instr) : Bool :=
  match c.rep with
  | some r => r.stop.isNone && (isVector i || usesModes i)
  | none => false

/-- Where the code of a core ends: XBOUND of a work core (R87); a core of the hub runs from all of its local memory, and a
translation core from its 64 KiB (R333). -/
def State.codeEnd (s : State) : LAddr :=
  match s.focus with
  | .work _ => s.core.xbound
  | .transl _ => BitVec.ofNat 18 (2 ^ 16)
  | _ => BitVec.allOnes 18

/-- What the executing core finds at its pc. -/
def State.fetchNow (s : State) : Fetched := ({ s.core with xbound := s.codeEnd }).fetch s.core.pc

/-- What answers have brought for an instruction goes when that instruction is left behind. -/
def State.settle (t : State) (pc : LAddr) : State :=
  if t.core.pc = pc then t else t.onCore Core.unhold

/-- The result of running the executing core's instruction. -/
def settled (pc : LAddr) (r : Res) : Res :=
  match r with
  | .next t => .next (t.settle pc)
  | r => r

/-- The executing core fetches and runs the instruction at its pc (R60 to R63, R87, R108, R333). -/
def State.runCore (s : State) : Res :=
  match s.fetchNow with
  | .illegal => s.illegal
  | .overlay => s.overlay
  | .instr i =>
    if !s.executes i then s.illegal
    else if s.core.afterRep i then .next s
    else settled s.core.pc (exec i s)

/-- The repetition with one captured instruction done: the next one, the next iteration, or the end. -/
def Repetition.advance (r : Repetition) : Option Repetition :=
  if r.next + 1 < r.body.length then some { r with next := r.next + 1 }
  else if r.iter + 1 < r.count then some { r with next := 0, iter := r.iter + 1 }
  else none

/-- The executing core as its repetition sees it while it issues the instruction at an address: scalar operands from the copy taken
at REP, and the repetition's own wait and answers in place of the pipeline's. -/
def Core.iterating (c : Core) (r : Repetition) (a : LAddr) : Core :=
  { c with
    pc := a
    regs := { c.regs with s := r.snap }
    wait := none
    heldAt := a
    latched := r.latched
    noted := r.noted
    got := [] }
/-- The pipeline has its place, scalar registers, wait and answers back. -/
def Core.pipeline (c old : Core) : Core :=
  { c with
    pc := old.pc
    regs := { c.regs with s := old.regs.s }
    wait := old.wait
    heldAt := old.heldAt
    latched := old.latched
    noted := old.noted
    got := old.got }

/-- What a recoverable trap of an iteration makes of the wait of the pipeline's own instruction: one that has had no effect yet is
issued again at the resume point; with one that an answer completes, the trap comes after it (DEDUCED, log entry 17). -/
def WaitKind.abandoned : WaitKind → Bool
  | .atomic => false
  | .fabric _ _ _ _ _ => false
  | .clasp _ => false
  | .remote _ => false
  | _ => true

/-- What follows an instruction of the repetition issued from address a, n bytes long: the scalar pipeline keeps its
registers, its place and its wait; a recoverable trap stops the repetition, with its iteration in TCAUSE and TSW.RP set (R109); one
that waits is issued again. -/
def State.repAfter (s : State) (r : Repetition) (a : LAddr) (n : Nat) (t : State) : State :=
  if t.core.rep.isNone then t.onCore fun c => { c with regs := { c.regs with s := s.core.regs.s } }
  else if t.core.tsw.it && !s.core.tsw.it then
    if s.core.wait.all fun w => w.kind.abandoned then
      t.onCore fun c => { c.pipeline s.core with
        pc := c.pc
        wait := none
        rep := some { r with stop := some s.core.pc }
        tsw := { c.tsw with rp := true }
        traps := { c.traps with tcause := setBits 16 16 r.iter c.traps.tcause } }
    else s
  else if t.core.pc = a + BitVec.ofNat 18 n then
    t.onCore fun c => { c.pipeline s.core with rep := r.advance.map fun q => { q with wait := none, latched := [], noted := [] } }
  else t.onCore fun c => { c.pipeline s.core with
    rep := some { r with wait := c.wait, latched := c.latched, noted := c.noted } }

/-- The executing core issues the next instruction of its repetition buffer: register fields strided, scalar operands
from the copy taken at REP (R108). One whose moved destination meets its count register is illegal (R193). -/
def State.runRep (s : State) : Res :=
  match s.core.rep with
  | none => .next s
  | some r =>
    match r.body[r.next]? with
    | none => .next (s.onCore fun c => { c with rep := none })
    | some (a, i) =>
      let j := strided r.iter r.sd r.sa r.sb r.sc i
      if !strideAllowed j then ({ s with core := { s.core with pc := a } } : State).illegal
      else
        match exec j (s.onCore fun c => c.iterating r a) with
        | .next u => .next (s.repAfter r a i.size u)
        | e => e

end Sys2Proof.Machine
end

