-- ==== Sys2Proof/Machine/Engines.lean ====
section
/-!
DEFINITION. Which units can move in a state: cores that run code, repetition buffers, the engines whose work is ready,
and the oldest event from outside that the device can take. The spec orders them no further than each event's own
conditions; `step` takes one by a free choice.
-/

namespace Sys2Proof.Machine

/-- A unit that can move. -/
inductive Mover where
  | core (id : CoreId)
  | rep (id : CoreId)
  | event (i : Instr)
  | input (n : Nat)
  | reset (n : Nat)
  | hostMessage (n : Nat)
  | isolation (oct : Nat)
  | stream (t : Nat)
  | streamEnd (t : Nat) (how : StreamEnd)
  | record (x : ActorId)
  /-- the link table of an actor and its copy in memory -/
  | links (x : ActorId)
  /-- what engines have read of other devices and hosts -/
  | forget
  /-- a word of a GL command -/
  | word (id : CoreId) (i : Nat)
  /-- an engine's write that waits for a die's ordering point -/
  | late (die : Nat)
  /-- an engine's request that waits to leave the device -/
  | pending
  deriving DecidableEq, Repr

/-- An event if its condition holds. -/
def when (b : Bool) (i : Instr) : List Instr := if b then [i] else []

/-- Has a core code to issue now: from T0 to the end of a slice change only the pre-emption handler (R376)? -/
def Core.issues (c : Core) : Bool :=
  match c.run, c.phase with
  | .idle, _ => false
  | .stopped, _ => false
  | .preempt, .handler => true
  | _, .running => true
  | _, _ => false
/-- Can a core run code now: its pipeline does not wait? -/
def Core.runs (c : Core) : Bool := c.wait.isNone && c.issues
/-- Can a core's repetition buffer issue now (R108, R109)? It does so whatever its pipeline waits for. -/
def Core.repeats (c : Core) : Bool := c.issues && (c.rep.any fun r => r.stop.isNone && r.wait.isNone)

/-! ## The engines of a core -/

/-- Where a core's miss can go (R332, R333): a stopped translation core answers none. -/
def State.missEvents (s : State) (id : CoreId) : List Instr :=
  when ((s.coreAt id).missings.any fun w => !w.2) (.missResend id)
    ++ when ((s.coreAt id).absentPage.isSome || (s.messageOf id).isSome && (s.coreAt (.transl (CoreId.queue id))).run != .stopped) (.tlbMissAnswer id)

/-- What can end the wait of a core on its own (R114, R115, R143). -/
def State.waitEvents (s : State) (id : CoreId) : List Instr :=
  match (s.coreAt id).wait with
  | some ⟨.remote false, _⟩ => [.remoteAccessRequest id]
  | some ⟨.remote true, _⟩ => when ((s.refocus id).tagWait.isSome || (s.refocus id).tagLost.isSome) (.taggedWaitComplete id)
  | some ⟨.tagged, _⟩ => when ((s.refocus id).tagWait.isSome || (s.refocus id).tagLost.isSome) (.taggedWaitComplete id)
  | some ⟨.clasp _, _⟩ => when ((s.refocus id).claspWait.isSome || (s.refocus id).claspLost.isSome) (.claspReleaseAnswer id)
  | _ => []

/-- The drain of a core's head entry. -/
def Core.drainEvent (c : Core) (id : CoreId) : List Instr :=
  match c.committed with
  | [] => []
  | e :: _ => match e.kind with
    | .nsend _ _ _ => [.nsendDelivery id]
    | _ => [.storeBufferDrain id]

/-- The copy engine of a core (R147, R153). -/
def State.copyEvents (s : State) (id : CoreId) : List Instr :=
  let c := s.coreAt id
  when (s.transferNext id).isSome (.copyCommandStart id .transfer)
    ++ when (s.tileNext id).isSome (.copyCommandStart id .tile)
    ++ ((List.range c.transferQ.length).filter fun i => (c.transferQ[i]?).any fun x => x.started && x.asked.isNone).map
        (.copyCommandComplete id .transfer)
    ++ when (c.tileQ.any fun t => t.phase == .asking) (.reservationRequest id)
    ++ when (c.tileQ.any fun t => t.phase == .returned) (.reservationResend id)
    ++ when (s.publishNext id).isSome (.slotPublication id)
    ++ when (c.tileQ.any TileCmd.acked) (.mcastComplete id)

/-- What arrives at a core over the mesh (R134, R135). -/
def Core.meshEvents (c : Core) (id : CoreId) : List Instr :=
  when (!c.mcastIn.isEmpty) (.mcastMemberWrite id)
    ++ ((List.range 16).filter fun k => c.strandIn.any fun e => e.1 == k).map
        (.strandResultWrite id)

/-- The firing unit and the slices of a core (R90, R372). -/
def State.firingEvents (s : State) (id : CoreId) : List Instr :=
  let c := s.coreAt id
  when (c.run == .idle && id.regions && !c.slots.isEmpty && (s.chosenSlot id).isSome) (.firingChoice id)
    ++ when (match c.phase with
      | .ending => !c.awaitsAtomic
      | .saving _ _ w => !w
      | _ => false) (.savePoint id)
    ++ when (s.scrubReady id) (.scrub id)

/-- Every event of a core's own engines. -/
def State.coreEvents (s : State) (id : CoreId) : List Instr :=
  (s.coreAt id).drainEvent id ++ s.copyEvents id ++ (s.coreAt id).meshEvents id ++ s.missEvents id ++ s.waitEvents id
    ++ s.firingEvents id
    ++ when (s.ctxs.wants.any fun w => decide (w.who.core = id) && !w.returned) (.pageRequest id)
    ++ when (s.ctxs.wants.any fun w => decide (w.who.core = id) && w.returned) (.pageRequestRetry id)
    ++ when (s.acts.forwards.any fun f => decide (f.core = id)) (.forwardingRedirect id)

/-! ## The engines of the device -/

/-- The mesh and the boot responders (R132, R146). -/
def State.netEvents (s : State) : List Instr :=
  ((s.mesh.rounds.filter fun r => (s.roundReady r.node r.k).isSome).map fun r => .strandNodeCombine r.node r.k)
    ++ s.mesh.discovers.map (fun d => .discover d.pos)
    ++ ((List.range 9).filter fun d => s.mesh.acks.any fun a => a.1 == d && !(s.coreAt (.work (1024 * d))).tag a.2.1).map
        .discoverAck
    ++ s.mesh.assigns.map fun h => .assign (bitsAt 14 4 h)

/-- The ordering points and the memory ports (R239, R432). -/
def State.ramEvents (s : State) : List Instr :=
  (s.ram.order.flatMap fun e => ((List.range e.2.length).filter fun i => s.passReady e.1 i).map (.orderingPointPass e.1))
    ++ ((s.ram.ports.filter fun e => !e.2.queue.isEmpty).map fun e => .writeQueueApply e.1)
    ++ ((s.ram.ports.filter fun e => e.2.reads.any e.2.readReady).map fun e => .portRead e.1)

/-- The Bezels (R209). -/
def State.bezelEvents (s : State) : List Instr :=
  s.bezels.flatMap fun e =>
    let b := (s.syncIso e.1).bezel e.1
    when (!b.arb.iso && b.flying.isNone && (s.octetCores e.1).any fun q => (b.head q).isSome) (.bezelOpStart e.1)
      ++ when (s.bezelReady e.1) (.bezelOpComplete e.1)

/-- The actor engine on one actor (R290, R296). -/
def State.actorEvents (s : State) (x : ActorId) : List Instr :=
  when (s.deathReady x) (.deathSignals x) ++ when (s.reclaimReady x) (.slotReclaim x)
    ++ when (s.migrationReady x) (.migrationStart x)
    ++ when (s.moveReady x && ((s.actor x).mig.any fun m => m.core != 2 ^ 14)) (.migrationMove x)

/-- The actor, restart and job engines (R285, R291, R299, R313, R325, R326). -/
def State.actsEvents (s : State) : List Instr :=
  (s.acts.tab.flatMap fun e => s.actorEvents (ActorId.ofKey e.1))
    ++ when (s.nextMail true s.acts.mail []).isSome .exitSignalArrival
    ++ when (s.nextMail false s.acts.mail []).isSome .controlMessageArrival
    ++ when (s.acts.capcalls.any s.replyReady) .capcallReply
    ++ s.acts.deaths.map (fun d => .restartEvent d.super)
    ++ ((s.acts.restarts.filter fun r => (s.restartReady r.super r.entry).isSome).map fun r => .restartSequence r.super r.entry)
    ++ ((List.range s.acts.jobs.length).filter fun i => (s.acts.jobs[i]?).any fun j => j.jstate == 2 && s.jobDone j).map
        .jobTeardown
    ++ ((List.range s.acts.jobs.length).filter fun i => (s.acts.jobs[i]?).any s.commitReady).map .jobShadowCommit

/-- The context engine, and the hub's strands (R344, R364, R367, R368, R380, R403). -/
def State.hubEvents (s : State) : List Instr :=
  when (s.ctxs.invals.any s.invalReady) .tlbinvComplete
    ++ when (s.nextTrap s.ctxs.traps []).isSome .trapMessageDelivery
    ++ ((s.ctxs.revoking.filter fun r => s.revokeReady r.ctx).map fun r => .revocationComplete r.ctx)
    ++ ((s.ctxs.resizing.filter fun r => s.resizeStep r != .wait).map fun r => .resize r.ctx)
    ++ s.ctxs.failed.map .contextFailed
    ++ ((s.fab.fstrand.filter fun e => e.1 % 2 == 0 && (s.hubCombine (e.1 / 2)).isSome).map fun e => .hubStrandCombine (e.1 / 2))

/-- Every event whose conditions the state meets. -/
def State.enabled (s : State) : List Instr :=
  s.cores.flatMap s.coreEvents ++ s.netEvents ++ s.ramEvents ++ s.bezelEvents ++ s.actsEvents ++ s.hubEvents

/-- Can the device take an event from outside now (R432)? -/
def State.takes (s : State) (i : Instr) : Bool :=
  match i with
  | .fabricRequestArrival dev flow seq pidx r => s.arrivalReady dev flow seq pidx r
  | _ => true

/-- Does an event from outside stay where it is for now: a request that waits at the interface (R432)? -/
def State.stays (s : State) (i : Instr) : Bool :=
  match i with
  | .fabricRequestArrival dev flow seq pidx r => s.arrivalStays dev flow seq pidx r
  | _ => false

/-- The GL commands of a core that can write words now, by place. -/
def Core.words (c : Core) : List Nat :=
  (List.range c.transferQ.length).filter fun i => (c.transferQ[i]?).any fun x => x.started && x.asked.isNone && (match x.kind with
    | .gl (_ :: _) _ _ => true
    | _ => false)

/-- Every unit that can move. -/
def State.movers (s : State) : List Mover :=
  ((s.cores.filter fun id => (s.coreAt id).runs).map .core)
    ++ ((s.cores.filter fun id => (s.coreAt id).repeats).map .rep)
    ++ s.enabled.map .event
    ++ ((s.inputs.findIdx? s.takes).toList.map .input)
    ++ ((s.ctxs.resets.filter s.resetReady).map .reset)
    ++ ((s.hub.funcs.filter fun e => (s.hostReceiver e.1).isSome).map fun e => .hostMessage e.1)
    ++ ((s.bezels.filter fun e => ((s.syncIso e.1).bezel e.1).arb.iso && ((s.syncIso e.1).bezel e.1).flying.isNone).map fun e => .isolation e.1)
    ++ ((s.fab.streams.filter fun x => (s.streamMove x).isSome).map fun x => .stream x.ticket)
    ++ (s.fab.streams.filterMap fun x => x.over.map fun h => .streamEnd x.ticket h)
    ++ ((s.acts.supers.filter fun e => !e.2.changed.isEmpty && s.ctxSvbase (ActorId.ofKey e.1).ctx != 0).map fun e =>
        .record (ActorId.ofKey e.1))
    ++ ((s.acts.tab.filter fun e => (s.linksMove (ActorId.ofKey e.1)).isSome).map fun e => .links (ActorId.ofKey e.1))
    ++ (s.cores.flatMap fun id => (s.coreAt id).words.map (.word id))
    ++ ((s.ram.late.filter fun e => (s.engLate e.1).isSome).map fun e => .late e.1)
    ++ (if s.pendingMove.isSome then [.pending] else [])
    ++ (if s.ctxs.engGot.any fun g => g.answer.isSome then [.forget] else [])

/-- A unit moves. -/
def State.move (s : State) (m : Mover) : Res :=
  match m with
  | .core id => (s.refocus id).runCore
  | .rep id => (s.refocus id).runRep
  | .event i => exec i s
  | .input n => (match s.inputs[n]? with
    | some i => exec i (if s.stays i then s else { s with inputs := s.inputs.eraseIdx n })
    | none => .next s)
  | .reset n => execFunctionReset n s
  | .hostMessage n => execHostMessageDelivery n s
  | .isolation oct => execBezelIsolationSlot oct s
  | .stream t => .next (((s.fab.streams.find? fun x => x.ticket == t).bind s.streamMove).getD s)
  | .streamEnd t how => execLocketStreamEnd t how s
  | .record x => .next (s.flushSuper x)
  | .links x => .next ((s.linksMove x).getD s)
  | .forget => .next s.engForget
  | .word id i => .next (s.glStep id i)
  | .late die => .next ((s.engLate die).getD s)
  | .pending => .next (s.pendingMove.getD s)

/-- How far the counter of free values goes on at each step: further than any one step reads. -/
def tickStride : Nat := 2 ^ 32

/-- A step of the device is over. -/
def stepped (r : Res) : Res :=
  match r with
  | .next t => .next { t with tick := t.tick + tickStride }
  | r => r

/-- Without power only the rails coming up move the device (R424, R426): what arrived from outside before that is lost. -/
def State.railsUp (s : State) : Res :=
  match s.inputs.dropWhile (fun i => decide (i ≠ .deviceReset)) with
  | _ :: rest => stepped (exec .deviceReset { s with inputs := rest })
  | [] => .fault .powerOff

/-- Bytes of the longest instruction (R60). -/
def longest : Nat := 16

/-- Put an instruction where the executing core fetches next and let that core run: at privilege 3 from its boot code,
where nothing runs on it yet. -/
def State.placeInstr (s : State) (bytes : List Byte) : State :=
  { s with
    inputs := []
    core := { s.core.store s.core.pc.toNat bytes with
      run := if s.core.run = .idle ∨ s.core.run = .stopped then .boot else s.core.run
      tsw := if s.core.run = .idle ∨ s.core.run = .stopped then { s.core.tsw with priv := 3 } else s.core.tsw
      xbound := BitVec.ofNat 18 (Nat.max s.core.xbound.toNat (s.core.pc.toNat / 512 * 512 + 512))
      wait := none
      rep := none
      phase := .running } }

end Sys2Proof.Machine
end

