-- ==== Sys2Proof/Machine/Step.lean ====
section
/-!
DEFINITION. The step of the device.
-/

namespace Sys2Proof.Machine

/-- One step: one unit that can move does, by a free choice where several can; with none, time passes. Without power
nothing moves but the rails coming up (R424, R426). -/
def step (s : State) : Host.Outcome State Fault Refusal :=
  if s.hub.powered then
    match s.movers with
    | [] => stepped (.next s)
    | [m] => stepped (s.move m)
    | m :: ms => stepped (s.move (((m :: ms)[Config.freeChoice s.tick % (ms.length + 1)]?).getD m))
  else s.railsUp

/-- The state with an instruction placed where `step` fetches next. -/
def State.withFetchWord (s : State) (nbits w : Nat) : State :=
  s.placeInstr (bytesOf longest (w % 2 ^ nbits))

end Sys2Proof.Machine
end

