-- ==== Sys2Proof/Safety.lean ====
section
/-!
DEFINITION. The terms in which the statements about the machine are put: how Table 03.11 reads and delivers numbers,
what a core with nothing in its way is, the canonical form of the machine's memories, and a safe run.
-/

namespace Sys2Proof.Machine

/-! ## Numbers of R104, stated apart from the model's own operations -/

/-- x read as an n-bit unsigned integer, n = 32 with W and 64 without. -/
def unsignedOf (w : Bool) (x : DWord) : Int := (x.toNat % 2 ^ opWidth w : Nat)
/-- x read as an n-bit two's complement integer. -/
def signedOf (w : Bool) (x : DWord) : Int := (x.toNat : Int).bmod (2 ^ opWidth w)
/-- What an integer instruction delivers of a value: v[63:0], or v[31:0] sign-extended. -/
def delivered (w : Bool) (v : Int) : DWord := BitVec.ofInt 64 (v.bmod (2 ^ opWidth w))
/-- The exponent of a shift: the count modulo n. -/
def shiftCount (w : Bool) (y : DWord) : Nat := y.toNat % opWidth w

/-- A row of Table 03.11 with its register form, its immediate form, and v of two operands. -/
structure IntRow where
  reg : Instr
  imm : Instr
  v : DWord → DWord → Int

/-- The twenty rows of Table 03.11 that have both forms and no condition. -/
def intRows (w : Bool) (d a b : SReg) (i : Word) : List IntRow :=
  [⟨.add w d a b, .addImm w d a i, fun x y => signedOf w x + signedOf w y⟩,
   ⟨.sub w d a b, .subImm w d a i, fun x y => signedOf w x - signedOf w y⟩,
   ⟨.mul w d a b, .mulImm w d a i, fun x y => signedOf w x * signedOf w y⟩,
   ⟨.mulh w d a b, .mulhImm w d a i, fun x y => (signedOf w x * signedOf w y).fdiv (2 ^ opWidth w)⟩,
   ⟨.mulhn w d a b, .mulhnImm w d a i, fun x y => (unsignedOf w x * unsignedOf w y).fdiv (2 ^ opWidth w)⟩,
   ⟨.div w d a b, .divImm w d a i, fun x y =>
     if signedOf w y = 0 then -1 else (signedOf w x).tdiv (signedOf w y)⟩,
   ⟨.divn w d a b, .divnImm w d a i, fun x y =>
     if unsignedOf w y = 0 then 2 ^ opWidth w - 1 else (unsignedOf w x).tdiv (unsignedOf w y)⟩,
   ⟨.rem w d a b, .remImm w d a i, fun x y =>
     if signedOf w y = 0 then signedOf w x else (signedOf w x).tmod (signedOf w y)⟩,
   ⟨.remn w d a b, .remnImm w d a i, fun x y =>
     if unsignedOf w y = 0 then unsignedOf w x else (unsignedOf w x).tmod (unsignedOf w y)⟩,
   ⟨.and w d a b, .andImm w d a i, fun x y => (x &&& y).toInt⟩,
   ⟨.or w d a b, .orImm w d a i, fun x y => (x ||| y).toInt⟩,
   ⟨.xor w d a b, .xorImm w d a i, fun x y => (x ^^^ y).toInt⟩,
   ⟨.andn w d a b, .andnImm w d a i, fun x y => (x &&& ~~~y).toInt⟩,
   ⟨.shl w d a b, .shlImm w d a i, fun x y => unsignedOf w x * 2 ^ shiftCount w y⟩,
   ⟨.shr w d a b, .shrImm w d a i, fun x y => (unsignedOf w x).fdiv (2 ^ shiftCount w y)⟩,
   ⟨.sar w d a b, .sarImm w d a i, fun x y => (signedOf w x).fdiv (2 ^ shiftCount w y)⟩,
   ⟨.min w d a b, .minImm w d a i, fun x y => Min.min (signedOf w x) (signedOf w y)⟩,
   ⟨.max w d a b, .maxImm w d a i, fun x y => Max.max (signedOf w x) (signedOf w y)⟩,
   ⟨.minn w d a b, .minnImm w d a i, fun x y => Min.min (unsignedOf w x) (unsignedOf w y)⟩,
   ⟨.maxn w d a b, .maxnImm w d a i, fun x y => Max.max (unsignedOf w x) (unsignedOf w y)⟩]

/-- Does a condition of R68 hold for two operands read with W? -/
def condTrue (c : Cond) (w : Bool) (x y : DWord) : Prop :=
  match c with
  | .eq => unsignedOf w x = unsignedOf w y
  | .ne => unsignedOf w x ≠ unsignedOf w y
  | .lt => signedOf w x < signedOf w y
  | .ge => signedOf w y ≤ signedOf w x
  | .ltn => unsignedOf w x < unsignedOf w y
  | .gen => unsignedOf w y ≤ unsignedOf w x
  | .al => True

/-- The state after a result has been written to a scalar register and the PC has moved n bytes on. -/
def State.afterS (s : State) (d : SReg) (v : DWord) (n : Nat) : State :=
  { s with core := { s.core with
      regs := if d = 0 then s.core.regs else { s.core.regs with s := s.core.regs.s.set d.toNat v d.isLt }
      pc := s.core.pc + BitVec.ofNat 18 n } }

/-- The state after the PC alone has changed. -/
def State.atPc (s : State) (a : LAddr) : State := { s with core := { s.core with pc := a } }

/-- The local address n bytes, or a signed number of bytes, from another (R21). -/
def laFrom (a : LAddr) (n : Int) : LAddr := BitVec.ofInt 18 (a.toNat + n)

/-! ## Translation at issue, and room in the store buffer -/

/-- Does the device take a request for a target: a place of its own, a peer that is a member of the domain, a host that a
function leads to (R390, R392, R417)? -/
def State.taken? (s : State) (t : Target) : Prop :=
  match t.place with
  | .dev _ => True
  | .peer d _ _ => s.peerUp d = true
  | .host _ => (s.hostFunc t.ctx).isSome = true

/-- An access of the executing code at va reaches target t at issue (R22, R331, R339): through a TLB entry that covers
it and allows it, with no page of it marked poisoned where it reads, or untranslated on a core that issues device
physical addresses (R145, R333, R433). -/
def State.Reaches (s : State) (va : DWord) (kind : Access) (reads : Bool) (t : Target) : Prop :=
  va.toNat < 2 ^ 48 ∧ s.taken? t ∧
  ((s.core.physical s.focus = false ∧ t.place.reachable s.priv false = true ∧
      ∃ e, s.tlbLookup va.toNat = some e ∧ kind.allowed e.r e.w = true ∧ (reads = true → e.pm va.toNat = false)
        ∧ t = e.target va.toNat)
    ∨ (s.core.physical s.focus = true ∧ t.place.reachable 3 (decide (s.focus = .root)) = true ∧ t = ⟨.dev (va.toNat % 2 ^ 40), 0, 0⟩
        ∧ (s.core.run = .boot ∨ va.toNat < 2 ^ 40)))

/-- What a load of n bytes leaves and returns once the present bytes of its target are there: a plain load of device memory
meets a version of the line (R27, R29), and bytes of a remote line that serves the load are met (R393); `skip` marks an acquire. -/
def State.loaded (s : State) (skip : Bool) (t : Target) (n : Nat) (bs : List Byte) : State × List Byte :=
  match t.place with
  | .dev pa => if skip || decide (hbmEnd ≤ pa) then (s, bs) else s.meetLine pa n bs
  | p => (if (s.core.received p n).isNone then s.meetRemote s.focus t else s, bs)

/-- A plain global load of n bytes at va brings bs to the executing code now, and leaves t (R29, R113). -/
def State.Brings (s : State) (n : Nat) (va : DWord) (t : State) (bs : List Byte) : Prop :=
  ∃ x b, s.Reaches va .read true x ∧ s.readTarget false x va n = .ok b ∧ (t, bs) = s.loaded false x n b

/-- Several plain loads in order bring their bytes, and leave t. -/
def State.BringsAll (s : State) (n : Nat) : List DWord → State → List (List Byte) → Prop
  | [], t, bss => t = s ∧ bss = []
  | va :: rest, t, bss => ∃ u b bs, s.Brings n va u b ∧ u.BringsAll n rest t bs ∧ bss = b :: bs

/-- The state with entries in the executing core's store buffer: in the open region, or committed at once on a core
without regions (R95, R360). -/
def State.buffered (s : State) (es : List Entry) : State :=
  { s with core := if s.focus.regions then { s.core with openB := s.core.openB ++ es }
                   else { s.core with committed := s.core.committed ++ es } }

/-- The state with condition flags of the executing core set besides those that stand. -/
def State.flagged (s : State) (f : FlagSet) : State :=
  { s with core := { s.core with regs := { s.core.regs with flags := s.core.regs.flags ||| f } } }

/-- The value of bytes, least significant first (R4). -/
def valueOf (bs : List Byte) : Nat := bs.foldr (fun b n => b.toNat + 256 * n) 0
/-- Byte i of a value. -/
def byteAt (v i : Nat) : Byte := BitVec.ofNat 8 (v / 256 ^ i)

/-- A byte of the executing core's scratchpad. -/
def State.pad (s : State) (a : Nat) : Byte := Sparse.get 0 s.core.mem (a % 2 ^ 18)

/-- n bytes that a scalar or vector instruction of the executing core may read of its scratchpad: each as it stands, or as an
incomplete command of the core will write it (R168, R231). With no such command they are the bytes that stand there. -/
def State.MayRead (s : State) (a n : Nat) (bs : List Byte) : Prop :=
  bs.length = n ∧ ∀ j, j < n → bs[j]? = some (s.pad (a + j)) ∨ ∃ w ∈ s.incoming, bs[j]? = writtenByte (a + j) w

/-- The width in bytes and the extension of a load variant (Table 03.14). -/
def loadWidth : LdW → Nat
  | .d => 8
  | .s32 | .z32 => 4
  | .s16 | .z16 => 2
  | .s8 | .z8 => 1
/-- What a load variant delivers of a value of its width (Table 03.14). -/
def loadValue (k : LdW) (v : Nat) : DWord :=
  match k with
  | .s32 => (BitVec.ofNat 32 v).signExtend 64
  | .s16 => (BitVec.ofNat 16 v).signExtend 64
  | .s8 => (BitVec.ofNat 8 v).signExtend 64
  | .z32 => (BitVec.ofNat 32 v).zeroExtend 64
  | .z16 => (BitVec.ofNat 16 v).zeroExtend 64
  | .z8 => (BitVec.ofNat 8 v).zeroExtend 64
  | .d => BitVec.ofNat 64 v
/-- The width in bytes of a store variant (Table 03.14). -/
def storeWidth : StW → Nat
  | .d => 8
  | .b32 => 4
  | .b16 => 2
  | .b8 => 1

/-! ## Vector elements -/

/-- The two's complement value of a pattern of n bits. -/
def signedAt (n : Nat) (x : Nat) : Int := (x : Int).bmod (2 ^ n)
/-- The pattern of n bits of an integer. -/
def patternOf (n : Nat) (v : Int) : Nat := (v % 2 ^ n).toNat

/-- An element instruction with its predicate, its element inputs, and what an active element receives and raises. -/
structure VecRow where
  instr : Instr
  guard : Guard
  inputs : List VReg
  elem : Nat → Elem × FlagSet

/-- The members of Table 06.2 with indices 0 to 18 by their element operation. -/
def vecRows (s : State) (f : Fmt) (gd : Guard) (g : PReg) (d a b c : VReg) : List VecRow :=
  let rm := s.rounding gd
  let x (k : Nat) : Elem := lane f (s.rv a) k
  let y (k : Nat) : Elem := lane f (s.rv b) k
  let z (k : Nat) : Elem := lane f (s.rv c) k
  let p : Guard := .plain g
  let two (i : Instr) (e : Elem → Elem → Elem × FlagSet) : VecRow := ⟨i, gd, [a, b], fun k => e (x k) (y k)⟩
  let twoP (i : Instr) (e : Elem → Elem → Elem × FlagSet) : VecRow := ⟨i, p, [a, b], fun k => e (x k) (y k)⟩
  [two (.vadd f gd d a b) (vaddE f rm), two (.vsub f gd d a b) (vsubE f rm), two (.vmul f gd d a b) (vmulE f rm),
   ⟨.vfma f gd d a b c, gd, [a, b, c], fun k => vfmaE f rm false (x k) (y k) (z k)⟩,
   ⟨.vfms f gd d a b c, gd, [a, b, c], fun k => vfmaE f rm true (x k) (y k) (z k)⟩,
   two (.vmin f gd d a b) (vminmaxE f false), two (.vmax f gd d a b) (vminmaxE f true),
   two (.vdiv f gd d a b) (other2 f fun x y => divV f rm (fval f x) (fval f y)),
   ⟨.vsqrt f gd d a, gd, [a], fun k => other1 f (fun x => sqrtV f rm (fval f x)) (x k)⟩,
   ⟨.vmag f gd d a, gd, [a], fun k => vmagE f (x k)⟩, ⟨.vneg f gd d a, gd, [a], fun k => vnegE f (x k)⟩,
   two (.vand f gd d a b) (vlogicE f Nat.land), two (.vor f gd d a b) (vlogicE f Nat.lor),
   two (.vxor f gd d a b) (vlogicE f Nat.xor), two (.vshl f gd d a b) (vshlE f),
   twoP (.vshr f g d a b) (vshrE f), twoP (.vsar f g d a b) (vsarE f), twoP (.vadds f g d a b) (vaddsE f),
   twoP (.vsubs f g d a b) (vsubsE f)]

/-- After a vector instruction of n bytes has written lanes of v[d]: each lane `on` holds its element, the others stay,
or are zero with `zero`; the flags gained are those of the lanes that are on; the PC has moved; nothing else changed. -/
def State.LanesWritten (s t : State) (f : Fmt) (d : VReg) (on : Nat → Bool) (zero : Bool) (elem : Nat → Elem × FlagSet)
    (n : Nat) : Prop :=
  t = { s with core := { s.core with regs := t.core.regs, pc := laFrom s.core.pc n } }
  ∧ t.core.regs = { s.core.regs.setV d (t.rv d) with flags := t.core.regs.flags }
  ∧ (∀ k, k < f.lanes → lane f (t.rv d) k =
      if on k then (elem k).1 % 2 ^ fmtBits f else if zero then 0 else lane f (s.rv d) k)
  ∧ ∀ j : Nat, t.core.regs.flags.getLsbD j = true ↔
      s.core.regs.flags.getLsbD j = true ∨ ∃ k, k < f.lanes ∧ on k = true ∧ (elem k).2.getLsbD j = true

/-- Node i of level k of the reduction tree of R55 over leaves. -/
def treeNode (f : Fmt) (op : RedOp) (rm : RMode) (leaf : Nat → Contrib) : Nat → Nat → Contrib
  | 0, i => leaf i
  | k + 1, i => combine f op rm (treeNode f op rm leaf k (2 * i)) (treeNode f op rm leaf k (2 * i + 1))

/-- The blocks of R56 for i + 1, from the largest: for each bit a of i + 1 the node of 2^a lanes that begins where the
larger ones end. -/
def scanNode (f : Fmt) (op : RedOp) (rm : RMode) (leaf : Nat → Contrib) (i : Nat) : Contrib :=
  (((List.range 8).reverse.filter fun a => (i + 1).testBit a).map fun a =>
    treeNode f op rm leaf a (2 * ((i + 1) / 2 ^ (a + 1)))).foldl (combine f op rm) ⟨none, 0, 0⟩

/-- The exact value of a number as a rational. -/
def Exact.rat (x : Exact) : Rat := (if x.neg then -(x.num : Rat) else x.num) / x.den

/-- i is the integer that a mode makes of x (R53). -/
def RoundsToInt (rm : RMode) (x : Rat) (i : Int) : Prop :=
  (rm = .rdn → (i : Rat) ≤ x ∧ x < i + 1) ∧ (rm = .rup → x ≤ i ∧ (i : Rat) < x + 1)
  ∧ (rm = .rtz → |(i : Rat)| ≤ |x| ∧ |x| < |(i : Rat)| + 1 ∧ 0 ≤ i * x)
  ∧ (rm = .rne ∨ rm = .rna → |x - i| ≤ 1 / 2) ∧ (rm = .rne → |x - i| = 1 / 2 → i % 2 = 0)
  ∧ (rm = .rna → |x - i| = 1 / 2 → |x| ≤ |(i : Rat)|)

/-- r is what a mode makes of a real value, where it does not overflow (R53): the value is given by the rationals that are at or
below it and those at or above it. -/
def RoundsCut (f : Fmt) (rm : RMode) (below above : Rat → Prop) (r : Elem × FlagSet) : Prop :=
  r.2.getLsbD 1 = false → ∃ y, fval f r.1 = .fin y ∧ ∀ q z, fval f q = .fin z → q < 2 ^ fmtBits f →
    let m := (y.rat + z.rat) / 2
    let down := below y.rat ∧ (below z.rat → z.rat ≤ y.rat)
    let up := above y.rat ∧ (above z.rat → y.rat ≤ z.rat)
    (rm = .rdn → down) ∧ (rm = .rup → up) ∧ (rm = .rtz → (below 0 → down) ∧ (above 0 → up))
    ∧ (rm = .rne ∨ rm = .rna → (y.rat < z.rat → above m) ∧ (z.rat < y.rat → below m))
    ∧ (rm = .rne → z.rat ≠ y.rat → below m → above m → r.1 % 2 = 0)
    ∧ (rm = .rna → z.rat ≠ y.rat → below m → above m → |z.rat| ≤ |y.rat|)

end Sys2Proof.Machine
end

