-- ==== Sys2Proof/Certificates/Slice0/Obligations.lean ====
section
/-!
DEFINITION. The statements about the machine, for the provers: each formalises what the spec says one part of it does.
-/

set_option autoImplicit false
open Sys2Proof Sys2Proof.Machine

/-- Table 03.11 by its rows (R104): for each of the twenty operations that have both forms, the register form delivers v
of s[a] and s[b], and the immediate form v of s[a] and the sign-extended immediate, to s[d] (a write to s0 is
discarded), the PC goes 8 bytes on, and the equation leaves every other part of the state as it was: no flag changes. -/
def Obligations.IntegerOperationsFollowTheirTable : Prop :=
  ∀ (s : State) (w : Bool) (d a b : SReg) (i : Word), ∀ row ∈ intRows w d a b i,
    exec row.reg s = .next (s.afterS d (delivered w (row.v (s.rs a) (s.rs b))) 8)
    ∧ exec row.imm s = .next (s.afterS d (delivered w (row.v (s.rs a) (i.signExtend 64))) 8)

/-- The scalar register file (R66): a read of s0 gives zero; a write to it is discarded; a write to another register
changes that one and no other.

The other members of Table 03.11 (R104, R105): CMP by its condition, SEL, the bit counts, EXT, BFX, BFI, LI and
ADDPC. Each writes s[d], moves the PC by its length and changes nothing else. -/
def Obligations.ScalarRegistersAndFieldOperations : Prop :=
  (∀ (s : State) (r q : SReg) (x : DWord),
    s.rs 0 = 0 ∧ (s.ws 0 x = s) ∧ (r ≠ 0 → (s.ws r x).rs r = x) ∧ (q ≠ r → (s.ws r x).rs q = s.rs q))
  ∧ (∀ (s : State) (w : Bool) (d a b c : SReg) (i : Word) (cnd : Cond) (lit : DWord) (pos lenM1 : BitVec 6),
    let n := opWidth w
    let x := (s.rs a).toNat % 2 ^ n
    let put (v : DWord) : Res := .next (s.afterS d v 8)
    (condTrue cnd w (s.rs a) (s.rs b) → exec (.cmp w cnd d a b) s = put 1)
    ∧ (¬condTrue cnd w (s.rs a) (s.rs b) → exec (.cmp w cnd d a b) s = put 0)
    ∧ (condTrue cnd w (s.rs a) (i.signExtend 64) → exec (.cmpImm w cnd d a i) s = put 1)
    ∧ (¬condTrue cnd w (s.rs a) (i.signExtend 64) → exec (.cmpImm w cnd d a i) s = put 0)
    ∧ exec (.sel d a b c) s = put (if s.rs c ≠ 0 then s.rs a else s.rs b)
    ∧ (∃ k, k ≤ n ∧ x < 2 ^ (n - k) ∧ (k < n → 2 ^ (n - k - 1) ≤ x) ∧ exec (.clz w d a) s = put (delivered w k))
    ∧ (∃ k, k ≤ n ∧ x % 2 ^ k = 0 ∧ (k < n → x.testBit k = true) ∧ exec (.ctz w d a) s = put (delivered w k))
    ∧ exec (.popc w d a) s = put (delivered w (((List.range n).filter fun j => x.testBit j).length : Nat))
    ∧ exec (.ext .s8 d a) s = put (((s.rs a).extractLsb' 0 8).signExtend 64)
    ∧ exec (.ext .s16 d a) s = put (((s.rs a).extractLsb' 0 16).signExtend 64)
    ∧ exec (.ext .s32 d a) s = put (((s.rs a).extractLsb' 0 32).signExtend 64)
    ∧ exec (.ext .z8 d a) s = put (((s.rs a).extractLsb' 0 8).zeroExtend 64)
    ∧ exec (.ext .z16 d a) s = put (((s.rs a).extractLsb' 0 16).zeroExtend 64)
    ∧ exec (.ext .z32 d a) s = put (((s.rs a).extractLsb' 0 32).zeroExtend 64)
    ∧ (pos.toNat + lenM1.toNat + 1 ≤ 64 →
        exec (.bfx false pos lenM1 d a) s = put (((s.rs a).extractLsb' pos.toNat (lenM1.toNat + 1)).zeroExtend 64)
        ∧ exec (.bfx true pos lenM1 d a) s = put (((s.rs a).extractLsb' pos.toNat (lenM1.toNat + 1)).signExtend 64)
        ∧ ∃ v : DWord, exec (.bfi pos lenM1 d a) s = put v ∧ ∀ j : Nat, j < 64 → v.getLsbD j =
            if pos.toNat ≤ j ∧ j ≤ pos.toNat + lenM1.toNat then (s.rs a).getLsbD (j - pos.toNat) else (s.rs d).getLsbD j)
    ∧ exec (.li d lit) s = .next (s.afterS d lit 12)
    ∧ exec (.addpc d i) s = put ((laFrom s.core.pc i.toInt).zeroExtend 64))

/-- Branches and jumps (R106, Table 03.13): the target is A + 4 × offset, or s[a] + imm, modulo 2¹⁸; a branch not taken
goes on at A + L; JAL and JALR write A + L to s[d], JALR after its target is formed. Nothing else changes. -/
def Obligations.BranchesAndJumps : Prop :=
  ∀ (s : State) (w : Bool) (cnd : Cond) (d a b : SReg) (y off i : Word),
    let far : State := s.atPc (laFrom s.core.pc (4 * off.toInt))
    let link (n : Nat) : State := s.afterS d ((laFrom s.core.pc n).zeroExtend 64) 0
    let reg : LAddr := laFrom 0 ((s.rs a).toNat + i.toInt)
    (condTrue cnd w (s.rs a) (s.rs b) → exec (.br w cnd a b off) s = .next far)
    ∧ (¬condTrue cnd w (s.rs a) (s.rs b) → exec (.br w cnd a b off) s = .next (s.atPc (laFrom s.core.pc 8)))
    ∧ (condTrue cnd w (s.rs a) (y.signExtend 64) → exec (.bri w cnd a y off) s = .next far)
    ∧ (¬condTrue cnd w (s.rs a) (y.signExtend 64) → exec (.bri w cnd a y off) s = .next (s.atPc (laFrom s.core.pc 12)))
    ∧ exec (.jmp off) s = .next far
    ∧ exec (.jal d off) s = .next ((link 8).atPc (laFrom s.core.pc (4 * off.toInt)))
    ∧ exec (.jr a i) s = .next (s.atPc reg)
    ∧ exec (.jalr d a i) s = .next ((link 8).atPc reg)

/-- REGION (R93, R96): with the repetition buffer empty it commits the open region, and opens one at the next
instruction whose record holds the live-in masks and the registers as they are then; with instructions still in the
repetition buffer it waits. NOP goes on 8 bytes (R111).

Commit of a core's open region (R96, R137): its entries follow the committed ones in order, its copy commands are no
longer the open region's, the entries it took, the oldest of its context, leave the receive queue, and no register, byte, tag or bead of the
core, and no other core, changes. -/
def Obligations.RegionsAndCommit : Prop :=
  (∀ (s : State) (sm vm : Word),
    let opened (n : Nat) (v : Word) : State :=
      let t := s.commit s.focus
      { t with core := { t.core with
          pc := laFrom s.core.pc n
          region := ⟨laFrom s.core.pc n, sm, v, s.core.regs, s.core.tsw, s.core.traps⟩ } }
    (s.core.rep = none → exec (.region sm) s = .next (opened 8 0) ∧ exec (.regionVec sm vm) s = .next (opened 12 vm))
    ∧ (s.core.rep ≠ none → exec (.region sm) s = .next s ∧ exec (.regionVec sm vm) s = .next s)
    ∧ exec .nop s = .next (s.atPc (laFrom s.core.pc 8)))
  ∧ (∀ (s : State) (id : CoreId),
    let c := s.coreAt id
    let d := (s.commit id).coreAt id
    d.committed = c.committed ++ c.openB ∧ d.openB = []
    ∧ d.taken = 0 ∧ d.recvq = dropReceived (s.ctxOn id) c.taken c.recvq
    ∧ d.transferQ = c.transferQ.map (fun q => { q with openRegion := false })
    ∧ d.regs = c.regs ∧ d.pc = c.pc ∧ d.tsw = c.tsw ∧ d.traps = c.traps ∧ d.region = c.region
    ∧ d.mem = c.mem ∧ d.tags = c.tags ∧ d.beads = c.beads ∧ d.slots = c.slots
    ∧ (s.commit id).ram = s.ram ∧ (s.commit id).acts = s.acts ∧ (s.commit id).ctxs = s.ctxs
    ∧ (∀ other, other ≠ id → other.key ≠ id.key → (s.commit id).coreAt other = s.coreAt other)
    ∧ ∀ (x n : Nat) (e : Received) (q : List Received), dropReceived x 0 q = q
      ∧ dropReceived x (n + 1) (e :: q) = if e.ctx = x then dropReceived x n q else e :: dropReceived x (n + 1) q)

/-- R62, whole: the pad word is the one word with LEN = 11 and every other bit zero; it decodes alone, running it moves the
PC to the next multiple of 32 and does nothing else, and a work core that meets another word with LEN = 11 is ended as
illegal-instruction says. -/
def Obligations.PadWord : Prop :=
  (∀ w : Word, w.toNat % 4 = 3 → (decode [w] = .ok .padWord ↔ w = 3) ∧ (w ≠ 3 → ∀ ws, ∃ e, decode (w :: ws) = .error e))
  ∧ (∀ s : State, exec .padWord s = .next { s with core := { s.core with
      pc := BitVec.ofNat 18 (32 * (s.core.pc.toNat / 32 + 1)) } })
  ∧ ∀ (s : State) (w : Word), w.toNat % 4 = 3 → w ≠ 3 → s.focus.regions = true → s.core.pc.toNat % 4 = 0 →
      s.core.pc.toNat < s.core.xbound.toNat → (∀ j, j < 4 → s.pad (s.core.pc.toNat + j) = byteAt w.toNat j) →
      s.runCore = .next (s.fatal 0x42 2 0)

/-- END (R107) of a firing, with the repetition buffer empty: the region commits, the slot is WAITING again with no resume
pending, the core is idle, and the actor has fired once more. In a data firing each enabled port's head moves on by its
rate, or by what CONSUME set; in a signal firing the mailbox moves on by one message.

END grants the requests that wait at the actor's ports (R107, R154): the advance of a data firing is followed by the grants.
Each port grants its requests in the order they came while it has a free slot and the actor is in its slot: a request
reserves the slot behind those filled and reserved, leaves the queue, and the first command of its core that waits there holds the slot. -/
def Obligations.EndOfAFiring : Prop :=
  (∀ (s : State) (sl : Nat) (x : ActorId),
    s.core.rep = none → s.core.run = .firing sl → (s.core.slotAt sl).actor = some x →
    s.coreAt (s.actor x).core = s.core →
    (∀ p : Fin 4, (s.actor x).ins[p].asks = []) →
    ∃ t, exec .endF s = .next t
      ∧ t.core.committed = s.core.committed ++ s.core.openB ∧ t.core.openB = []
      ∧ t.core.run = .idle ∧ t.core.slotAt sl = ⟨.waiting, some x, none⟩
      ∧ t.core.regs = s.core.regs ∧ t.core.mem = s.core.mem ∧ t.ram = s.ram
      ∧ (t.actor x).firings = (s.actor x).firings + 1
      ∧ (s.core.tsw.sf = false → (t.actor x).mhead = (s.actor x).mhead ∧ ∀ p : Fin 4,
          let q := (s.actor x).ins[p]
          let adv := if q.ca then q.adv else q.ratem1.toNat + 1
          (q.en = true → (t.actor x).ins[p].head = (q.head + adv) % (q.slotsm1.toNat + 1)
            ∧ (t.actor x).ins[p].filled = q.filled - adv)
          ∧ (q.en = false → (t.actor x).ins[p] = q))
      ∧ (s.core.tsw.sf = true → (t.actor x).mhead = ((s.actor x).mhead + 1) % 16
          ∧ (t.actor x).mcount = (s.actor x).mcount - 1 ∧ (t.actor x).ins = (s.actor x).ins))
  ∧ ((∀ (s : State) (sl : Nat) (x : ActorId),
    s.core.rep = none → s.core.run = .firing sl → (s.core.slotAt sl).actor = some x → s.core.tsw.sf = false →
    let c := s.commit s.focus
    let u : State := { c with core := { c.core.setSlot sl ⟨.waiting, some x, none⟩ with run := .idle } }
    exec .endF s = .next (((u.modActor x ActorRec.advance).grantAll x).modActor x fun r => { r with firings := r.firings + 1 }))
  ∧ ∀ (s : State) (x : ActorId) (p : Fin 4) (n : Nat),
    let q := (s.actor x).ins[p]
    let slot := (q.head + q.filled + q.rsv) % (q.slotsm1.toNat + 1)
    (q.asks = [] ∨ q.slotsm1.toNat + 1 ≤ q.filled + q.rsv ∨ s.inSlot x = false → s.grant x p n = s)
    ∧ ∀ c rest, q.asks = .core c :: rest → q.filled + q.rsv < q.slotsm1.toNat + 1 → s.inSlot x = true →
      let held : TilePhase := .granted (s.actor x).core x p slot
      let port : IPort := { q with rsv := q.rsv + 1, pend := q.pend ++ [(slot, false)], asks := rest }
      let u := s.modActor x fun r => { r with ins := r.ins.set p.val port }
      s.grant x p (n + 1) = (u.modCore c fun k => { k with tileQ := grantFirst x p held k.tileQ }).grant x p n
      ∧ ∀ (ph : TilePhase) (pre post : List TileCmd) (t : TileCmd), (∀ e ∈ pre, e.phase ≠ .waiting x p) → t.phase = .waiting x p →
        grantFirst x p ph (pre ++ t :: post) = pre ++ { t with phase := ph } :: post)

/-- WAITC (R103): it completes once the selected counters have fallen to the threshold and no repetition before it has copy
commands or Bezel operations of the kind still to issue, and waits until then. That the loads counter never waits, and what a
repetition holds back, are the model's choice (log entries 15 and 112). REP (R108):
with a count, outside a stopped repetition, on a core that runs regions, it captures the instructions that follow; once
the repetition buffer is empty they fill it with a copy of the scalar registers, and the scalar pipeline goes on after
them.

FENCE (R30, R31, R33, R253): with no committed store still to drain and every earlier one performed with respect to
the scope, it completes, raising scope-clamped where its scope was narrowed and beginning an epoch at POD or SYSTEM
(R393); until then it waits. That FENCE at CORE waits as at DIE is the model's choice (log entry 36). -/
def Obligations.WaitsAndRepetitions : Prop :=
  (∀ (s : State) (n : Word) (nM1 : BitVec 4) (sd sa sb sc : BitVec 5) (count : BitVec 16)
    (body : List (LAddr × Instr)) (after : LAddr),
    let on := s.atPc (laFrom s.core.pc 8)
    exec (.waitc .loads n) s = .next on
    ∧ (s.storesCount s.focus ≤ n.toNat → exec (.waitc .stores n) s = .next on)
    ∧ (s.copiesCount s.focus ≤ n.toNat → s.core.repHolds queuesCopy = false → exec (.waitc .copies n) s = .next on)
    ∧ (s.bezelCount s.focus ≤ n.toNat → s.core.repHolds queuesBezel = false → exec (.waitc .bezel n) s = .next on)
    ∧ (s.storesCount s.focus ≤ n.toNat ∧ s.copiesCount s.focus ≤ n.toNat ∧ s.bezelCount s.focus ≤ n.toNat →
        s.core.repHolds queuesCopy = false → s.core.repHolds queuesBezel = false → exec (.waitc .all n) s = .next on)
    ∧ (s.core.rep = none → exec (.waitc .rep n) s = .next on)
    ∧ (n.toNat < s.storesCount s.focus → exec (.waitc .stores n) s = .next s)
    ∧ (n.toNat < s.copiesCount s.focus ∨ s.core.repHolds queuesCopy = true → exec (.waitc .copies n) s = .next s)
    ∧ (n.toNat < s.bezelCount s.focus ∨ s.core.repHolds queuesBezel = true → exec (.waitc .bezel n) s = .next s)
    ∧ (s.core.tsw.rp = false → count ≠ 0 → s.focus.regions = true → s.core.rep = none →
        s.core.capture (captureFuel (nM1.toNat + 1)) (nM1.toNat + 1) (laFrom s.core.pc 8) [] = .ok body after →
        exec (.rep nM1 sd sa sb sc count) s = .next { s with core := { s.core with
          pc := after
          rep := some ⟨body, sd.toNat, sa.toNat, sb.toNat, sc.toNat, count.toNat, 0, 0, s.core.regs.s, none, none, [], []⟩ } }))
  ∧ (∀ (s : State) (sc : Scope),
    let done := (s.core.committed.all fun e => !e.kind.isStore) = true ∧ s.performed s.focus (s.clamp sc).1 = true
    (done → exec (.fence sc) s = .next (((s.podAcquire s.focus (s.clamp sc).1).flagged
        (if (s.clamp sc).2 then flagSC else 0)).atPc (laFrom s.core.pc 8)))
    ∧ (¬done → exec (.fence sc) s = .next s))

/-- Taking a recoverable trap (R110), and TRAPI (R111), which raises one with code 0x03, INFO its immediate, and the
address after it: TPC, TCAUSE and TADDR are written, IT is set, the PC goes to THND, and nothing else changes; the open
region stays open. With THND zero or IT set the code is ended with reason trap-unhandled (13). Not in a pre-emption
handler, whose traps start the forced save (R373).

The returns of ERET (R87, R111): with OV set, from the overlay trap, at any privilege; at privilege 0 with IT set, to
TPC, or, with RP set, to the repetition and the kept resume point; at privilege 3 with IT set, to TPC; at privilege 2,
and at 3 with IT clear, on; at privilege 0 with IT clear the code ends with illegal-instruction (2); at privilege 1 in a
pre-emption handler it is illegal, and on a trap message it acts as END.

What ends the code (R72, R100, R116, R290, R316, R333, R385, R434). TCAUSE and TADDR say why. A firing at privilege 0 whose actor
supervises nothing: the open region is discarded and the committed entries stay, the core is idle, the slot LEAVING, and the actor
leaves with the reason, its timers and reservations gone and its signals due. A supervisor's one child, resident here,
dies with reason 1. A service core stops and tells the root monitor; the root monitor goes to its handler, or resets
the device; a die's boot program stops. An actor that is not alive does not die again; one on another device is ended there. -/
def Obligations.RecoverableTrapsAndTheirReturn : Prop :=
  (∀ (s : State) (code info iter : Nat) (addr : DWord) (back : LAddr) (i : Word), s.core.run ≠ .preempt →
    (s.core.traps.thnd ≠ 0 → s.core.tsw.it = false →
      s.recoverable code info iter addr back = .next { s with core := { s.core with
        traps := { s.core.traps with tpc := back, tcause := mkCause info iter code, taddr := addr }
        tsw := { s.core.tsw with it := true }
        pc := s.core.traps.thnd } }
      ∧ exec (.trapi i) s = .next { s with core := { s.core with
        traps := { s.core.traps with tpc := laFrom s.core.pc 8, tcause := mkCause i.toNat 0 3, taddr := 0 }
        tsw := { s.core.tsw with it := true }
        pc := s.core.traps.thnd } })
    ∧ (s.core.traps.thnd = 0 ∨ s.core.tsw.it = true → exec (.trapi i) s = .next (s.fatal 0x4D 13 0)))
  ∧ (∀ (s : State),
    (s.core.tsw.ov = true → exec .eret s = .next { s with core := { s.core with
        pc := s.core.traps.ovret, tsw := { s.core.tsw with priv := s.core.tsw.ovp, ov := false } } })
    ∧ (s.core.tsw.ov = false →
      (s.core.tsw.priv = 0 → s.core.tsw.it = true → s.core.tsw.rp = false → exec .eret s = .next { s with core :=
          { s.core with tsw := { s.core.tsw with it := false }, pc := s.core.traps.tpc } })
      ∧ (∀ r resume, s.core.tsw.priv = 0 → s.core.tsw.it = true → s.core.tsw.rp = true → s.core.rep = some r →
          r.stop = some resume → exec .eret s = .next { s with core := { s.core with
            tsw := { s.core.tsw with it := false, rp := false }
            rep := some { r with stop := none }
            pc := resume } })
      ∧ (s.core.tsw.priv = 0 → s.core.tsw.it = false → exec .eret s = .next (s.fatal 0x42 2 0))
      ∧ (s.core.tsw.priv = 1 → s.core.tsw.sf = true → exec .eret s = exec .endF s)
      ∧ (s.core.tsw.priv = 1 → s.core.tsw.sf = false → exec .eret s = .next (s.fatal 0x42 2 0))
      ∧ (s.core.tsw.priv = 2 → exec .eret s = .next (s.atPc (laFrom s.core.pc 8)))
      ∧ (s.core.tsw.priv = 3 → s.core.tsw.it = true → exec .eret s = .next { s with core :=
          { s.core with pc := s.core.traps.tpc, tsw := { s.core.tsw with it := false } } })
      ∧ (s.core.tsw.priv = 3 → s.core.tsw.it = false → exec .eret s = .next (s.atPc (laFrom s.core.pc 8)))))
  ∧ (∀ (s : State) (code reason : Nat) (addr : DWord), code < 256 →
    let t := s.fatal code reason addr
    let traps : TrapRegs := { s.core.traps with
      tcause := BitVec.ofNat 64 code, taddr := addr, tpc := if code = 0x42 then s.core.pc else s.core.traps.tpc }
    let stopped : State := { s with core := { s.core with traps := traps, run := .stopped, wait := none } }
    let living (x : ActorId) : Prop := ((s.actor x).st = .resident ∨ (s.actor x).st = .migrating) ∧ (s.actor x).dev = 0
    let leaves (u : State) (x : ActorId) (why : Nat) : Prop := (u.actor x).st = .leaving ∧ (u.actor x).xreason = why
      ∧ (u.actor x).death = some .signals
    (∀ p sl x, s.focus = .work p → s.core.run = .firing sl → (s.core.slotAt sl).actor = some x → s.core.tsw.priv = 0 →
      (s.actor x).core = s.focus → (s.actor x).slot = sl → living x → (s.super x).sup = false →
      t.core.run = .idle ∧ t.core.slotAt sl = ⟨.leaving, some x, none⟩ ∧ t.core.openB = [] ∧ t.core.rep = none ∧ t.core.wait = none
      ∧ t.core.committed = s.core.committed ∧ t.core.traps = traps ∧ t.core.regs = s.core.regs
      ∧ leaves t x reason ∧ (t.actor x).quiet = false ∧ (∀ k, (t.actor x).timer k = Timer.none) ∧ (t.actor x).mrsv = 0
      ∧ ∀ q : Fin 4, (t.actor x).ins[q].rsv = 0 ∧ (t.actor x).ins[q].pend = [])
    ∧ (∀ x e c y, living x → (s.super x).sup = true → (s.super x).children = [(e, c)] → s.idOf c.name = y → y ≠ x → y.key ≠ x.key →
      living y → (s.actor y).gen = nameGen c.name → (s.super y).sup = false →
      leaves (s.kill x reason) x reason ∧ leaves (s.kill x reason) y 1 ∧ ((s.kill x reason).actor y).quiet = true
      ∧ ((s.kill x reason).super x).sup = false)
    ∧ (∀ x, (s.actor x).st ≠ .resident → (s.actor x).st ≠ .migrating → s.kill x reason = s)
    ∧ (∀ x, (s.actor x).st = .resident → (s.actor x).dev ≠ 0 → s.kill x reason = { s with fab := { s.fab with
        pending := s.fab.pending ++ [⟨(s.actor x).core.key, (s.actor x).dev - 1, x.ctx, .none, .kill (s.nameOf x) (s.nameOf x) reason⟩] } })
    ∧ (∀ p, s.focus = .service p →
        t = stopped.raiseTrap 0 (if code = 0x42 then 0x81 else 0x82) (p + 256 * code) 0 0 0)
    ∧ (s.focus = .root → (s.core.traps.thnd = 0 ∨ s.core.tsw.it = true → t = s.deviceReset)
      ∧ (s.core.traps.thnd ≠ 0 → s.core.tsw.it = false → t = { s with core := { s.core with
          traps := { traps with tpc := s.core.pc }, tsw := { s.core.tsw with it := true }, pc := s.core.traps.thnd } }))
    ∧ (∀ p, s.focus = .work p → s.core.run = .boot → t = stopped))

/-- LDL and STL (R113, Table 03.14). Where the address is aligned and the bytes are the code's own (R85), LDL delivers
the little-endian value of the scratchpad bytes at ea modulo 2¹⁸, extended as its variant says (a byte that an incomplete
command of the core writes is its old or its new value, R168, R231; with none on the way the bytes are those that stand there), and STL writes the low
bytes of s[b] there: every byte outside the stored ones reads as before. A misaligned address ends the code with
reason address (5), and bytes that are not its own with reason ownership (3). -/
def Obligations.LocalLoadsAndStores : Prop :=
  ∀ (s : State) (l : LdW) (k : StW) (d a b : SReg) (i : Word),
    let ea := s.rs a + i.signExtend 64
    let p := ea.toNat % 2 ^ 18
    (p % loadWidth l = 0 → s.mayReach p (loadWidth l) = true →
      (∃ bs, s.MayRead p (loadWidth l) bs ∧ exec (.ldl l d a i) s = .next (s.afterS d (loadValue l (valueOf bs)) 8))
      ∧ (s.incoming = [] → exec (.ldl l d a i) s
          = .next (s.afterS d (loadValue l (valueOf ((List.range (loadWidth l)).map fun j => s.pad (p + j)))) 8)))
    ∧ (p % storeWidth k = 0 → s.mayReach p (storeWidth k) = true → ∃ t, exec (.stl k a b i) s = .next t
        ∧ t = { s with core := { s.core with mem := t.core.mem, pc := laFrom s.core.pc 8 } }
        ∧ (∀ j, j < storeWidth k → t.pad (p + j) = byteAt (s.rs b).toNat j)
        ∧ ∀ q, (∀ j, j < storeWidth k → q % 2 ^ 18 ≠ (p + j) % 2 ^ 18) → t.pad q = s.pad q)
    ∧ (p % loadWidth l ≠ 0 → exec (.ldl l d a i) s = .next (s.fatal 0x45 5 ea))
    ∧ (p % storeWidth k ≠ 0 → exec (.stl k a b i) s = .next (s.fatal 0x45 5 ea))
    ∧ (p % loadWidth l = 0 → s.mayReach p (loadWidth l) = false → exec (.ldl l d a i) s = .next (s.fatal 0x43 3 (dw p)))
    ∧ (p % storeWidth k = 0 → s.mayReach p (storeWidth k) = false → exec (.stl k a b i) s = .next (s.fatal 0x43 3 (dw p)))

/-- LDG and LDAQ (R29, R30, R32, R33, R113): where the address is aligned and a load brings bytes to the code (`Brings`: its
translation leads to a target whose bytes are there, and a plain load of device memory meets a version of their line), it
delivers their value extended as its variant says. LDAQ begins an acquire of its core at its scope (R30, R393), raises
scope-clamped when its scope was narrowed, and beyond DIE takes nothing from the ordering point (R32). Nothing else
changes.

An invariant load (R34): served from a line that the cluster's cache holds for the running context, where the device
so chooses, or as a plain load that fills the line. Either way it delivers the extended value and moves the PC; besides
the cache nothing changes. The choice is the free value `Config.freeBool` (log entry 60). -/
def Obligations.GlobalLoads : Prop :=
  (∀ (s v : State) (l : LdW) (d a : SReg) (i : Word) (sc : Scope) (t : Target) (bs : List Byte),
    let ea := s.rs a + i.signExtend 64
    let n := loadWidth l
    let u := s.podAcquire s.focus (s.clamp sc).1
    let raised : FlagSet := if (s.clamp sc).2 then flagSC else 0
    ea.toNat % n = 0 →
    (s.Brings n ea v bs → exec (.ldg l false d a i) s = .next (v.afterS d (loadValue l (valueOf bs)) 8))
    ∧ (beyondDie (s.clamp sc).1 = false → u.Brings n ea v bs →
      exec (.ldaq l sc d a i) s = .next ((v.afterS d (loadValue l (valueOf bs)) 8).flagged raised))
    ∧ (beyondDie (s.clamp sc).1 = true → u.Reaches ea .read true t → u.readTarget true t ea n = .ok bs →
      exec (.ldaq l sc d a i) s = .next (((u.loaded true t n bs).1.afterS d (loadValue l (valueOf bs)) 8).flagged raised)))
  ∧ (∀ (s : State) (l : LdW) (d a : SReg) (i : Word) (t : Target) (pa : Nat),
    let ea := s.rs a + i.signExtend 64
    let n := loadWidth l
    ea.toNat % n = 0 → s.Reaches ea .read true t → t.place = .dev pa → pa < hbmEnd →
    (∀ line, s.invLine pa = some line → Config.freeBool s.tick = true →
      exec (.ldg l true d a i) s
        = .next (s.afterS d (loadValue l (valueOf ((line.bytes.drop (pa % 128)).take n))) 8))
    ∧ (∀ v bs p old, (s.invLine pa = none ∨ Config.freeBool s.tick = false) → s.Brings n ea v bs → s.focus = .work p →
      v.devRead true t (pa / 128 * 128) 128 = .ok old →
      let fresh : InvLine := ⟨posCluster p, s.ctx, pa / 128, old⟩
      let kept := v.ram.invs.filter fun l => !(l.cluster == posCluster p && l.ctx == s.ctx && l.line == pa / 128)
      ∃ u, exec (.ldg l true d a i) s = .next u
        ∧ u = { v.afterS d (loadValue l (valueOf bs)) 8 with ram := { v.ram with invs := u.ram.invs } }
        ∧ fresh ∈ u.ram.invs ∧ (∀ l ∈ u.ram.invs, l = fresh ∨ l ∈ kept)
        ∧ ((kept.filter fun l => l.cluster == posCluster p).length < 8192 → u.ram.invs = kept ++ [fresh])))

/-- What a load reads (R26, R113): with nothing of its core, of its die's ordering point or of the port pending for the
bytes, its granule free of poison and stored uncoded, and no earlier version of the line open to it (R29), the bytes of HBM
at the target, and the load changes nothing else.

A load sees its core's own buffered stores first (R26): with one store of the open region over exactly its bytes, the
youngest, a load of them reads the stored bytes, whatever memory holds. -/
def Obligations.WhatALoadReads : Prop :=
  (∀ (s : State) (skip : Bool) (t : Target) (pa n : Nat) (va : DWord),
    t.place = .dev pa → pa + n ≤ hbmEnd → pa / 1024 = (pa + n - 1) / 1024 → 0 < n →
    s.core.openB = [] → s.core.committed = [] → s.orderAt s.focus.die = [] → (s.port (portOf pa)).queue = [] →
    s.ram.poisoned pa = false → s.ram.code (pa / 1024) = 0 →
    let bs := (List.range n).map fun j => Sparse.get 0 s.ram.bytes (pa + j)
    s.readTarget skip t va n = .ok bs
    ∧ (s.olderLines s.focus pa = [] → s.loaded skip t n bs = (s, bs)))
  ∧ (∀ (s : State) (skip : Bool) (t : Target) (pa n : Nat) (va : DWord) (older : List Entry) (e : Entry) (bs : List Byte),
    t.place = .dev pa → pa + n ≤ hbmEnd → 0 < n → bs.length = n →
    s.core.openB = older ++ [e] → e.kind = .store t bs (List.range n) →
    s.readTarget skip t va n = .ok bs)

/-- STG and STRL (R95, R113): where the address is aligned, its translation leads to a target and the store buffer has
room, the store takes one entry of the open region that holds the target and the low bytes of s[b]; STRL's entry is a
release at its scope, and raises scope-clamped where that was narrowed (R33). Memory changes only when the entry
drains: every byte of HBM and of the scratchpad, and every register, is as before.

A global access that cannot be made (R21, R22, R72, R113, R117, R331, R332, R339): an address of more than 48 bits, not aligned, or
of a place that the code cannot reach ends the code with reason address (5); a page that its TLB entry does not allow, and no shadow
explains, with reason translation-denied (14), and poison that its filter names, with poison (6). A miss makes the core wait with its
message in the queue, which holds 64, with 8 outstanding at issue; an answer that refuses ends the access with its reason, and one that
its page is not resident makes it wait for that page. So for LDG and STG, named as forms. -/
def Obligations.GlobalStores : Prop :=
  (∀ (s : State) (k : StW) (a b : SReg) (i : Word) (sc : Scope) (t : Target),
    let ea := s.rs a + i.signExtend 64
    let n := storeWidth k
    let entry (rel : Option Scope) : Entry :=
      ⟨.store t ((List.range n).map fun j => byteAt (s.rs b).toNat j) (List.range n), rel, s.who, s.ctx⟩
    ea.toNat % n = 0 → s.Reaches ea .write false t → s.room 1 = .ok →
    exec (.stg k a b i) s = .next ((s.buffered [entry none]).atPc (laFrom s.core.pc 8))
    ∧ exec (.strl k sc a b i) s = .next (((s.buffered [entry (some (s.clamp sc).1)]).flagged
        (if (s.clamp sc).2 then flagSC else 0)).atPc (laFrom s.core.pc 8)))
  ∧ (∀ (s : State) (l : LdW) (k : StW) (d a b : SReg) (i : Word),
    let ea := s.rs a + i.signExtend 64
    let noted (kind : Access) : Option (Miss × MissAnswer) := if s.core.heldAt = s.core.pc then
      s.core.noted.find? (fun e => decide (e.1.ctx = s.ctx ∧ e.1.va = ea.toNat / 4096 * 4096 ∧ e.1.kind = kind)) else none
    let outcome (kind : Access) (r : Res) : Prop :=
      (noted kind = none → r = .next (s.miss ea.toNat kind))
      ∧ (∀ m why, noted kind = some (m, .ends why) → r = .next (s.fatal (0x40 + why) why ea))
      ∧ ∀ m h p w, noted kind = some (m, .absent h p w) →
          r = .next { s with core := { s.core with wait := some ⟨.page m h p w, .nop⟩ } }
    (2 ^ 48 ≤ ea.toNat ∨ ea.toNat % loadWidth l ≠ 0 → exec (.ldg l false d a i) s = .next (s.fatal 0x45 5 ea))
    ∧ (2 ^ 48 ≤ ea.toNat ∨ ea.toNat % storeWidth k ≠ 0 → exec (.stg k a b i) s = .next (s.fatal 0x45 5 ea))
    ∧ (ea.toNat < 2 ^ 48 → s.core.physical s.focus = false →
        (s.tlbLookup ea.toNat = none →
          (ea.toNat % loadWidth l = 0 → outcome .read (exec (.ldg l false d a i) s))
          ∧ (ea.toNat % storeWidth k = 0 → outcome .write (exec (.stg k a b i) s)))
        ∧ ∀ e, s.tlbLookup ea.toNat = some e →
          let there := (e.target ea.toNat).place.reachable s.priv false
          (there = false → exec (.ldg l false d a i) s = .next (s.fatal 0x45 5 ea) ∧ exec (.stg k a b i) s = .next (s.fatal 0x45 5 ea))
          ∧ (there = true → e.r = false → ea.toNat % loadWidth l = 0 → exec (.ldg l false d a i) s = .next (s.fatal 0x4E 14 ea))
          ∧ (there = true → e.r = true → e.pm ea.toNat = true → ea.toNat % loadWidth l = 0 →
              exec (.ldg l false d a i) s = .next (s.fatal 0x46 6 ea))
          ∧ (there = true → e.w = false → e.sh = false → ea.toNat % storeWidth k = 0 →
              exec (.stg k a b i) s = .next (s.fatal 0x4E 14 ea)))
    ∧ ∀ (va : Nat) (kind : Access),
        let q := s.transQ (CoreId.queue s.focus)
        let m : Miss := ⟨s.focus, s.lciOf s.focus, s.core.missId.toNat, s.ctx, va / 4096 * 4096, kind⟩
        let waits (u : State) (sent : Bool) : State := { u with core := { u.core.hold with
          missId := s.core.missId + 1, wait := some ⟨.miss m.id m sent, .nop⟩ } }
        (8 ≤ (s.missesOf s.focus).length → s.miss va kind = s)
        ∧ ((s.missesOf s.focus).length < 8 →
          (q.queue.length < 64 →
            s.miss va kind = waits (s.setTransQ (CoreId.queue s.focus) { q with queue := q.queue ++ [m] }) true)
          ∧ (64 ≤ q.queue.length → s.miss va kind = waits s false)))

/-- The tagged instructions at the core's own scratchpad, where the word's tag lets them perform at once (R98, R114):
LDF takes the word and empties the tag, LDFP reads the word where it is full (as a load reads it, R168, R231), STE writes the
word where the tag is empty and fills it, TAGW sets the tag, and TAGR reads it. LDF and STE close the region. The word is 8-byte aligned and the
code's own, and the repetition buffer is empty.

A tagged instruction that must wait (R114, R115): where the tag does not allow it at home, and for every one that
names another core, the core waits; TAGGED_WAIT_COMPLETE then performs it once the tag allows it, does nothing before, and
ends the code with reason ownership (3) where the bead of a remote one has gone in transit (R164).

REMOTE_ACCESS_REQUEST (R115, R127, R140) of a waiting tagged access to another core: admitted by a window of the
target, it performs there and then where the tag allows it, and waits at the target where not; turned away by every
window, its code ends with reason refused (4).

What a tagged operation of a core does at the core that holds its word (R98, R114): LDF takes the word and empties the tag, LDFP reads it,
STE writes it and fills the tag, TAGW sets the tag and TAGR reads it; the value read goes to s[d], the PC 8 bytes on, the
wait ends, and LDF and STE open a new region there. No third core changes. The close before a closing instruction commits and
makes the instruction a region of its own. -/
def Obligations.TaggedAccesses : Prop :=
  (∀ (s : State) (d a b : SReg) (i : Word) (full : Bool),
    let ea := s.rs a + i.signExtend 64
    let p := ea.toNat % 2 ^ 18
    let word (bs : List Byte) : DWord := BitVec.ofNat 64 (valueOf bs)
    let closed (t : State) : State :=
      let u := t.atPc (laFrom s.core.pc 8)
      { u with core := { u.core with
          wait := none
          region := ⟨u.core.pc, 0xFFFFFFFE, s.core.region.vmask, u.core.regs, u.core.tsw, u.core.traps⟩ } }
    p % 8 = 0 → s.mayReach p 8 = true → s.core.wait = none →
    (s.core.tag p = true →
      (∃ bs, s.MayRead p 8 bs ∧ exec (.ldfp none d a i) s = .next (s.afterS d (word bs) 8))
      ∧ (s.core.rep = none → ∃ bs, s.closeRegion.MayRead p 8 bs ∧ exec (.ldf none d a i) s = .next (closed
          ({ s.commit s.focus with core := (s.commit s.focus).core.setTag p false }.afterS d (word bs) 0))))
    ∧ (s.core.tag p = false → s.core.rep = none → exec (.ste a b i) s = .next (closed { s.commit s.focus with
          core := ((s.commit s.focus).core.store p (bytesOf 8 (s.rs b).toNat)).setTag p true }))
    ∧ exec (.tagw full none a i) s = .next ({ s with core := s.core.setTag p full }.atPc (laFrom s.core.pc 8))
    ∧ exec (.tagr none d a i) s = .next (s.afterS d (if s.core.tag p then 1 else 0) 8))
  ∧ (∀ (s : State) (d a b c : SReg) (i : Word) (x : SReg) (other : CoreId),
    let ea := s.rs a + i.signExtend 64
    let p := ea.toNat % 2 ^ 18
    let waiting (u : State) (k : WaitKind) (j : Instr) : Res := .next { u with core := { u.core with wait := some ⟨k, j⟩ } }
    s.core.rep = none →
    (p % 8 = 0 → s.mayReach p 8 = true → s.core.tag p = false →
        exec (.ldfp none d a i) s = waiting s .tagged (.ldfp none d a i)
        ∧ exec (.ldf none d a i) s = waiting s.closeRegion .tagged (.ldf none d a i))
    ∧ (p % 8 = 0 → s.mayReach p 8 = true → s.core.tag p = true →
        exec (.ste a b i) s = waiting s.closeRegion .tagged (.ste a b i))
    ∧ (p % 8 = 0 → s.nameCore s.focus (s.rs x) = .other other →
        exec (.ldfp (some x) d a i) s = waiting s (.remote false) (.ldfp (some x) d a i)
        ∧ exec (.ldf (some x) d a i) s = waiting s.closeRegion (.remote false) (.ldf (some x) d a i)
        ∧ exec (.tagw true (some x) a i) s = waiting s (.remote false) (.tagw true (some x) a i)
        ∧ exec (.tagr (some x) d a i) s = waiting s (.remote false) (.tagr (some x) d a i))
    ∧ (la (s.rs a) % 8 = 0 → s.nameCore s.focus (s.rs b) = .other other →
        exec (.steRem a b c) s = waiting s.closeRegion (.remote false) (.steRem a b c))
    ∧ (∀ home o, s.tagWait = some (home, o) →
        exec (.taggedWaitComplete s.focus) s = .next (s.tagDone home o))
    ∧ (s.tagLost = none → s.tagWait = none → exec (.taggedWaitComplete s.focus) s = .next s)
    ∧ (∀ x, s.tagLost = some x → exec (.taggedWaitComplete s.focus) s = .next (s.fatal 0x43 3 (dw x))))
  ∧ (∀ (s : State) (i : Instr) (o : TagOp),
    s.core.wait = some ⟨.remote false, i⟩ → s.tagOp i = some o → s.tagHome o ≠ s.focus →
    let home := s.tagHome o
    let ok := s.admits home permT (s.lciOf s.focus) s.ctx (la o.ea) 8
    (ok = true → o.kind.ready ((s.coreAt home).tag (la o.ea)) = true →
      exec (.remoteAccessRequest s.focus) s = .next (s.tagDone home o))
    ∧ (ok = true → o.kind.ready ((s.coreAt home).tag (la o.ea)) = false →
      exec (.remoteAccessRequest s.focus) s
        = .next { s with core := { s.core with wait := some ⟨.remote true, i⟩ } })
    ∧ (ok = false → exec (.remoteAccessRequest s.focus) s = .next (s.fatal 0x44 4 0)))
  ∧ ((∀ (s : State), s.closeRegion = { s.commit s.focus with core := { (s.commit s.focus).core with
      region := ⟨s.core.pc, 0xFFFFFFFE, s.core.region.vmask, s.core.regs, s.core.tsw, s.core.traps⟩ } })
  ∧ ∀ (s : State) (home : CoreId) (o : TagOp), home ≠ s.focus → home.key ≠ s.focus.key →
    let p := la o.ea
    let h := s.coreAt home
    let t := s.tagDone home o
    let does (h' : Core) (v : DWord) (closes : Bool) : Prop :=
      let c := (s.afterS o.d v 8).core
      t.coreAt home = h' ∧ t.core = { c with
        wait := none
        region := if closes then ⟨c.pc, 0xFFFFFFFE, c.region.vmask, c.regs, c.tsw, c.traps⟩ else c.region }
      ∧ t = { s with core := t.core, others := t.others }
      ∧ ∀ y, y ≠ home → y.key ≠ home.key → y ≠ s.focus → t.coreAt y = s.coreAt y
    (o.kind = .ldf → does (h.setTag p false) (h.load8 p) true)
    ∧ (o.kind = .ldfp → does h (h.load8 p) false)
    ∧ (o.kind = .ste → does ((h.store p (bytesOf 8 o.data.toNat)).setTag p true) 0 true)
    ∧ (∀ full, o.kind = .tagw full → does (h.setTag p full) 0 false)
    ∧ (o.kind = .tagr → does h (if h.tag p then 1 else 0) false))

/-- VLDL, VSTL and the local forms of VGATH and VSCAT (R173, R197 to R199): with every active element aligned and the
code's own, a load puts the value of its bytes into each active lane (those that stand there, or that an incomplete
command of the core will write, R168, R231) and leaves the others, or zeroes them with zeroing; a store, with AX clear or no active lane absent, writes each active lane in increasing order; every byte of memory that
is no stored element reads as before. The PC moves by the form's length and nothing else changes.

The global vector loads VLDG, VLDS and VGATH (R197 to R199): with every active element's address aligned and
translated, and the bytes of all of them brought in order as plain loads bring them, each active lane receives the value of its bytes, the others stay or are zeroed, and
nothing else changes but the PC.

The global vector stores VSTG, VSTS and VSCAT (R197 to R199): with every active element's address aligned, its
translation at hand, room for the entries, and AX clear or no active lane absent, the elements become store-buffer entries, one
for each run of elements of one 128 B line of one place; memory and every register stay as they are. -/
def Obligations.VectorMemory : Prop :=
  (∀ (s : State) (f : Fmt) (gd : Guard) (d b : VReg) (a : SReg) (i : Word) (sh : BitVec 5) (addr : Nat → DWord),
    let on (j : Nat) : Prop := active f (s.guard gd) j = true
    let p (j : Nat) : Nat := la (addr j)
    (∀ j, j < f.lanes → on j → p j % f.width = 0 ∧ s.mayReach (p j) f.width = true) →
    (∀ j : Instr,
      (addr = s.rowAddr f a i ∧ j = .vldl f gd d a i) ∨ (addr = s.indexAddr f sh a b ∧ j = .vgath f gd true sh d a b) →
      ∃ t, exec j s = .next t
        ∧ t = { s with core := { s.core with regs := t.core.regs, pc := laFrom s.core.pc gd.len } }
        ∧ t.core.regs = s.core.regs.setV d (t.rv d)
        ∧ ∀ k, k < f.lanes →
          (on k → (∃ bs, s.MayRead (p k) f.width bs ∧ lane f (t.rv d) k = valueOf bs)
            ∧ (s.incoming = [] → lane f (t.rv d) k = valueOf ((List.range f.width).map fun q => s.pad (p k + q))))
          ∧ (¬on k → lane f (t.rv d) k = if gd.zeroing then 0 else lane f (s.rv d) k))
    ∧ ((gd.ax = true → ∀ k, k < f.lanes → on k → lane f (s.rv d) k ≠ absentOf f) → ∀ j : Instr,
      (addr = s.rowAddr f a i ∧ j = .vstl f gd d a i) ∨ (addr = s.indexAddr f sh a b ∧ j = .vscat f gd true sh d a b) →
      ∃ t, exec j s = .next t
        ∧ t = { s with core := { s.core with mem := t.core.mem, pc := laFrom s.core.pc gd.len } }
        ∧ (∀ k, k < f.lanes → on k → (∀ m, k < m → m < f.lanes → on m → ∀ q q', q < f.width → q' < f.width →
              (p m + q) % 2 ^ 18 ≠ (p k + q') % 2 ^ 18) →
            ∀ q, q < f.width → t.pad (p k + q) = byteAt (lane f (s.rv d) k) q)
        ∧ ∀ x, (∀ k q, k < f.lanes → on k → q < f.width → x % 2 ^ 18 ≠ (p k + q) % 2 ^ 18) → t.pad x = s.pad x))
  ∧ (∀ (s : State) (f : Fmt) (gd : Guard) (d b : VReg) (a c : SReg) (i : Word) (sh : BitVec 5) (addr : Nat → DWord)
    (v : State) (bss : List (List Byte)) (j : Instr),
    (addr = s.rowAddr f a i ∧ j = .vldg f gd d a i) ∨ (addr = s.strideAddr a c i ∧ j = .vlds f gd d a c i)
      ∨ (addr = s.indexAddr f sh a b ∧ j = .vgath f gd false sh d a b) →
    let on := (List.range f.lanes).filter (active f (s.guard gd))
    (∀ k ∈ on, (addr k).toNat % f.width = 0 ∧ ∃ x, s.Reaches (addr k) .read true x) →
    s.BringsAll f.width (on.map addr) v bss → v.core.regs = s.core.regs → v.core.pc = s.core.pc →
    ∃ t, exec j s = .next t
      ∧ t = { v with core := { v.core with regs := t.core.regs, pc := laFrom s.core.pc gd.len } }
      ∧ t.core.regs = s.core.regs.setV d (t.rv d)
      ∧ (∀ (m : Nat) (k : Nat) (b : List Byte), on[m]? = some k → bss[m]? = some b →
          lane f (t.rv d) k = valueOf b % 2 ^ (8 * f.width))
      ∧ ∀ k, k < f.lanes →
        (active f (s.guard gd) k = false → lane f (t.rv d) k = if gd.zeroing then 0 else lane f (s.rv d) k))
  ∧ (∀ (s : State) (f : Fmt) (gd : Guard) (d b : VReg) (a c : SReg) (i : Word) (sh : BitVec 5) (addr : Nat → DWord)
    (tgt : Nat → Target) (j : Instr),
    (addr = s.rowAddr f a i ∧ j = .vstg f gd d a i) ∨ (addr = s.strideAddr a c i ∧ j = .vsts f gd d a c i)
      ∨ (addr = s.indexAddr f sh a b ∧ j = .vscat f gd false sh d a b) →
    let els := (List.range f.lanes).filter (active f (s.guard gd))
    let es := (lineGroups (fun e => e.1.line.place)
      (els.map fun k => (tgt k, bytesOf f.width (lane f (s.rv d) k)))).map fun g => (⟨lineStore g, none, s.who, s.ctx⟩ : Entry)
    (∀ k ∈ els, (addr k).toNat % f.width = 0 ∧ s.Reaches (addr k) .write false (tgt k)) →
    s.room es.length = .ok → (gd.ax = true → ∀ k ∈ els, lane f (s.rv d) k ≠ absentOf f) →
    exec j s = .next ((s.buffered es).atPc (laFrom s.core.pc gd.len)))

/-- The operations without return (R243, R245, R248, R251, R263): AMO with d = 0, RED and REDF become one store-buffer
entry of the open region, a release where the form says so, and POISONCLR, at privilege 1 and above, one too. The
address is aligned to the operation's width and translated; the target is no host's; the store buffer has room.
Registers and memory stay as they are but for scope-clamped.

VRED (R243, R252): with every active element's address aligned and translated to no host, room for the entries, and
AX clear or no active element absent, the active elements become store-buffer entries of element reductions, one for each run of
elements of one line, at addresses s[a] + i × the element's, or its counted slot's, size. -/
def Obligations.ReductionsWithoutReturn : Prop :=
  (∀ (s : State) (op : AmoOp) (o : Ord) (w rl cnt : Bool) (sc : Scope) (f : Fmt) (a b : SReg) (t : Target),
    let va := s.rs a
    let n := if w then 4 else 8
    let cl (o : Ord) : Scope × Bool := s.clampOrd o sc
    let rel (r : Bool) (o : Ord) : Option Scope := if r then some (cl o).1 else none
    let after (e : EntryKind) (r : Option Scope) (c : Bool) : Res :=
      .next (((s.buffered [⟨e, r, s.who, s.ctx⟩]).flagged (if c then flagSC else 0)).atPc (laFrom s.core.pc 8))
    s.room 1 = .ok → (∀ ha, t.place ≠ .host ha) →
    (va.toNat % n = 0 → s.Reaches va .readWrite true t →
      exec (.amo op o w sc 0 a b) s = after (.red t op n (s.rs b)) (rel (ordReleases o) o) (cl o).2
      ∧ exec (.red op rl w sc a b) s
        = after (.red t op n (s.rs b)) (rel rl .release) (cl (if rl then .release else .relaxed)).2)
    ∧ (va.toNat % slotSize f cnt = 0 → s.Reaches va .readWrite true t →
      exec (.redf op cnt rl sc f a b) s
        = after (.elem t ⟨elemOp op, f, cnt, s.core.regs.rm, [(0, (s.rs b).toNat % 2 ^ fmtBits f)]⟩)
            (rel rl .release) (cl (if rl then .release else .relaxed)).2)
    ∧ (s.priv ≠ 0 → va.toNat % 4096 = 0 → s.Reaches va .write false t →
      exec (.poisonclr a) s = after (.poisonclr t) none false)
    ∧ (s.priv = 0 → exec (.poisonclr a) s = .next (s.fatal 0x30 2 0)))
  ∧ (∀ (s : State) (op : AmoOp) (cnt rl : Bool) (sc : Scope) (f : Fmt) (gd : Guard) (a : SReg) (b : VReg) (tgt : Nat → Target),
    let size := if cnt then slotSize f cnt else f.width
    let addr (k : Nat) : DWord := s.rs a + dw (k * size)
    let els := (List.range f.lanes).filter (active f (s.guard gd))
    let cl := s.clampOrd (if rl then .release else .relaxed) sc
    let es := (lineGroups (fun e => e.1.line.place) (els.map fun k => (tgt k, lane f (s.rv b) k))).map fun g =>
      (⟨lineRed (elemOp op) f cnt (s.rounding gd) g, if rl then some cl.1 else none, s.who, s.ctx⟩ : Entry)
    (∀ k ∈ els, (addr k).toNat % size = 0 ∧ s.Reaches (addr k) .readWrite true (tgt k) ∧ ∀ ha, (tgt k).place ≠ .host ha) →
    s.room es.length = .ok → (gd.ax = true → ∀ k ∈ els, lane f (s.rv b) k ≠ absentOf f) →
    exec (.vred op cnt rl sc f gd a b) s
      = .next (((s.buffered es).flagged (if cl.2 then flagSC else 0)).atPc (laFrom s.core.pc gd.len)))

/-- A returning atomic to HBM (R98, R242, R245 to R247): AMO with d ≠ 0, CAS and AMOBND close the region, translate
in the region that follows, and with nothing of the core left to drain and room at its die's ordering point the operation joins that point, a release where
its ordering says so, once what it orders is performed, and the core waits for the old value.

Returning atomics beyond the die's HBM (R22, R242, R244, R245, R392), in their region, with nothing left to drain and a release's orders
performed: to a host they end with refused (4); to another device a request leaves, and the core waits for its
answer, or for its turn to leave; to a control register they act at once. The end of one delivers the old value, sign-extended
from 32 bits, raises scope-clamped where its scope was narrowed, begins an acquire where its order says so, one of a
page of this device an acquire at DIE at any order, and a new region opens.

What a scalar atomic makes of the value at its address (R243, R246, R247): the value written, or none where CAS or
AMOBND leaves it. Of AMO: sum, and, or, xor, signed and unsigned minimum and maximum, and swap, modulo the width; CAS
writes s[c] where the value equals s[b]; AMOBND adds the signed s[b] where the exact sum stays within the signed bound
s[c]: at most it for an addend of 0 or more, at least it for a negative one. -/
def Obligations.ReturningAtomics : Prop :=
  (∀ (s : State) (op : AmoOp) (o : Ord) (w : Bool) (sc : Scope) (d a b c : SReg) (t : Target) (pa : Nat),
    let va := s.rs a
    let n := if w then 4 else 8
    let u := s.closeRegion
    let at' (k : PortKind) (i : Instr) : Res :=
      .next { u with
        ram := { u.ram with order := Sparse.set [] u.ram.order u.focus.die (u.orderAt u.focus.die ++
          [⟨pa, k, t.cmp, u.who, if ordReleases o then some (u.clampOrd o sc).1 else none, .core u.focus⟩]) }
        core := { u.core with wait := some ⟨.atomic, i⟩ } }
    va.toNat % n = 0 → u.Reaches va .readWrite true t → t.place = .dev pa → pa < hbmEnd →
    s.core.rep = none → u.core.committed = [] → (u.orderAt u.focus.die).length < 512 →
    (ordReleases o = true → u.performed u.focus (u.clampOrd o sc).1 = true) →
    (d ≠ 0 → exec (.amo op o w sc d a b) s = at' (.amo op n (s.rs b)) (.amo op o w sc d a b))
    ∧ exec (.cas o w sc d a b c) s = at' (.cas n (s.rs b) (s.rs c)) (.cas o w sc d a b c)
    ∧ exec (.amobnd o w sc d a b c) s = at' (.bnd n (s.rs b) (s.rs c)) (.amobnd o w sc d a b c))
  ∧ ((∀ (s : State) (op : AmoOp) (o : Ord) (w : Bool) (sc : Scope) (d a b c : SReg) (t : Target),
    let va := s.rs a
    let n := if w then 4 else 8
    let u := s.closeRegion
    let run (i : Instr) (k : PortKind) (req : Nat → PageUse → FabricReq) : Prop :=
      (∀ ha, t.place = .host ha → exec i s = .next (u.fatal 0x44 4 0))
      ∧ (u.core.committed = [] → (ordReleases o = true → u.performed u.focus (u.clampOrd o sc).1 = true) →
        (∀ e pa m, t.place = .peer e pa m →
          let r := u.trySend u.focus.key t.ctx e u.who (.core u.focus) (req pa ⟨m.code, t.cmp, t.ctx⟩)
          (∀ q, r.2 = some q → exec i s = .next { r.1 with core := { r.1.core with
            wait := some ⟨.fabric (64 * u.focus.key + e) q t.place 0 va, i⟩ } })
          ∧ (r.2 = none → exec i s = .next r.1))
        ∧ (∀ pa, t.place = .dev pa → hbmEnd ≤ pa →
          let old := valueOf (u.ctlBytes pa n)
          exec i s = .next (((k.scalar old).elim u fun v =>
            u.ctlStore (ctlWriter u.focus).1 (ctlWriter u.focus).2 pa (bytesOf n v) 2).amoDone ⟨k, n, o, sc, d⟩ true old)))
    va.toNat % n = 0 → u.Reaches va .readWrite true t → s.core.rep = none →
    (d ≠ 0 → run (.amo op o w sc d a b) (.amo op n (s.rs b)) (fun pa via => .amo pa n op (s.rs b) via))
    ∧ run (.cas o w sc d a b c) (.cas n (s.rs b) (s.rs c)) (fun pa via => .cas pa n (s.rs b) (s.rs c) via)
    ∧ run (.amobnd o w sc d a b c) (.bnd n (s.rs b) (s.rs c)) (fun pa via => .amobnd pa n (s.rs b) (s.rs c) via))
  ∧ ∀ (s : State) (k : PortKind) (n old : Nat) (o : Ord) (sc : Scope) (d : SReg) (here : Bool),
    let cl := s.clampOrd o sc
    let s1 := if here then s.podAcquire s.focus .die else s
    let s2 := if o = .acquire ∨ o = .acqRel then s1.podAcquire s.focus cl.1 else s1
    let v : DWord := if n = 4 then (BitVec.ofNat 32 old).signExtend 64 else BitVec.ofNat 64 old
    let u := (s2.afterS d v 8).flagged (if cl.2 then flagSC else 0)
    s.amoDone ⟨k, n, o, sc, d⟩ here old = { u with core := { u.core with
      wait := none, region := ⟨u.core.pc, 0xFFFFFFFE, u.core.region.vmask, u.core.regs, u.core.tsw, u.core.traps⟩ } })
  ∧ (∀ (n old : Nat) (y z : DWord), (n = 4 ∨ n = 8) → old < 2 ^ (8 * n) →
    let m := 2 ^ (8 * n)
    let v := y.toNat % m
    let b := z.toNat % m
    let sg (x : Nat) : Int := (x : Int).bmod m
    (PortKind.amo .add n y).scalar old = some ((old + v) % m)
    ∧ (PortKind.amo .and n y).scalar old = some (old &&& v)
    ∧ (PortKind.amo .or n y).scalar old = some (old ||| v)
    ∧ (PortKind.amo .xor n y).scalar old = some (old ^^^ v)
    ∧ (PortKind.amo .minn n y).scalar old = some (Nat.min old v)
    ∧ (PortKind.amo .maxn n y).scalar old = some (Nat.max old v)
    ∧ (PortKind.amo .min n y).scalar old = some (if sg v < sg old then v else old)
    ∧ (PortKind.amo .max n y).scalar old = some (if sg old < sg v then v else old)
    ∧ (PortKind.amo .swap n y).scalar old = some v
    ∧ (PortKind.cas n y z).scalar old = (if old = v then some b else none)
    ∧ (PortKind.bnd n y z).scalar old =
      (if (0 ≤ sg v ∧ sg old + sg v ≤ sg b) ∨ (sg v < 0 ∧ sg b ≤ sg old + sg v) then some ((old + v) % m) else none))

/-- CLINIT (R139, R141): at an address aligned to 16, with a count from 1 to 65,535 and the bytes the code's own, it
writes the count word with generation and count 0 and the tag full, and the release word 0 with its tag empty.

An arrival at a clasp (R139, R142): the count rises by one; the arrival that reaches the target clears it, and moves
the generation, in the count word and in the release word, whose tag becomes full; the old count word is returned.

ARRIVE, ARRIVEW and CLWAIT at the core itself (R140 to R144), the address aligned to 16 and the code's own, the
clasp initialised: with the core's committed entries drained and performed with respect to the scope an arrival
performs, ARRIVEW going on as a wait; CLWAIT, and ARRIVEW in its wait region, complete once the generation has moved
on, and wait until then. CLASP_RELEASE_ANSWER ends a wait whose condition holds, does nothing before, and ends the
code with reason ownership (3) where the bead of a remote clasp has gone in transit (R164).

ARRIVE, ARRIVEW and CLWAIT that name another core (R140, R143): an arrival, in its region, drained and performed, and a wait go to the
other core, where a window admits them or their code ends with reason refused (4), as it does at a clasp whose tag is empty. An
arrival is performed there and returns the old count word to s[d]; ARRIVEW goes on in a wait region at its own
address, with APB set. A wait that ends begins an acquire at its scope (R33); ARRIVEW's commits that region and opens the next. -/
def Obligations.Clasps : Prop :=
  (∀ (s : State) (a b : SReg),
    let p := la (s.rs a)
    let n := (s.rs b).toNat
    (p % 16 = 0 → 0 < n → n ≤ 65535 → s.mayReach p 16 = true →
      ∃ t, exec (.clinit a b) s = .next t
        ∧ t = { s with core := { s.core with mem := t.core.mem, tags := t.core.tags, pc := laFrom s.core.pc 8 } }
        ∧ valueOf ((List.range 8).map fun j => t.pad (p + j)) = 2 ^ 32 * n
        ∧ valueOf ((List.range 8).map fun j => t.pad (p + 8 + j)) = 0
        ∧ t.core.tag p = true ∧ t.core.tag (p + 8) = false
        ∧ ∀ q, (∀ j, j < 16 → q % 2 ^ 18 ≠ p + j) → t.pad q = s.pad q)
    ∧ (p % 16 ≠ 0 ∨ n = 0 ∨ 65535 < n → exec (.clinit a b) s = .next (s.fatal 0x45 5 (s.rs a))))
  ∧ (∀ (c : Core) (p : Nat), p % 16 = 0 → p < 2 ^ 18 →
    let old := c.load8 p
    let n := (claspCount old + 1) % 2 ^ 16
    let t := (c.arrive p).1
    (c.arrive p).2 = old
    ∧ (n ≠ claspTarget old → t.load8 p =
        dw (2 ^ 48 * claspGen old + 2 ^ 32 * claspTarget old + 2 ^ 16 * bitsAt 16 16 old + n)
        ∧ t.load8 (p + 8) = c.load8 (p + 8) ∧ t.tags = c.tags)
    ∧ (n = claspTarget old → t.load8 p = dw (2 ^ 48 * ((claspGen old + 1) % 2 ^ 16) + 2 ^ 32 * claspTarget old)
        ∧ t.load8 (p + 8) = dw ((claspGen old + 1) % 2 ^ 16) ∧ t.tag (p + 8) = true)
    ∧ ∀ q, (∀ j, j < 16 → q % 2 ^ 18 ≠ p + j) → Sparse.get 0 t.mem (q % 2 ^ 18) = Sparse.get 0 c.mem (q % 2 ^ 18))
  ∧ (∀ (s : State) (sc : Scope) (d a b c : SReg),
    let p := la (s.rs a)
    let op (seen : Option DWord) (d : SReg) : ClaspOp := ⟨s.rs a, s.rs b, sc, seen, d, 8⟩
    let u := s.closeRegion
    p % 16 = 0 → s.nameCore s.focus (s.rs b) = .self → s.mayReach p 16 = true → s.core.tag p = true →
    (s.core.rep = none → u.core.committed = [] → u.performed u.focus (u.clamp sc).1 = true →
      exec (.arrive sc d a b) s = .next (u.claspArrived (.arrive sc d a b) u.focus (op none d))
      ∧ (s.core.tsw.apb = false →
        exec (.arrivew sc d a b) s = .next (u.claspArrived (.arrivew sc d a b) u.focus (op none d))))
    ∧ (s.core.released p (s.rs c) = true →
        exec (.clwait sc a b c) s = .next (s.claspReleased (.clwait sc a b c) (op (some (s.rs c)) 0)))
    ∧ (s.core.released p (s.rs c) = false →
        exec (.clwait sc a b c) s = .next { s with core := { s.core with wait := some ⟨.clasp true, .clwait sc a b c⟩ } })
    ∧ (s.core.tsw.apb = true → s.core.released p (s.rs d) = true →
        exec (.arrivew sc d a b) s = .next (s.claspReleased (.arrivew sc d a b) (op (some (s.rs d)) d)))
    ∧ (∀ i o, s.claspWait = some (i, o) → exec (.claspReleaseAnswer s.focus) s = .next (s.claspReleased i o))
    ∧ (s.claspLost = none → s.claspWait = none → exec (.claspReleaseAnswer s.focus) s = .next s)
    ∧ (∀ x, s.claspLost = some x → exec (.claspReleaseAnswer s.focus) s = .next (s.fatal 0x43 3 (dw x))))
  ∧ (∀ (s : State) (sc : Scope) (d a b c : SReg) (y : CoreId),
    let p := la (s.rs a)
    let op (seen : Option DWord) (d : SReg) : ClaspOp := ⟨s.rs a, s.rs b, sc, seen, d, 8⟩
    let waits (u : State) (i : Instr) : Res := .next { u with core := { u.core with wait := some ⟨.remote false, i⟩ } }
    let raised : FlagSet := if (s.clamp sc).2 then flagSC else 0
    let opened (u : State) : State := { u with core := { u.core with
      wait := none, region := ⟨u.core.pc, 0xFFFFFFFE, u.core.region.vmask, u.core.regs, u.core.tsw, u.core.traps⟩ } }
    let arrived (d : SReg) (n : Nat) : State :=
      ((s.setCore y ((s.coreAt y).arrive p).1).afterS d ((s.coreAt y).arrive p).2 n).flagged raised
    let acquired : State := (s.podAcquire s.focus (s.clamp sc).1).flagged raised
    let done : State := (acquired.commit s.focus).atPc (laFrom s.core.pc 8)
    (p % 16 = 0 → s.nameCore s.focus (s.rs b) = .other y →
      (s.core.rep = none → s.closeRegion.core.committed = [] →
        s.closeRegion.performed s.focus (s.closeRegion.clamp sc).1 = true →
        exec (.arrive sc d a b) s = waits s.closeRegion (.arrive sc d a b)
        ∧ (s.core.tsw.apb = false → exec (.arrivew sc d a b) s = waits s.closeRegion (.arrivew sc d a b)))
      ∧ (s.core.tsw.apb = true → exec (.arrivew sc d a b) s = waits s (.arrivew sc d a b))
      ∧ exec (.clwait sc a b c) s = waits s (.clwait sc a b c)
      ∧ ∀ i o, s.core.wait = some ⟨.remote false, i⟩ → s.claspOp i = some o → o.la = s.rs a → o.home = s.rs b →
        let ok := s.admits y permA (s.lciOf s.focus) s.ctx p 16 && (s.coreAt y).tag p
        (ok = false → exec (.remoteAccessRequest s.focus) s = .next (s.fatal 0x44 4 0))
        ∧ (ok = true → o.seen = none → exec (.remoteAccessRequest s.focus) s = .next (s.claspArrived i y o))
        ∧ (∀ w, ok = true → o.seen = some w → exec (.remoteAccessRequest s.focus) s =
          .next (if (s.coreAt y).released p w then s.claspReleased i o
            else { s with core := { s.core with wait := some ⟨.clasp true, i⟩ } })))
    ∧ s.claspArrived (.arrive sc d a b) y (op none d) = opened (arrived d 8)
    ∧ s.claspArrived (.arrivew sc d a b) y (op none d) =
        opened { arrived d 0 with core := { (arrived d 0).core with tsw := { (arrived d 0).core.tsw with apb := true } } }
    ∧ s.claspReleased (.clwait sc a b c) (op (some (s.rs c)) 0) =
        (let u := acquired.atPc (laFrom s.core.pc 8)
        { u with core := { u.core with wait := none } })
    ∧ s.claspReleased (.arrivew sc d a b) (op (some (s.rs d)) d) =
        opened { done with core := { done.core with tsw := { done.core.tsw with apb := false } } })

/-- The element members of Table 06.2 (R173, R174, R180): with AX clear, or no absent element input on an active lane,
each active lane of d receives the member's element, the others stay or are zeroed, and the sticky flags gain what the
active lanes raise. With AX set and an absent input on an active lane the absent trap is taken, INFO its lowest index
(R175). -/
def Obligations.ElementwiseVectorArithmetic : Prop :=
  ∀ (s : State) (f : Fmt) (gd : Guard) (g : PReg) (d a b c : VReg), ∀ row ∈ vecRows s f gd g d a b c,
    let absent (k : Nat) : Prop := k < f.lanes ∧ active f (s.guard row.guard) k = true
      ∧ ∃ v ∈ row.inputs, lane f (s.rv v) k = absentOf f
    ((row.guard.ax = true → ∀ k, ¬absent k) →
      ∃ t, exec row.instr s = .next t ∧
        s.LanesWritten t f d (active f (s.guard row.guard)) row.guard.zeroing row.elem row.guard.len)
    ∧ (row.guard.ax = true → ∀ k, absent k → (∀ m, m < k → ¬absent m) →
      exec row.instr s = s.recoverable 2 k 0 0 s.core.pc)

/-- The integer elements (R43, R180) of two present inputs: sum, difference, product and left shift wrap, and the
absent code is replaced by the least value with saturation; VADDS and VSUBS clamp; minimum, maximum, magnitude and
negation are exact; the shifts count by y modulo the width.

Absent inputs (R48, R180): to a combining member one absent input is the identity, a NaN that passes becomes the
default NaN, and two give absent with absent-produced; VFMA and VFMS lose an absent product, and round the product
alone where the addend is absent, VFMS negating it then; to every other member an absent input gives absent and no flag.

The floating members (R180, R181) on values: finite sums, differences, products and quotients are the exact result
rounded once, as is VFMA's; 0/0, ∞/∞, ∞ - ∞ and 0 × ∞ give the default NaN with invalid; a non-zero value over zero
gives a signed infinity and no flag; magnitude and negation change the sign bit alone. -/
def Obligations.ElementValues : Prop :=
  (∀ (f : Fmt) (rm : RMode) (x y : Nat), f.isInt = true → x < 2 ^ fmtBits f → y < 2 ^ fmtBits f →
    x ≠ absentOf f → y ≠ absentOf f →
    let n := fmtBits f
    let u := signedAt n x
    let v := signedAt n y
    let top : Int := 2 ^ (n - 1) - 1
    let wrapped (z : Int) : Elem × FlagSet :=
      if patternOf n z = absentOf f then (patternOf n (-top), flagSA) else (patternOf n z, 0)
    let clamped (z : Int) : Elem × FlagSet :=
      if top < z then (patternOf n top, flagSA) else if z < -top then (patternOf n (-top), flagSA) else (patternOf n z, 0)
    vaddE f rm x y = wrapped (u + v) ∧ vsubE f rm x y = wrapped (u - v) ∧ vmulE f rm x y = wrapped (u * v)
    ∧ vshlE f x y = wrapped (u * 2 ^ (y % n)) ∧ vaddsE f x y = clamped (u + v) ∧ vsubsE f x y = clamped (u - v)
    ∧ vminmaxE f false x y = (patternOf n (Min.min u v), 0) ∧ vminmaxE f true x y = (patternOf n (Max.max u v), 0)
    ∧ vmagE f x = (patternOf n |u|, 0) ∧ vnegE f x = (patternOf n (-u), 0)
    ∧ vshrE f x y = (x / 2 ^ (y % n), 0) ∧ vsarE f x y = (patternOf n (u.fdiv (2 ^ (y % n))), 0)
    ∧ vlogicE f Nat.land x y = (if x &&& y = absentOf f then (patternOf n (-top), flagSA) else (x &&& y, 0))
    ∧ vlogicE f Nat.lor x y = (if x ||| y = absentOf f then (patternOf n (-top), flagSA) else (x ||| y, 0))
    ∧ vlogicE f Nat.xor x y = (if x ^^^ y = absentOf f then (patternOf n (-top), flagSA) else (x ^^^ y, 0)))
  ∧ (∀ (f : Fmt) (rm : RMode) (x y : Nat) (sub mx : Bool),
    let e := absentOf f
    let passed : Elem × FlagSet := if isNaN f x then (defaultNaN f, if (fval f x).snan then flagNV else 0) else (x, 0)
    (x ≠ e →
      vaddE f rm x e = passed ∧ vaddE f rm e x = passed ∧ vminmaxE f mx x e = passed ∧ vminmaxE f mx e x = passed
      ∧ vaddsE f x e = (x, 0) ∧ vaddsE f e x = (x, 0)
      ∧ (∀ o, vlogicE f o x e = (x, 0) ∧ vlogicE f o e x = (x, 0))
      ∧ (f.isFloat = true → vfmaE f rm sub e y x = passed ∧ vfmaE f rm sub y e x = passed))
    ∧ vaddE f rm e e = (e, flagAP) ∧ vminmaxE f mx e e = (e, flagAP) ∧ vaddsE f e e = (e, flagAP)
    ∧ (∀ o, vlogicE f o e e = (e, flagAP)) ∧ vfmaE f rm sub e y e = (e, flagAP) ∧ vfmaE f rm sub y e e = (e, flagAP)
    ∧ vsubE f rm x e = (e, 0) ∧ vsubE f rm e x = (e, 0) ∧ vmulE f rm x e = (e, 0) ∧ vmulE f rm e x = (e, 0)
    ∧ vmagE f e = (e, 0) ∧ vnegE f e = (e, 0) ∧ vshlE f x e = (e, 0) ∧ vshrE f x e = (e, 0) ∧ vsarE f x e = (e, 0)
    ∧ vsubsE f x e = (e, 0) ∧ vsubsE f e x = (e, 0) ∧ (∀ z, scaleE f rm e z = (e, 0)) ∧ scaleE f rm x 0xFFFFFFFF = (e, 0)
    ∧ (∀ p q, x ≠ e → y ≠ e → fval f x = .fin p → fval f y = .fin q →
        vfmaE f rm false x y e = roundF f rm (p.mul q) ∧ vfmaE f rm true x y e = ((roundF f rm (p.mul q)).1 ^^^ 2 ^ (fmtBits f - 1), (roundF f rm (p.mul q)).2))
    ∧ (∀ dst, convE dst f rm e = (absentOf dst, 0))
    ∧ ∀ cond, cmpE f cond x e = (false, 0) ∧ cmpE f cond e x = (false, 0))
  ∧ (∀ (f : Fmt) (rm : RMode) (x y z : Nat) (p q r : Exact), f.isFloat = true →
    x ≠ absentOf f → y ≠ absentOf f → z ≠ absentOf f → x < 2 ^ fmtBits f → y < 2 ^ fmtBits f →
    let nan : Elem × FlagSet := (defaultNaN f, flagNV)
    (fval f x = .fin p → fval f y = .fin q →
      (∃ e : Exact, e.rat = p.rat + q.rat ∧ 0 < e.den ∧ vaddE f rm x y = roundF f rm e)
      ∧ (∃ e : Exact, e.rat = p.rat - q.rat ∧ 0 < e.den ∧ vsubE f rm x y = roundF f rm e)
      ∧ (∃ e : Exact, e.rat = p.rat * q.rat ∧ 0 < e.den ∧ e.neg = (p.neg != q.neg) ∧ vmulE f rm x y = roundF f rm e)
      ∧ (q.num ≠ 0 → ∃ e : Exact, e.rat = p.rat / q.rat ∧ 0 < e.den ∧ e.neg = (p.neg != q.neg)
          ∧ other2 f (fun x y => divV f rm (fval f x) (fval f y)) x y = roundF f rm e)
      ∧ (q.num = 0 → other2 f (fun x y => divV f rm (fval f x) (fval f y)) x y
          = if p.num = 0 then nan else (infPat f (p.neg != q.neg), 0))
      ∧ (fval f z = .fin r →
          (∃ e : Exact, e.rat = p.rat * q.rat + r.rat ∧ 0 < e.den ∧ vfmaE f rm false x y z = roundF f rm e)
          ∧ (∃ e : Exact, e.rat = r.rat - p.rat * q.rat ∧ 0 < e.den ∧ vfmaE f rm true x y z = roundF f rm e))
      ∧ vmagE f x = (x % 2 ^ (fmtBits f - 1), 0)
      ∧ vnegE f x = ((x + 2 ^ (fmtBits f - 1)) % 2 ^ fmtBits f, 0))
    ∧ (fval f x = .inf true → fval f y = .inf false → vaddE f rm x y = nan
        ∧ other2 f (fun x y => divV f rm (fval f x) (fval f y)) x y = nan)
    ∧ (fval f x = .inf true → fval f y = .fin q → q.num = 0 → vmulE f rm x y = nan ∧ ∀ w, vfmaE f rm false x y w = nan))

/-- Round of R53 for F32 and BF16 and a value that is not zero, where it does not overflow: the result keeps the sign, it
is the neighbour of the value that the mode names among the finite patterns, and inexact is raised exactly where the
value changed. -/
def Obligations.RoundingPicksTheNeighbour : Prop :=
  ∀ (f : Fmt) (rm : RMode) (x : Exact), f.isFloat = true → 0 < x.den → 0 < x.num →
    let r := roundF f rm x
    r.2.getLsbD 1 = false →
    ∃ y, fval f r.1 = .fin y ∧ y.neg = x.neg ∧ (r.2 = flagNX ↔ y.rat ≠ x.rat) ∧ (r.2 = 0 ↔ y.rat = x.rat)
      ∧ ∀ q z, fval f q = .fin z → q < 2 ^ fmtBits f →
        (rm = .rdn → y.rat ≤ x.rat ∧ (z.rat ≤ x.rat → z.rat ≤ y.rat))
        ∧ (rm = .rup → x.rat ≤ y.rat ∧ (x.rat ≤ z.rat → y.rat ≤ z.rat))
        ∧ (rm = .rtz → |y.rat| ≤ |x.rat| ∧ (|z.rat| ≤ |x.rat| → |z.rat| ≤ |y.rat|))
        ∧ (rm = .rne ∨ rm = .rna → |y.rat - x.rat| ≤ |z.rat - x.rat|)
        ∧ (rm = .rne → |y.rat - x.rat| = |z.rat - x.rat| → z.rat ≠ y.rat → r.1 % 2 = 0)
        ∧ (rm = .rna → |y.rat - x.rat| = |z.rat - x.rat| → |z.rat| ≤ |y.rat|)

/-- The copying members (R189, R191): each active lane of d receives the element the member names, its pattern
unchanged; the others stay or are zeroed; VINS changes one lane, VEXTR extends one to s[d], VCOMPR packs the active
elements and fills with absent; QTLD writes the Q4 table. AX is clear, or no active lane reads an absent element.

Counts, loop predicates and predicate logic (R194 to R196); VCOUNT with AX clear or no active lane absent. -/
def Obligations.MovementCountsAndPredicates : Prop :=
  (∀ (s : State) (f : Fmt) (gd : Guard) (d a b : VReg) (sa sb sd : SReg) (q part : Bool) (k : BitVec 7),
    let N := f.lanes
    let H := N / 2
    let A (i : Nat) : Elem := lane f (s.rv a) i
    let B (i : Nat) : Elem := lane f (s.rv b) i
    let n := (s.rs sb).toNat
    let code (i : Nat) : Nat := ((s.rv a).extractLsb' (4 * (128 * part.toNat + i)) 4).toNat
    let clear (f : Fmt) (reads : Nat → Bool) (e : Nat → Elem) : Prop :=
      gd.ax = true → ∀ i, i < f.lanes → active f (s.guard gd) i = true → reads i = true → e i ≠ absentOf f
    let puts (j : Instr) (f : Fmt) (reads : Nat → Bool) (e : Nat → Elem) : Prop := clear f reads e → ∃ t, exec j s = .next t ∧
      s.LanesWritten t f d (active f (s.guard gd)) gd.zeroing (fun i => (e i, 0)) gd.len
    let all (_ : Nat) : Bool := true
    puts (.vmov f gd d a) f all A
    ∧ puts (.vbcast f gd d (.scalar sa)) f (fun _ => false) (fun _ => (s.rs sa).toNat % 2 ^ fmtBits f)
    ∧ (k.toNat < N → puts (.vbcast f gd d (.elem a k)) f all (fun _ => A k.toNat))
    ∧ puts (.vperm f gd d a b) f all (fun i => A (B i % N))
    ∧ puts (.vslide f gd false d a sb) f (fun i => decide (n ≤ i)) (fun i => if n ≤ i then A (i - n) else absentOf f)
    ∧ puts (.vslide f gd true d a sb) f (fun i => decide (i + n < N)) (fun i => if i + n < N then A (i + n) else absentOf f)
    ∧ puts (.vzip f gd q d a b) f all (fun i =>
        let o := if q then H else 0
        if i % 2 = 0 then A (o + i / 2) else B (o + i / 2))
    ∧ puts (.vunzip f gd q d a b) f all (fun i =>
        let e := if q then 1 else 0
        if i < H then A (2 * i + e) else B (2 * (i - H) + e))
    ∧ puts (.vexpq4 gd part d a) .i8 all (fun i => if code i = 8 then 0x80 else (s.core.regs.q4.getD (code i) 0).toNat)
    ∧ (clear f all A → ∃ t, exec (.vcompr f gd d a) s = .next t ∧
        s.LanesWritten t f d (fun _ => true) false (fun i =>
          ((((List.range N).filter (active f (s.guard gd))).map A).getD i (absentOf f), 0)) gd.len)
    ∧ (∃ t, exec (.vins f gd d sa sb) s = .next t ∧
        s.LanesWritten t f d (fun i => decide (i = n % N)) false (fun _ => ((s.rs sa).toNat, 0)) gd.len)
    ∧ exec (.vextr f gd sd a sb) s = .next (s.afterS sd
        (if f.isFloat then dw (A (n % N)) else BitVec.ofInt 64 (signedAt (fmtBits f) (A (n % N)))) gd.len)
    ∧ ∃ t, exec (.qtld gd a) s = .next t
      ∧ t = { s with core := { s.core with regs := { s.core.regs with q4 := t.core.regs.q4 }, pc := laFrom s.core.pc gd.len } }
      ∧ t.core.regs.q4.length = 16
      ∧ ∀ i, i < 16 → t.core.regs.q4.getD i 0 = (s.rv a).extractLsb' (8 * i) 8)
  ∧ (∀ (s : State) (f : Fmt) (gd : Guard) (d sa sb : SReg) (a : VReg) (pd pa pb : PReg) (k : BitVec 9),
    let N := f.lanes
    let onlyP (t : State) (n : Nat) : Prop := t = { s with core := { s.core with
        regs := { s.core.regs with p := t.core.regs.p }, pc := laFrom s.core.pc n } } ∧ ∀ q, q ≠ pd ∨ pd = 0 → t.rp q = s.rp q
    let bits (j : Instr) (n : Nat) (e : Nat → Bool) : Prop := ∃ t, exec j s = .next t ∧ onlyP t n
      ∧ (pd ≠ 0 → ∀ i, i < N → ∀ q, q < f.width → (t.rp pd).getLsbD (f.width * i + q) = e i)
    ((gd.ax = true → ∀ i, i < N → active f (s.guard gd) i = true → lane f (s.rv a) i ≠ absentOf f) → exec (.vcount f gd d a) s = .next (s.afterS d (dw (((List.range N).filter fun i =>
        active f (s.guard gd) i && decide (lane f (s.rv a) i ≠ absentOf f)).length)) gd.len))
    ∧ bits (.whilelt f gd pd sa sb) gd.len (fun i => decide ((s.rs sa).toInt + i < (s.rs sb).toInt))
    ∧ exec (.vlq f d) s = .next (s.afterS d (dw N) 8)
    ∧ (∃ t, exec (.pand pd pa pb) s = .next t ∧ onlyP t 8 ∧ (pd ≠ 0 → t.rp pd = s.rp pa &&& s.rp pb))
    ∧ (∃ t, exec (.por pd pa pb) s = .next t ∧ onlyP t 8 ∧ (pd ≠ 0 → t.rp pd = s.rp pa ||| s.rp pb))
    ∧ (∃ t, exec (.pnot pd pa) s = .next t ∧ onlyP t 8 ∧ (pd ≠ 0 → t.rp pd = ~~~s.rp pa))
    ∧ exec (.pcnt f d pa) s = .next (s.afterS d (dw (((List.range N).filter fun i =>
        (s.rp pa).getLsbD (f.width * i)).length)) 8)
    ∧ (∃ i, exec (.pfirst f d pa) s = .next (s.afterS d (dw i) 8) ∧ i ≤ N
        ∧ (i < N → active f (s.rp pa) i = true) ∧ ∀ m, m < i → active f (s.rp pa) m = false)
    ∧ bits (.pset f pd k) 8 (fun i => decide (i < k.toNat)))

/-- Conversion, comparison, selection, scaling, the BF16 functions and the members about presence (R182 to R187).

The value of a conversion of a present element (R46, R54): of a floating source the rounded value, or for an integer
destination the integer its mode makes of it, clamped with saturation, inexact where it changed; of an integer source the same of
its value. A NaN gives the default NaN, or 0 with invalid; an infinity stays, or gives the largest of its sign with
invalid and saturation. For TS8 the value is clamped to 128, and the pattern's value is the representable one that the mode names.

Comparison and scaling of present elements (R41, R184, R185): integers compare as signed values, floating values as numbers, the zeros
equal; a NaN is unordered and unequal, a signalling one invalid. A scaled floating element is the exact product
rounded once, an integer one the integer the mode makes of the product, clamped; a NaN scale of an integer gives 0 and an
infinite one the largest of the product's sign, 0 of 0, with invalid.

Square root, 2^x, log₂ x, 1/x and 1/√x (R53, R181, R182) of finite values: the value rounded once, said by the
rationals on either side of it; 2^x of ±0 is 1; and the table's special values, where a signalling NaN is invalid too. -/
def Obligations.ConvertCompareSelectAndScale : Prop :=
  (∀ (s : State) (f src : Fmt) (r : Rnd) (part : BitVec 2) (g pd pc : PReg) (d a : VReg) (b : BitVec 5) (cnd : VCond),
    let on (f : Fmt) : Nat → Bool := active f (s.rp g)
    let A (f : Fmt) (i : Nat) : Elem := lane f (s.rv a) i
    let B (i : Nat) : Elem := lane f (s.rv b) i
    let puts (j : Instr) (f : Fmt) (on : Nat → Bool) (e : Nat → Elem × FlagSet) : Prop := ∃ t, exec j s = .next t ∧
      s.LanesWritten t f d on false e 8
    let sel (k : SelKind) (e : Nat → Elem × FlagSet) : Prop := puts (.vsel f k g d a b pc) f (on f) e
    let half (f : Fmt) (e : FVal → Elem × FlagSet) (i : Nat) : Elem × FlagSet :=
      if A f i = absentOf f then (absentOf f, 0) else e (fval f (A f i))
    (src.lanes < f.lanes → part.toNat * src.lanes < f.lanes → puts (.vcvt f src r part g d a) f
        (fun j => on f j && decide (part.toNat * src.lanes ≤ j ∧ j < part.toNat * src.lanes + src.lanes))
        (fun j => convE f src (rndMode r s.core.regs.rm) (A src (j - part.toNat * src.lanes))))
    ∧ (f.lanes = src.lanes → part = 0 → puts (.vcvt f src r part g d a) f (on f)
        (fun j => convE f src (rndMode r s.core.regs.rm) (A src j)))
    ∧ (f.lanes < src.lanes → part.toNat * f.lanes < src.lanes → puts (.vcvt f src r part g d a) f (on f)
        (fun j => convE f src (rndMode r s.core.regs.rm) (A src (part.toNat * f.lanes + j))))
    ∧ (∃ t, exec (.vcmp f cnd g pd a b) s = .next t
        ∧ t = { s with core := { s.core with
            regs := { s.core.regs with p := t.core.regs.p, flags := t.core.regs.flags }, pc := laFrom s.core.pc 8 } }
        ∧ (pd = 0 → t.core.regs.p = s.core.regs.p)
        ∧ (∀ q, q ≠ pd → t.rp q = s.rp q)
        ∧ (pd ≠ 0 → ∀ i, i < f.lanes → ∀ q, q < f.width → (t.rp pd).getLsbD (f.width * i + q) =
            if on f i then (cmpE f cnd (A f i) (B i)).1 else (s.rp pd).getLsbD (f.width * i + q))
        ∧ ∀ j : Nat, t.core.regs.flags.getLsbD j = true ↔ s.core.regs.flags.getLsbD j = true
          ∨ ∃ i, i < f.lanes ∧ on f i = true ∧ (cmpE f cnd (A f i) (B i)).2.getLsbD j = true)
    ∧ sel .pred (fun i => (if active f (s.rp pc) i then A f i else B i, 0))
    ∧ sel .pres (fun i => (if A f i = absentOf f then B i else A f i, 0))
    ∧ sel .lt (fun i => (if (cmpE f .lt (A f i) (B i)).1 then A f i else B i, (cmpE f .lt (A f i) (B i)).2))
    ∧ sel .gt (fun i => (if (cmpE f .gt (A f i) (B i)).1 then A f i else B i, (cmpE f .gt (A f i) (B i)).2))
    ∧ puts (.vexp2 g d a) .bf16 (on .bf16) (half .bf16 (exp2V s.core.regs.rm))
    ∧ puts (.vlog2 g d a) .bf16 (on .bf16) (half .bf16 (log2V s.core.regs.rm))
    ∧ puts (.vrcp g d a) .bf16 (on .bf16) (half .bf16 (rcpV s.core.regs.rm))
    ∧ puts (.vrsq g d a) .bf16 (on .bf16) (half .bf16 (rsqV s.core.regs.rm))
    ∧ puts (.vsca f false r g d a b) f (on f) (fun i =>
        scaleE f (rndMode r s.core.regs.rm) (A f i) ((s.rs b).toNat % 2 ^ 32))
    ∧ puts (.vsca f true r g d a b) f (on f) (fun i =>
        scaleE f (rndMode r s.core.regs.rm) (A f i) (lane .f32 (s.rv b) (32 * i / f.lanes)))
    ∧ puts (.vvoid f g d) f (on f) (fun _ => (absentOf f, 0))
    ∧ ∃ t, exec (.vpres f g pd a) s = .next t
      ∧ t = { s with core := { s.core with regs := { s.core.regs with p := t.core.regs.p }, pc := laFrom s.core.pc 8 } }
      ∧ (∀ q, q ≠ pd → t.rp q = s.rp q)
      ∧ (pd ≠ 0 → ∀ i, i < f.lanes → ∀ q, q < f.width → (t.rp pd).getLsbD (f.width * i + q) =
          if on f i then decide (A f i ≠ absentOf f) else (s.rp pd).getLsbD (f.width * i + q)))
  ∧ (∀ (dst src : Fmt) (rm : RMode) (x : Elem) (v : FVal), src ≠ .ts8 → x ≠ absentOf src → x < 2 ^ fmtBits src →
    (src.isFloat = true → v = fval src x) →
    (src.isFloat = false → v = .fin ⟨decide (signedAt (fmtBits src) x < 0), (signedAt (fmtBits src) x).natAbs, 1⟩) →
    let r := convE dst src rm x
    let top : Int := 2 ^ (fmtBits dst - 1) - 1
    let sat (i : Int) : Elem × FlagSet :=
      if top < i then (patternOf (fmtBits dst) top, flagSA) else if i < -top then (patternOf (fmtBits dst) (-top), flagSA)
      else (patternOf (fmtBits dst) i, 0)
    let inexact (b : Prop) (g : FlagSet) : Prop := (b ∧ g = flagNX) ∨ (¬b ∧ g = 0)
    (dst.isFloat = true → (∀ p, v = .fin p → r = roundF dst rm p) ∧ (∀ n, v = .inf n → r = (infPat dst n, 0))
      ∧ ∀ n, v = .nan n → r = (defaultNaN dst, if n then flagNV else 0))
    ∧ (dst = .i32 ∨ dst = .i16 ∨ dst = .i8 →
      (∀ p, v = .fin p → ∃ i g, RoundsToInt rm p.rat i ∧ inexact (p.rat ≠ i) g ∧ r = ((sat i).1, (sat i).2 ||| g))
      ∧ (∀ n, v = .inf n → r = (patternOf (fmtBits dst) (if n then -top else top), flagNV ||| flagSA))
      ∧ ∀ n, v = .nan n → r = (0, flagNV))
    ∧ (dst = .ts8 → (∀ n, v = .nan n → r = (0x77, flagNV)) ∧ (∀ n, v = .inf n → r = (if n then 0xEE else 0x66, flagNV ||| flagSA))
      ∧ ∀ p, v = .fin p → (128 < p.rat → r = (0x66, flagSA)) ∧ (p.rat < -128 → r = (0xEE, flagSA))
        ∧ (|p.rat| ≤ 128 → inexact ((tsVal r.1 : Rat) ≠ p.rat) r.2 ∧ ∀ q, q < 255 →
          let t : Rat := tsVal q
          let u : Rat := tsVal r.1
          (rm = .rdn → u ≤ p.rat ∧ (t ≤ p.rat → t ≤ u)) ∧ (rm = .rup → p.rat ≤ u ∧ (p.rat ≤ t → u ≤ t))
          ∧ (rm = .rtz → |u| ≤ |p.rat| ∧ 0 ≤ u * p.rat ∧ (|t| ≤ |p.rat| → |t| ≤ |u|))
          ∧ (rm = .rne ∨ rm = .rna → |u - p.rat| ≤ |t - p.rat| ∧ (|u - p.rat| = |t - p.rat| → |t| ≤ |u|)))))
  ∧ (∀ (f : Fmt) (rm : RMode) (cnd : VCond) (x y : Elem), x ≠ absentOf f → y ≠ absentOf f → x < 2 ^ fmtBits f → y < 2 ^ fmtBits f →
    let outcome (lt eq : Prop) (b : Bool) : Prop := b = true ↔ match cnd with
      | .eq => eq
      | .ne => ¬eq
      | .lt => lt
      | .ge => ¬lt
      | .le => lt ∨ eq
      | .gt => ¬(lt ∨ eq)
    let u := signedAt (fmtBits f) x
    let top : Int := 2 ^ (fmtBits f - 1) - 1
    let sat (i : Int) : Elem × FlagSet :=
      if top < i then (patternOf (fmtBits f) top, flagSA) else if i < -top then (patternOf (fmtBits f) (-top), flagSA)
      else (patternOf (fmtBits f) i, 0)
    let c := cmpE f cnd x y
    (f.isFloat = false → outcome (u < signedAt (fmtBits f) y) (u = signedAt (fmtBits f) y) c.1 ∧ c.2 = 0)
    ∧ (f.isFloat = true →
      (∀ p q, fval f x = .fin p → fval f y = .fin q → outcome (p.rat < q.rat) (p.rat = q.rat) c.1 ∧ c.2 = 0)
      ∧ (∀ p b, fval f x = .fin p → fval f y = .inf b → outcome (b = false) False c.1 ∧ c.2 = 0)
      ∧ (∀ a q, fval f x = .inf a → fval f y = .fin q → outcome (a = true) False c.1 ∧ c.2 = 0)
      ∧ (∀ a b, fval f x = .inf a → fval f y = .inf b → outcome (a = true ∧ b = false) (a = b) c.1 ∧ c.2 = 0)
      ∧ (isNaN f x = true ∨ isNaN f y = true →
        c = (decide (cnd = .ne), if (fval f x).snan || (fval f y).snan then flagNV else 0)))
    ∧ ∀ s, s ≠ absentOf .f32 → s < 2 ^ 32 →
      (f.isFloat = true → ∀ p q, fval f x = .fin p → fval .f32 s = .fin q →
        ∃ e : Exact, e.rat = p.rat * q.rat ∧ 0 < e.den ∧ e.neg = (p.neg != q.neg) ∧ scaleE f rm x s = roundF f rm e)
      ∧ (f = .i32 ∨ f = .i16 ∨ f = .i8 →
        (∀ q, fval .f32 s = .fin q → ∃ i g, RoundsToInt rm (u * q.rat) i ∧ ((u * q.rat ≠ i ∧ g = flagNX) ∨ (u * q.rat = i ∧ g = 0))
          ∧ scaleE f rm x s = ((sat i).1, (sat i).2 ||| g))
        ∧ (∀ n, fval .f32 s = .nan n → scaleE f rm x s = (0, flagNV))
        ∧ ∀ n, fval .f32 s = .inf n → scaleE f rm x s = if u = 0 then (0, flagNV)
            else (patternOf (fmtBits f) (if (u < 0) ↔ n = true then top else -top), flagNV ||| flagSA)))
  ∧ (∀ (f : Fmt) (rm : RMode) (x : Elem) (p : Exact), f.isFloat = true → x < 2 ^ fmtBits f →
    let v := fval f x
    let inf (n : Bool) : Elem × FlagSet := (infPat f n, 0)
    let bad : Elem × FlagSet := (defaultNaN f, flagNV)
    (v = .fin p → 0 < p.rat →
      RoundsCut f rm (fun q => q ≤ 0 ∨ q ^ 2 ≤ p.rat) (fun q => 0 ≤ q ∧ p.rat ≤ q ^ 2) (sqrtV f rm v)
      ∧ (f = .bf16 →
        RoundsCut f rm (fun q => q ≤ 0 ∨ q ^ 2 * p.rat ≤ 1) (fun q => 0 ≤ q ∧ 1 ≤ q ^ 2 * p.rat) (rsqV rm v)
        ∧ RoundsCut f rm (fun q => (2 : Rat) ^ q.num ≤ p.rat ^ q.den) (fun q => p.rat ^ q.den ≤ (2 : Rat) ^ q.num) (log2V rm v)))
    ∧ (v = .fin p → f = .bf16 →
      RoundsCut f rm (fun q => q ≤ 0 ∨ q ^ p.rat.den ≤ (2 : Rat) ^ p.rat.num) (fun q => 0 ≤ q ∧ (2 : Rat) ^ p.rat.num ≤ q ^ p.rat.den)
        (exp2V rm v)
      ∧ (p.num ≠ 0 → ∃ e : Exact, e.rat * p.rat = 1 ∧ 0 < e.den ∧ rcpV rm v = roundF f rm e)
      ∧ (p.num = 0 → exp2V rm v = (0x3F80, 0) ∧ log2V rm v = inf true ∧ rcpV rm v = inf p.neg ∧ rsqV rm v = inf p.neg)
      ∧ (p.rat < 0 → log2V rm v = bad ∧ rsqV rm v = bad))
    ∧ (v = .fin p → (p.rat < 0 → sqrtV f rm v = bad) ∧ (p.num = 0 → sqrtV f rm v = (if p.neg then 2 ^ (fmtBits f - 1) else 0, 0)))
    ∧ (v = .inf false → sqrtV f rm v = inf false
      ∧ (f = .bf16 → exp2V rm v = inf false ∧ log2V rm v = inf false ∧ rcpV rm v = (0, 0) ∧ rsqV rm v = (0, 0)))
    ∧ (v = .inf true → sqrtV f rm v = bad
      ∧ (f = .bf16 → exp2V rm v = (0, 0) ∧ log2V rm v = bad ∧ rcpV rm v = (0x8000, 0) ∧ rsqV rm v = bad))
    ∧ ∀ n, v = .nan n → sqrtV f rm v = (defaultNaN f, if n then flagNV else 0) ∧ (f = .bf16 →
        let r : Elem × FlagSet := (defaultNaN f, if n then flagNV else 0)
        exp2V rm v = r ∧ log2V rm v = r ∧ rcpV rm v = r ∧ rsqV rm v = r))

/-- Reductions and scans (R55, R56, R192, R193), with AX clear or no active lane absent: VREDUCE leaves in lane 0 the root of the tree over the lanes,
an inactive lane absent, and 0 in the others, and VSCAN in lane i the blocks of i + 1 folded from the left, or those
of i where it is exclusive; with no contributor absent-produced is raised; D4, where it is not 0, receives the counts.

A node of a reduction, scan or strand (R43, R48, R55, R192): two absent contributions give an absent one, a lone one passes, a NaN as the
default NaN; counts add. Of two present values floating ADD is the rounded sum, integer ADD the clamped one, MIN and MAX
the lesser and the greater, AND, OR and XOR the logical operation, whose absent pattern becomes the least value. -/
def Obligations.ReductionAndScanTrees : Prop :=
  (∀ (s : State) (f : Fmt) (gd : Guard) (op : RedOp) (ex : Bool) (d a : VReg),
    (gd.ax = true → ∀ i, i < f.lanes → active f (s.guard gd) i = true → lane f (s.rv a) i ≠ absentOf f) →
    (gd.d4 = 0 ∨ gd.d4 ≠ d) →
    let leaf (i : Nat) : Contrib := if active f (s.guard gd) i && present f (lane f (s.rv a) i)
      then ⟨some (lane f (s.rv a) i), 1, 0⟩ else ⟨none, 0, 0⟩
    let rm := s.core.regs.rm
    let scan (i : Nat) : Contrib :=
      if ex then (if i = 0 then ⟨none, 0, 0⟩ else scanNode f op rm leaf (i - 1)) else scanNode f op rm leaf i
    let value (c : Contrib) : Elem := c.val.getD (absentOf f) % 2 ^ fmtBits f
    let full := 2 ^ fmtBits f - 1
    let rest (t : State) : Prop := t = { s with core := { s.core with regs := t.core.regs, pc := laFrom s.core.pc gd.len } }
      ∧ t.core.regs = { s.core.regs with v := t.core.regs.v, flags := t.core.regs.flags }
      ∧ (∀ r, r ≠ d → (r ≠ gd.d4 ∨ gd.d4 = 0) → t.rv r = s.rv r)
    (∃ t, exec (.vreduce f gd op d a) s = .next t ∧ rest t
      ∧ (∀ i, i < f.lanes → lane f (t.rv d) i = if i = 0 then value (treeNode f op rm leaf (Nat.log2 f.lanes) 0) else 0)
      ∧ (gd.d4 ≠ 0 → ∀ i, i < f.lanes → lane f (t.rv gd.d4) i =
          if i = 0 then Nat.min (treeNode f op rm leaf (Nat.log2 f.lanes) 0).count full else 0)
      ∧ ((treeNode f op rm leaf (Nat.log2 f.lanes) 0).val = none → t.core.regs.flags.getLsbD 4 = true))
    ∧ ∃ t, exec (.vscan f gd op ex d a) s = .next t ∧ rest t
      ∧ (∀ i, i < f.lanes → lane f (t.rv d) i = value (scan i))
      ∧ (gd.d4 ≠ 0 → ∀ i, i < f.lanes → lane f (t.rv gd.d4) i = Nat.min (scan i).count full)
      ∧ ((∃ i, i < f.lanes ∧ (scan i).val = none) → t.core.regs.flags.getLsbD 4 = true))
  ∧ (∀ (f : Fmt) (op : RedOp) (rm : RMode) (x y m n : Nat) (g h : FlagSet),
    let pass (z : Nat) : Elem × FlagSet := if isNaN f z then (defaultNaN f, if (fval f z).snan then flagNV else 0) else (z, 0)
    let lone (z : Nat) : Contrib := ⟨some (pass z).1, m + n, g ||| h ||| (pass z).2⟩
    combine f op rm ⟨none, m, g⟩ ⟨none, n, h⟩ = ⟨none, m + n, g ||| h⟩
    ∧ combine f op rm ⟨some x, m, g⟩ ⟨none, n, h⟩ = lone x ∧ combine f op rm ⟨none, m, g⟩ ⟨some y, n, h⟩ = lone y
    ∧ (x ≠ absentOf f → y ≠ absentOf f →
      let e : Elem × FlagSet := match op with
        | .add => if f.isFloat then vaddE f rm x y else vaddsE f x y
        | .min => vminmaxE f false x y
        | .max => vminmaxE f true x y
        | .and => vlogicE f Nat.land x y
        | .or => vlogicE f Nat.lor x y
        | .xor => vlogicE f Nat.xor x y
      combine f op rm ⟨some x, m, g⟩ ⟨some y, n, h⟩ = ⟨some e.1, m + n, g ||| h ||| e.2⟩))

/-- The mesh operations of a work core (R131, R134 to R137): NRED, MCAST and NSEND, whose strand or target is the
context's, become one store-buffer entry with the operands as read now, NSEND a release of its scope; raw NSEND is an
entry at privilege 3 and the privilege trap below; NRECV takes the context's next received message, and waits for
one.

The events of messages, strands and multicast (R57, R132 to R136): a message enters its target's receive queue; a
node with its contributions sends their combination to its parent, to the hub for a strand carried there, or as the
result to the members, and to a core whose entry a scrub has disabled since it contributed (the model's choice, log entry 120); a member
writes the result's bytes, counts and conditions with their tags full; a multicast write that the member's windows admit lands and is
acknowledged; the acknowledged command leaves the tile queue. An NRED that drains contributes its present lanes, each with count 1,
and awaits the result. How an acknowledgement finds its command (log entry 45), the format of a result (log entry 53) and the room of the receive
queue (log entry 121) are the model's choice.

The packets of the die boot program (R124, R146), in boot mode: a router without coordinates takes those one step on
in the direction its DISCOVER travels, or (0, 0), tells its neighbours, and acknowledges with its fuse and coordinates;
an acknowledgement is written at core (0, 0) where its word is empty; ASSIGN gives a functional router its local index,
and the hub counts it. That packets take no time is the model's choice (log entry 55). -/
def Obligations.MeshMessagesStrandsAndBoot : Prop :=
  (∀ (s : State) (pos : Nat) (f : Fmt) (g : PReg) (a b d : BitVec 5) (k : BitVec 4) (sc : Scope) (tag : Word),
    s.focus = .work pos →
    let e := s.strandAt (.router pos) k.toNat
    let buf (x : EntryKind) (rel : Option Scope) : State := (s.buffered [⟨x, rel, s.who, s.ctx⟩]).atPc (laFrom s.core.pc 8)
    let p (r : SReg) : Nat := la (s.rs r)
    let n := (s.rs a).toNat
    let mine := strandEn e = true ∧ strandCtx e = s.ctx
    let lanes : List (Option Elem) := (List.range f.lanes).map fun i =>
      if active f (s.rp g) i = true ∧ lane f (s.rv a) i ≠ absentOf f then some (lane f (s.rv a) i) else none
    (∀ op, mine → strandOpOf (strandOp e) = some op → strandFmtOf (strandFmt e) = some f →
      (f.isFloat = true → op = .add ∨ op = .min ∨ op = .max) → strandUp e ≤ 5 → p b % 512 = 0 → s.mayReach (p b) 512 = true →
      s.room 1 = .ok → exec (.nred f g a b k) s = .next (buf (.nred k.toNat (p b) f lanes (s.core.slot?.getD 64)) none))
    ∧ (mine → p a % 512 = 0 → s.mayReach (p a) 512 = true → s.room 1 = .ok → exec (.mcast a k) s =
        .next (buf (.mcast ⟨.mcast (p a) k.toNat [] 0, .queued, .core, false, false, s.who, s.ctx, false⟩) none))
    ∧ (s.ctxCbase s.ctx ≤ n → n < s.ctxCbase s.ctx + s.ctxClen s.ctx → s.room 1 = .ok →
        exec (.nsend sc a b tag) s = .next ((buf (.nsend n ((List.range 64).map fun i => (s.rv b).extractLsb' (8 * i) 8) tag)
          (some (s.clamp sc).1)).flagged (if (s.clamp sc).2 then flagSC else 0)))
    ∧ (n < s.ctxCbase s.ctx ∨ s.ctxCbase s.ctx + s.ctxClen s.ctx ≤ n →
        exec (.nsend sc a b tag) s = .next (s.fatal 0x44 4 0))
    ∧ (s.priv = 3 → s.room 1 = .ok → exec (.nsendRaw sc a b) s = .next (buf (.nsendRaw (s.rs a)) none))
    ∧ (s.priv ≠ 3 → exec (.nsendRaw sc a b) s = .next (s.fatal 0x30 2 0))
    ∧ (∀ r, received s.ctx s.core.taken s.core.recvq = some r → r.payload.length = 64 →
        let u := s.podAcquire s.focus r.scope
        exec (.nrecv d) s = .next { u with core := { u.core with
          regs := u.core.regs.setV d (BitVec.ofNat 1024 (valueOf r.payload + 2 ^ 512 * (r.src % 2 ^ 14) + 2 ^ 544 * r.tag.toNat))
          taken := u.core.taken + 1
          pc := laFrom u.core.pc 8 } })
    ∧ (received s.ctx s.core.taken s.core.recvq = none → exec (.nrecv d) s = .next s))
  ∧ (∀ (s : State) (id : CoreId) (n : StrandNode) (k : Nat),
    let c := s.coreAt id
    (∀ m bs tag rel w ctx rest t, c.committed = ⟨.nsend m bs tag, rel, w, ctx⟩ :: rest →
      s.performed id (rel.getD .core) = true → s.coreOfLci m = some t → (s.coreAt t).recvHeld < 16 →
      exec (.nsendDelivery id) s = .next ((s.popCommitted id).modCore t fun r =>
        { r with recvq := r.recvq ++ [⟨bs, s.lciOf id, tag, ctx, rel.getD .core⟩] }))
    ∧ (∀ vs, s.roundReady n k = some vs →
        let e := s.strandAt n k
        let v := strandCombine (strandOp e) (strandFmt e) vs
        let u := s.setRound n k (roundRest [] (s.roundAt n k))
        (∀ q port, u.strandParent n k = some (q, port) → exec (.strandNodeCombine n k) s = .next (u.contribute q k port v))
        ∧ (u.strandParent n k = none → strandUp e = 4 → u.fstrandOn k = true → exec (.strandNodeCombine n k) s
            = .next { u with fab := { u.fab with rounds := u.fab.rounds ++ [(k, u.thisDev, v)] } })
        ∧ (u.strandParent n k = none → strandUp e = 4 → u.fstrandOn k = false →
            exec (.strandNodeCombine n k) s = .next (u.strandDeliver n k v.result)))
    ∧ (∀ pos (w : Issuer) (x p : Nat) (f : Fmt) (lanes : List (Option Elem)) (slot : Nat),
        let e := s.strandAt (.router pos) k
        let fmt := if f = .f32 then 0 else if f = .bf16 then 1 else if f = .i32 then 2 else 3
        ∃ vs : List Contrib, vs.length = lanes.length ∧ (∀ (i : Nat) (l : Option Elem), lanes[i]? = some l →
              vs[i]? = some (if l = none ∨ s.strandLeft (.router pos) k = true then (⟨none, 0, 0⟩ : Contrib) else ⟨l, 1, 0⟩))
          ∧ s.drainNred (.work pos) w x k p f lanes slot = (s.contribute (.router pos) k 4 ⟨strandOp e, fmt, vs, 0⟩).modCore
              (.work pos) fun c => { c with nredWaits := c.nredWaits ++ [⟨k, p, f, slot, w.actor, x⟩] })
    ∧ (∀ v x w rest, c.strandIn.find? (fun e => e.1 == k) = some (k, x, v) → takeWait k x c.nredWaits = some (w, rest) →
        w.slot ≠ 64 → c.bead (beadOf w.la) = .owned w.slot → (c.slotAt w.slot).actor = w.actor →
        w.la % 512 = 0 → w.la < 2 ^ 18 → (strandBytes w.fmt v).length = 256 →
        ∃ mem tags, exec (.strandResultWrite id k) s = .next (s.setCore id { c with
            mem := mem, tags := tags, nredWaits := rest, strandIn := c.strandIn.eraseP fun e => e.1 == k })
          ∧ padRead mem w.la 264 = strandBytes w.fmt v ++ bytesOf 8 v.conds.toNat
          ∧ (∀ i, i < 33 → Sparse.get false tags (w.la / 8 + i) = true)
          ∧ (∀ q, q < w.la ∨ w.la + 264 ≤ q → Sparse.get 0 mem q = Sparse.get 0 c.mem q))
    ∧ (∀ m rest, c.mcastIn = m :: rest → s.hub.boot = false → s.admits id permW (s.lciOf m.src) m.ctx m.la 512 = true →
        exec (.mcastMemberWrite id) s = .next ((s.setCore id
            (({ c with mcastIn := rest }.store m.la m.bytes).setTags m.la true 64)).modCore m.src fun o =>
              { o with tileQ := ackMcast m.serial o.tileQ }))
    ∧ exec (.mcastComplete id) s = .next (s.setCore id { c with tileQ := c.tileQ.eraseP fun t => t.phase == .acks 0 }))
  ∧ (∀ (s : State) (pos die : Nat),
    (∀ d, s.mesh.discovers.find? (fun d => d.pos == pos) = some d → s.hub.boot = true →
      (s.coreAt (.work pos)).router.cv = false →
      ∃ t, exec (.discover pos) s = .next t
        ∧ (∀ id, id.key ≠ (CoreId.work pos).key → t.coreAt id = s.coreAt id)
        ∧ t = { s with core := t.core, others := t.others, mesh := { s.mesh with discovers := t.mesh.discovers, acks := t.mesh.acks } }
        ∧ (∃ x y, (t.coreAt (.work pos)) = { s.coreAt (.work pos) with router :=
              { (s.coreAt (.work pos)).router with cv := true, x := x, y := y } }
          ∧ (d.frm = none → x = 0 ∧ y = 0)
          ∧ (∀ u v, d.frm = some (0, u, v) → x = u ∧ y = v + 1) ∧ (∀ u v, d.frm = some (1, u, v) → x = u - 1 ∧ y = v)
          ∧ (∀ u v, d.frm = some (2, u, v) → x = u ∧ y = v - 1) ∧ (∀ u v, d.frm = some (3, u, v) → x = u + 1 ∧ y = v)
          ∧ t.mesh.acks = s.mesh.acks ++ [(posDie pos, d.arg + 8 * (32 * y.toNat + x.toNat),
              dw ((if s.mesh.fused.contains pos then 0 else 1) + 2 ^ 8 * x.toNat + 2 ^ 16 * y.toNat))]
          ∧ ∀ i q, i < 4 → neighbour pos i = some q → d.frm.map (·.1) ≠ some i →
              (⟨q, some ((i + 2) % 4, x, y), d.arg⟩ : Discover) ∈ t.mesh.discovers))
    ∧ (∀ a w, s.mesh.acks.find? (fun e => e.1 == die && !(s.coreAt (.work (1024 * die))).tag e.2.1) = some (die, a, w) →
        a % 8 = 0 → a < 2 ^ 18 →
        let home := CoreId.work (1024 * die)
        ∃ t mem tags, exec (.discoverAck die) s = .next t
          ∧ t = { s with core := t.core, others := t.others, mesh := { s.mesh with acks := t.mesh.acks } }
          ∧ t.mesh.acks.length + 1 = s.mesh.acks.length
          ∧ t.coreAt home = { s.coreAt home with mem := mem, tags := tags }
          ∧ padRead mem a 8 = bytesOf 8 w.toNat ∧ (∀ q, q < a ∨ a + 8 ≤ q → Sparse.get 0 mem q = Sparse.get 0 (s.coreAt home).mem q)
          ∧ Sparse.get false tags (a / 8) = true
          ∧ (∀ j, j ≠ a / 8 → Sparse.get false tags j = Sparse.get false (s.coreAt home).tags j)
          ∧ ∀ id, id.key ≠ home.key → t.coreAt id = s.coreAt id)
    ∧ (∀ h, s.mesh.assigns.find? (fun h => bitsAt 14 4 h == die) = some h → s.hub.boot = true →
        let q := 1024 * die + 32 * bitsAt 9 5 h + bitsAt 4 5 h
        s.mesh.fused.contains q = false →
        ∃ t, exec (.assign die) s = .next t
          ∧ (t.coreAt (.work q)) = { s.coreAt (.work q) with router :=
              { (s.coreAt (.work q)).router with val := true, lidx := BitVec.ofNat 10 (bitsAt 32 10 h) } }
          ∧ t = { s with core := t.core, others := t.others, mesh := { s.mesh with assigns := t.mesh.assigns }
                         hub := { s.hub with dierpt := t.hub.dierpt } }
          ∧ Sparse.get 0 t.hub.dierpt die = Sparse.get 0 s.hub.dierpt die + BitVec.ofNat 48 (2 ^ 32)
          ∧ (∀ e, e ≠ die → Sparse.get 0 t.hub.dierpt e = Sparse.get 0 s.hub.dierpt e)
          ∧ t.mesh.assigns.length + 1 = s.mesh.assigns.length
          ∧ ∀ id, id.key ≠ q → t.coreAt id = s.coreAt id))

/-- The Bezel operations of a work core (R206, R208, R211, R212, R222, R223): with their ranges aligned and the code's
own, their names mapped and room in the queue, they enter the core's queue with the next sequence number and go on; MMA
needs a tile of its type, and MZERO and MREST give the tile theirs; MDRAIN and MSAVE of a tile that a queued operation
writes take the accumulator-busy trap, INFO its sequence number and the name. MSTAT reads the tile, the queue or the
error counters. A scope clamps where AQ or RL uses it (R33, R35); the type of a tile is kept by its physical tile, which is the model's reading
(DEDUCED, log entry 47). -/
def Obligations.BezelOperations : Prop :=
  ∀ (s : State) (pos : Nat) (f : Fmt) (fd : MdrainF) (sc : Scope) (d : Acc) (k : BankName) (nb : BitVec 4) (a dst : SReg)
    (aq rl : Bool) (t b : Nat), s.focus = .work pos → (s.bezelQueue pos).length < 8 →
    let p := la (s.rs a)
    let queued (u : State) (kind : BezelKind) (sc : Scope) (aq rl : Bool) (beads : List Nat) : Res :=
      let c := if aq || rl then u.clamp sc else (sc, false)
      let op : BezelOp := ⟨u.core.bzSeq, kind, c.1, aq, rl, u.who, beads,
        u.core.committed.length + u.core.openB.length, true, false, u.core.mem⟩
      let v := u.modBezelQueue pos (· ++ [op])
      .next (({ v with core := { v.core with bzSeq := v.core.bzSeq + 1 } }.flagged (if c.2 then flagSC else 0)).atPc
        (laFrom s.core.pc 8))
    let own (n : Nat) : Prop := p % 512 = 0 ∧ s.mayReach p n = true
    (s.bankOf k.toNat = some b → (bwm s.core.bzmap).testBit b = true → own 8192 →
        exec (.bld sc f a k aq rl) s = queued s (.bld f p b) sc aq rl (beadsOf p 8192))
    ∧ (∀ banks, s.tileOf d = some t → (List.range (nb.toNat + 1)).mapM (fun i => s.bankOf (k.toNat + i)) = some banks →
        own (8192 * (nb.toNat + 1)) → s.trackedInt t = !f.isFloat →
        exec (.mma sc f d a k nb aq rl) s = queued s (.mma f t p banks) sc aq rl (beadsOf p (8192 * (nb.toNat + 1))))
    ∧ (s.tileOf d = some t → t < 16 →
      let u : State := { s with core := { s.core with tileTypes := (s.track t !f.isFloat).core.tileTypes } }
      u.trackedInt t = (!f.isFloat)
      ∧ exec (.mzero sc f d aq rl) s = queued u (.mzero (!f.isFloat) t) sc aq rl []
      ∧ (own 24576 → exec (.mrest sc f d a aq rl) s = queued u (.mrest (!f.isFloat) t p) sc aq rl (beadsOf p 24576)))
    ∧ (s.tileOf d = some t → own 24576 →
      (s.tileWriter t = none → exec (.msave sc d a aq rl) s = queued s (.msave t p) sc aq rl (beadsOf p 24576))
      ∧ ∀ o, s.tileWriter t = some o → exec (.msave sc d a aq rl) s =
          s.recoverable 1 (o.seq.toNat + 2 ^ 16 * d.toNat) 0 0 s.core.pc)
    ∧ (let rs := [(s.rs fd.a, 512, if fd.fmt = .bf16 then 8192 else 16384)] ++ (if fd.sc then [(s.rs fd.b, 8, 256)] else [])
          ++ (if fd.cn then [(s.rs fd.c, 512, 8192)] else [])
      (∀ r ∈ rs, la r.1 % r.2.1 = 0 ∧ s.mayReach (la r.1) r.2.2 = true) → s.tileOf fd.d = some t →
      (s.tileWriter t = none → exec (.mdrain fd) s = queued s (.mdrain fd.fmt t (la (s.rs fd.a))
        (if fd.sc then some (la (s.rs fd.b)) else none) (if fd.cn then some (la (s.rs fd.c)) else none)
        (rndMode fd.rnd s.core.regs.rm) fd.cl fd.nm) fd.scope fd.aq fd.rl (rs.flatMap fun r => beadsOf (la r.1) r.2.2))
      ∧ ∀ o, s.tileWriter t = some o → exec (.mdrain fd) s =
          s.recoverable 1 (o.seq.toNat + 2 ^ 16 * fd.d.toNat) 0 0 s.core.pc)
    ∧ (s.tileOf d = some t →
      let x := (s.bezel (posOctet pos)).tile t
      ∃ oldest, exec (.mstat .tile dst d) s = .next (s.afterS dst (dw (2 ^ 32 * (x.elems.filter fun e => e.2.2 != 0).length
          + 2 ^ 16 * oldest + 2 ^ 8 * x.cond.toNat + (if x.isInt then 2 else 0) + (if s.tileWriter t = none then 0 else 1))) 8)
        ∧ oldest < 2 ^ 16 ∧ ∀ o, s.tileWriter t = some o → oldest = o.seq.toNat)
    ∧ (∃ oldest, exec (.mstat .seq dst d) s = .next (s.afterS dst (dw (2 ^ 32 * (s.bezelQueue pos).length + 2 ^ 16 * oldest
          + s.core.bzSeq.toNat)) 8) ∧ oldest < 2 ^ 16 ∧ ∀ o rest, s.bezelQueue pos = o :: rest → oldest = o.seq.toNat)
    ∧ exec (.mstat .err dst d) s = .next (s.afterS dst (dw (2 ^ 32 * (s.bezel (posOctet pos)).uncorr
          + (s.bezel (posOctet pos)).corr)) 8)

/-- The Bezel's arbiter (R208 to R210, R214): with nothing in flight, the position next in its round starts its head
when its credit is positive, and pays the operation's latency; a round gives each position 64 cycles for its weight and
no unused credit; in isolation the positions take their slots in turn; an MMA whose banks hold another format ends its
issuer, refused (4). BEZEL_OP_COMPLETE takes the effect of the operation in flight, which leaves its queue, whose credit
stays as it is (R209); what it writes is there for the queue's later operations (R230).

What a Bezel operation does (R213, R215, R218 to R221, R231): BLD fills a bank and sets its format; MMA adds its groups of
eight to each element and keeps the banks; MZERO leaves every element absent with count 0; MDRAIN of a tile that passes
its check writes the elements in the output format, and with CLEAR leaves it zeroed. An element of a local operand is as
it was when the operation was issued or as it is when it completes; the scratchpad changes only where the operation
writes, and other tiles and banks stay. -/
def Obligations.BezelArbitrationAndEffects : Prop :=
  (∀ (s : State) (oct q : Nat) (o : BezelOp) (rest : List Nat),
    let b := s.bezel oct
    let refused : Bool := match o.kind with
      | .mma f _ _ banks => banks.any fun i => (b.bank i).tag != f
      | _ => false
    let paid (v : Int) : Bezel := { b with arb := b.arb.setCredit q v }
    let slot (n : Nat) : Bezel := { b with arb := { b.arb with slot := n } }
    (b.arb.iso = s.wantIso oct →
      (b.arb.iso = false → b.flying = none → q ∈ s.octetCores oct → b.arb.visit = q :: rest → b.head q = some o →
        0 < b.arb.creditAt q →
        exec (.bezelOpStart oct) s = .next ((s.setBezel oct (paid (b.arb.creditAt q - o.kind.latency))).bezelStart oct q))
      ∧ (b.arb.iso = true → b.flying = none → s.octetCores oct ≠ [] →
        let i := b.arb.slot % (s.octetCores oct).length
        exec (.bezelIsolationSlot oct) s = .next ((s.setBezel oct (slot ((i + 1) % (s.octetCores oct).length))).bezelStart
          oct ((s.octetCores oct).getD i 0))))
    ∧ (b.head q = some o → refused = false → q < 8 → s.bezelStart oct q = s.setBezel oct { b with queues :=
        (b.setQueue q ((b.queue q).map fun x => if x.seq = o.seq then { x with started := true } else x)).queues })
    ∧ (b.head q = some o → refused = true → s.bezelStart oct q = (s.setBezel oct (b.finish q o.seq)).killIssuer o.who 4)
    ∧ (q < 8 → ∀ n, (b.finish q n).queue q = (b.queue q).filter fun x => x.seq != n)
    ∧ (b.arb.visit = [q] → b.arb.creditAt q ≤ 0 → ∀ n, (b.finish q n).arb = { b.arb with visit := [] })
    ∧ (∀ (cores : List Nat) (wt : Nat → Nat), cores.Nodup → (∀ r ∈ cores, r < 8) →
        (∀ r ∈ cores, (b.newRound cores wt).arb.creditAt r = Min.min (b.arb.creditAt r) 0 + wt r * 64)
        ∧ (∀ r, r ∉ cores → (b.newRound cores wt).arb.creditAt r = b.arb.creditAt r)
        ∧ ∀ r, r ∈ (b.newRound cores wt).arb.visit ↔ r ∈ cores)
    ∧ ∀ id, s.inFlight oct = some (id, q, o) → s.bezelReady oct = true →
        let u := if o.aq then s.podAcquire id o.scope else s
        let c := u.coreAt id
        let e := o.kind.perform u.tick o.before c.mem (u.bezel oct)
        let v := (u.setCore id { c with mem := padWrites c.mem e.writes
                                        regs := { c.regs with flags := c.regs.flags ||| e.flags } }).setBezel oct
          ((e.bezel.setQueue q ((e.bezel.queue q).map fun x => { x with before := padWrites x.before e.writes })).finish
            q o.seq)
        exec (.bezelOpComplete oct) s = .next (match e.reason with
          | some r => v.killIssuer o.who r
          | none => v))
  ∧ (∀ (tick : Nat) (before now : Mem) (b : Bezel) (i p : Nat) (f : Fmt) (banks : List Nat) (isInt clr norm : Bool) (rm : RMode),
    let others (e : BezelEnd) : Prop := e.bezel.queues = b.queues ∧ e.bezel.arb = b.arb ∧ e.bezel.corr = b.corr
      ∧ e.bezel.uncorr = b.uncorr ∧ ∀ j, j ≠ i → e.bezel.tile j = b.tile j
    let w := if f = .bf16 then 2 else 1
    let operand (old : Nat → Bool) (j : Nat) : Byte := Sparse.get 0 (if old (j / w) then before else now) ((p + j) % 2 ^ 18)
    let silent (e : BezelEnd) : Prop := e.writes = [] ∧ e.flags = 0 ∧ e.reason = none
    (let e := BezelKind.perform (.bld f p i) tick before now b;
      silent e ∧ e.bezel.tiles = b.tiles ∧ (e.bezel.bank i).tag = f
      ∧ (∃ old : Nat → Bool, ∀ j, j < 8192 → Sparse.get 0 (e.bezel.bank i).bytes j = operand old j)
      ∧ ∀ j, j ≠ i → e.bezel.bank j = b.bank j)
    ∧ (let e := BezelKind.perform (.mma f i p banks) tick before now b;
      let len := if f = .bf16 then 8192 else 8192 * banks.length
      silent e ∧ e.bezel.banks = b.banks ∧ others e ∧ (e.bezel.tile i).isInt = (b.tile i).isInt
      ∧ ∃ old : Nat → Bool,
        let x : MmaIn := ⟨f, if f = .bf16 then 64 else 128 * banks.length,
          elemsOf w ((List.range len).map (operand old)), elemsOf w (b.operand banks)⟩
        ∀ m n, m < 64 → n < 64 → (e.bezel.tile i).elem m n =
          (groupsOf f (x.k / 8) ((List.range x.k).map (x.at m)) ((List.range x.k).map fun j => x.bt j n)
            ((b.tile i).elem m n) 0).1)
    ∧ (let e := BezelKind.perform (.mzero isInt i) tick before now b;
      silent e ∧ e.bezel.banks = b.banks ∧ others e
      ∧ (e.bezel.tile i).isInt = isInt ∧ (e.bezel.tile i).cond = 0 ∧ ∀ m n, (e.bezel.tile i).elem m n = (0, 0))
    ∧ ((b.tile i).check = .ok → p % 512 = 0 → (f = .bf16 ∨ f = .f32 ∨ f = .i32) →
      let e := BezelKind.perform (.mdrain f i p none none rm clr norm) tick before now b;
      let z (m n : Nat) : Elem × FlagSet := drainElem f (b.tile i).isInt norm rm ((b.tile i).elem m n) none
      let after := padWrites now e.writes
      e.reason = none ∧ e.bezel.banks = b.banks ∧ others e
      ∧ (∀ m n q, m < 64 → n < 64 → q < f.width →
          Sparse.get 0 after ((p + f.width * (64 * m + n) + q) % 2 ^ 18) = byteAt (z m n).1 q)
      ∧ (∀ x, x < 2 ^ 18 → (∀ j, j < 4096 * f.width → x ≠ (p + j) % 2 ^ 18) → Sparse.get 0 after x = Sparse.get 0 now x)
      ∧ e.bezel.tile i = (if clr then Tile.zero (b.tile i).isInt else b.tile i)))

/-- MSAVE and MREST agree (R224, R225): a tile whose values and counts have the widths of their fields is read back
from the bytes that a save of it writes, element by element. -/
def Obligations.SavedTileIsRestored : Prop :=
  ∀ (t : Tile), (∀ m n, m < 64 → n < 64 → (t.elem m n).1 < 2 ^ 32 ∧ (t.elem m n).2 < 2 ^ 16) →
    t.saved.length = 24576
    ∧ ∀ m n, m < 64 → n < 64 → (Tile.restored t.isInt t.saved).elem m n = t.elem m n

/-- CPY and CPY2 at issue (R33, R95, R117, R147, R157 to R161): with the local addresses aligned and the bytes the
code's own, the global ranges aligned and translated page by page, and room, GL and LL enter the transfer queue, and LG
and LR take one store-buffer entry; the command holds the page parts with their targets, its scope, flags and beads.
CPY2's rows start GS and LS bytes apart, and with bounds a row beyond the limit, or its tail, is filled with absent. That in direction LG only
the bytes within the bounds must be the code's own is the model's reading (DEDUCED, log entry 43).

SEND (R147, R149, R162 to R165): of a bead of the firing's own that is no ring's and that no outstanding command
names, through a bound output port whose rate is not used up, with a length its slots take: the bead goes in transit,
SENT rises by one, and the command is a store-buffer entry of the open region; with LAST the faults come first, then it
closes the region, waits there for its bead, and the core goes on only when that command and the earlier ones of the
tile queue are done. -/
def Obligations.CopyAndSendAtIssue : Prop :=
  (∀ (s : State) (f : CpyF) (h : Cpy2F) (ts : List Target),
    let n := 8 * (f.nwm1.toNat + 1)
    let a := la (s.rs f.a)
    let b := la (s.rs f.b)
    let d := la (s.rs f.d)
    let parts := Run.parts ⟨s.rs f.b + f.disp.signExtend 64, a, n⟩
    let flags (aq rl : Bool) (sc : Scope) : Scope × Bool := if aq || rl then s.clamp sc else (sc, false)
    let sc := flags f.aq f.rl f.scope
    let cmd (k : CopyKind) (sc : Scope) (aq rl two : Bool) (beads : List Nat) : CopyCmd :=
      ⟨k, sc, aq, rl, two, s.who, s.ctx, beads, s.core.committed.length + s.core.openB.length, s.focus.regions, false, none⟩
    let now (c : CopyCmd) (cl : Bool) (len : Nat) : Res := .next (({ s with core := { s.core with
      transferQ := s.core.transferQ ++ [c] } }.flagged (if cl then flagSC else 0)).atPc (laFrom s.core.pc len))
    let later (c : CopyCmd) (cl : Bool) (len : Nat) : Res :=
      .next (((s.buffered [⟨.copy c, none, s.who, s.ctx⟩]).flagged (if cl then flagSC else 0)).atPc (laFrom s.core.pc len))
    let beads := beadsOf a n
    let inRange (r : Run) : Prop := r.ga.toNat % 8 = 0 ∧ r.ga.toNat + r.n ≤ 2 ^ 48
    let rows := s.cpy2Rows h
    let used := (rows.map (·.1)).filter fun r => r.n != 0
    let bits (x : DWord) (lo : Nat) : Nat := (x.extractLsb' lo 32).toNat
    (a % 8 = 0 → s.mayReach a n = true →
      (inRange ⟨s.rs f.b + f.disp.signExtend 64, a, n⟩ →
        (f.dir = .gl → List.Forall₂ (fun r t => s.Reaches r.ga .read true t) parts ts → s.core.transferQ.length < 16 →
          exec (.cpy f) s = now (cmd (.gl (segsOf (parts.zip ts)) (if f.tf then [(a, n)] else []) f.inv) sc.1 f.aq f.rl false
            beads) sc.2 12)
        ∧ (f.dir = .lg → List.Forall₂ (fun r t => s.Reaches r.ga .write false t) parts ts → s.room 1 = .ok →
          exec (.cpy f) s = later (cmd (.lg (segsOf (parts.zip ts))) sc.1 f.aq f.rl false beads) sc.2 12))
      ∧ (f.dir = .lr → d % 8 = 0 → s.nameCore s.focus (s.rs f.b) ≠ .refused →
          (s.nameCore s.focus (s.rs f.b) = .self → s.mayReach d n = true) → s.room 1 = .ok →
          exec (.cpy f) s = later (cmd (.lr (s.rs f.b).toNat d a n f.tf []) sc.1 f.aq f.rl false
            (beads ++ if s.nameCore s.focus (s.rs f.b) = .self then beadsOf d n else [])) sc.2 12)
      ∧ (f.dir = .ll → b % 8 = 0 → s.mayReach b n = true → s.core.transferQ.length < 16 →
          exec (.cpy f) s = now (cmd (.ll b a n f.tf []) (flags f.aq f.rl f.scope).1 false false false (beads ++ beadsOf b n))
            false 12))
    ∧ (rows.length = h.rowsM1.toNat + 1 ∧ ∀ i r, rows[i]? = some r →
        r.2 = 8 * (h.rwdM1.toNat + 1) ∧ r.1.ga = s.rs h.b + BitVec.ofNat 64 i * h.gs.signExtend 64
        ∧ r.1.la = (la (s.rs h.a) + i * h.ls.toNat) % 2 ^ 18
        ∧ r.1.n = if h.bnd = false then r.2 else if bits (s.rs h.d) 32 ≤ i then 0
            else Nat.min r.2 (bits (s.rs h.d) 0 * h.fmt.width))
    ∧ (la (s.rs h.a) % 8 = 0 → (∀ r ∈ used, inRange r) →
      let sc := flags h.aq h.rl h.scope
      let parts := used.flatMap Run.parts
      (h.lg = true → (∀ r ∈ used, s.mayReach r.la r.n = true) →
        List.Forall₂ (fun r t => s.Reaches r.ga .write false t) parts ts → s.room 1 = .ok →
        exec (.cpy2 h) s = later (cmd (.lg (segsOf (parts.zip ts))) sc.1 h.aq h.rl true
          (used.flatMap fun r => beadsOf r.la r.n)) sc.2 16)
      ∧ (h.lg = false → (∀ r ∈ rows, s.mayReach r.1.la r.2 = true) →
        List.Forall₂ (fun r t => s.Reaches r.ga .read true t) parts ts → s.core.transferQ.length < 16 →
        exec (.cpy2 h) s = now (cmd (.gl (cpy2Segs h.fmt rows (parts.zip ts))
          (if h.tf then rows.map fun r => (r.1.la, r.2) else []) h.inv) sc.1 h.aq h.rl true
          (rows.flatMap fun r => beadsOf r.1.la r.2)) sc.2 16)))
  ∧ (∀ (s : State) (f : SendF) (x : ActorId) (sl : Nat),
    let a := la (s.rs f.a)
    let p := (s.actor x).outPort f.k.toNat
    let size := 64 * 2 ^ p.dsize.toNat
    let len := if f.len = 0 then size else f.len.toNat
    let sc := if f.aq || f.rl then s.clamp f.scope else (f.scope, false)
    let cmd (last : Bool) : TileCmd :=
      ⟨.send a f.k.toNat len size p.name p.dport.toNat, .queued, sc.1, f.aq, f.rl, s.who, s.ctx, last⟩
    let sent (u : State) : State := { u with core := u.core.setBead (beadOf a) (.transit sl) }.modActor x fun r =>
      r.setOut f.k.toNat { r.outPort f.k.toNat with sent := (r.outPort f.k.toNat).sent + 1 }
    s.core.run = .firing sl → (s.core.slotAt sl).actor = some x →
    a % 512 = 0 → s.mayReach a 512 = true → (s.actor x).ringBead (beadOf a) = false →
    p.en = true → len ≤ size → p.sent ≠ p.ratem1.toNat + 1 →
    (s.beadBusy s.focus (beadOf a) = false → s.room 1 = .ok → exec (.send f) s = .next (((sent (s.buffered
        [⟨.send (cmd false), none, s.who, s.ctx⟩])).flagged (if sc.2 then flagSC else 0)).atPc (laFrom s.core.pc 12)))
    ∧ (s.beadBusy s.focus (beadOf a) = true → exec (.send f) s = .next s)
    ∧ (s.lastSend = .none → s.core.rep = none → s.closeRegion.beadBusy s.focus (beadOf a) = true →
        exec (.sendLast f) s = .next s.closeRegion)
    ∧ (s.lastSend = .none → s.core.rep = none → s.closeRegion.beadBusy s.focus (beadOf a) = false → ∃ u, exec (.sendLast f) s = .next u
        ∧ u = { sent s.closeRegion with core := { (sent s.closeRegion).core with committed := u.core.committed } }
        ∧ ∃ e, u.core.committed = s.closeRegion.core.committed ++ [e] ∧ e.kind = .send (cmd true) ∧ e.rel = none)
    ∧ (s.lastSend = .going → exec (.sendLast f) s = .next s)
    ∧ (s.lastSend = .over → exec (.sendLast f) s = .next (({ s with core := { s.core with
        tileQ := s.core.tileQ.filter fun t => !t.isLastOf s.who } }.flagged (if sc.2 then flagSC else 0)).finish true 12)))

/-- The events of the transfer queue (R34 to R36, R147, R158 to R161): the next command starts once its acquire is ready, in the
tile queue as a request for a slot. LL reads its source then, and so do LG and LR with AQ, whose first read the acquire precedes;
without it they have read it as they drained. A started GL that has all its bytes sets the
tags it was told to and leaves; an LG leaves when its bytes have gone and its release is ready; LR writes at a core
whose windows admit it, or its issuer ends, refused (4); LL writes the bytes it read at its start.

What a GL of one line brings (R158): with nothing pending for the bytes at its die's ordering point or their port,
and no poison or coding on them, the bytes of HBM, to the scratchpad from its local address on.

Reservation and publication (R153 to R156, R163): the request of the core's first asking SEND gets a free slot of
the destination's port, waits among at most sixteen, or comes back, to be offered again; a destination that is gone
ends the SEND with an exit signal to its sender, and its bead returns; a granted SEND whose release is ready writes its tile and
leaves. When a name with generation 0 has no bearer, what a tile sent away counts as and the port that its SEND has at its drain are the model's
readings (DEDUCED, log entries 44, 49, 111). -/
def Obligations.CopyEvents : Prop :=
  (∀ (s : State) (id : CoreId) (i : Nat) (x : CopyCmd),
    let c := s.coreAt id
    let acq (t : State) (aq : Bool) (sc : Scope) : State := if aq then t.podAcquire id sc else t
    (c.transferQ[i]? = some x →
      (s.transferNext id = some i → ∀ kind,
        (match x.kind, x.aq with
          | .ll b a n tf _, _ => kind = .ll b a n tf (c.load a n)
          | .lr t ra a n tf _, true => kind = .lr t ra a n tf (c.load a n)
          | .lg segs, true => kind = .lg (drainedSegs c x.cpy2 segs)
          | k, _ => kind = k) →
        exec (.copyCommandStart id .transfer) s = .next (acq (s.setCore id { c with
          transferQ := c.transferQ.set i { x with kind := kind, started := true } }) x.aq x.scope))
      ∧ (x.started = true → x.asked = none →
        (∀ segs tags inv u, x.kind = .gl segs tags inv →
          s.glRun id x.ctx inv x.firstSkips (segBytes segs + segs.length + 1) segs = .more u [] →
          exec (.copyCommandComplete id .transfer i) s
            = .next ((u.modCore id fun k => k.setRanges tags).modCore id fun k => { k with transferQ := k.transferQ.eraseIdx i }))
        ∧ (∀ segs u, x.kind = .lg segs → s.lgRun id x (segs.length + 1) segs = (u, []) →
          (x.rl = true → u.performedBy id true x.scope = true) → exec (.copyCommandComplete id .transfer i) s
            = .next (u.modCore id fun k => { k with transferQ := k.transferQ.eraseIdx i }))
        ∧ (∀ core ra a n tf bs t, x.kind = .lr core ra a n tf bs → core ≠ s.lciOf id → s.coreOfLci core = some t →
          let u := s.setCore id { c with transferQ := c.transferQ.eraseIdx i }
          (t ≠ id → s.admits t permW (s.lciOf id) x.ctx ra n = true → exec (.copyCommandComplete id .transfer i) s
            = .next (u.modCore t fun k => (k.store ra bs).setRanges (if tf then [(ra, n)] else [])))
          ∧ (t ≠ id → s.admits t permW (s.lciOf id) x.ctx ra n = false → exec (.copyCommandComplete id .transfer i) s
            = .next (u.killIssuer x.who 4)))
        ∧ (∀ b a n tf bs, x.kind = .ll b a n tf bs → exec (.copyCommandComplete id .transfer i) s = .next
            ((s.setCore id ((c.store b bs).setRanges (if tf then [(b, n)] else []))).modCore id fun k =>
              { k with transferQ := k.transferQ.eraseIdx i }))))
    ∧ (s.drainCopy id x = s.setCore id { c with transferQ := c.transferQ ++ [{ x with
        kind := if x.readsAtStart then x.kind else x.kind.readSource c x.cpy2, ahead := 0, openRegion := false }] })
    ∧ (∀ t ra a n tf bs, x.aq = false → x.kind = .lr t ra a n tf bs → x.readsAtStart = false
        ∧ x.kind.readSource c x.cpy2 = .lr t ra a n tf (c.load a n))
    ∧ (∀ segs, x.aq = false → x.kind = .lg segs → x.readsAtStart = false ∧ x.kind.readSource c x.cpy2 = .lg (drainedSegs c x.cpy2 segs))
    ∧ (∀ y, c.tileQ[i]? = some y → s.tileNext id = some i → (∀ p k bs m, y.kind ≠ .mcast p k bs m) → exec (.copyCommandStart id .tile) s = .next
        (acq (s.setCore id { c with tileQ := c.tileQ.set i { y with phase := .asking } }) y.aq y.scope)))
  ∧ (∀ (s : State) (id : CoreId) (a pa n ctx : Nat) (skip : Bool) (t : Target),
    t.place = .dev pa → 0 < n → n ≤ 128 - pa % 128 → pa + n ≤ hbmEnd → s.orderAt id.die = [] →
    (s.port (portOf pa)).queue = [] → s.ram.poisoned pa = false → s.ram.code (pa / 1024) = 0 →
    ∃ u, s.glRun id ctx false skip (n + 2) [.mem a t n] = .more u []
      ∧ u = s.setCore id { s.coreAt id with mem := (u.coreAt id).mem }
      ∧ (∀ j, j < n → Sparse.get 0 (u.coreAt id).mem ((a + j) % 2 ^ 18) = Sparse.get 0 s.ram.bytes (pa + j))
      ∧ ∀ q, (∀ j, j < n → q ≠ (a + j) % 2 ^ 18) →
          Sparse.get 0 (u.coreAt id).mem q = Sparse.get 0 (s.coreAt id).mem q)
  ∧ (∀ (s : State) (id : CoreId) (i : Nat) (t : TileCmd) (a k n size dport : Nat) (name : DWord),
    let c := s.coreAt id
    let bytes := (c.load a n ++ List.replicate (size - n) 0).take size
    let put (u : State) (p : TilePhase) : Res := .next (u.modCore id fun o => { o with tileQ := o.tileQ.set i { t with phase := p } })
    c.tileQ[i]? = some t → t.kind = .send a k n size name dport →
    (c.tileQ.findIdx? (fun t => t.phase == .asking) = some i →
      (∀ x, s.destOf name dport = .here x →
        let p := (s.actor x).inPort dport
        (0 < p.freeCount → exec (.reservationRequest id) s = put (s.modActor x fun r => r.setIn dport { r.inPort dport with
            rsv := (r.inPort dport).rsv + 1, pend := (r.inPort dport).pend ++ [((r.inPort dport).next, false)] })
          (.granted (s.actor x).core x dport ((p.head + p.filled + p.rsv) % p.slots)))
        ∧ (p.freeCount = 0 → p.asks.length < 16 → exec (.reservationRequest id) s = put (s.modActor x fun r =>
            r.setIn dport { r.inPort dport with asks := (r.inPort dport).asks ++ [.core id] }) (.waiting x dport))
        ∧ (p.freeCount = 0 → 16 ≤ p.asks.length → exec (.reservationRequest id) s = put s .returned))
      ∧ (∀ r, s.destOf name dport = .gone r → exec (.reservationRequest id) s = .next (s.discardSend id i r))
      ∧ (s.destOf name dport = .wait → exec (.reservationRequest id) s = .next s)
      ∧ (∀ d u q, s.destOf name dport = .away d → s.peerUp d = true → (t.rl = true → s.performed id t.scope = true) →
        s.trySend id.key t.ctx d t.who (.tile id) (.tile name dport bytes) = (u, some q) →
        exec (.reservationRequest id) s = put u (.remote (flowKey id.key d) q)))
    ∧ (∀ r, let u := s.discardSend id i r
        u.core.mem = s.core.mem ∧ (∀ sl, c.bead (beadOf a) = .transit sl → (u.coreAt id).bead (beadOf a) = .owned sl)
        ∧ ((t.last = false ∨ s.alive t.who = none) → (u.coreAt id).tileQ = c.tileQ.eraseIdx i)
        ∧ (t.last = true → s.alive t.who ≠ none → (u.coreAt id).tileQ = c.tileQ.set i { t with phase := .done })
        ∧ (∀ x, t.who.actor = some x → u.acts = { s.acts with
            mail := s.acts.mail ++ [.exit (s.nameWith x t.who.gen) name r 0 none false id.key .core] })
        ∧ (t.who.actor = none → u.acts = s.acts))
    ∧ exec (.reservationResend id) s = .next (s.setCore id { c with tileQ := c.tileQ.map fun t =>
        if t.phase = .returned then { t with phase := .asking } else t })
    ∧ (∀ home x port j, s.publishNext id = some i → t.phase = .granted home x port j →
      ((s.actor x).inPort port).pend.any (fun e => e.1 == j) = true →
      exec (.slotPublication id) s = .next
        ((s.writeTile x port j bytes (if t.rl then t.scope else .core)).endTile id i)))

/-- The actor operations of a firing at issue (R33, R280 to R287, R289, R294 to R296, R299): with room in the store buffer each
becomes one entry with its operands as read now, SIGNAL a release of its scope; LINK and MONITOR reserve a link-table
entry. CONSUME sets what END takes from a port; EXIT commits
the region and ends the actor. -/
def Obligations.ActorOperationsAtIssue : Prop :=
  ∀ (s : State) (x : ActorId) (sl : Nat) (sc : Scope) (a b c : SReg) (k : Bool) (p : BitVec 2),
    s.core.run = .firing sl → (s.core.slotAt sl).actor = some x →
    let buf (t : State) (op : ActorOp) : State := (t.buffered [⟨.actor op, none, s.who, s.ctx⟩]).atPc (laFrom s.core.pc 8)
    let linked : State := s.modActor x fun r => { r with linkRsv := r.linkRsv + 1 }
    let free := (s.actor x).links.length + (s.actor x).linkRsv < 16
    let low (r : SReg) : Word := (s.rs r).setWidth 32
    let q := (s.actor x).inPort p.toNat
    let signal (op : ActorOp) : State := ((s.buffered [⟨.actor op, some (s.clamp sc).1, s.who, s.ctx⟩]).flagged
      (if (s.clamp sc).2 then flagSC else 0)).atPc (laFrom s.core.pc 8)
    (s.room 1 = .ok →
      exec (.kill a) s = .next (buf s (.kill (s.rs a)))
      ∧ exec (.unlink a) s = .next (buf s (.unlink (s.rs a)))
      ∧ exec (.unmon a b) s = .next (buf s (.unmon (s.rs a) ((low b).zeroExtend 64)))
      ∧ (free → exec (.link a) s = .next (buf linked (.link (s.rs a)))
        ∧ exec (.monitor a b) s = .next (buf linked (.monitor (s.rs a) ((low b).zeroExtend 64))))
      ∧ (¬free → exec (.link a) s = .next (s.fatal 0x44 4 0) ∧ exec (.monitor a b) s = .next (s.fatal 0x44 4 0))
      ∧ exec (.signalMsg sc a b c) s
        = .next (signal (.message (s.rs a) (bytesOf 8 (s.rs b).toNat ++ bytesOf 4 (s.rs c).toNat)))
      ∧ exec (.signalExit sc a b) s = .next (signal (.exitSig (s.rs a) ((s.rs b).toNat % 256)))
      ∧ ((s.rs a).toNat < 2 ^ 48 → exec (.timer k a b) s = .next (buf s (.timer k false (s.rs a).toNat (low b)))
        ∧ exec (.timerKill k a b) s = .next (buf s (.timer k true (s.rs a).toNat (low b))))
      ∧ ((s.rs a).toNat < 2 ^ 16 → la (s.rs b) % 64 = 0 → s.mayReach (la (s.rs b)) 64 = true →
        exec (.capcall a b c) s = .next (buf s (.capcall (s.rs a).toNat (la (s.rs b)) (low c))))
      ∧ (s.mayReach (la (s.rs b)) 64 = true → 2 ^ 16 ≤ (s.rs a).toNat ∨ la (s.rs b) % 64 ≠ 0 →
        exec (.capcall a b c) s = .next (s.fatal 0x44 4 0))
      ∧ ((s.rs b).toNat < 2 ^ 30 → (s.rs b).extractLsb' 14 4 = 0 →
        exec (.migrate a b) s = .next (buf s (.migrate (s.rs a) (s.rs b))))
      ∧ ((s.rs b).toNat < 4 → exec (.portcfg p a b) s = .next (buf s (.portcfg p.toNat (s.rs a) (s.rs b).toNat))))
    ∧ ((s.rs a).toNat ≤ 64 → q.en = true → s.core.tsw.sf = false → exec (.consume p a) s = .next ((s.modActor x fun r =>
        r.setIn p.toNat { q with adv := Nat.min (s.rs a).toNat q.filled, ca := true }).atPc (laFrom s.core.pc 8)))
    ∧ (s.core.rep = none → exec (.exit a) s = .next ((s.commit s.focus).kill x ((s.rs a).toNat % 256)))

/-- R288, whole: SELF writes the issuer's name with its generation, SELF.stable the same with GEN = 0; SELF.tx takes its
place in the store buffer, and as it drains sets TX to the bit, or ends with reason 4 an actor without a signal entry
that asks for 1. -/
def Obligations.SelfInstruction : Prop :=
  ∀ (s : State) (d a : SReg),
    exec (.self d) s = .next (s.afterS d s.core.selfn 8)
    ∧ exec (.selfStable d) s = .next (s.afterS d (s.core.selfn &&& 0xFFFFFFFFFFFF0000) 8)
    ∧ (s.room 1 = .ok → exec (.selfTx a) s
        = .next ((s.buffered [⟨.actor (.selfTx ((s.rs a).getLsbD 0)), none, s.who, s.ctx⟩]).atPc (laFrom s.core.pc 8)))
    ∧ ∀ (id : CoreId) (on : Bool) (w : Issuer) (ctx : Nat) (rest : List Entry) (x : ActorId),
      (s.coreAt id).committed = ⟨.actor (.selfTx on), none, w, ctx⟩ :: rest → s.alive w = some x →
      (on = false ∨ (s.actor x).sge = true → exec (.storeBufferDrain id) s
          = .next ((s.modActor x fun r => { r with tx := on }).popCommitted id))
      ∧ (on = true → (s.actor x).sge = false → exec (.storeBufferDrain id) s = .next ((s.kill x 4).popCommitted id))

/-- SPAWN, SUPCFG and RESTART at issue (R274, R280, R281, R304, R307 to R312): SPAWN reads the image's header and the
templates it names as plain loads bring them, reserves link-table entries where it links or watches, takes free indices of the context, and
delivers the first new name; SUPCFG.add, of a supervisor and with a specification without reserved bits, takes a free
child entry and a free index and delivers the child's name; each is one store-buffer entry, as are SUPCFG.policy,
.remove, .launch and RESTART. The model's choices: the copy of a record that the engine reads again (log entry 76), reserved entries kept apart
from USED (log entry 77), and a supervisor of another device's table, whose reservations are made there while the core waits for the answer
(log entry 118). -/
def Obligations.SpawnAndSupervisionAtIssue : Prop :=
  ∀ (s : State) (x : ActorId) (sl : Nat) (f : SpawnF) (a b d : SReg) (hs ts : List (List Byte)) (base : Nat) (t : Target)
    (v w : State),
    s.core.run = .firing sl → (s.core.slotAt sl).actor = some x → s.room 1 = .ok →
    let buf (t : State) (op : ActorOp) : State := t.buffered [⟨.actor op, none, s.who, s.ctx⟩]
    let issue (op : ActorOp) : Res := .next ((buf s op).atPc (laFrom s.core.pc 8))
    let h := (s.rs f.a).toNat
    let img := imageOf h hs.flatten
    let n := if f.all then img.nact else 1
    let name (t : State) (i : Nat) : DWord := mkName t.thisDev t.ctx i (nextGen (t.actor ⟨t.ctx, i⟩).gen)
    (h < 2 ^ 48 → h % 512 = 0 → s.BringsAll 128 (pieces h 512) v hs → goodHeader hs.flatten = true →
      (f.all = false → f.k.toNat < img.nact) →
      v.BringsAll 128 (pieces (h + img.actOff + (if f.all then 0 else 256 * f.k.toNat)) (256 * n)) w ts →
      w.core.run = .firing sl → (w.core.slotAt sl).actor = some x → w.room 1 = .ok →
      (f.lk = true ∨ f.mn = true → (w.actor x).links.length + (w.actor x).linkRsv + n ≤ 16) →
      w.freeIndex w.ctx n = some base →
      let u := if (f.lk = true ∨ f.mn = true) ∧ n ≠ 0 then w.modActor x fun r => { r with linkRsv := r.linkRsv + n } else w
      exec (.spawn f) s = .next (((u.reserveIndices w.ctx base n).buffered [⟨.actor (.spawn h (w.rs f.b) f.k.toNat
        (if f.c = 0 then none else some (w.rs f.c)) f.lk f.mn f.all f.tag base n), none, w.who, w.ctx⟩]).afterS f.d
        (name w base) 12))
    ∧ ((s.rs a).toNat < 2 ^ 13 → (s.rs a).extractLsb' 3 5 = 0 → (s.rs a).getLsbD 1 = false → (s.rs b).toNat < 2 ^ 48 →
        ((s.rs a).getLsbD 2 = true → s.rs b ≠ 0) → s.ctxSvbase s.ctx ≠ 0 →
        exec (.supcfgPolicy a b) s = issue (.supcfg 0 (s.rs a) (s.rs b) s.firingMark))
    ∧ (∀ e i, let u := s.syncSuper x
        let p := la (u.rs a)
        let t := (u.reserveIndices x.ctx i 1).modEntry x fun r => { (r.setUsed e true) with held := (r.setUsed e true).held ++ [e] }
        u.core.run = .firing sl → (u.core.slotAt sl).actor = some x → (u.alive s.who).isSome = true →
        p % 128 = 0 → u.mayReach p 128 = true → ((u.super x).sup = true ∨ u.policyHeld = true) →
        specBad (u.core.load p 128) = false → u.room 1 = .ok →
        (x.own = false → u.peerUp (u.homeOf x) = true →
          ∀ z q, u.trySend u.focus.key u.ctx (u.homeOf x) u.who (.core u.focus) (.supcfg (u.nameOf x) 5 0 0 []) = (z, some q) →
          exec (.supcfgAdd d a) s = .next { z with core := { z.core with
            wait := some ⟨.fabric (flowKey u.focus.key (u.homeOf x)) q (.host 0) 0 0, .supcfgAdd d a⟩ } })
        ∧ (x.own = true → (List.range 30).find? (fun e => !(u.super x).used e && !(u.super x).held.contains e) = some e →
        u.freeIndex x.ctx 1 = some i → t.room 1 = .ok →
        let child := mkName u.thisDev x.ctx i (nextGen (u.actor ⟨x.ctx, i⟩).gen)
        exec (.supcfgAdd d a) s = .next ((t.buffered [⟨.actor (.supcfg 1 (dw e) child (u.core.load p 128)), none,
          t.who, t.ctx⟩]).afterS d child 8)))
    ∧ ((s.rs a).toNat ≤ 29 → exec (.supcfgRemove a) s = issue (.supcfg 2 (s.rs a) 0 [])
        ∧ exec (.restartChild a) s = issue (.restart false (s.rs a)))
    ∧ ((s.rs a).toNat % 64 = 0 → (s.rs a).toNat < 2 ^ 48 → exec (.supcfgLaunch a) s = issue (.supcfg 3 (s.rs a) 0 [])
        ∧ (s.Reaches (s.rs a) .read false t → ∀ pa, t.place = .dev pa →
          exec (.restartJob a) s = issue (.restart true (dw pa))))

/-- The context and translation instructions (R342 to R344, R355, R356, R361, R362, R373, R433): CTXNEW reads its template and
reserves a number; CTXSET, CTXREVOKE and TLBINV of a permitted context become store-buffer entries; CTXSTAT reads a CCB
word; TLBW fills the entry of the core it names unless the entry is bad or its walk stale; CTXDONE commits and saves, in its own step (the
model's choice, log entry 84); below their privilege they are turned away.

LOCKET (R405 to R407): start reads a descriptor at a device address, takes the lowest free ticket and writes the
status block; it delivers 1, 2 or 3 in bits 15:8 where the descriptor or the peer does not allow it or no ticket is
free; stat reads the stream's status word, zero where there is none; stop asks it to end. Below privilege 2 they trap. Whether an
NPORT outside 1 to 8 is refused, by a free value, and how the status block is written are the model's choice (log entry 98). -/
def Obligations.ContextTranslationAndLocketInstructions : Prop :=
  (∀ (s : State) (a b c d : SReg) (ovr : Word) (num : BitVec 12) (rq rsp : Bool) (k : BitVec 5) (sz : PageSize)
    (b0 b1 : List Byte) (n : Nat) (v : State),
    let entry (op : EntryKind) (rel : Option Scope) : List Entry := [⟨op, rel, s.who, s.ctx⟩]
    let on (op : EntryKind) (rel : Option Scope) : Res := .next ((s.buffered (entry op rel)).atPc (laFrom s.core.pc 8))
    let field (r : SReg) (lo len : Nat) : Nat := ((s.rs r).extractLsb' lo len).toNat
    let words := (List.range 32).map fun i => field8 (b0 ++ b1) (8 * i)
    let va := (s.rs a).toNat
    (s.ctxPrivileged = true → s.room 1 = .ok →
      (va % 256 = 0 → va < 2 ^ 48 → s.BringsAll 128 [s.rs a, s.rs a + 128] v [b0, b1] → v.room 1 = .ok →
        v.newNumber num rq = some n →
        let u : State := if n = 0 then v else { v with ctxs := { v.ctxs with reserved := v.ctxs.reserved ++ [n] } }
        exec (.ctxnew d a ovr num rq) s = .next ((u.buffered [⟨.actor (.ctxnew n ovr words), none, v.who, v.ctx⟩]).afterS d
          (dw n) 16))
      ∧ (s.ctxPermitted s.ctx (s.rs a) = true →
        exec (.ctxrevoke a) s = on (.actor (.ctxrevoke va)) none
        ∧ ((s.rs b).toNat ≤ 31 → exec (.ctxset a b c) s = on (.actor (.ctxset va (s.rs b).toNat (s.rs c))) none)))
    ∧ (s.ctxPrivileged = false → exec (.ctxnew d a ovr num rq) s = .next (s.fatal 0x30 2 0)
        ∧ exec (.ctxrevoke a) s = .next (s.fatal 0x30 2 0) ∧ exec (.ctxset a b c) s = .next (s.fatal 0x30 2 0))
    ∧ (s.rs a = 0 → exec (.ctxstat d a k) s = .next (s.afterS d (s.ccbStat s.ctx k.toNat) 8))
    ∧ (s.rs a ≠ 0 → s.ctxPermitted s.ctx (s.rs a) = true → exec (.ctxstat d a k) s
        = .next (s.afterS d (s.ccbStat va k.toNat) 8))
    ∧ (s.rs a ≠ 0 → va ≠ s.ctx → s.ctxPermitted s.ctx (s.rs a) = false →
        exec (.ctxstat d a k) s = .next (s.afterS d 0 8))
    ∧ (s.priv ≠ 0 → s.room 1 = .ok → (field b 0 12 = s.ctx ∨ s.inSubtree s.ctx (field b 0 12) = true) →
      let page := va % 2 ^ 48 / pageSizeBytes sz * pageSizeBytes sz
      exec (.tlbinvPage a b sz) s = on (.tlbinv (field b 0 12) (some (page, sz))) (some .device)
      ∧ exec (.tlbinvCtx b) s = on (.tlbinv (field b 0 12) none) (some .device))
    ∧ (s.priv = 0 → exec (.tlbinvPage a b sz) s = .next (s.fatal 0x30 2 0) ∧ exec (.tlbinvCtx b) s = .next (s.fatal 0x30 2 0))
    ∧ (s.priv = 3 →
      let e : TlbEntry := ⟨s.rs a, s.rs b⟩
      (∀ t, s.coreOfLci (field c 0 14) = some t →
        let answered (u : State) : State := if rsp then u.answerMiss t (field c 16 16) else u
        let stale := s.staleWalk ((s.rs d).setWidth 32) e
        (e.wellFormed = true → stale = false →
          exec (.tlbw d a b c rsp) s = .next ((answered (s.modCore t fun k => k.fillTlb s.tick e)).afterS d 1 16))
        ∧ (e.wellFormed = true → stale = true → exec (.tlbw d a b c rsp) s = .next ((answered s).afterS d 0 16))
        ∧ (e.wellFormed = false → exec (.tlbw d a b c rsp) s = .next ((answered s).afterS d 2 16)))
      ∧ (s.coreOfLci (field c 0 14) = none → exec (.tlbw d a b c rsp) s = .next (s.afterS d 2 16)))
    ∧ (s.core.run = .preempt → s.core.rep = none →
      (s.rs a = 0 → exec (.ctxdone a) s = .next ((s.commit s.focus).saveCore s.focus false s.core.allBeads))
      ∧ (s.rs a ≠ 0 → la (s.rs a) % 64 = 0 → s.mayReach (la (s.rs a)) 64 = true →
        exec (.ctxdone a) s = .next ((s.commit s.focus).saveCore s.focus false (s.core.load (la (s.rs a)) 64))))
    ∧ (s.core.run ≠ .preempt → exec (.ctxdone a) s = .next (s.fatal 0x42 2 0)))
  ∧ (∀ (s : State) (d a : SReg) (bs : List Byte) (t : Nat),
    let pa := (s.rs a).toNat
    let ticket := ((s.rs a).extractLsb' 0 3).toNat
    let peer := Sparse.get 0 s.fab.fbdom (natOf ((bs.drop 0x18).take 4))
    (s.priv < 2 → exec (.locketStart d a) s = .next (s.fatal 0x30 2 0) ∧ exec (.locketStat d a) s = .next (s.fatal 0x30 2 0)
      ∧ exec (.locketStop a) s = .next (s.fatal 0x30 2 0))
    ∧ (2 ≤ s.priv →
      (pa % 64 ≠ 0 ∨ hbmEnd < pa + 64 → exec (.locketStart d a) s = .next (s.afterS d 0x100 8))
      ∧ (pa % 64 = 0 → pa + 64 ≤ hbmEnd → s.readTarget false ⟨.dev pa, 0, 0⟩ (s.rs a) 64 = .ok bs →
        (badStream s.tick bs = true → exec (.locketStart d a) s = .next (s.afterS d 0x100 8))
        ∧ (badStream s.tick bs = false →
          (peer.getLsbD 63 = false ∨ peer.getLsbD 61 = false ∨ peer.getLsbD 62 = true →
            exec (.locketStart d a) s = .next (s.afterS d 0x200 8))
          ∧ (peer.getLsbD 63 = true → peer.getLsbD 61 = true → peer.getLsbD 62 = false →
            (∀ u, 1 ≤ u → u ≤ 4 → ∃ x ∈ s.fab.streams, x.ticket = u) → exec (.locketStart d a) s = .next (s.afterS d 0x300 8))
          ∧ (peer.getLsbD 63 = true → peer.getLsbD 61 = true → peer.getLsbD 62 = false → 1 ≤ t → t ≤ 4 →
            (∀ u, 1 ≤ u → u < t → ∃ x ∈ s.fab.streams, x.ticket = u) → (∀ x ∈ s.fab.streams, x.ticket ≠ t) →
            let st : Stream := ⟨t, bs, s.focus, 0, 0, 0, 0, false, false, []⟩
            exec (.locketStart d a) s = .next
              (({ s with fab := { s.fab with streams := s.fab.streams ++ [st] } }.writeStatus st 1 0).afterS d (dw t) 8))))
      ∧ (∀ x, s.fab.streams.find? (fun x => x.ticket == ticket) = some x →
        exec (.locketStat d a) s = .next (s.afterS d (dw (1 + 2 ^ 16 * x.ticket)) 8))
      ∧ ((∀ x ∈ s.fab.streams, x.ticket ≠ ticket) → exec (.locketStat d a) s = .next (s.afterS d 0 8))
      ∧ exec (.locketStop a) s = .next ({ s with fab := { s.fab with streams := s.fab.streams.map fun (x : Stream) =>
          if x.ticket = ticket then { x with stopping := true } else x } }.atPc (laFrom s.core.pc 8))))

/-- R345, whole: TLBPROBE at a privilege that may issue its form gives E0 or E1 of the entry of the issuing core's TLB that
matches the address for the context, its own where b is zero, or 0, and does nothing else; below that privilege it
raises the privilege trap. -/
def Obligations.TlbProbe : Prop :=
  ∀ (s : State) (e1 : Bool) (d a b : SReg),
    let need : Nat := if b ≠ 0 then 3 else if e1 then 2 else 1
    let ctx := if b = 0 then s.ctx else (s.rs b).toNat % 4096
    let covers (e : TlbEntry) : Prop := e.valid = true ∧ e.ctx = ctx ∧ e.base ≤ (s.rs a).toNat ∧ (s.rs a).toNat < e.base + e.size
    (s.priv < need → exec (.tlbprobe e1 d a b) s = .next (s.fatal 0x30 2 0))
    ∧ (need ≤ s.priv →
      (∀ e older newer, s.core.tlb = older ++ e :: newer → covers e → (∀ x ∈ older, ¬ covers x) →
        (s.rs a).toNat < 2 ^ 48 → exec (.tlbprobe e1 d a b) s = .next (s.afterS d (if e1 then e.e1 else e.e0) 8))
      ∧ ((∀ e ∈ s.core.tlb, ¬ covers e) → exec (.tlbprobe e1 d a b) s = .next (s.afterS d 0 8)))

/-- GETC (R19, R81 to R83, Tables 03.2 to 03.5, 04.3, 05.1, 05.2, 07.2, 12.2, 13.1, 13.3): the value of each register by its
number, to s[d]; CYC has risen since the last read, by a free amount (the model's choice, log entry 12), and an output port's word
shows no location of a destination that has none (log entry 116); MISSB on a translation core takes the oldest miss message and
latches MISSA. A number of 0x100 or above traps at privilege 0, and a number the core has no register for is illegal. -/
def Obligations.ReadingControlRegisters : Prop :=
  ∀ (s : State) (d : SReg) (num : BitVec 12) (v : DWord),
    let c := s.core
    let x := (c.actor?.map s.actor).getD ActorRec.free
    let bit (b : Bool) (n : Nat) : Nat := if b then 2 ^ n else 0
    let low : List (Nat × DWord) :=
      [(0x000, dw (bit c.tsw.apb 0 + bit c.tsw.it 1 + bit c.tsw.sf 2 + bit c.tsw.rp 3 + 2 ^ 4 * c.tsw.priv.toNat
          + 2 ^ 8 * c.tsw.cpri.toNat + bit c.tsw.ov 10 + 2 ^ 11 * c.tsw.ovp.toNat)),
       (0x001, c.xbound.zeroExtend 64), (0x002, c.ovh.zeroExtend 64), (0x003, dw c.regs.rm.code),
       (0x004, c.regs.flags.zeroExtend 64), (0x006, c.selfn), (0x007, c.slotReg.zeroExtend 64),
       (0x008, c.region.entry.zeroExtend 64), (0x009, dw (2 ^ 32 * c.region.vmask.toNat + c.region.smask.toNat)),
       (0x00A, c.traps.tcause), (0x00B, c.traps.taddr), (0x00C, c.traps.tpc.zeroExtend 64),
       (0x00D, c.traps.thnd.zeroExtend 64), (0x00E, 128), (0x00F, c.traps.ovret.zeroExtend 64),
       (0x010, c.wins[0]), (0x011, c.wins[1]), (0x012, c.wins[2]), (0x013, c.wins[3]), (0x014, c.wins[4]),
       (0x015, c.wins[5]), (0x016, c.wins[6]), (0x017, c.wins[7]), (0x020, (x.inPort 0).word), (0x021, (x.inPort 1).word),
       (0x022, (x.inPort 2).word), (0x023, (x.inPort 3).word), (0x024, s.outWord (x.outPort 0)),
       (0x025, s.outWord (x.outPort 1)), (0x026, s.outWord (x.outPort 2)), (0x027, s.outWord (x.outPort 3)),
       (0x030, s.ctxidWord), (0x031, dw s.ceiling)]
    let reads (num : BitVec 12) (v : DWord) : Prop := exec (.getc d num) s = .next (s.afterS d v 8)
    (∀ r ∈ low, r.1 = num.toNat → reads num r.2)
    ∧ (∃ k, k < 2 ^ 16 ∧ let later := c.cyc + 1 + k
        exec (.getc d 5) s = .next ({ s with core := { c with cyc := later } }.afterS d later 8))
    ∧ (0x100 ≤ num.toNat → s.priv = 0 → exec (.getc d num) s = .next (s.fatal 0x30 2 0)
        ∧ exec (.getcMissb d) s = .next (s.fatal 0x30 2 0))
    ∧ (s.priv ≠ 0 →
      (∀ p, s.focus = .work p → reads 0x100 (s.meshidWord p) ∧ reads 0x101 (c.bsum.zeroExtend 64)
        ∧ reads 0x120 (s.bzmapWord p) ∧ reads 0x128 0
        ∧ ∀ k : BitVec 4, reads (0x110 + k.zeroExtend 12) (s.strandAt (.router p) k.toNat))
      ∧ (∀ k, s.focus = .transl k → reads 0x129 (s.ctxs.epoch.zeroExtend 64) ∧ reads 0x12A (s.transQ k).missa
        ∧ ((s.transQ k).queue = [] → exec (.getcMissb d) s = .next (s.afterS d 0 8))
        ∧ ∀ m rest, (s.transQ k).queue = m :: rest → exec (.getcMissb d) s
            = .next ((s.setTransQ k ⟨rest, (s.transQ k).taken ++ [m], missaWord m⟩).afterS d (missbWord m) 8))
      ∧ (∀ p, s.focus = .service p → reads 0x128 0 ∧ reads 0x140 (s.sqWord 0) ∧ reads 0x141 (s.sqWord 1)
        ∧ reads 0x142 (s.sqWord 2)))
    ∧ (num.toNat ∈ [0x018, 0x01F, 0x028, 0x032, 0x0FF] → exec (.getc d num) s = .next (s.fatal 0x42 2 0))

/-- SETC, its immediate form, and a write of a register as a step of its own (R6, R82, R83, R126, R128, R206, R349, R360):
each register takes the fields software may write, XBOUND, OVH, TPC and OVRET only above privilege 0; a read-only one
takes none; RM keeps its value for a code that is no mode; a FLAGS bit is cleared by a 1; a window takes the running
slot as its owner.

Writes of control space that act (R126, R398, R400, R410, R416, R423, R425): BEND with its three conditions met ends boot mode,
gives every core with a local index its logical index and clears its windows, and without them sends the boot to
recovery; VFIRQ raises an interrupt of a function whose host has enabled it; a 1 to FBDOM.LOST at privilege 3, where it is set, restarts every flow
to that device; SCRUN restarts a stopped service core at privilege 2 with its registers zero (the model's reading, log entry 88); plain registers
take their fields; an import entry only from the root monitor. A window's ownership check is log entry 23, the MSI-X enable log entry 99.

What the boot and the management interface do to Hallmark, the CXL link and the boot flash without a register of their own
(R420, R422, R424, R425, R430), as other forms of a register write (the model's choice of form, log entry 135): Hallmark extends a register
by the SM3 digest of what is measured, the fuse block and die counts for index 4; a signature that fails sends the boot to recovery;
slot 1 takes its certificate once; the link is enabled where the device is not in recovery; the flash is written and read, and the trip
and recovery status told. -/
def Obligations.WritingControlRegisters : Prop :=
  (∀ (s : State) (v : DWord) (k : Fin 8),
    let c := s.core
    let writes (num : Nat) (t : State) : Prop := num < 2 ^ 12 →
      (∀ a, s.rs a = v → exec (.setc (BitVec.ofNat 12 num) a) s = .next (t.atPc (laFrom t.core.pc 8)))
      ∧ (∀ i : BitVec 20, i.zeroExtend 64 = v →
          exec (.setcImm (BitVec.ofNat 12 num) i) s = .next (t.atPc (laFrom t.core.pc 8)))
      ∧ exec (.registerWrite (.cr (BitVec.ofNat 12 num)) v) s = .next t
    let regs (r : Regs) : State := { s with core := { c with regs := r } }
    let traps (r : TrapRegs) : State := { s with core := { c with traps := r } }
    let word := (v &&& 0x000FFFFFFFF3FFFF) ||| (match c.slot? with
      | some n => dw (2 ^ 52 * (n % 64))
      | none => 0x0400000000000000)
    let win : State := { s with core := { c with wins := c.wins.set k word } }
    writes 0x000 { s with core := { c with tsw := { c.tsw with apb := v.getLsbD 0 } } }
    ∧ writes 0x003 (regs { c.regs with rm := (RMode.ofCode (v.extractLsb' 0 3).toNat).getD c.regs.rm })
    ∧ writes 0x004 (regs { c.regs with flags := c.regs.flags &&& ~~~(v.setWidth 6) })
    ∧ writes 0x00D (traps { c.traps with thnd := v.setWidth 18 })
    ∧ (∀ num ∈ [0x005, 0x006, 0x007, 0x008, 0x009, 0x00A, 0x00B, 0x00E, 0x020, 0x021, 0x022, 0x023, 0x024, 0x025,
        0x026, 0x027, 0x030, 0x031], writes num s)
    ∧ (s.priv = 0 → ∀ num ∈ [0x001, 0x002, 0x00C, 0x00F], writes num s)
    ∧ (s.priv ≠ 0 →
      writes 0x001 { s with core := { c with xbound := BitVec.ofNat 18 (512 * (v.extractLsb' 9 9).toNat) } }
      ∧ writes 0x002 { s with core := { c with ovh := v.setWidth 18 } }
      ∧ writes 0x00C (traps { c.traps with tpc := v.setWidth 18 })
      ∧ writes 0x00F (traps { c.traps with ovret := v.setWidth 18 }))
    ∧ ((winEn v = true → winBase v + winNb v ≤ 511) →
      (s.priv ≠ 0 ∨ (∃ sl, c.run = .firing sl ∧ (winEn c.wins[k] = true → winNs c.wins[k] = false ∧ winOwner c.wins[k] = sl)
          ∧ (winEn v = true → ∀ i, i ≤ winNb v → c.bead (winBase v + i) = .owned sl))) →
      writes (0x010 + k.val) win ∧ exec (.windowWrite (BitVec.ofNat 3 k.val) v) s = .next win)
    ∧ (∀ pos, s.focus = .work pos → s.priv ≠ 0 →
      (∀ j : BitVec 4, (s.priv = 1 → bitsAt 52 12 v = s.ctx ∨ s.inSubtree s.ctx (bitsAt 52 12 v) = true) →
        writes (0x110 + j.toNat) (s.setStrand pos j.toNat v) ∧ exec (.strandWrite j v) s = .next (s.setStrand pos j.toNat v))
      ∧ (s.bezelCount s.focus = 0 → ((acm v ||| bwm v) ||| brm v) &&& (0xFFFF ^^^ s.bezelGrant s.ctx (posOctet pos)) = 0 →
        acm v &&& (0xFFFF ^^^ acm c.bzmap) = 0 →
        let t : State := { s with core := { c with bzmap := setBits 0 48 (bitsAt 0 48 v) c.bzmap } }
        writes 0x120 t ∧ exec (.bzmapWrite v) s = .next t)
      ∧ writes 0x128 (s.prqdone s.ctx v))
    ∧ (∀ id, exec (.prqdoneWrite id v) s = .next (s.prqdone (s.ctxOn id) v))
    ∧ (∀ p i, s.focus = .service p → s.priv ≠ 0 → i < 3 → writes (0x140 + i) (s.writeSq i v)))
  ∧ (∀ (s : State) (v : DWord) (p d : Nat),
    let hub (h : Hub) : State := { s with hub := h }
    let ro := s.core.router
    let lci (pos : Nat) : BitVec 14 := if ro.val then BitVec.ofNat 14 (ro.lidx.toNat + (Sparse.get 0 s.hub.diebase (pos / 1024)).toNat)
      else ro.lci
    (v.getLsbD 0 = true → s.hub.bended = false →
      (s.bendOk = true → ∃ t, exec (.bendWrite v) s = .next t ∧ t.hub = { s.hub with boot := false, bended := true, bfail := false }
        ∧ t = { s with core := t.core, others := t.others, hub := t.hub }
        ∧ ∀ pos, s.focus = .work pos → t.core = { s.core with wins := Vector.replicate 8 0, router := { ro with lci := lci pos } })
      ∧ (s.bendOk = false → exec (.bendWrite v) s = .next (hub { s.hub with bfail := true, recovery := true })))
    ∧ (v.getLsbD 0 = false ∨ s.hub.bended = true → exec (.bendWrite v) s = .next s)
    ∧ (v.toNat < 512 → (s.func v.toNat).msix = true →
        exec (.vfirqWrite v) s = .next (hub { s.hub with out := s.hub.out ++ [.irq v.toNat] }))
    ∧ (512 ≤ v.toNat ∨ (s.func v.toNat).msix = false → exec (.vfirqWrite v) s = .next s)
    ∧ ((Sparse.get 0 s.fab.fbdom d).getLsbD 62 = true → exec (.fbdomLostClear d 3) s = .next { s with fab := { s.fab with
        fbdom := Sparse.set 0 s.fab.fbdom d (Sparse.get 0 s.fab.fbdom d &&& 0xBFFFFFFFFFFFFFFF)
        outs := s.fab.outs.filter fun e => e.1 % 64 != d
        ins := s.fab.ins.filter fun e => e.1 % 64 != d } })
    ∧ (∀ q, q < 3 ∨ (Sparse.get 0 s.fab.fbdom d).getLsbD 62 = false → exec (.fbdomLostClear d q) s = .next s)
    ∧ ((s.coreAt (.service p)).run = .stopped → v.toNat % 4 = 0 → v.toNat < 2 ^ 18 →
      exec (.scrunWrite p v) s = .next (s.setCore (.service p) { s.coreAt (.service p) with
        run := .service, pc := v.setWidth 18, regs := { Regs.reset with p := Vector.replicate 8 0 }, tsw := { Tsw.reset with priv := 2 }
        traps := TrapRegs.reset, wait := none, rep := none }))
    ∧ ((s.coreAt (.service p)).run ≠ .stopped → exec (.scrunWrite p v) s = .next s)
    ∧ (∀ pa, exec (.registerWrite (.ctl pa 0) v) s = .next s ∧ exec (.registerWrite (.ctl pa 1) v) s = .next s)
    ∧ (d < 9 → exec (.registerWrite (.ctl (0xC000010200 + 8 * d) 3) v) s
          = .next (hub { s.hub with diebase := Sparse.set 0 s.hub.diebase d (v.setWidth 14) })
        ∧ exec (.registerWrite (.ctl (0xC000010200 + 8 * d) 2) v) s = .next s)
    ∧ (∀ i, i < 64 → exec (.registerWrite (.ctl (0xC000031000 + 8 * i) 2) v) s = .next s)
    ∧ exec (.registerWrite (.ctl 0xC000030008 3) v) s
        = .next { s with fab := { s.fab with fbe2e := (v.extractLsb' 0 28).zeroExtend 64 } })
  ∧ (∀ (s : State) (v : DWord) (i : Nat) (bs : List Byte) (a n : Nat),
    let write (r : RegRef) (t : State) : Prop := exec (.registerWrite r v) s = .next t
    let hub (h : Hub) : State := { s with hub := h }
    (i = 2 ∨ i = 3 ∨ (5 ≤ i ∧ i < 29) → write (.extend i bs) (s.extend i (Config.sm3 bs)))
    ∧ write (.extend 4 bs) (s.extend 4 (Config.sm3 (Config.fuseBlock s.mesh.fused
        ++ (List.range 9).flatMap fun d => bytesOf 8 ((Sparse.get 0 s.hub.dierpt d).toNat % 2 ^ 32))))
    ∧ (i < 2 ∨ 29 ≤ i → write (.extend i bs) s)
    ∧ (s.hub.boot = true → write .signatureFailed (hub { s.hub with recovery := true }))
    ∧ (s.hub.boot = false → write .signatureFailed s)
    ∧ (s.hub.ownerCert = none → write (.ownerCert bs) (hub { s.hub with ownerCert := some bs }))
    ∧ (∀ old, s.hub.ownerCert = some old → write (.ownerCert bs) s)
    ∧ (s.hub.recovery = false → write .linkEnable (hub { s.hub with link := true }))
    ∧ (s.hub.recovery = true → write .linkEnable s)
    ∧ (∃ mem, write (.flashWrite a bs) (hub { s.hub with flash := mem })
        ∧ (∀ j x, bs[j]? = some x → Sparse.get 0 mem (a + j) = x)
        ∧ ∀ q, q < a ∨ a + bs.length ≤ q → Sparse.get 0 mem q = Sparse.get 0 s.hub.flash q)
    ∧ write (.flashRead a n) (hub { s.hub with
        out := s.hub.out ++ [.flash ((List.range n).map fun j => Sparse.get 0 s.hub.flash (a + j))] })
    ∧ write .manageStatus (hub { s.hub with out := s.hub.out ++ [.status s.hub.tripped s.hub.recovery] }))

/-- The drain of the store buffer (R20, R22, R28, R96, R242, R392, R417): the head entry of a core leaves once its way is
free. A store, a reduction or a POISONCLR of this device joins its die's ordering point, which holds 512, and otherwise
stays, as a release does until what it orders is performed for the cores it concerns: at CORE and DIE it need not wait, at DEVICE for
what its die's ordering point still holds of the core, and what is on its way to other devices is sealed off (R30, R244, R409). A store to another
device leaves as one request, one to a host as one write; a copy command, a SEND and an MCAST join their queues; an
NRED contributes; a SEND goes with the binding its port has by then (R294); a TLBINV starts once its release is performed. -/
def Obligations.StoreBufferDrain : Prop :=
  ∀ (s : State) (id : CoreId) (e : Entry) (rest : List Entry),
    (s.coreAt id).committed = e :: rest →
    let c := s.coreAt id
    let gone (u : State) : Res := .next (u.popCommitted id)
    let joins (pa : Nat) (k : PortKind) (t : Target) : Prop := t.place = .dev pa → pa < hbmEnd →
      let ready : Prop := ∀ sc, e.rel = some sc → s.performedHere id sc = true
      let u : State := { s with ram := { s.ram with
          order := Sparse.set [] s.ram.order id.die (s.orderAt id.die ++ [⟨pa, k, t.cmp, e.who, e.rel, .none⟩]) } }
      (ready → (s.orderAt id.die).length < 512 → (e.rel = none → exec (.storeBufferDrain id) s = gone u)
          ∧ (e.rel ≠ none → exec (.storeBufferDrain id) s = gone (u.seal id)))
      ∧ (¬ready ∨ 512 ≤ (s.orderAt id.die).length → exec (.storeBufferDrain id) s = .next s)
    (∀ t bs mask pa, e.kind = .store t bs mask → joins pa (.store bs mask) t)
    ∧ (∀ t op n y pa, e.kind = .red t op n y → joins pa (.red op n y) t)
    ∧ (∀ t r pa, e.kind = .elem t r → joins pa (.elem r) t)
    ∧ (∀ t pa, e.kind = .poisonclr t → joins pa .poisonclr t)
    ∧ (∀ t bs n ha f, e.kind = .store t bs (List.range n) → bs.length = n → 0 < n → t.place = .host ha → e.rel = none →
        s.hostFunc t.ctx = some f → exec (.storeBufferDrain id) s
          = gone { s with hub := { s.hub with out := s.hub.out ++ [.write f (decide ((s.func f).tst = 2)) ha bs] } })
    ∧ (∀ t bs n d pa m u q, e.kind = .store t bs (List.range n) → bs.length = n → 0 < n → t.place = .peer d pa m → e.rel = none →
        s.peerUp d = true → s.trySend id.key e.ctx d e.who .none (.store pa bs ⟨m.code, t.cmp, t.ctx⟩) = (u, some q) →
        exec (.storeBufferDrain id) s = gone u)
    ∧ (s.performedHere id .core = true ∧ s.performedHere id .die = true ∧ s.performedHere id .device = !s.inOrder id false)
    ∧ (∀ q, e.kind = .copy q → (∀ segs, q.kind ≠ .lg segs) → (∀ m ra a n tf bs, q.kind ≠ .lr m ra a n tf bs) →
        (c.transferQ.length < 16 → exec (.storeBufferDrain id) s = gone (s.setCore id { c with
            transferQ := c.transferQ ++ [{ q with ahead := 0, openRegion := false }] }))
        ∧ (16 ≤ c.transferQ.length → exec (.storeBufferDrain id) s = .next s))
    ∧ (∀ q, e.kind = .send q → (c.tileQ.filter fun t => t.phase != .done).length < 8 →
        exec (.storeBufferDrain id) s = gone (s.setCore id { c with tileQ := c.tileQ ++ [s.boundNow q] }))
    ∧ (∀ k p f lanes slot, e.kind = .nred k p f lanes slot → (s.coreAt id).nredFree k e.ctx = true →
        exec (.storeBufferDrain id) s = gone (s.drainNred id e.who e.ctx k p f lanes slot))
    ∧ (∀ ctx page, e.kind = .tlbinv ctx page →
        (s.performed id .device = true → exec (.storeBufferDrain id) s = gone (s.startInval id ctx page))
        ∧ (s.performed id .device = false → exec (.storeBufferDrain id) s = .next s))

/-- The ordering points and the ports (R28, R239, R245, R250, R257 to R263, R432): an operation that nothing before it
holds back goes to its port, what its lines held put aside for the plain loads of the other dies (R29), and POISONCLR takes its granule, zero and unpoisoned, in one step; a port applies the first
operation of its oldest entry, on uncoded blocks a store's masked bytes or a scalar's value, and a reduction that meets
poison ends its issuer with reason 6; a queued read is answered; the patrol poisons an uncorrectable block and counts a
corrected one. The versions put aside (log entry 31), that a port takes its oldest entry first, and that a reduction of absent values alone
reads nothing (log entry 128) are the model's choice. -/
def Obligations.OrderingPointsAndPorts : Prop :=
  ∀ (s : State) (die i m : Nat) (o : PortOp),
    let p := s.port m
    let joined : Port := { s.port (portOf o.pa) with queue := enqueue (o.pa / 128) o (s.port (portOf o.pa)).queue }
    let v := s.putAside die o
    let raw (n : Nat) : Prop := o.cmp = 0 ∧ ∀ j, j < n → s.ram.code ((o.pa + j) / 1024) = 0
    ((s.orderAt die)[i]? = some o → s.passReady die i = true →
      (o.kind.wholeGranule = false → o.kind.wholeBlock = false →
        exec (.orderingPointPass die i) s = .next { s with ram := { s.ram with
          order := Sparse.set [] s.ram.order die ((s.orderAt die).eraseIdx i)
          ports := Sparse.set Port.reset s.ram.ports (portOf o.pa) joined
          old := v.ram.old, oldNext := v.ram.oldNext } })
      ∧ (∀ line, o.lines = [line] → o.kind.wholeGranule = false → s.ram.poisoned o.pa = false →
          v.ram.old = s.ram.old.filterMap (OldLine.lapse die o)
            ++ [⟨line, s.lineNow o.cmp line, (List.range 10).filter (· != die), s.ram.oldNext⟩]
          ∧ v.ram.oldNext = s.ram.oldNext + 1)
      ∧ (o.kind = .poisonclr → o.cmp = 0 → o.pa % 4096 = 0 → bitsAt 25 15 (s.port (portOf o.pa)).mpcfg = 0 →
          ∃ t, exec (.orderingPointPass die i) s = .next t ∧ t.orderAt die = (s.orderAt die).eraseIdx i
            ∧ (∀ j, j < 4096 → t.ram.poisoned (o.pa + j) = false ∧ t.ram.code ((o.pa + j) / 1024) = 0
                ∧ Sparse.get 0 t.ram.bytes (o.pa + j) = 0)
            ∧ (∀ q, q < o.pa ∨ o.pa + 4096 ≤ q → Sparse.get 0 t.ram.bytes q = Sparse.get 0 s.ram.bytes q)))
    ∧ (∀ l ops rest, p.queue = (l, o :: ops) :: rest →
      let left : Port := { p with queue := if ops = [] then rest else (l, ops) :: rest }
      let u (mem : Mem) : State := { s with ram := { s.ram with bytes := mem, ports := Sparse.set Port.reset s.ram.ports m left } }
      (∀ bs mask, o.kind = .store bs mask → o.ack = .none → 0 < bs.length → raw bs.length → mask.Nodup → (∀ j ∈ mask, j < bs.length) →
        ∃ mem, exec (.writeQueueApply m) s = .next (u mem) ∧ (∀ j ∈ mask, Sparse.get 0 mem (o.pa + j) = bs.getD j 0)
          ∧ ∀ q, (∀ j ∈ mask, q ≠ o.pa + j) → Sparse.get 0 mem q = Sparse.get 0 s.ram.bytes q)
      ∧ (∀ op n y v, o.kind = .red op n y → o.ack = .none → raw 1 → s.ram.poisoned o.pa = false →
          o.kind.scalar (valueOf ((List.range n).map fun j => Sparse.get 0 s.ram.bytes (o.pa + j))) = some v →
          ∃ mem, exec (.writeQueueApply m) s = .next (u mem) ∧ (∀ j, j < n → Sparse.get 0 mem (o.pa + j) = byteAt v j)
            ∧ ∀ q, q < o.pa ∨ o.pa + n ≤ q → Sparse.get 0 mem q = Sparse.get 0 s.ram.bytes q)
      ∧ (∀ r, o.kind = .elem r → o.ack = .none → (∀ x ∈ r.elems, x.2 = absentOf r.fmt) →
          exec (.writeQueueApply m) s = .next (u s.ram.bytes))
      ∧ (∀ op n y, o.kind = .red op n y → o.ack = .none → s.ram.poisoned o.pa = true →
          exec (.writeQueueApply m) s = .next ((u s.ram.bytes).killIssuer o.who 6)))
    ∧ (∀ r, p.reads.findIdx? p.readReady = some i → p.reads[i]? = some r →
      let u := s.setPort m { p with reads := p.reads.eraseIdx i }
      (s.ram.poisoned r.pa = true → exec (.portRead m) s = .next (u.reply r.dev r.flow r.seq .poison))
      ∧ (s.ram.poisoned r.pa = false → s.ram.code (r.pa / 1024) = 0 → exec (.portRead m) s = .next
          (u.reply r.dev r.flow r.seq (.data ((List.range r.n).map fun j => Sparse.get 0 s.ram.bytes (r.pa + j))))))
    ∧ (1024 * i < hbmEnd →
      let q := s.port (portOf (1024 * i))
      (s.ram.code i = 0 → exec (.patrolRead i .clean) s = .next s
        ∧ exec (.patrolRead i .correctable) s = .next (s.setPort (portOf (1024 * i)) { q with
            mperr := setBits 0 32 (Nat.min (bitsAt 0 32 q.mperr + 1) (2 ^ 32 - 1)) q.mperr }))
      ∧ ∃ t, exec (.patrolRead i .uncorrectable) s = .next t ∧ t.ram.poisoned (1024 * i) = true
          ∧ bitsAt 32 32 (t.port (portOf (1024 * i))).mperr = Nat.min (bitsAt 32 32 q.mperr + 1) (2 ^ 32 - 1))

/-- The events of translation (R117, R332, R338, R344, R347, R348): a miss that found its queue full is sent again when it holds
fewer than 64; an answered miss fills the core's TLB, which keeps the entry for the access, or tells the access that it ends, by a
refusal with reason 14 or poison with 6, or that its page is not there, which the access meets when it is issued again; a core of a
firing that waits for a page parks the slot. The answer to a miss its core no longer waits for only leaves the queue (log
entry 114). A taken request joins the entry for its page, or opens one of the lowest free identifier and raises trap 0x80 at the
handler (log entry 62), or goes back. A TLBINV completes when the walks begun before it have ended, and no other store is
waited for (log entry 67). The walk is one event (log entry 65).

A write of PRQDONE (R349): it is performed only on a held entry whose trap reached the issuing context or a descendant of it, and takes that
entry away. Without DENY a waiting slot, parked by the same incarnation, is WAITING again, and a core of the hub goes on; with DENY
its actor ends with reason translation-denied (14) as long as that incarnation lives and still waits. -/
def Obligations.TranslationEvents : Prop :=
  (∀ (s : State) (id : CoreId) (m : Miss) (w : PageWant),
    let q := s.transQ (CoreId.queue m.core)
    let c := s.coreAt id
    (∀ sent, c.missings.find? (fun x => !x.2) = some (m, sent) →
      (q.queue.length < 64 → exec (.missResend id) s = .next ((s.setTransQ (CoreId.queue m.core)
          { q with queue := q.queue ++ [m] }).modCore id (Core.missSent m)))
      ∧ (64 ≤ q.queue.length → exec (.missResend id) s = .next s))
    ∧ (∀ (k : Core) (n : Nat) (i : Instr) (es : List TlbEntry) (ns : List (Miss × MissAnswer)),
        (k.rep = none → k.wait = some ⟨.miss n m false, i⟩ → k.missings = [(m, false)]
          ∧ k.missSent m = { k with wait := some ⟨.miss m.id m true, i⟩ }
          ∧ k.answered m es ns = { k with wait := none, latched := k.latched ++ es, noted := k.noted ++ ns })
        ∧ ∀ r, k.wait = none → k.rep = some r → r.wait = some ⟨.miss n m true, i⟩ → k.missings = [(m, true)]
          ∧ k.answered m es ns = { k with rep := some { r with
              wait := none, latched := r.latched ++ es, noted := r.noted ++ ns } })
    ∧ (c.absentPage = none → s.messageOf id = some m →
      let u := s.setTransQ (CoreId.queue m.core) { q with queue := q.queue.filter (· != m), taken := q.taken.filter (· != m) }
      let told (x : MissAnswer) : Prop := exec (.tlbMissAnswer id) s = .next (u.modCore id (Core.answered m [] [(m, x)]))
      ((m, true) ∉ c.missings ∨ s.ctxState m.ctx = 2 → exec (.tlbMissAnswer id) s = .next u)
      ∧ ((m, true) ∈ c.missings → s.ctxState m.ctx ≠ 2 →
      (∀ x, u.walk id.die m.ctx m.va m.kind = .ok x → u.armedJob m.ctx m.va = none →
        let e := u.composedEntry m.ctx m.va x
        exec (.tlbMissAnswer id) s = .next (u.modCore id fun k => (k.fillTlb s.tick e).answered m [e] []))
      ∧ (u.walk id.die m.ctx m.va m.kind = .denied → told (.ends 14))
      ∧ (∀ pa, u.walk id.die m.ctx m.va m.kind = .poison pa → u.ram.poisoned pa = true → told (.ends 6))
      ∧ (∀ h a f, u.walk id.die m.ctx m.va m.kind = .notResident h a f → told (.absent h a f))))
    ∧ (∀ h a f sl x, c.absentPage = some (m, h, a, f) → c.run = .firing sl → (c.slotAt sl).actor = some x →
        ∃ t, exec (.tlbMissAnswer id) s = .next t ∧ (t.coreAt id).run = .idle ∧ ((t.coreAt id).slotAt sl).st = .parked
          ∧ t.ctxs.wants = s.ctxs.wants
            ++ [⟨⟨id, sl, some x, (s.actor x).gen⟩, m.ctx, h, a / 4096 * 4096, f, !f && m.kind != .read, false⟩])
    ∧ (w.who.core = id → w.who.actor = none →
      let u : State := { s with ctxs := { s.ctxs with wants := s.ctxs.wants.filter (· != w) } }
      let same (e : PageReq) : Bool := e.handler == w.handler && e.addr == w.addr && e.walk == w.walk
      let offered (r : Res) : Prop :=
        (s.ctxs.wants.find? (fun v => decide (v.who.core = id) && !v.returned) = some w → exec (.pageRequest id) s = r)
        ∧ (s.ctxs.wants.find? (fun v => decide (v.who.core = id) && v.returned) = some w → exec (.pageRequestRetry id) s = r)
      let join (e : PageReq) : PageReq :=
        if same e && !e.waiters.contains w.who then { e with waiters := e.waiters ++ [w.who] } else e
      (s.ctxs.prq.any same = true → offered (.next { u with ctxs := { u.ctxs with prq := s.ctxs.prq.map join } }))
      ∧ (s.ctxs.prq.any same = false → s.prqAdmit w = none →
          offered (.next { u with ctxs := { u.ctxs with wants := u.ctxs.wants ++ [{ w with returned := true }] } }))
      ∧ (∀ shared i, s.ctxs.prq.any same = false → s.prqAdmit w = some shared → i < 1024 →
          (∀ e ∈ s.ctxs.prq, e.id ≠ i) → (∀ j, j < i → ∃ e ∈ s.ctxs.prq, e.id = j) →
          offered (.next { u with ctxs := { u.ctxs with
            prq := s.ctxs.prq ++ [⟨i, w.handler, w.addr, w.walk, w.write, s.partitionOf w.ctx, shared, w.ctx, [w.who], none⟩]
            traps := s.ctxs.traps ++ [⟨w.handler, 0x80, i + 2 ^ 10 * w.walk.toNat + 2 ^ 12 * w.write.toNat, dw w.addr, 0,
              s.lciOf id, none⟩] } })))
    ∧ (let ended (v : Inval) : Bool := v.walks.all fun k => !(s.transQ (CoreId.queue k.core)).taken.contains k
      exec .tlbinvComplete s = .next { s with ctxs := { s.ctxs with invals := s.ctxs.invals.eraseP ended } }))
  ∧ (∀ (s : State) (issuer : Nat) (v : DWord) (e : PageReq) (w : Waiter),
    let id := (v.extractLsb' 0 10).toNat
    let found := s.ctxs.prq.find? fun e => e.id == id
    let may (e : PageReq) : Prop := ∃ y, e.receiver = some y ∧ (y = issuer ∨ s.inSubtree issuer y = true)
    let u : State := { s with ctxs := { s.ctxs with prq := s.ctxs.prq.filter fun x => x.id != id } }
    let sl := (s.coreAt w.core).slotAt w.slot
    (found = none → s.prqdone issuer v = s)
    ∧ (found = some e → ¬may e → s.prqdone issuer v = s)
    ∧ (found = some e → may e → e.waiters = [w] →
      (v.getLsbD 10 = false →
        (w.slot = 64 → s.prqdone issuer v = u.modCore w.core fun c => { c with wait := none })
        ∧ (∀ x, w.slot < 64 → w.actor = some x → sl.st = .parked → sl.actor = some x → (s.actor x).gen = w.gen →
            s.prqdone issuer v = u.modCore w.core fun c => c.setSlot w.slot { sl with st := .waiting })
        ∧ (∀ x, w.slot < 64 → w.actor = some x → (s.actor x).gen ≠ w.gen → s.prqdone issuer v = u.modCore w.core fun c => c))
      ∧ (v.getLsbD 10 = true → ∀ x, w.slot < 64 → w.actor = some x →
        ((s.actor x).gen ≠ w.gen → s.prqdone issuer v = u)
        ∧ ((s.actor x).gen = w.gen → s.inSlot x = true → sl.st ≠ .parked → s.prqdone issuer v = u)
        ∧ ((s.actor x).gen = w.gen → s.inSlot x = false → s.prqdone issuer v = u.kill x 14)
        ∧ ((s.actor x).gen = w.gen → s.inSlot x = true → sl.st = .parked → ∃ t, s.prqdone issuer v = t
            ∧ ((s.actor x).st = .resident → (s.actor x).dev = 0 → (s.super x).sup = false →
              (t.actor x).st = .leaving ∧ (t.actor x).xreason = 14)))))

/-- The operations of the actor engine as they drain (R271, R280, R283 to R285, R287, R289, R294, R296), by a live issuer
on a target of this device that it may name: KILL ends the target with reason 1; LINK enters each in the other's table,
once; MONITOR enters the watch; UNLINK and UNMON take them out; a name that is gone answers with reason 10; SIGNAL puts
its message on its way once its release is performed; a timer is armed, or cancelled by zero cycles;
PORTCFG binds a port to an enabled port of the target; MIGRATE leaves its request; a name the issuer may not use ends it
with reason 4. The DEVICE scope of the answers of the engine (log entry 117) and the steps of a message (log entry 71) are the model's
choice. -/
def Obligations.DrainedActorOperations : Prop :=
  ∀ (s : State) (id : CoreId) (w : Issuer) (ctx : Nat) (rest : List Entry) (i x : ActorId) (n : DWord) (rel : Option Scope),
    let c := s.coreAt id
    let drains (op : ActorOp) (u : State) : Prop :=
      c.committed = ⟨.actor op, rel, w, ctx⟩ :: rest → exec (.storeBufferDrain id) s = .next (u.popCommitted id)
    let me := s.nameOf i
    let free (u : State) : State := u.modActor i fun r => { r with linkRsv := r.linkRsv - 1 }
    let named (tree : Bool) (P : Prop) : Prop := s.mayName ctx tree n = true → s.resolve n = .here x → P
    s.alive w = some i → s.issuerName w = some me →
    named true (drains (.kill n) (s.kill x 1))
    ∧ named false (s.linkFor i (s.nameOf x) .link none = none →
        (s.actor x).links.length + (s.actor x).linkRsv < 16 →
        drains (.link n) (((free s).modActor i fun r => { r with links := r.links ++ [⟨s.nameOf x, .link, 0⟩] }).modActor x fun r =>
          { r with links := r.links ++ [⟨me, .link, 0⟩] }))
    ∧ named false (s.linkFor i (s.nameOf x) .link none ≠ none → drains (.link n) (free s))
    ∧ named false (drains (.unlink n) ((s.modActor i fun r => r.dropLink (s.nameOf x) .link none).modActor x fun r =>
          r.dropLink me .link none))
    ∧ named false (∀ tag, (s.actor x).links.length + (s.actor x).linkRsv < 16 → drains (.monitor n tag)
        (((free s).modActor i fun r => { r with links := r.links ++ [⟨s.nameOf x, .watching, tag.setWidth 32⟩] }).modActor x fun r =>
          { r with links := r.links ++ [⟨me, .watchedBy, tag.setWidth 32⟩] }))
    ∧ named false (∀ tag, s.linkFor i (s.nameOf x) .watching (some (tag.setWidth 32)) ≠ none → drains (.unmon n tag) ((s.modActor i fun r => r.dropLink (s.nameOf x) .watching (some (tag.setWidth 32))).modActor x
            fun r => r.dropLink me .watchedBy (some (tag.setWidth 32))))
    ∧ (s.mayName ctx false n = true → s.resolve n = .gone →
      drains (.link n) ((free s).postExit me n 10)
      ∧ (∀ tag, drains (.monitor n tag) ((free s).post (.message me 0x02 10 n (tag.setWidth 32) [] engineFlow .device)))
      ∧ drains (.unlink n) s)
    ∧ (s.mayName ctx false n = false → drains (.link n) (s.kill i 4) ∧ drains (.unlink n) (s.kill i 4))
    ∧ (s.mayName ctx true n = false → drains (.kill n) (s.kill i 4))
    ∧ (∀ r, s.performed id (rel.getD .core) = true → s.mayName ctx false n = true → (∀ d, s.resolve n ≠ .away d) →
        drains (.exitSig n r) (s.post (.exit n me r 0 none false id.key (rel.getD .core))))
    ∧ (∀ bs, s.performed id (rel.getD .core) = true → s.msgRoom id ctx = true → s.mayName ctx false n = true →
        (∀ d, s.resolve n ≠ .away d) →
        drains (.message n bs) ((s.countMsg id ctx).post (.message n 0x03 0 me (BitVec.ofNat 32 (valueOf (bs.drop 8)))
          (bs.take 8) id.key (rel.getD .core))))
    ∧ (∀ k kl cycles tag, drains (.timer k kl cycles tag) (s.modActor i fun r => r.setTimer k
        (if cycles = 0 then Timer.none else ⟨cycles, tag, kl, true⟩)))
    ∧ (∀ k d, n ≠ 0 → named false (((s.actor x).inPort d).en = true → drains (.portcfg k n d) (s.modActor i fun r => r.setOut k
        { r.outPort k with en := true, name := n, dport := BitVec.ofNat 2 d, dsize := ((s.actor x).inPort d).size })))
    ∧ (∀ v, named true (drains (.migrate n v) (s.modActor x fun r =>
        { r with mig := some ⟨bitsAt 0 14 v, bitsAt 18 12 v, (.here w), false, false⟩ })))

/-- The death of an actor (R126, R156, R290 to R292): its signals go once its entries have drained and its stores are
performed: to each link an exit signal with the reason, to each watcher a message of KIND 2, on the flow of its core; its
table empties; a supervisor is handed the death, and the traps that index 0 held look for another handler; then its slot is
reclaimed: the beads and windows it held are free, the slot is EMPTY, the index is free unless a restart is to come, the requests that waited
at its ports go, and its record is written back. An actor of another
device's table sends the same signals, and its home learns of the death once the slot is free, where the requests that waited at its ports go
too. The DEVICE scope of these signals is the model's choice (log entry 117), and so is the moment of the word home (log entry 118).

What arrives at an actor (R285, R289, R291, R297, R299, R359): of the mail whose turn it is, an exit signal of reason 0
does nothing, another ends an actor that does not trap exits, and becomes a message for one that does; a message enters
the mailbox, an actor without a signal entry discards it, and a full mailbox ends the actor with reason 8; a timer that
expires sends its signal, or ends its actor with reason 9; the oldest reply to a CAPCALL that can go enters through its reservation, and
goes to the device its caller has moved to; forwarded requests are granted at the new place, and an acknowledged entry goes; a new message
window counts anew. The DEVICE scope of what the engine sends is log entry 117's choice, and that a timer stands still while its context is
saved log entry 122's. -/
def Obligations.ArrivalsAndDeath : Prop :=
  (∀ (s : State) (x : ActorId),
    let r := s.actor x
    let signals := (r.links.filter fun l => l.kind == .link).map (fun l => Mail.exit l.peer (s.nameOf x) r.xreason 0 none true r.core.key .device)
      ++ (r.links.filter fun l => l.kind == .watchedBy).map (fun l =>
        Mail.message l.peer 0x02 r.xreason (s.nameOf x) l.tag [] r.core.key .device)
    (s.deathReady x = true → s.jobOfRoot x = none → s.ctxState x.ctx ≠ 4 →
      ∃ t, exec (.deathSignals x) s = .next t
        ∧ (t.actor x).links = [] ∧ (t.actor x).linkRsv = 0 ∧ (t.actor x).death = some .reclaim
        ∧ t.acts.mail = s.acts.mail ++ signals
        ∧ t.acts.deaths = s.acts.deaths ++
            (if x.own && r.super != 0 && !r.quiet then [⟨s.idOf r.super, s.nameOf x, r.xreason⟩] else [])
        ∧ t.ctxs.traps = (if x.own = true ∧ x.idx = 0 then
            s.ctxs.traps.map fun m => if m.holder = some x.ctx then { m with holder := none } else m else s.ctxs.traps)
        ∧ t = { s with
            acts := { s.acts with tab := t.acts.tab, mail := t.acts.mail, deaths := t.acts.deaths }
            ctxs := { s.ctxs with traps := t.ctxs.traps } })
    ∧ (s.deathReady x = false → exec (.deathSignals x) s = .next s)
    ∧ (s.reclaimReady x = true → s.inSlot x = true → r.st = .leaving →
        (∀ d ∈ s.acts.deaths, d.dead ≠ s.nameOf x) → Sparse.wfFrom .free 0 (s.coreAt r.core).beads = true →
      ∃ u : State, exec (.slotReclaim x) s = .next (if x.own then u.writeBack x
          else u.enqueueReq r.core.key (s.homeOf x) x.ctx .none (.died (s.nameOf x) r.xreason))
        ∧ (u.actor x).st = .free ∧ (u.actor x).death = none
        ∧ ((u.coreAt r.core).slotAt r.slot) = Slot.none
        ∧ (∀ k, (u.coreAt r.core).bead k = (match (s.coreAt r.core).bead k with
            | .owned n => if n = r.slot then .free else .owned n
            | .transit n => if n = r.slot then .free else .transit n
            | b => b))
        ∧ (∀ p : Fin 4, (u.actor x).ins[p].asks = [])
        ∧ ∀ y, (u.coreAt y).mem = (s.coreAt y).mem)
    ∧ (s.reclaimReady x = false → exec (.slotReclaim x) s = .next s))
  ∧ (∀ (s : State) (x : ActorId) (k : Bool) (id : CoreId) (cl : Nat),
    let r := s.actor x
    let taken (m : Mail) : State := { s with acts := { s.acts with mail := s.acts.mail.erase m } }
    let received (u : State) (bs : List Byte) (sc : Scope) (res : Res) : Prop :=
      (r.sge = false → res = .next u)
      ∧ (r.sge = true → r.mcount + r.mrsv < 16 → res = .next ((u.modCore r.core fun c =>
          c.store ((512 * r.mbase + 64 * ((r.mhead + r.mcount) % 16)) % 2 ^ 18) bs).modActor x fun r =>
            { r with mcount := r.mcount + 1, mscopes := r.mscopes ++ [sc] }))
      ∧ (r.sge = true → 16 ≤ r.mcount + r.mrsv → res = .next (u.kill x 8))
    (∀ dst frm reason tag timer link src sc, s.nextMail true s.acts.mail [] = some (.exit dst frm reason tag timer link src sc) →
      let u := taken (.exit dst frm reason tag timer link src sc)
      (s.resolve dst = .gone → exec .exitSignalArrival s = .next u)
      ∧ (s.resolve dst = .here x →
        (r.tx = false → reason = 0 → exec .exitSignalArrival s = .next u)
        ∧ (r.tx = false → reason ≠ 0 → exec .exitSignalArrival s = .next (u.kill x reason))
        ∧ (r.tx = true → received u (mailBytes 0x01 reason frm tag (timer.elim [] fun k => bytesOf 8 k)) sc
            (exec .exitSignalArrival s))))
    ∧ (∀ dst kind reason w1 tag body src sc, s.nextMail false s.acts.mail [] = some (.message dst kind reason w1 tag body src sc) →
      let u := taken (.message dst kind reason w1 tag body src sc)
      (s.resolve dst = .gone → exec .controlMessageArrival s = .next u)
      ∧ (s.resolve dst = .here x → received u (mailBytes kind reason w1 tag body) sc (exec .controlMessageArrival s)))
    ∧ ((r.timer k).arm = true → r.st ≠ .leaving → r.st ≠ .migrating → r.dev = 0 → s.inSlot x = true →
      let u := s.modActor x fun r => r.setTimer k Timer.none
      ((r.timer k).kl = true → exec (.timerExpiry x k) s = .next (u.kill x 9))
      ∧ ((r.timer k).kl = false → exec (.timerExpiry x k) s = .next
          (u.post (.exit (s.nameOf x) (s.nameOf x) 9 (r.timer k).tag (some k.toNat) false engineFlow .device))))
    ∧ ((r.timer k).arm = false ∨ r.dev ≠ 0 ∨ s.inSlot x = false → exec (.timerExpiry x k) s = .next s)
    ∧ (∀ c, s.acts.capcalls.find? s.replyReady = some c → c.reserved = true → c.forwarded = false →
        let u : State := { s with acts := { s.acts with capcalls := s.acts.capcalls.erase c } }
        let bs := mailBytes 0x04 0 (dw c.index) c.tag (bytesOf 8 c.status ++ c.result)
        let spent := u.modActor x fun r => { r with mrsv := r.mrsv - 1 }
        (s.resolve c.caller = .here x → r.sge = true →
          exec .capcallReply s = .next ((spent.modCore r.core fun k =>
              k.store ((512 * r.mbase + 64 * ((r.mhead + r.mcount) % 16)) % 2 ^ 18) bs).modActor x fun r =>
            { r with mcount := r.mcount + 1, mscopes := r.mscopes ++ [Scope.device] }))
        ∧ (s.resolve c.caller = .here x → r.sge = false → exec .capcallReply s = .next spent)
        ∧ (∀ d, s.resolve c.caller = .away d →
            exec .capcallReply s = .next (u.enqueueReq engineFlow d c.ctx .none (.message c.caller bs .device))))
    ∧ (s.acts.capcalls.find? s.replyReady = none → exec .capcallReply s = .next s)
    ∧ (s.acts.forwards.all (fun f => decide (f.core ≠ id)) = true → exec (.forwardingRedirect id) s = .next s)
    ∧ (∀ f, s.acts.forwards = [f] → f.core = id →
        exec (.forwardingRedirect id) s = .next (s.grantAll f.actor)
        ∧ (f.actor.own = true ∨ (s.actor f.actor).dev = 0 →
            exec (.directoryUpdateAcknowledged id) s = .next { s with acts := { s.acts with forwards := [] } })
        ∧ (f.actor.own = false → (s.actor f.actor).dev ≠ 0 → exec (.directoryUpdateAcknowledged id) s =
            .next ({ s with acts := { s.acts with forwards := [] } }.modActor f.actor fun r => { r with st := .free, dev := 0 })))
    ∧ (let keep (e : Nat × Nat) : Bool := e.1 / 4096 != cl
      exec (.messageWindow cl) s = .next { s with ctxs := { s.ctxs with msgs := s.ctxs.msgs.filter keep } }))

/-- The choice and the start of a firing (R88 to R92, R98, R163, R298, R364, Table 03.7): the firing unit takes, of the ready slots,
one of the greatest context priority, then of the greatest rank, and of those the first above its pointer. A data
firing acquires at the widest scope of its tiles (R167) and starts at its data entry with its ports' ring heads in s1 to s4; a signal firing
acquires at the scope of the oldest message and starts at the signal entry with SF set and that message's address in s1, at privilege 1 with
TCAUSE and TADDR of the trap where it is a trap message. Either has its state, its firing count and its parameter in s5 to s7, every
other scalar register zero, RM nearest-even, no flag, no other trap or mode bit left, the slot running, an implicit region
open at the entry, and every SENT zero; a resumed one takes its record back, its vector
live-ins and predicates from the actor's save area (R101). What an acquire forbids a core to meet is the model's own bookkeeping
(DESIGN CHOICE, log entry 31), the scope that the engines' mail carries a reading (DEDUCED, log entry 117), and so are CPRI and RP
of a resumed firing (DEDUCED, log entry 29). -/
def Obligations.FiringChoiceAndStart : Prop :=
  ∀ (s : State) (id : CoreId) (n : Nat) (x : ActorId) (signal : Bool),
    let c := s.coreAt id
    let r := s.actor x
    let far (m : Nat) : Nat := (m + 63 - c.pointer % 64) % 64
    let ring (i : Nat) : DWord := if (r.inPort i).en then dw ((512 * (r.inPort i).base.toNat
      + (r.inPort i).head * (64 * 2 ^ (r.inPort i).size.toNat)) % 2 ^ 18) else 0
    let box := (512 * r.mbase + 64 * (r.mhead % 16)) % 2 ^ 18
    let head : List DWord := if signal then [dw box, 0, 0, 0] else [ring 0, ring 1, ring 2, ring 3]
    let args : List DWord := 0 :: head ++ [if r.nstate = 0 then 0 else dw (512 * r.stbase), r.firings, r.param]
    let entry := if signal then r.entryS else r.entryD
    let regs : Regs := { c.regs with
      s := Vector.ofFn fun i : Fin 32 => args.getD i.val 0
      rm := .rne
      flags := 0
      q4 := if r.q4d then r.q4 else c.regs.q4 }
    let msg := c.load box 16
    let w0 := dw (natOf (msg.take 8))
    let trap := signal && bitsAt 0 8 w0 == 6
    let tsw : Tsw := { Tsw.reset with sf := signal, priv := if trap then 1 else 0, cpri := BitVec.ofNat 2 (s.ctxPri x.ctx) }
    let traps : TrapRegs := { c.traps with
      thnd := if r.tre then r.entryT else 0
      tcause := if trap then mkCause (bitsAt 32 32 w0) 0 (bitsAt 8 8 w0) else c.traps.tcause
      taddr := if trap then dw (natOf (msg.drop 8)) else c.traps.taddr }
    let sc := if signal then r.mscopes.headD .core else scopeOf ((r.ins.toList.map IPort.acquires).foldl Nat.max 0)
    let k := (s.podAcquire id sc).coreAt id
    (s.chosenSlot id = some n → ∃ k, s.slotKey id n = some k ∧ n < 64
      ∧ ∀ m k', m < 64 → s.slotKey id m = some k' → k' ≤ k ∧ (k' = k → far n ≤ far m))
    ∧ (s.chosenSlot id = none → ∀ m, m < 64 → s.slotKey id m = none)
    ∧ (c.run = .idle → id.regions = true → s.chosenSlot id = some n → (c.slotAt n).actor = some x →
      (s.slotRank id n = some (if signal then 2 else 1) → ∃ t, exec (.firingChoice id) s = .next t
        ∧ t.coreAt id = { c with
            slots := Sparse.set Slot.none c.slots n ⟨.running, some x, none⟩, run := .firing n, pointer := n, pc := entry
            regs := regs, tsw := tsw, traps := traps, selfn := s.nameOf x, slotReg := BitVec.ofNat 6 n, wait := none
            taken := 0, latched := [], noted := [], got := [], region := ⟨entry, 0xFFFFFFFE, 0, regs, tsw, traps⟩
            since := k.since, seen := k.seen, podEpoch := k.podEpoch }
        ∧ (sc = .core → k = c) ∧ (sc ≠ .core → k.since = s.ram.oldNext ∧ k.seen = [])
        ∧ (sc = .pod ∨ sc = .system → k.podEpoch = s.fab.epoch + 1)
        ∧ t.actor x = { r with outs := r.outs.map fun p => { p with sent := 0 } }
        ∧ t = { s with
            core := t.core, others := t.others, acts := { s.acts with tab := t.acts.tab }
            fab := { s.fab with epoch := t.fab.epoch } })
      ∧ (∀ o q, (c.slotAt n).resume = some o → s.resumeVectors id x o = .ok q → ∃ t, exec (.firingChoice id) s = .next t
        ∧ t = s.setCore id (t.coreAt id)
        ∧ (t.coreAt id).run = .firing n ∧ (t.coreAt id).slotAt n = ⟨.running, some x, none⟩
        ∧ (t.coreAt id).pc = q.rcd.entry ∧ (t.coreAt id).regs = restoreRegs q.rcd c.regs
        ∧ (t.coreAt id).selfn = s.nameOf x ∧ (t.coreAt id).region = q.rcd))
    ∧ (s.chosenSlot id = none → exec (.firingChoice id) s = .next s)

/-- R89, whole: a WAITING slot whose context holds the slice and that no migration holds back is ready with a resume
pending, which ranks above a message in its mailbox, which ranks above every configured port holding its rate; under
none of these it is not ready. -/
def Obligations.ReadySlotsAndTheirRank : Prop :=
  ∀ (s : State) (id : CoreId) (n : Nat) (x : ActorId),
    let sl := (s.coreAt id).slotAt n
    let fed : Prop := ∀ i : Fin 4, (s.actor x).ins[i].en = true →
      (s.actor x).ins[i].ratem1.toNat + 1 ≤ (s.actor x).ins[i].filled
    sl.actor = some x → sl.st = .waiting → s.holdsSlice id x.ctx = true →
    (∀ g, (s.actor x).mig = some g → g.started = false) →
    (sl.resume.isSome = true → s.slotRank id n = some 3)
    ∧ (sl.resume = none → 0 < (s.actor x).mcount → s.slotRank id n = some 2)
    ∧ (sl.resume = none → (s.actor x).mcount = 0 → fed → s.slotRank id n = some 1)
    ∧ (sl.resume = none → (s.actor x).mcount = 0 → ¬ fed → s.slotRank id n = none)

/-- Migration (R296, R297): it starts once the actor's slot waits with nothing to resume; at the move the actor stands on
the core asked for, its old slot is empty with a forwarding entry, and the issuer has its notice, of code 1, or of code 2
where the actor stays; while a page of its image is awaited it stays as it is; to another device its contents leave, and
the answer ends the move: here it keeps no timer, link or reservation, what waited at its ports follows it, and its home learns
its place. The notice goes to a core, a name, or another device's monitor. What crosses and when is the
model's choice (log entries 72, 118).

The restart engine and jobs (R313 to R318, R324 to R326): a death that matches no entry frees its index; a child whose
RMASK does not restart it ends; another waits for its restart, unless the rate is exceeded, which ends the supervisor
with reason 16; a group waits for all its deaths, and those of its members that RMASK does not restart end in their turn; a restart that builds
gives the child its next name and one restart more, and the supervisor notice 16;
a torn-down job is launched again, or fails with notice 21; a finished one copies its frames and ends with notice 19. When
records are read (log entries 75, 76), the order of checks (78), jobs of a context in reset (119) and the reading of all-for-one (79, 80) are the
model's choice.

The tables (R305, R314, R317, R321, Tables 11.4, 11.6): a child that ends leaves its entry free or DEAD with
its reason, and its supervisor has notice 17; a group's members are restarted in the order of their entries, each with the reason of its
death, and none of those deaths is an event any more; a launched job runs under its root's name, and one that ends says so; its launcher is told. -/
def Obligations.MigrationRestartsAndJobs : Prop :=
  (∀ (s : State) (x : ActorId) (g : Migration) (dest : CoreId),
    let r := s.actor x
    (s.migrationReady x = true → r.mig = some g → exec (.migrationStart x) s
        = .next (s.modActor x fun r => { r with mig := some { g with started := true } }))
    ∧ (s.migrationReady x = false → exec (.migrationStart x) s = .next s)
    ∧ (s.moveReady x = true → r.mig = some g → g.core < 2 ^ 14 → g.dev = s.thisDev → s.coreOfLci g.core = some dest →
      let stay (t : State) : State := (t.modActor x fun r => { r with mig := none }).tellMove g.asker (t.nameOf x) 2
      (∀ u, s.belongs x.ctx dest = true → s.moveTo x [dest] = .ok u →
        exec (.migrationMove x) s = .next ((u.grantAll x).tellMove g.asker (u.nameOf x) 1)
        ∧ (u.actor x).core = dest ∧ (u.actor x).mig = none ∧ (u.actor x).gen = r.gen
        ∧ u.acts.forwards = s.acts.forwards ++ [⟨r.core, r.slot, x⟩]
        ∧ (u.coreAt r.core).slotAt r.slot = Slot.none)
      ∧ (∀ e t, s.belongs x.ctx dest = true → s.moveTo x [dest] = .fail e t →
          exec (.migrationMove x) s = .next (stay t))
      ∧ (∀ t, s.belongs x.ctx dest = true → s.moveTo x [dest] = .wait t →
          exec (.migrationMove x) s = .next t)
      ∧ (s.belongs x.ctx dest = false → exec (.migrationMove x) s = .next (stay s)))
    ∧ (s.moveReady x = true → r.mig = some g → g.core < 2 ^ 14 → g.dev ≠ s.thisDev →
      (s.peerUp g.dev = false → exec (.migrationMove x) s
        = .next ((s.modActor x fun r => { r with mig := none }).tellMove g.asker (s.nameOf x) 2))
      ∧ (∀ t q, s.peerUp g.dev = true →
          s.trySend r.core.key x.ctx g.dev ⟨.root, none, 0⟩ (.move x) (s.moveRequest x g.core) = (t, some q) →
          exec (.migrationMove x) s
            = .next (t.modActor x fun r => { r with st := .migrating, mig := some { g with sent := true } })))
    ∧ (s.moveReady x = false → exec (.migrationMove x) s = .next s)
    ∧ (r.st = .migrating → r.mig = some g → ∀ d bs, ∃ u : State, s.moveAnswer x (s.nameOf x) d (.data bs)
          = (u.departed x r.core r.slot).tellMove g.asker (s.nameOf x) 1
        ∧ u.actor x = { r with
            st := .resident, mig := none, dev := d + 1, place := natOf bs, timers := Vector.replicate 2 Timer.none
            links := [], linkRsv := 0, mrsv := 0, ins := r.ins.map fun p => { p with asks := [] } }
        ∧ (u.coreAt r.core).slotAt r.slot = Slot.none
        ∧ (∀ p f q gen bs, (r.inPort 0).asks = [.fabric p f q gen bs] → (∀ i : Nat, 0 < i → i < 4 → (r.inPort i).asks = []) →
            u.fab.pending = s.fab.pending
              ++ [⟨engineFlow, d, x.ctx, .relay p f q, .tile (s.nameWith x gen) 0 bs⟩])
        ∧ (x.own = false → u.departed x r.core r.slot = { u with
            acts := { u.acts with forwards := u.acts.forwards ++ [⟨r.core, r.slot, x⟩] }
            fab := { u.fab with pending := u.fab.pending
              ++ [⟨engineFlow, s.homeOf x, x.ctx, .none, .located (s.nameOf x) (2 ^ 20 * d + natOf bs)⟩] } }))
    ∧ (r.st = .migrating → r.mig = some g → ∀ d, s.moveAnswer x (s.nameOf x) d .refused
        = (s.modActor x fun r => { r with st := .resident, mig := none }).tellMove g.asker (s.nameOf x) 2)
    ∧ ∀ n code y, (s.tellMove (.name n) y code).acts.mail
          = s.acts.mail ++ [.message n 0x05 0 y 0 (bytesOf 8 code) engineFlow .device]
      ∧ (∀ d p, (s.tellMove (.service d p) y code).fab.pending
          = s.fab.pending ++ [⟨engineFlow, d, 0, .none, .migrationNotice p (mailBytes 0x05 0 y 0 (bytesOf 8 code))⟩])
      ∧ (∀ w me, w.core.regions = true → s.issuerName w = some me → (s.tellMove (.here w) y code).acts.mail
          = s.acts.mail ++ [.message me 0x05 0 y 0 (bytesOf 8 code) engineFlow .device]))
  ∧ (∀ (s : State) (x : ActorId) (e i : Nat) (j : Job),
    ((∃ q ∈ s.acts.restarts, q.super = x) → exec (.restartEvent x) s = .next s)
    ∧ (∀ d, (∀ q ∈ s.acts.restarts, q.super ≠ x) → s.acts.deaths.find? (fun d => decide (d.super = x)) = some d → s.lostRecord x = none →
      let u := { s with acts := { s.acts with deaths := s.acts.deaths.erase d } }.syncSuper x
      let y := s.idOf d.dead
      let r := u.super x
      let rm (c : Child) : Bool := bitAt (Nat.min d.reason 17) (field8 c.spec 0x58)
      let up : Prop := ((s.actor x).st = .resident ∨ (s.actor x).st = .migrating) ∧ r.sup = true
        ∧ (s.jobOf x).map (·.jstate) ≠ some 2
      (r.children.find? (fun c => c.2.name == d.dead) = none → exec (.restartEvent x) s = .next (u.freeIndexOf y))
      ∧ (∀ c, r.children.find? (fun c => c.2.name == d.dead) = some (e, c) → up →
        let v := u.modEntry x fun r => r.setField (childWord e 1) 16 8 d.reason
        (rm c = false → exec (.restartEvent x) s = .next (v.endChild x e d.reason))
        ∧ (rm c = true → v.rateCheck x = none → exec (.restartEvent x) s = .next ((v.freeIndexOf y).kill x 16))
        ∧ (∀ w, rm c = true → v.rateCheck x = some w → bitsAt 0 2 (r.word 0) ≠ 1 → exec (.restartEvent x) s = .next
            { w.awaitRestart y with acts := { (w.awaitRestart y).acts with
              restarts := (w.awaitRestart y).acts.restarts ++ [⟨x, e, d.reason, d.dead, false, false, [y]⟩] } })
        ∧ (∀ w, rm c = true → v.rateCheck x = some w → bitsAt 0 2 (r.word 0) = 1 → exec (.restartEvent x) s = .next
            (w.restartGroup x d.dead d.reason ((r.children.filter fun k => specGroup k.2.spec == specGroup c.spec).map (·.1))))))
    ∧ (∀ q, s.restartReady x e = some q → s.lostRecord x = none →
      let u := { s with acts := { s.acts with restarts := s.acts.restarts.erase q } }.syncSuper x
      let y := s.idOf q.dead
      let c := (u.super x).child e
      let ids := (if s.belongs y.ctx (s.actor y).core then [(s.actor y).core] else []) ++ s.candidates y.ctx
      c.used = true → (s.actor y).st = .restarting → s.nameOf y = q.dead →
      (q.ends = true → exec (.restartSequence x e) s = .next (u.endChild x e 1)) ∧
      ∀ t, q.ends = false → u.build (s.actor x).core y (nameGen (s.nextName y)) (field c.spec 0x10 8) (specK c.spec)
          (s.childOf x c.spec) (specStart c.spec) ids = .ok t →
        ∃ v body, exec (.restartSequence x e) s = .next v
          ∧ (v.super x).word (childWord e 0) = s.nextName y
          ∧ bitsAt 32 32 ((v.super x).word (childWord e 1)) = Nat.min (c.restarts + 1) (2 ^ 32 - 1)
          ∧ v.acts.mail = t.acts.mail ++ [.message (t.nameOf x) 0x05 0 (s.nextName y) 0 (bytesOf 8 16 ++ body) engineFlow .device]
          ∧ v.actor y = { t.actor y with gen := nameGen (s.nextName y) }
          ∧ (∀ z : ActorId, z.key ≠ y.key → v.actor z = t.actor z)
          ∧ ∀ z, { v.coreAt z with tlb := (t.coreAt z).tlb } = t.coreAt z)
    ∧ (s.restartReady x e = none → exec (.restartSequence x e) s = .next s)
    ∧ (∀ q, s.restartReady x e = some q → q ∈ s.acts.restarts ∧ q.super = x ∧ q.entry = e
        ∧ ∀ y ∈ q.waitFor, (s.actor y).death = none ∧ (s.actor y).dev = 0)
    ∧ (s.acts.jobs[i]? = some j →
      (j.jstate = 2 → s.jobDone j = true → s.ctxState j.ctx = 1 ∨ s.ctxState j.ctx = 3 →
        let u := (s.clearJobWord j).disarm j
        let port := s.jobCore j
        ∀ b, u.engGet port j.ctx j.va 128 = .ok b →
          (field b 6 1 ≤ j.relaunches → exec (.jobTeardown i) s = .next (u.jobEnd j 4 21 j.reason))
          ∧ (j.relaunches < field b 6 1 → ∀ t y gs fs, u.shadowsOf port j.ctx b = .ok (gs, fs) →
              u.placeRoot port j.ctx j.pa b = .ok (t, y) →
              exec (.jobTeardown i) s = .next (t.launched port.die
                { j with relaunches := j.relaunches + 1, armed := false, written := [], granules := gs, frames := fs } y
                20 j.reason)))
      ∧ (s.commitReady j = true → exec (.jobShadowCommit i) s = .next ((((s.commitShadows j).1.clearJobWord j).disarm j).jobEnd j 3 19
          (if (s.commitShadows j).2 then 6 else 0)))
      ∧ (s.commitReady j = false → exec (.jobShadowCommit i) s = .next s)))
  ∧ (∀ (s : State) (x : ActorId) (e why : Nat) (j : Job),
    let c := (s.super x).child e
    let entry (u : State) (k : Nat) : DWord := (u.super x).word (32 + 16 * k + 1)
    let bare (q : Job) : Job := { q with written := [] }
    let notice (dst subject : DWord) (code : Nat) (body : List Byte) : List Mail :=
      if dst = 0 then [] else [.message dst 0x05 0 subject 0 (bytesOf 8 code ++ body) engineFlow .device]
    (why < 256 → s.nameOf x ≠ 0 →
      let t := s.endChild x e why
      (specRel c.spec = true → bitAt 5 (entry t e) = false)
      ∧ (specRel c.spec = false → bitAt 6 (entry t e) = true ∧ bitsAt 16 8 (entry t e) = why
          ∧ bitAt 5 (entry t e) = bitAt 5 (entry s e))
      ∧ t.acts.mail = s.acts.mail ++ notice (s.nameOf x) c.name 17 (bytesOf 8 (e + 2 ^ 8 * why))
      ∧ (s.nameOf (s.idOf c.name) = c.name → (s.actor (s.idOf c.name)).death = none → (t.actor (s.idOf c.name)).st = .free))
    ∧ (∀ dead group,
      let t := s.restartGroup x dead why group
      let live := group.filter fun k => !((s.super x).child k).dead
      let name (k : Nat) : DWord := ((s.super x).child k).name
      (∃ l, t.acts.restarts = l ++ live.map fun k =>
          ⟨x, k, if name k = dead then why else 1, name k, true,
            name k != dead && !specRestarts ((s.super x).child k).spec 1, live.map fun m => s.idOf (name m)⟩)
      ∧ ∀ d ∈ t.acts.deaths, d.super = x → ∀ k ∈ group, d.dead ≠ name k)
    ∧ (∀ die y code w32,
      let t := s.launched die j y code w32
      let k : Job := { j with
        root := y, rootName := s.nameOf y, jstate := 1, normalEnd := false, written := [], armed := !j.granules.isEmpty }
      t.acts.jobs.map bare = ((s.acts.jobs.filter fun q => q.pa != j.pa) ++ [k]).map bare
      ∧ (t.super y).word 2 = dw j.va
      ∧ t.acts.mail = s.acts.mail
          ++ notice j.launcher (s.nameOf y) code (bytesOf 8 w32 ++ bytesOf 8 j.va ++ bytesOf 8 j.relaunches))
    ∧ ∀ st code w32,
      let t := s.jobEnd j st code w32
      t.acts.jobs.map bare = s.acts.jobs.map (fun q => bare (if q.pa = j.pa then { q with jstate := st } else q))
      ∧ t.acts.mail = s.acts.mail
          ++ notice j.launcher j.rootName code (bytesOf 8 w32 ++ bytesOf 8 j.va ++ bytesOf 8 j.relaunches))

/-- Revocation and changes of contexts (R367, R368, R380, R382): a drained revocation frees the numbers of the whole
subtree, leaves no actor of it and no pending one, and touches no other context's block; until then its waiting SENDs
are discarded; a change of interval takes its next step, first the scrub of the added cores by the parent, and ends with notice 11, the context live again; an error charged
to a context revokes its fault domain and raises trap 0x84 at that domain's parent. Of the cores added, those that no sibling holds pass from
the parent and are scrubbed; the others keep what stands on them and are shared from now on. When a change of interval counts for its
cores (log entry 84), and that waiting SENDs are discarded as a move of their own (log entry 91), is the model's choice.

Trap messages and service cores (R348, R360, R363, R364, R384, R385): the first message that can be delivered goes to
the ring of a service core or of the root monitor, at TAIL, which rises, or into its handler's mailbox; a fault of a
service core stops it and raises 0x81 for code 0x42, else 0x82, with its number and the code; an uncorrectable error of
its state sets RST of the functions bound there, revokes its partition and raises 0xC0, and one of the root monitor's resets the device. Whose
handler takes a message while index 0 restarts is the model's reading (log entries 92, 124). -/
def Obligations.ContextsTrapsAndServiceCores : Prop :=
  (∀ (s : State) (x : Nat),
    let u := s.dropTenants (s.subtree x)
    ((s.ctxs.revoking.any fun r => r.ctx == x) = true → u.drained (s.subtree x) = true →
      ∃ t, exec (.revocationComplete x) s = .next t
        ∧ (∀ y, y ∈ s.subtree x → t.ctxState y = 0)
        ∧ (∀ y, y ∉ s.subtree x → Sparse.get [] t.ctxs.ccb y = Sparse.get [] s.ctxs.ccb y)
        ∧ (∀ e ∈ t.acts.tab, (ActorId.ofKey e.1).ctx ∉ s.subtree x)
        ∧ (∀ r ∈ t.ctxs.revoking, r.ctx ≠ x))
    ∧ ((s.ctxs.revoking.any fun r => r.ctx == x) = false ∨ u.drained (s.subtree x) = false →
        exec (.revocationComplete x) s = .next u)
    ∧ (∀ r, s.ctxs.resizing.find? (fun r => r.ctx == x) = some r →
      (s.resizeStep r = .grow → exec (.resize x) s = .next (s.grow r)
        ∧ (∀ id, id ∈ s.passingCores r ↔ id ∈ s.addedCores r ∧ ∀ y ∈ s.tenants id, y = s.ctxParent r.ctx)
        ∧ (s.grow r).ctxs.resizing = s.ctxs.resizing.map (fun q => if q = r then { q with grown := true } else q)
        ∧ ∀ p, let id := CoreId.work p
          let c := s.coreAt id
          let d := (s.grow r).coreAt id
          (id ∈ s.passingCores r → d.mem = [] ∧ d.slots = [] ∧ d.beads = [] ∧ d.committed = [] ∧ d.regs = Regs.reset
            ∧ d.recvq = c.recvq.filter fun m => m.ctx != s.ctxParent r.ctx)
          ∧ (id ∉ s.passingCores r → d.mem = c.mem ∧ d.slots = c.slots ∧ d.beads = c.beads ∧ d.committed = c.committed ∧ d.regs = c.regs
            ∧ d.recvq = c.recvq))
      ∧ (r.grown = false → s.resizeStep r = if s.growReady r then .grow else .wait)
      ∧ (∀ y, s.resizeStep r = .begin y → exec (.resize x) s
          = .next (s.modActor y fun q => { q with mig := some ⟨2 ^ 14, s.thisDev, .here s.who, true, false⟩ }))
      ∧ (∀ y v, s.resizeStep r = .move y → s.moveTo y (s.candidates x) = .ok v → exec (.resize x) s = .next (v.grantAll y))
      ∧ (∀ y e v, s.resizeStep r = .move y → s.moveTo y (s.candidates x) = .fail e v → ∃ t, exec (.resize x) s = .next t
          ∧ t.acts = (v.kill y 15).acts ∧ t.core = (v.kill y 15).core ∧ t.others = (v.kill y 15).others)
      ∧ (∀ y v, s.resizeStep r = .move y → s.moveTo y (s.candidates x) = .wait v → exec (.resize x) s = .next v)
      ∧ (s.resizeStep r = .drop → exec (.resize x) s = .next ((s.removedCores r).foldl (fun v id =>
          v.dropWaiting id (fun y => y == r.ctx) true) s))
      ∧ (s.resizeStep r = .wait → exec (.resize x) s = .next s)
      ∧ (s.resizeStep r = .finish → s.ctxLive x = true → ∃ t, exec (.resize x) s = .next t ∧ t.ctxState x = 1
          ∧ t.ctxs.resizing = s.ctxs.resizing.erase r
          ∧ ∀ y, y ≠ x → Sparse.get [] t.ctxs.ccb y = Sparse.get [] s.ctxs.ccb y))
    ∧ (s.ctxs.resizing.find? (fun r => r.ctx == x) = none → exec (.resize x) s = .next s)
    ∧ (let v := { s with ctxs := { s.ctxs with failed := s.ctxs.failed.filter (· != x) } }
      (s.faultDomain x = none → exec (.contextFailed x) s = .next v)
      ∧ ∀ y, s.faultDomain x = some y → exec (.contextFailed x) s
          = .next ((v.revoke y []).raiseTrap (s.ctxParent y) 0x84 y 0 0 0)))
  ∧ (∀ (s : State) (m : TrapMsg) (p code : Nat),
    (s.ctxs.traps = [m] → m.holder = none → m.code ≠ 0x80 →
      (∀ id, s.route 9 m.target = .ring id →
        let r := Sparse.get (0, 0) s.ctxs.rings (CoreId.ringBase id)
        ((r.1 + 512 - r.2) % 512 ≠ 256 → exec .trapMessageDelivery s = .next ({ s with ctxs := { s.ctxs with
            rings := Sparse.set (0, 0) s.ctxs.rings (CoreId.ringBase id) ((r.1 + 1) % 512, r.2)
            traps := [] } }.modCore id fun c => c.store (0x30000 + 64 * (r.1 % 256)) m.bytes))
        ∧ ((r.1 + 512 - r.2) % 512 = 256 → exec .trapMessageDelivery s = .next s))
      ∧ (∀ x, s.route 9 m.target = .actor x → exec .trapMessageDelivery s = .next { s.mailWrite x m.bytes .core with
          ctxs := { s.ctxs with traps := [{ m with holder := some x.ctx }] } })
      ∧ (s.route 9 m.target = .wait → exec .trapMessageDelivery s = .next s))
    ∧ (s.ctxs.traps = [] → exec .trapMessageDelivery s = .next s)
    ∧ (p < 24 → code < 256 → exec (.serviceCoreFault p code) s = .next { s.setCore (.service p)
        { s.coreAt (.service p) with run := .stopped, wait := none } with ctxs := { s.ctxs with
          traps := s.ctxs.traps ++ [⟨0, if code = 0x42 then 0x81 else 0x82, p + 256 * code, 0, 0, 0, none⟩] } })
    ∧ (p < 24 → s.ctxLive (p + 1) = false → exec (.serviceUncorrectable (.service p)) s
        = .next (s.raiseTrap 0 0xC0 p 0 0 0))
    ∧ (p < 24 → s.ctxLive (p + 1) = true → exec (.serviceUncorrectable (.service p)) s
        = .next (((s.resetFuncs (p + 1)).revoke (p + 1) []).raiseTrap 0 0xC0 p 0 0 0))
    ∧ exec (.serviceUncorrectable .root) s = .next s.deviceReset)

/-- Slices (R371 to R375, R377, R379): at T0 a shared core that runs begins to end its slice; at the save point a firing
is aborted, the departing context's handler starts at privilege 1 with s1 and s2 its number and its debt, or the state
is saved; a handler that exceeds its budget is forced to its save; without a save point by the limit the context's
actors of the core end with reason 15 and trap 0x85 rises; the scrub then leaves the core as R369 says, and the next
context, without a save of its own, runs at once with its weight. The save in the step of its save point (log entry 84), the places
within the page at 0x5_1000 (log entry 85), and what a scrub does with registers its table does not list (log entries 88, 122) are the model's
choices.

SCRUB as an event (R369, R371, R375, R377 to R379): once all of the saved tenant has left, it is scrubbed from the core, its debt rises
by the cycles since T0 (a free value, log entry 87), and the next context holds the core; without a save of its own that context runs at
once. A context with a save has it read and given back: bounds, windows, receive queue, saved beads with their tags, and the
slots whose actors still live there (log entry 86). What the save wrote is the beads it was asked for, every slot's record and the page of the rest; a
forced save, which a fault or the budget begins, discards the open region and saves every bead that is not free. -/
def Obligations.SlicesAndScrubs : Prop :=
  (∀ (s : State) (id : CoreId),
    let c := s.coreAt id
    let x := c.ctx
    let v : State := match c.run with
      | .firing sl => (s.abort id .waiting).saveVectors id sl
      | _ => s
    (c.rotation ≠ [] → c.phase = .running → exec (.sliceEnd id) s = .next (s.setCore id { c with phase := .ending }))
    ∧ (c.rotation = [] ∨ c.phase ≠ .running → exec (.sliceEnd id) s = .next s)
    ∧ (c.phase = .ending → c.awaitsAtomic = false →
      (s.ctxPent x ≠ 0 → s.ctxPent x < c.xbound.toNat → ∃ t, exec (.savePoint id) s = .next t
        ∧ (t.coreAt id).run = .preempt ∧ (t.coreAt id).phase = .handler
        ∧ (t.coreAt id).pc = BitVec.ofNat 18 (s.ctxPent x) ∧ (t.coreAt id).tsw.priv = 1
        ∧ (t.coreAt id).regs.s[1] = dw x ∧ (t.coreAt id).regs.s[2] = dw (s.ctxDebt x)
        ∧ ∀ sl, c.run = .firing sl → ((t.coreAt id).slotAt sl).st = .waiting ∧ ((t.coreAt id).slotAt sl).resume.isSome = true)
      ∧ (s.ctxPent x = 0 ∨ c.xbound.toNat ≤ s.ctxPent x → exec (.savePoint id) s = .next (v.saveCore id true (v.coreAt id).allBeads)))
    ∧ (∀ forced bm, c.phase = .saving forced bm false → exec (.savePoint id) s = .next (s.saveCore id forced bm))
    ∧ (c.phase = .handler → exec (.preemptionBudgetExpiry id) s = .next (s.forcedSave id)
        ∧ ((s.forcedSave id).coreAt id).run = .idle ∧ ((s.forcedSave id).coreAt id).openB = []
        ∧ ∃ bm, ((s.forcedSave id).coreAt id).phase = .saving true bm false)
    ∧ (c.phase ≠ .handler → exec (.preemptionBudgetExpiry id) s = .next s)
    ∧ (c.phase = .ending → ∃ t, exec (.watchdog id) s = .next t ∧ (t.coreAt id).run = .idle
        ∧ (t.coreAt id).phase = .saving false [] true ∧ (∀ e ∈ (t.coreAt id).saves, e.1 ≠ x)
        ∧ ∃ older lci, t.ctxs.traps = older ++ [⟨x, 0x85, 0, 0, 0, lci, none⟩])
    ∧ (c.phase ≠ .ending → exec (.watchdog id) s = .next s)
    ∧ (c.phase = .restoring → (∀ e ∈ c.saves, e.1 ≠ x) → exec (.scrub id) s = .next (s.setCore id { c with
        phase := .running, bzmap := setBits 48 4 (s.effective x 13 0 4) c.bzmap }))
    ∧ (s.scrubReady id = false → exec (.scrub id) s = .next s)
    ∧ (∀ p (gone : Nat → Bool), id = .work p →
      let d := (s.scrubCore id gone).coreAt id
      d.mem = [] ∧ d.tags = [] ∧ d.beads = [] ∧ d.slots = [] ∧ d.regs = Regs.reset ∧ d.traps = TrapRegs.reset
        ∧ d.openB = [] ∧ d.committed = [] ∧ d.transferQ = [] ∧ d.xbound = 0 ∧ d.ovh = 0 ∧ d.wins = Vector.replicate 8 0
        ∧ d.tlb = c.tlb.filter (fun e => !gone e.ctx) ∧ d.recvq = c.recvq.filter (fun r => !gone r.ctx)
        ∧ d.bzmap = bzmapReset (octetPos p)))
  ∧ (∀ (s : State) (p x y : Nat),
    let id := CoreId.work p
    let c := s.coreAt id
    (∀ forced bm, c.phase = .saving forced bm true → c.ctx = x → x ≠ y → c.rotation = [x, y] → s.scrubReady id = true →
      s.ctxDebt y < s.ctxSlice y → (∀ e ∈ c.saves, e.1 ≠ y) →
      ∃ t k, exec (.scrub id) s = .next t
        ∧ t.ctxDebt x = Nat.min (s.ctxDebt x + k) (2 ^ 32 - 1) ∧ k < 2 ^ 32 ∧ t.ctxDebt y = s.ctxDebt y
        ∧ let d := t.coreAt id
          d.ctx = y ∧ d.phase = .running ∧ d.run = .idle ∧ d.mem = [] ∧ d.tags = [] ∧ d.beads = [] ∧ d.slots = [] ∧ d.regs = Regs.reset
          ∧ d.traps = TrapRegs.reset ∧ d.openB = [] ∧ d.committed = [] ∧ d.transferQ = [] ∧ d.xbound = 0
          ∧ d.tlb = c.tlb.filter (fun e => e.ctx != x) ∧ d.recvq = c.recvq.filter (fun r => r.ctx != x) ∧ d.saves = c.saves)
    ∧ (∀ k m tags slots beads vecs, c.phase = .restoring → c.ctx = x → c.saves.find? (fun e => e.1 == x) = some (x, false, k) →
      let base := s.saveBase id x
      let ks := (List.range 512).filter fun k => ((m.drop 1888).take 64 |>.getD (k / 8) 0).getLsbD (k % 8) || decide (512 * k < field m 512 8)
      let record (n : Nat) : List Byte := (slots.drop (0x400 * n)).take 0x400
      let name (n : Nat) : ActorId := s.idOf (field8 (slots.drop (0x400 * n)) 0)
      s.engGets id x [(base + 0x51000, 4096), (base + 0x40000, 4096), (base + 0x41000, 0x10000)] = .ok [m, tags, slots] →
      s.engGets id x (ks.map fun k => (base + 512 * k, 512)) = .ok beads →
      s.engGets id x ((List.range 64).map fun n =>
        if bitAt 0 (field8 (slots.drop (0x400 * n)) 0x100) ∧ (name n).idx < s.ctxAtlen x then
          (s.ctxAtbase x + 0x2000 * (name n).idx + 0x200, 4992) else (base, 0)) = .ok vecs →
      (∀ b ∈ beads, b.length = 512) →
      ∃ t, exec (.scrub id) s = .next t ∧
        let d := t.coreAt id
        d.phase = .running ∧ d.run = .idle ∧ d.xbound = BitVec.ofNat 18 (field m 512 8) ∧ d.ovh = BitVec.ofNat 18 (field m 520 8)
        ∧ d.recvq = recvOf x m ++ c.recvq ∧ d.regs = c.regs ∧ d.strands = c.strands
        ∧ (∀ n, n < 64 → d.slotAt n = s.slotOf id n (record n) (vecs.getD n []))
        ∧ (∀ (i k : Nat) (bs : List Byte), ks[i]? = some k → beads[i]? = some bs → ∀ j, j < 512 →
            Sparse.get 0 d.mem (512 * k + j) = bs.getD j 0
            ∧ d.tag (512 * k + j) = bitAt (j / 8) (field8 tags (8 * k))))
    ∧ (∀ n b vec, let a := s.idOf (field8 b 0)
        let r := s.actor a
        let here : Prop := field8 b 0 ≠ 0 ∧ r.gen = nameGen (field8 b 0) ∧ r.st.alive = true ∧ r.core = id ∧ r.slot = n
        (here → (s.slotOf id n b vec).actor = some a
          ∧ ((s.slotOf id n b vec).resume.isSome = bitAt 0 (field8 b 0x100))
          ∧ ((s.slotOf id n b vec).st = .parked ↔ bitAt 1 (field8 b 0x100) = true ∧ s.stillWaits ⟨id, n, some a, r.gen⟩ = true)
          ∧ ((s.slotOf id n b vec).st = .parked ∨ (s.slotOf id n b vec).st = .waiting))
        ∧ (¬here → s.slotOf id n b vec = Slot.none))
    ∧ (∀ forced bm, let z := c.ctx
        let ps := s.savePieces id z forced bm
        s.saveCore id forced bm = (ps.foldl (fun t e => t.engStore id.die z (s.saveBase id z + e.1) e.2) s).modCore id (fun k => { k with
          run := .idle
          phase := .saving forced bm true
          saves := k.saves.filter (fun e => e.1 != z) ++ [(z, forced, Nat.min 16 (k.recvq.filter fun r => r.ctx == z).length)] })
        ∧ (∀ k, k < 512 → ((bm.getD (k / 8) 0).getLsbD (k % 8) = true ∨ c.bead k = .code) → (512 * k, c.load (512 * k) 512) ∈ ps)
        ∧ (∀ n, n < 64 → (0x41000 + 0x400 * n, s.slotRecord id n) ∈ ps)
        ∧ (0x51000, s.saveMisc id z bm) ∈ ps)
    ∧ s.forcedSave id = (s.discardRegion id).modCore id (fun k => { k with run := .idle, phase := .saving true k.allBeads false })
    ∧ ∀ k, k < 512 → (((c.allBeads.getD (k / 8) 0).getLsbD (k % 8) = true) ↔ c.bead k ≠ .free))

/-- Functions and their hosts (R382, R411 to R417): the host's write of TAIL is taken, or ignored with OVF set where more
than 64 would wait or the function is unbound, in reset or in ERROR, and a 1 written to OVF clears it; the message at HEAD becomes a control message of
KIND 7 and HEAD rises; a function's reset is requested once and, unbound, ends at once, else ends the context's
descendants, then its actors, and at last leaves HEAD at TAIL, the context live again and its host told; a write of VFBIND binds a free
function to a live context of the writer's partition, one that ends a binding asks for the reset first, any of them takes a locked or running
interface to ERROR, and a refused one sets its error bit; a logical device takes a
host that no other has; host completions reach the load or the copy that waits. Nothing of a host arrives before the CXL link is enabled or in
recovery. The host's accesses to FSTAT, MSI-X and its reads come under numbers of no slot (log entry 123), and what of the reset's
steps is one event is the model's choice (log entries 93, 99).

TDISP, SPDM and measurements (R418 to R422, R425): LOCK and START move a function's state from 0 to 1 and from 1 to 2
and no other; STOP unlocks an unbound function and asks for the reset of a bound one; the report lists the function and,
for each context of its chain, number, depth and words 1 to 4; each SPDM request is answered with what is asked for,
signed where it is to be, and of the two certificate slots the second holds a chain once Zaran has written one; through the functions requests are
answered once the link is enabled, in recovery only through logical device 0, and through the management interface always, TDISP
requests for a function through its logical device; KEY_EXCHANGE opens
a session and END_SESSION closes one. The bytes that the SPDM standard fixes and the answer for a slot that holds nothing are the model's choice
(log entries 100, 101). -/
def Obligations.HostsAndAttestation : Prop :=
  (∀ (s : State) (n : Nat) (v : DWord) (id : CoreId),
    let f := s.func n
    let put (g : Func) : State := { s with hub := { s.hub with funcs := Sparse.set Func.reset s.hub.funcs n g } }
    let asked (g : Func) : State := { s with
      hub := { s.hub with funcs := Sparse.set Func.reset s.hub.funcs n { g with rst := true } }
      ctxs := { s.ctxs with resets := s.ctxs.resets ++ [n] } }
    let up : Prop := s.hub.link = true ∧ s.hub.recovery = false
    (up → n < 512 →
      let fits : Prop := (v.toNat % 128 + 128 - f.head) % 128 ≤ 64 ∧ f.rst = false ∧ f.bound = true ∧ f.tst ≠ 3
      (fits → exec (.mbtailWrite n v []) s = .next (put { f with tail := v.toNat % 128 }))
      ∧ (¬ fits → exec (.mbtailWrite n v []) s = .next (put { f with ovf := true }))
      ∧ (∀ i bs, i < 64 → fits → exec (.mbtailWrite n v [(i, bs)]) s = .next (put { f with
          slots := memWrite f.slots (64 * i) (bs.take 64), tail := v.toNat % 128 }))
      ∧ (∀ w : DWord, exec (.mbtailWrite n v [(64, bytesOf 8 w.toNat)]) s
          = .next (put { f with ovf := f.ovf && !w.getLsbD 4 }))
      ∧ (∀ w : DWord, exec (.mbtailWrite n v [(65, bytesOf 8 w.toNat)]) s = .next (put { f with msix := w.getLsbD 0 }))
      ∧ (∀ o : Nat, o < 0x2000 → exec (.mbtailWrite n v [(66, bytesOf 8 (8 * o))]) s = .next { s with hub := { s.hub with
          out := s.hub.out ++ [.bar n (8 * o) (
            if o = 0 then dw f.tail else if o = 1 then dw f.head
            else if o = 2 then dw (2 ^ 4 * f.ovf.toNat + 2 ^ 2 * f.tst + 2 * f.rst.toNat + f.bound.toNat)
            else if 0x200 ≤ o ∧ o < 0x400 then dw (natOf (memRead f.slots (8 * o - 0x1000) 8)) else 0)] } })
      ∧ (v.getLsbD 0 = true → f.bound = true → f.tst ≠ 1 → f.tst ≠ 2 → n ∉ s.ctxs.resets →
          exec (.fresetWrite n v) s = .next (asked f))
      ∧ (v.getLsbD 0 = true → f.bound = true → f.tst = 1 ∨ f.tst = 2 → n ∉ s.ctxs.resets →
          exec (.fresetWrite n v) s = .next (asked (f.setTst 3)))
      ∧ (v.getLsbD 0 = false ∨ f.bound = false → exec (.fresetWrite n v) s = .next s))
    ∧ (¬ up → ∀ l, exec (.mbtailWrite n v l) s = .next s ∧ exec (.fresetWrite n v) s = .next s)
    ∧ (∀ x, s.hostReceiver n = some x →
        let m := (List.range 64).map fun i => Sparse.get 0 f.slots (64 * (f.head % 64) + i)
        exec (.hostMessageDelivery n) s = .next ((s.mailWrite x (mailBytes 0x07 0 (dw n) (BitVec.ofNat 32 (valueOf (m.take 4)))
          ((m.drop 8).take 40)) .system).setFunc n { f with head := (f.head + 1) % 128 }))
    ∧ (s.hostReceiver n = none → exec (.hostMessageDelivery n) s = .next s)
    ∧ (n < 512 →
      (∀ w, s.vfbindRefused w n v = true →
        exec (.vfbindWrite w n v) s = .next (put { f with bind := f.bind ||| 0x4000000000000000 }))
      ∧ (∀ w, s.vfbindRefused w n v = false →
          let g := if f.tst = 1 ∨ f.tst = 2 then f.setTst 3 else f
          let b := setBits 0 24 (bitsAt 0 24 v) (if v.getLsbD 62 then setBits 62 1 0 g.bind else g.bind)
          let x := bitsAt 48 12 v
          (f.bound = false → v.getLsbD 63 = true → exec (.vfbindWrite w n v) s
            = .next ((put { g with bind := setBits 48 12 x (setBits 63 1 1 b) }).setCcbWord x 22 (dw (2 ^ 15 + n))))
          ∧ (f.bound = true → v.getLsbD 63 = false ∨ x ≠ f.ctx → n ∉ s.ctxs.resets → exec (.vfbindWrite w n v) s
            = .next (asked { g with bind := b, next := some v }))))
    ∧ (s.resetReady n = true → f.bound = false → exec (.functionReset n) s = .next { put { f with rst := false, stop := false } with
        ctxs := { s.ctxs with resets := s.ctxs.resets.filter (· != n) } })
    ∧ (s.resetReady n = true → f.bound = true → s.ctxState f.ctx ≠ 4 → s.ctxLive f.ctx = true →
        (∀ y ∈ s.liveKids f.ctx, f.ctx ∉ s.subtree y) → ∃ t, exec (.functionReset n) s = .next t ∧ t.ctxState f.ctx = 4 ∧ (t.func n).ended = false)
    ∧ (s.resetReady n = true → f.bound = true → s.ctxState f.ctx = 4 → f.ended = false → s.subtree f.ctx = [f.ctx] →
        ∃ t, exec (.functionReset n) s = .next t ∧ (t.func n).ended = true)
    ∧ (s.resetReady n = true → f.bound = true → s.ctxState f.ctx = 4 → f.ended = true → s.resetDrained f.ctx = true →
        s.ccbWord f.ctx 19 = 0 → f.next = none → ∃ t, exec (.functionReset n) s = .next t ∧ t.ctxState f.ctx = 1
          ∧ (t.func n).head = f.tail ∧ (t.func n).rst = false ∧ n ∉ t.ctxs.resets ∧ ∃ l, t.hub.out = s.hub.out ++ l ++ [.resetDone n])
    ∧ (s.resetReady n = false → exec (.functionReset n) s = .next s)
    ∧ (∀ ld host, ld < 16 → (∀ e ∈ s.hub.ldHost, e.1 ≠ ld → e.2 ≠ host + 1) → exec (.fabricManagerBind ld host) s
        = .next { s with hub := { s.hub with ldHost := Sparse.put s.hub.ldHost ld (host + 1) } })
    ∧ (∀ r, s.hub.hostReqs.find? (fun r => decide (r.core = id)) = some r →
      let u := { s with hub := { s.hub with hostReqs := s.hub.hostReqs.erase r } }
      (∀ bs p a i, r.copy = false → r.piece = none → bs.length = r.n → (s.coreAt id).wait = some ⟨.host p a, i⟩ →
        exec (.hostCompletion id (.data bs)) s = .next (u.modCore id fun k => k.keep p bs)
        ∧ exec (.hostCompletion id .unsupported) s = .next (((u.refocus id).fatal 0x4E 14 a).refocus s.focus)
        ∧ exec (.hostCompletion id .poison) s = .next (((u.refocus id).fatal 0x46 6 a).refocus s.focus)
        ∧ exec (.hostCompletionTimeout id) s = .next (((u.refocus id).fatal 0x4A 10 a).refocus s.focus)))
    ∧ (s.hub.hostReqs.find? (fun r => decide (r.core = id)) = none → exec (.hostCompletionTimeout id) s = .next s))
  ∧ (∀ (s : State) (n slot idx : Nat) (p : SpdmPort),
    let f := s.func n
    let put (g : Func) : State := { s with hub := { s.hub with funcs := Sparse.set Func.reset s.hub.funcs n g } }
    let out (o : HostOut) (k : Int) : State := { s with hub := { s.hub with
      out := s.hub.out ++ [o], sessions := (s.hub.sessions + k).toNat } }
    let body (req : Nat) : List Byte := Config.spdmBytes req s.tick
    let reg := Sparse.get (List.replicate 32 0) s.hub.meas idx
    let port (q : SpdmPort) : Prop := q = .mctp ∨ (if s.hub.recovery then q = .doe 0 else s.hub.link = true)
    let answered : Prop := port p
    let heard : Prop := port (.doe (n / 32))
    let cert (i : Nat) : Option (List Byte) := if i = 0 then some Config.certChain else if i = 1 then s.hub.ownerCert else none
    (n < 512 → heard →
      (f.tst = 0 → exec (.lockInterface n) s = .next (put (f.setTst 1)))
      ∧ (f.tst ≠ 0 → exec (.lockInterface n) s = .next s)
      ∧ (f.tst = 1 → exec (.startInterface n) s = .next (put (f.setTst 2)))
      ∧ (f.tst ≠ 1 → exec (.startInterface n) s = .next s)
      ∧ (f.bound = false → exec (.stopInterface n) s = .next (put (f.setTst 0)))
      ∧ (f.bound = true → n ∉ s.ctxs.resets → exec (.stopInterface n) s = .next { put { f with stop := true, rst := true } with
          ctxs := { s.ctxs with resets := s.ctxs.resets ++ [n] } }))
    ∧ (n < 512 → heard → f.bound = true → exec (.getDeviceInterfaceReport n) s = .next (out (.report (bytesOf 8 n ++ (s.chain f.ctx).flatMap fun x =>
        bytesOf 8 x ++ bytesOf 8 (s.ctxDepth x) ++ ([1, 2, 3, 4] : List Nat).flatMap fun i => bytesOf 8 (s.ccbWord x i).toNat)) 0))
    ∧ (¬ heard → ∀ i ∈ [Instr.lockInterface n, .startInterface n, .stopInterface n, .getDeviceInterfaceReport n], exec i s = .next s)
    ∧ (answered →
      exec (.getVersion p) s = .next (out (.spdm p (.version (body 0))) 0)
      ∧ exec (.getCapabilities p) s = .next (out (.spdm p (.capabilities (body 1))) 0)
      ∧ exec (.negotiateAlgorithms p) s = .next (out (.spdm p (.algorithms (body 2))) 0)
      ∧ exec (.getDigests p) s = .next (out (.spdm p (.digests (((cert 0).toList ++ (cert 1).toList).map Config.sm3))) 0)
      ∧ exec (.getCertificate p slot) s = .next (out (.spdm p (match cert slot with
          | some chain => .certificate slot chain
          | none => .unsupported)) 0)
      ∧ exec (.challenge p slot) s = .next (out (.spdm p (if (cert slot).isSome then
          .challengeAuth slot (body 3) (Config.hallmarkSign (body 3)) else .unsupported)) 0)
      ∧ exec (.getMeasurements p idx) s = .next (out (.spdm p (.measurements idx reg (body 4)
          (Config.hallmarkSign (reg ++ body 4)))) 0)
      ∧ exec (.keyExchange p) s = .next (out (.spdm p (.keyExchangeRsp (body 5) (Config.hallmarkSign (body 5)))) 1)
      ∧ exec (.finish p) s = .next (out (.spdm p (.finishRsp (body 6))) 0)
      ∧ exec (.endSession p) s = .next (out (.spdm p .endSessionAck) (-1))
      ∧ exec (.unsupportedRequest p) s = .next (out (.spdm p .unsupported) 0))
    ∧ (¬ answered → exec (.getVersion p) s = .next s ∧ exec (.keyExchange p) s = .next s
        ∧ exec (.unsupportedRequest p) s = .next s ∧ exec (.getMeasurements p idx) s = .next s))

/-- Boot and the package (R145, R384, R423 to R429): the hub starts a die's corner core in boot mode at privilege 3 and pc
0, with the program's bytes, the image of 16 KiB, its arguments in s1 to s4, and the image's sum added to BSUM; a die whose
END is missing, since its program runs on or has stopped, sends the device to recovery; a reset leaves everything as after reset but the fuses,
the boot flash, the owner's certificate and the bytes of
HBM, measures the boot ROM into register 1 and starts the root monitor at privilege 3, before which no die starts; throttling lowers the scale by at
most half; a trip resets the device and is reported; without power all state but the fuses, the flash and that certificate is gone. That HBM keeps its
bytes over a reset, the root monitor's entry and how the boot program reaches a die are the model's choice (log entries 7, 13, 101, 102). -/
def Obligations.BootAndPackage : Prop :=
  ∀ (s : State) (die steps : Nat) (prog image : List Byte),
    let reset := s.deviceReset
    let corner := CoreId.work (1024 * die)
    let starts : Prop := s.hub.boot = true ∧ s.hub.recovery = false ∧ (s.coreAt .root).run = .service
    (starts → die < 9 → prog.length ≤ 0x20000 → image.length = 0x4000 →
      ∃ t, exec (.cornerCoreStart die prog image) s = .next t ∧ t = s.setCore corner (t.coreAt corner)
        ∧ (t.coreAt corner).run = .boot ∧ (t.coreAt corner).pc = 0 ∧ (t.coreAt corner).tsw = { Tsw.reset with priv := 3 }
        ∧ (∀ i : Fin 32, (t.coreAt corner).regs.s[i] = ([0, dw die, dw (0xC000010100 + 8 * die), 0x20000, 0x4000] : List DWord).getD
            i.val 0)
        ∧ (t.coreAt corner).xbound.toNat % 2 ^ 18 = (512 * ((prog.length + 511) / 512)) % 2 ^ 18
        ∧ (∀ j, j < prog.length → Sparse.get 0 (t.coreAt corner).mem j = prog.getD j 0)
        ∧ (∀ j, j < 0x4000 → Sparse.get 0 (t.coreAt corner).mem (0x20000 + j) = image.getD j 0)
        ∧ (t.coreAt corner).bsum = (s.coreAt corner).bsum + wordSum 0x1000 image)
    ∧ (¬ starts ∨ 9 ≤ die → exec (.cornerCoreStart die prog image) s = .next s)
    ∧ (s.hub.boot = true → (s.coreAt corner).run = .boot ∨ (s.coreAt corner).run = .stopped →
        exec (.bootTimeout die) s = .next { s with hub := { s.hub with recovery := true } })
    ∧ (s.hub.boot = false ∨ (s.coreAt corner).run ≠ .boot ∧ (s.coreAt corner).run ≠ .stopped →
        exec (.bootTimeout die) s = .next s)
    ∧ (∃ t, exec .deviceReset s = .next t ∧ t.mesh.fused = s.mesh.fused ∧ t.ram.bytes = s.ram.bytes
        ∧ t.acts = State.reset.acts ∧ t.fab = State.reset.fab
        ∧ t.hub = { State.reset.hub with flash := s.hub.flash, ownerCert := s.hub.ownerCert, meas := [(1, Config.sm3 (List.replicate 32 0 ++ Config.sm3 Config.bootRom))] }
        ∧ (t.coreAt .root).run = .service ∧ (t.coreAt .root).tsw.priv = 3
        ∧ (t.coreAt .root).pc = BitVec.ofNat 18 (4 * Config.bootEntry.toNat))
    ∧ exec (.thermalThrottle steps) s = .next { s with hub := { s.hub with scale := 16 - Nat.min steps 8 } }
    ∧ exec .thermalTrip s = .next { reset with hub := { reset.hub with tripped := true } }
    ∧ exec .powerRemoval s = .next { reset with ram := State.reset.ram, hub := { reset.hub with powered := false } }
    ∧ reset.mesh.fused = s.mesh.fused ∧ reset.core = Core.reset s.mesh.fused s.focus ∧ reset.others = []

/-- The fabric interface (R391, R396, R398 to R400, R402, R403, R407): a request whose number is not the one expected
changes nothing; the expected one is performed, its number and its answer kept; a memory request that no import entry
admits is answered refused, one for a partition that is gone is answered gone, and an admitted one waits for its port; a request on an actor is answered gone where the context of its name is none, and refused
where the asking partition may not name it (R271);
the answer takes its request from those unacknowledged and reaches the load, the copy or the SEND that waits, and a line of a cached-remote page that it
brings is kept; only an acknowledgement counts a granule of a stream; a resend
repeats what is unacknowledged, NRETRY times, and then the device is lost. How the contexts of names and the entries that admit are compared and
where what cannot be performed yet waits are the model's choice (log entries 73, 95, 96), and so is the order of the answers that a core has met
(log entry 31). -/
def Obligations.FabricRequestsAndAnswers : Prop :=
  ∀ (s : State) (dev flow seq pidx : Nat) (r : FabricReq) (e : FabricEnd),
    let key := flowKey flow dev
    let inf := s.inFlow dev flow
    let out := s.outFlow flow
    let heard (u : State) : InFlow := { u.inFlow dev flow with expected := ((u.inFlow dev flow).expected + 1) % 2 ^ 32 }
    let expects (u : State) : State := { u with fab := { u.fab with ins := Sparse.put u.fab.ins key (heard u) } }
    (seq ≠ inf.expected → exec (.fabricRequestArrival dev flow seq pidx r) s = .next s)
    ∧ (seq = inf.expected →
      (∀ pa n via, s.admitted dev pidx pa n false = none →
        exec (.fabricRequestArrival dev flow seq pidx (.load pa n via)) s = .next ((expects s).reply dev flow seq .refused))
      ∧ (∀ pa bs via, s.admitted dev pidx pa bs.length true = none →
        exec (.fabricRequestArrival dev flow seq pidx (.store pa bs via)) s = .next ((expects s).reply dev flow seq .refused))
      ∧ (∀ pa bs via p, s.admitted dev pidx pa bs.length true = some p → s.ctxNamed (p + 1) = false →
        exec (.fabricRequestArrival dev flow seq pidx (.store pa bs via)) s = .next ((expects s).reply dev flow seq .gone))
      ∧ (∀ pa bs via p, s.admitted dev pidx pa bs.length true = some p → s.ctxNamed (p + 1) = true → via.mode ≠ 3 →
        let kind : PortKind := if bs.length = 4096 ∧ pa % 4096 = 0 then .granule bs
          else if bs.length = 1024 ∧ pa % 1024 = 0 then .block bs else .store bs (List.range bs.length)
        exec (.fabricRequestArrival dev flow seq pidx (.store pa bs via)) s = .next (expects { s with ram := { s.ram with
          order := Sparse.set [] s.ram.order fabricPoint (s.orderAt fabricPoint ++ [⟨pa, kind,
            via.cmp, ⟨.root, none, 0⟩, none, .fabric dev flow seq⟩]) } }))
      ∧ (∀ n bs sc, s.ctxNamed (s.idOf n).ctx = false →
        exec (.fabricRequestArrival dev flow seq pidx (.message n bs sc)) s = .next ((expects s).reply dev flow seq .gone))
      ∧ (∀ y n frm why, s.ctxNamed (s.idOf n).ctx = true → s.resolve n = .here y → s.inSlot y = true →
        exec (.fabricRequestArrival dev flow seq pidx (.kill n frm why)) s = .next (
          if s.mayAsk pidx (some frm) y then (expects (s.kill y why)).reply dev flow seq .ack
          else (expects s).reply dev flow seq .denied)))
    ∧ (out.unacked.find? (fun q => q.seq == seq) = none → exec (.fabricReplyArrival flow seq e) s = .next s)
    ∧ (∀ q, out.unacked.find? (fun q => q.seq == seq) = some q →
      let left : OutFlow := { out with unacked := out.unacked.filter fun x => x.seq != seq }
      let u := { s with fab := { s.fab with outs := Sparse.put s.fab.outs flow left } }
      let met (t : State) : State := t.noteArrival (flow % 64) q
      let via : PageUse := match q.req with
        | .load _ _ v => v
        | r => (lineWrites r).2.getD ⟨0, 0, 0⟩
      (∀ t : State, via.mode ≠ 2 → met t = { t with fab := { t.fab with count := t.fab.count + 1 } })
      ∧ (q.wait = .none → (∃ pa bs via, q.req = .store pa bs via) →
        (e = .ack → exec (.fabricReplyArrival flow seq e) s = .next (met u))
        ∧ (e = .gone → exec (.fabricReplyArrival flow seq e) s = .next (met (u.killIssuer q.who 10)))
        ∧ (e = .refused → exec (.fabricReplyArrival flow seq e) s = .next (met (u.killIssuer q.who 4)))
        ∧ (e = .poison → exec (.fabricReplyArrival flow seq e) s = .next (met (u.killIssuer q.who 6))))
      ∧ (∀ t offset bs p, q.wait = .none → q.req = .granule t offset bs p →
        exec (.fabricReplyArrival flow seq e) s = .next (met (if e = .ack then { u with fab := { u.fab with
          streams := u.fab.streams.map fun x => if x.ticket = t then { x with acked := x.acked + 1 } else x } } else u)))
      ∧ (∀ c d pa n epoch va bs via, q.wait = .core c → q.seq = seq → e = .data bs → q.req = .load pa n via →
          ((s.coreAt c).wait = some ⟨.fabric flow seq (.peer d pa .direct) epoch va, .nop⟩ →
            exec (.fabricReplyArrival flow seq e) s = .next (met (u.modCore c fun k =>
              if q.stale then { k with wait := none } else k.keep (.peer d pa .direct) bs)))
          ∧ ((s.coreAt c).wait = some ⟨.fabric flow seq (.peer d pa .cached) epoch va, .nop⟩ → q.stale = false → ∃ t l,
            exec (.fabricReplyArrival flow seq e) s = .next t
              ∧ t.fab.lines = l ++ [⟨d, pa / 128, epoch, bs, q.left, s.fab.count⟩]
              ∧ (t.coreAt c).wait = none ∧ (t.coreAt c).got = (s.coreAt c).got ++ [(.peer d pa .cached, bs)]))
      ∧ (∀ c, q.wait = .tile c → exec (.fabricReplyArrival flow seq e) s = .next (met (u.tileReply c flow q.seq e))))
    ∧ (∀ q rest, out.unacked = q :: rest →
      let again : OutFlow := { out with unacked := out.unacked.map fun x => { x with tries := x.tries + 1 } }
      (q.tries < Nat.max 1 (bitsAt 24 4 s.fab.fbe2e) → exec (.endToEndResend flow) s
          = .next { s with fab := { s.fab with outs := Sparse.put s.fab.outs flow again } })
      ∧ (Nat.max 1 (bitsAt 24 4 s.fab.fbe2e) ≤ q.tries → exec (.endToEndResend flow) s = .next (s.deviceLost (flow % 64))))
    ∧ (out.unacked = [] → exec (.endToEndResend flow) s = .next s)

/-- Links, ports, lost devices, tokens, rounds and streams (R293, R395, R397, R398, R402 to R404, R407): a replay counts in
RPL and CRCE, and after 32 that failed in a row the port trains and leaves every mask; a port that is not up comes up towards its peer, or fails and leaves every mask; a device to which no port leads is lost: its bit is
set, nothing outstanding, and its streams failed; at each interval a context that waits nowhere has exactly its grant; a packet takes its flits
from the first port that holds them, and without them its context waits at each; a
round complete at the hub is combined in the order of the children, this device's last, and goes up, or down from the
root, and a device whose context is gone gives absent lanes alone; a stream that is over leaves its ticket, writes its status and tells its
issuer. When a port is declared gone or a replay follows another (log entries 94, 131), what a silent hub gives (log entry 97) and the reads of a
stream (log entry 98) are the model's choice. -/
def Obligations.LinksTokensRoundsAndStreams : Prop :=
  ∀ (s : State) (p d k t lanes peer : Nat) (how : StreamEnd),
    let v := Sparse.get 0 s.fab.fbport p
    let more (n : Nat) : Nat := Nat.min (n + 1) 65535
    let counted := setBits 48 16 (more (bitsAt 48 16 v)) (setBits 32 16 (more (bitsAt 32 16 v)) v)
    let fails := if Config.freeBool s.tick then 1 else Sparse.get 0 s.fab.replays p + 1
    (fails < 32 → exec (.linkReplay p) s = .next { s with fab := { s.fab with
        fbport := Sparse.set 0 s.fab.fbport p counted, replays := Sparse.set 0 s.fab.replays p fails } })
    ∧ (32 ≤ fails → p < 24 → ∃ u, exec (.linkReplay p) s = .next u
        ∧ Sparse.get 0 u.fab.fbport p = setBits 0 2 1 (setBits 2 4 0 counted) ∧ Sparse.get 0 u.fab.replays p = 0
        ∧ (∀ q, (Sparse.get 0 u.fab.fbdom q).getLsbD p = false)
        ∧ u = { s with fab := { s.fab with fbport := u.fab.fbport, fbdom := u.fab.fbdom, replays := u.fab.replays } })
    ∧ (bitsAt 0 2 v = 2 → exec (.portRetrain p true lanes peer) s = .next s ∧ exec (.portRetrain p false lanes peer) s = .next s)
    ∧ (p < 24 → bitsAt 0 2 v ≠ 2 → ∃ u, exec (.portRetrain p true lanes peer) s = .next u
        ∧ Sparse.get 0 u.fab.fbport p = setBits 0 2 2 (setBits 2 4 lanes v)
        ∧ (Sparse.get 0 u.fab.fbdom peer).getLsbD p = true
        ∧ (∀ q, q ≠ peer → (Sparse.get 0 u.fab.fbdom q).getLsbD p = false)
        ∧ u = { s with fab := { s.fab with fbport := u.fab.fbport, fbdom := u.fab.fbdom } })
    ∧ (p < 24 → bitsAt 0 2 v ≠ 2 → ∃ u, exec (.portRetrain p false lanes peer) s = .next u
        ∧ Sparse.get 0 u.fab.fbport p = setBits 0 2 3 (setBits 2 4 0 v)
        ∧ (∀ q, (Sparse.get 0 u.fab.fbdom q).getLsbD p = false)
        ∧ u = { s with fab := { s.fab with fbport := u.fab.fbport, fbdom := u.fab.fbdom } })
    ∧ (∃ u, exec (.deviceLost d) s = .next u)
    ∧ (bitsAt 0 24 (Sparse.get 0 s.fab.fbdom d) ≠ 0 → exec (.deviceLost d) s = .next s)
    ∧ (bitsAt 0 24 (Sparse.get 0 s.fab.fbdom d) = 0 → s.fab.outs = [] → s.fab.pending = [] → s.fab.strandUps = [] → s.acts.tab = [] → ∃ u, exec (.deviceLost d) s = .next u
        ∧ (Sparse.get 0 u.fab.fbdom d).getLsbD 62 = true
        ∧ (∀ x ∈ u.fab.streams, field x.desc 0x18 4 = d → x.failed = true)
        ∧ u = { s with fab := { s.fab with fbdom := u.fab.fbdom, departed := u.fab.departed, streams := u.fab.streams } })
    ∧ (∃ m, exec .tokenInterval s = .next { s with fab := { s.fab with buckets := m } }
        ∧ (p < 24 → d < 4096 → s.ctxLive d = true → d ∈ s.ctxs.ccb.map (·.1) → (s.ctxs.ccb.map (·.1)).Nodup →
          (24 * d + p) ∉ s.fab.waiting.map (·.2) → Sparse.get 0 m (24 * d + p) = s.grantAt d p))
    ∧ (∀ vs, s.hubValues k = some vs → s.strandDiffers k = false →
      let w := s.fstrand k
      let out := strandCombine (bitsAt 48 3 w) (bitsAt 45 3 w) vs
      let u : State := { s with fab := { s.fab with rounds :=
        (if s.ctxNamed (bitsAt 52 12 w) then hubRest k [] s.fab.rounds else s.fab.rounds.filter fun r => r.1 != k) } }
      (w.getLsbD 44 = true ∨ s.strandGone k (bitsAt 38 6 w) = true → exec (.hubStrandCombine k) s = .next (u.strandDown k out.result))
      ∧ (w.getLsbD 44 = false → s.strandGone k (bitsAt 38 6 w) = false →
          exec (.hubStrandCombine k) s = .next { u with fab := { u.fab with
            strandUps := u.fab.strandUps ++ [(k, out)]
            pending := u.fab.pending ++ [⟨strandFlow, bitsAt 38 6 w, bitsAt 52 12 w, .none, .strandValue k (bitsAt 48 3 w) (bitsAt 45 3 w)
              out.words (out.lanes.map (·.count)) out.conds⟩] } }))
    ∧ (s.hubValues k = none → exec (.hubStrandCombine k) s = .next s)
    ∧ (let w := s.fstrand k
      w.getLsbD 51 = true → s.ctxNamed (bitsAt 52 12 w) = false → w.getLsbD 44 = false → s.strandGone k (bitsAt 38 6 w) = false →
        s.hubValues k = (if s.fab.strandUps.any (fun u => u.1 == k) then none
          else some [StrandVal.absent (bitsAt 48 3 w) (bitsAt 45 3 w) 0]))
    ∧ (∀ flow ctx r n, reqTokens r = [n] → s.fab.partly = [] →
      let others := s.fab.waiting.filter fun e => e.1 != flow
      (∀ ports, (∀ q ∈ ports, s.bucket ctx q < n) → s.takeTokens flow ctx r ports = ({ s with fab := { s.fab with
          partly := [], waiting := others ++ ports.map fun q => (flow, 24 * ctx + q) } }, false))
      ∧ (∀ q ports, n ≤ s.bucket ctx q → s.takeTokens flow ctx r (q :: ports) = ({ s with fab := { s.fab with
          partly := [], waiting := others, buckets := Sparse.set 0 s.fab.buckets (24 * ctx + q) (s.bucket ctx q - n) } }, true)))
    ∧ (∀ x c, s.fab.streams.find? (fun x => x.ticket == t) = some x → x.issuer = .service c → x.over = some how →
      let code := match how with
        | .done => 2
        | .stopped => 3
        | .failed => 4
      let word : DWord := dw (code + (if how = .failed then 2 ^ 8 * 10 else 0) + 2 ^ 16 * x.ticket)
      ∃ u, exec (.locketStreamEnd t how) s = .next u
        ∧ u.fab = { s.fab with streams := s.fab.streams.filter fun z => z.ticket != t }
        ∧ u.orderAt fabricPoint = s.orderAt fabricPoint ++ [⟨field x.desc 0x28 8, .store (bytesOf 8 word.toNat
            ++ bytesOf 8 x.bytes ++ bytesOf 8 x.acked ++ bytesOf 8 x.poisoned ++ List.replicate 32 0) (List.range 64), 0,
            ⟨.root, none, 0⟩, none, .none⟩]
        ∧ (let g := Sparse.get (0, 0) s.ctxs.rings (3 * c + 1)
          (g.1 + 512 - g.2) % 512 ≠ 256 → Sparse.get (0, 0) u.ctxs.rings (3 * c + 1) = ((g.1 + 1) % 512, g.2)))
    ∧ (∀ x, s.fab.streams.find? (fun x => x.ticket == t) = some x → x.over ≠ some how →
        exec (.locketStreamEnd t how) s = .next s)

/-- Words written out from the spec's encodings decode to what they stand for (R60 to R71): the spec's own examples of ADD,
ADD.W with an immediate, CMP.LTN, BR.LT, NOP, GETC of CYC and the prefixed VADD, and one word or more of each other class
from its fields; a reserved length, a bit that must be zero, a prefix where none is taken and an unassigned index are
refused. -/
def Obligations.SpecWordsDecode : Prop :=
  decode [0x00411800, 0] = .ok (.add false 3 1 2)
  ∧ decode [0x60042000, 0xFFFFFFFF] = .ok (.addImm true 4 4 0xFFFFFFFF)
  ∧ decode [0x10C510A0, 0] = .ok (.cmp false .ltn 2 5 6)
  ∧ decode [0x08410100, 0xFFFFFFFA] = .ok (.br false .lt 1 2 0xFFFFFFFA)
  ∧ decode [0x00000160, 0] = .ok .nop
  ∧ decode [0x00001FC0, 5] = .ok (.getc 3 5)
  ∧ decode [0x20411C05, 0, 0x2A] = .ok (.vadd .bf16 (.pfx false 0 .rtz true 2) 3 1 2)
  ∧ decode [0x00043200 ||| 0x00000000, 16] = .ok (.ldl .d 6 4 16)
  ∧ decode [0x00E40308, 0] = .ok (.cas .relaxed false .core 0 4 7 0)
  ∧ decode [0x00000138, 0] = .ok .endF
  ∧ decode [3] = .ok .padWord
  ∧ decode [0x00411801, 0] = .error .badLength
  ∧ (∃ e, decode [0x00411800, 32] = .error e)
  ∧ (∃ e, decode [0x00411805, 0, 0] = .error e)
  ∧ (∃ e, decode [0x000000F0, 0] = .error e)

/-- Encoding and decoding agree: every well-formed instruction that has an encoding decodes from its words to itself, with
every operand; and words that decode are the encoding of a well-formed instruction, so that no word sequence stands for
two and no bit of one is dropped. -/
def Obligations.DecodeOfEncode : Prop :=
  (∀ i : Instr, i.wf = true → encode i ≠ [] → decode (encode i) = .ok i)
  ∧ ∀ (ws : List Word) (i : Instr), decode ws = .ok i → i.wf = true ∧ encode i = ws

/-- What reset leaves (R19, R82, R126, R205, R266, R390, R423, Tables 03.3 to 03.5, 04.4, 04.5, 14.1 and 15.2), for the
registers whose reset value the spec gives, on every core: nothing runs, the service cores stopped (log entry 125), TSW zero but for the privilege its kind of core
runs at, RM nearest-even, no flag, the trap registers, XBOUND, OVH and CYC zero, windows disabled; boot mode on, not
ended, no recovery; no context but the root monitor's. Values the spec leaves open are the model's, of the log. -/
def Obligations.ResetState : Prop :=
  (∀ id : CoreId, let c := State.reset.coreAt id
    c.run = (match id with
        | .service _ => .stopped
        | _ => .idle)
      ∧ c.regs.rm = .rne ∧ c.regs.flags = 0 ∧ c.tsw.apb = false ∧ c.tsw.it = false ∧ c.tsw.sf = false
      ∧ c.tsw.rp = false ∧ c.tsw.ov = false ∧ c.traps = ⟨0, 0, 0, 0, 0⟩ ∧ c.xbound = 0 ∧ c.ovh = 0 ∧ c.cyc = 0
      ∧ c.wins = Vector.replicate 8 0 ∧ c.openB = [] ∧ c.committed = [] ∧ c.slots = [] ∧ c.bsum = 0 ∧ c.tlb = []
      ∧ (∀ p, id = .work p → c.tsw.priv = 0) ∧ (∀ p, id = .service p → c.tsw.priv = 2) ∧ (id = .root → c.tsw.priv = 3))
  ∧ State.reset.hub.boot = true ∧ State.reset.hub.bended = false ∧ State.reset.hub.recovery = false
  ∧ State.reset.mesh.fused = [] ∧ Memory.wf State.reset.ram.bytes = true ∧ Memory.wf State.reset.hub.flash = true
  ∧ State.reset.fab.fbcfg = 0xFFFFFF ∧ (∀ x, 0 < x → State.reset.ctxLive x = false) ∧ State.reset.ctxLive 0 = true
  ∧ (∀ x, State.reset.actor x = ActorRec.free) ∧ (∀ m, State.reset.port m = Port.reset)
  ∧ (∀ a, State.reset.ram.poisoned a = false)

/-- A step runs the decoded instruction: where one core alone can move, runs, and holds at its pc the bytes of an
instruction, below XBOUND or the 64 KiB of a translation core, in one 32-byte block, that it executes and no repetition holds back, the step is exec of that
instruction with that core in focus; what the instruction kept of answers goes once the pc has left it (log entry 28), and the model's
counter of free values goes on. That one unit moves at a time is the model's choice (log entry 9). -/
def Obligations.AStepRunsTheDecodedInstruction : Prop :=
  ∀ (s : State) (id : CoreId) (i : Instr),
    let u := s.refocus id
    let pc := u.core.pc.toNat
    let left (t : State) : State := if t.core.pc = u.core.pc then t else { t with core := { t.core with latched := [], noted := [], got := [] } }
    s.hub.powered = true → s.movers = [.core id] →
    pc % 4 = 0 → (u.focus.regions = true → pc < u.core.xbound.toNat) → (∀ d, u.focus = .transl d → pc < 2 ^ 16) → pc % 32 + i.size ≤ 32 →
    decode (bytesWords ((List.range i.size).map fun j => u.pad (pc + j))) = .ok i →
    u.executes i = true → u.core.afterRep i = false →
    (∀ t, exec i u = .next t → step s = .next { left t with tick := t.tick + 2 ^ 32 })
    ∧ (∀ f, exec i u = .fault f → step s = .fault f)
    ∧ (∀ r, exec i u = .refused r → step s = .refused r)

/-- COMPLETION (R182 to R187): VCVT of formats and a part that it has, VCMP, VSEL of each kind, VEXP2, VLOG2, VRCP, VRSQ, VSCA
of either scale, VVOID and VPRES complete in every state on every operand: exec answers a next state in which the PC has
moved past the instruction, of the registers only v[d] and FLAGS (p[d] and FLAGS for VCMP and VPRES) have changed, and
nothing else has. -/
def Obligations.VectorFormsComplete : Prop :=
  ∀ (s : State) (f src : Fmt) (r : Rnd) (part : BitVec 2) (g pd pc : PReg) (d a b : VReg) (x : BitVec 5) (cnd : VCond)
    (k : SelKind) (sv : Bool),
    let vec (t : State) : Prop := (∀ q, q ≠ d → t.rv q = s.rv q) ∧ t = { s with core := { s.core with
        regs := { s.core.regs with v := t.core.regs.v, flags := t.core.regs.flags }, pc := laFrom s.core.pc 8 } }
    let pred (t : State) : Prop := (∀ q, q ≠ pd → t.rp q = s.rp q) ∧ t = { s with core := { s.core with
        regs := { s.core.regs with p := t.core.regs.p, flags := t.core.regs.flags }, pc := laFrom s.core.pc 8 } }
    ((Instr.vcvt f src r part g d a).wf = true → ∃ t, exec (.vcvt f src r part g d a) s = .next t ∧ vec t)
    ∧ (∃ t, exec (.vcmp f cnd g pd a b) s = .next t ∧ pred t)
    ∧ (∃ t, exec (.vsel f k g d a b pc) s = .next t ∧ vec t)
    ∧ (∃ t, exec (.vexp2 g d a) s = .next t ∧ vec t)
    ∧ (∃ t, exec (.vlog2 g d a) s = .next t ∧ vec t)
    ∧ (∃ t, exec (.vrcp g d a) s = .next t ∧ vec t)
    ∧ (∃ t, exec (.vrsq g d a) s = .next t ∧ vec t)
    ∧ (∃ t, exec (.vsca f sv r g d a x) s = .next t ∧ vec t)
    ∧ (∃ t, exec (.vvoid f g d) s = .next t ∧ vec t)
    ∧ (∃ t, exec (.vpres f g pd a) s = .next t ∧ pred t)

/-- COMPLETION (R6, R83, R126, R128, R206, R349, R385, R398, R416, R423): SETC, its immediate form and a register write of every
number from 0x000 to 0x00F, 0x020 to 0x027, 0x030 and 0x031 complete in every state, and change nothing but the fields of
those registers; a write of a window completes above privilege 0 where an enabled one ends by bead 511; one of a strand entry
and of BZMAP under the conditions of R128 and R206; one of PRQDONE, SCRUN, BEND, VFIRQ and FBDOM.LOST. When a write of VFIRQ reaches the host (log
entry 99) and the registers that SCRUN leaves (log entry 88) are the model's choice. -/
def Obligations.RegisterWritesComplete : Prop :=
  ∀ (s : State) (v : DWord) (num : BitVec 12) (a : SReg) (i : BitVec 20) (k : Fin 8) (j : BitVec 4) (p d pos : Nat) (id : CoreId),
    let c := s.core
    let held (n : LAddr) (t : State) : Prop := t = { s with core := { c with
        regs := { c.regs with rm := t.core.regs.rm, flags := t.core.regs.flags }
        tsw := { c.tsw with apb := t.core.tsw.apb }
        traps := t.core.traps, xbound := t.core.xbound, ovh := t.core.ovh, pc := n } }
    (num.toNat < 0x010 ∨ (0x020 ≤ num.toNat ∧ num.toNat < 0x028) ∨ num.toNat = 0x030 ∨ num.toNat = 0x031 →
      (∃ t, exec (.setc num a) s = .next t ∧ held (laFrom c.pc 8) t)
      ∧ (∃ t, exec (.setcImm num i) s = .next t ∧ held (laFrom c.pc 8) t)
      ∧ (∃ t, exec (.registerWrite (.cr num) v) s = .next t ∧ held c.pc t))
    ∧ (s.priv ≠ 0 → (winEn v = true → winBase v + winNb v ≤ 511) →
      ∃ t, exec (.windowWrite (BitVec.ofNat 3 k.val) v) s = .next t ∧ winEn t.core.wins[k] = winEn v
        ∧ winBase t.core.wins[k] = winBase v ∧ t = { s with core := { c with wins := c.wins.set k t.core.wins[k] } })
    ∧ (s.focus = .work pos → s.priv ≠ 0 → (s.priv = 1 → bitsAt 52 12 v = s.ctx ∨ s.inSubtree s.ctx (bitsAt 52 12 v) = true) →
      ∃ t, exec (.strandWrite j v) s = .next t ∧ (t.strandAt (.router pos) j.toNat).getLsbD 31 = v.getLsbD 31)
    ∧ (s.focus = .work pos → s.priv ≠ 0 → s.bezelCount s.focus = 0 →
      ((acm v ||| bwm v) ||| brm v) &&& (0xFFFF ^^^ s.bezelGrant s.ctx (posOctet pos)) = 0 → acm v &&& (0xFFFF ^^^ acm c.bzmap) = 0 →
      ∃ t, exec (.bzmapWrite v) s = .next t ∧ acm t.core.bzmap = acm v
        ∧ t = { s with core := { c with bzmap := t.core.bzmap } })
    ∧ (∃ t, exec (.prqdoneWrite id v) s = .next t ∧ t = s.prqdone (s.ctxOn id) v)
    ∧ ((s.coreAt (.service p)).run = .stopped → v.toNat % 4 = 0 → v.toNat < 2 ^ 18 →
      ∃ t, exec (.scrunWrite p v) s = .next t ∧ (t.coreAt (.service p)).run = .service
        ∧ (t.coreAt (.service p)).pc = v.setWidth 18)
    ∧ (v.getLsbD 0 = true → s.hub.bended = false → s.bendOk = true →
      ∃ t, exec (.bendWrite v) s = .next t ∧ t.hub.boot = false ∧ t.hub.bended = true)
    ∧ (v.toNat < 512 → (s.func v.toNat).msix = true → ∃ t, exec (.vfirqWrite v) s = .next t ∧ t.hub.out = s.hub.out ++ [.irq v.toNat])
    ∧ ((Sparse.get 0 s.fab.fbdom d).getLsbD 62 = true → ∃ t, exec (.fbdomLostClear d 3) s = .next t
        ∧ (Sparse.get 0 t.fab.fbdom d).getLsbD 62 = false)

/-- COMPLETION (R382, R411 to R415, R417 to R421, R423 to R429): what hosts, Hallmark and the package do completes:
MBTAIL_WRITE, HOST_MESSAGE_DELIVERY, FRESET_WRITE, VFBIND_WRITE, FUNCTION_RESET, FABRIC_MANAGER_BIND, HOST_COMPLETION and its
timeout, LOCK_, START_ and STOP_INTERFACE, GET_DEVICE_INTERFACE_REPORT, every SPDM request, CORNER_CORE_START, BOOT_TIMEOUT,
DEVICE_RESET, THERMAL_THROTTLE, THERMAL_TRIP and POWER_REMOVAL, each with its effect. What a port answers for (log entry 99) and how a die starts
from reset (log entries 7, 13) are the model's choice. -/
def Obligations.HostEventsComplete : Prop :=
  ∀ (s : State) (n slot idx ld host die steps : Nat) (v : DWord) (c : CoreId) (p : SpdmPort) (x : ActorId) (r : HostReq)
    (bs prog image : List Byte),
    let f := s.func n
    let waits : Prop := s.hub.hostReqs.find? (fun q => decide (q.core = c)) = some r
    let up : Prop := s.hub.link = true ∧ s.hub.recovery = false ∧ n < 512
    (up → (v.toNat % 128 + 128 - f.head) % 128 ≤ 64 → f.rst = false → f.bound = true → f.tst ≠ 3 →
      ∃ t, exec (.mbtailWrite n v []) s = .next t ∧ (t.func n).tail = v.toNat % 128)
    ∧ (s.hostReceiver n = some x → ∃ t, exec (.hostMessageDelivery n) s = .next t ∧ (t.func n).head = (f.head + 1) % 128)
    ∧ (up → v.getLsbD 0 = true → f.bound = true → n ∉ s.ctxs.resets →
      ∃ t, exec (.fresetWrite n v) s = .next t ∧ (t.func n).rst = true ∧ n ∈ t.ctxs.resets)
    ∧ (n < 512 → s.vfbindRefused .root n v = false → f.bound = false → v.getLsbD 63 = true →
      ∃ t, exec (.vfbindWrite .root n v) s = .next t ∧ (t.func n).bound = true ∧ (t.func n).ctx = bitsAt 48 12 v)
    ∧ (s.resetReady n = true → f.bound = false → ∃ t, exec (.functionReset n) s = .next t ∧ (t.func n).rst = false ∧ n ∉ t.ctxs.resets)
    ∧ (ld < 16 → (∀ e ∈ s.hub.ldHost, e.1 ≠ ld → e.2 ≠ host + 1) →
      ∃ t, exec (.fabricManagerBind ld host) s = .next t ∧ Sparse.get 0 t.hub.ldHost ld = host + 1)
    ∧ (waits → ∃ t, exec (.hostCompletion c (.data bs)) s = .next t ∧ t.hub.hostReqs = s.hub.hostReqs.erase r)
    ∧ (waits → r.copy = true → ∃ t, exec (.hostCompletionTimeout c) s = .next t ∧ ∀ q ∈ t.hub.hostReqs, q ∈ s.hub.hostReqs.erase r)
    ∧ (up → f.tst = 0 → ∃ t, exec (.lockInterface n) s = .next t ∧ (t.func n).tst = 1)
    ∧ (up → f.tst = 1 → ∃ t, exec (.startInterface n) s = .next t ∧ (t.func n).tst = 2)
    ∧ (up → f.bound = false → ∃ t, exec (.stopInterface n) s = .next t ∧ (t.func n).tst = 0)
    ∧ (up → ∃ t, exec (.getDeviceInterfaceReport n) s = .next t ∧ t = { s with hub := { s.hub with out := s.hub.out ++ [.report (s.interfaceReport n)] } })
    ∧ (p = .mctp ∨ s.hub.link = true ∧ s.hub.recovery = false →
      let answers (t : State) (k : Nat → Nat) : Prop := ∃ o, t = { s with hub := { s.hub with
        out := s.hub.out ++ [.spdm p o], sessions := k s.hub.sessions } }
      (∃ t, exec (.getVersion p) s = .next t ∧ answers t id)
      ∧ (∃ t, exec (.getCapabilities p) s = .next t ∧ answers t id)
      ∧ (∃ t, exec (.negotiateAlgorithms p) s = .next t ∧ answers t id)
      ∧ (∃ t, exec (.getDigests p) s = .next t ∧ answers t id)
      ∧ (∃ t, exec (.getCertificate p slot) s = .next t ∧ answers t id)
      ∧ (∃ t, exec (.challenge p slot) s = .next t ∧ answers t id)
      ∧ (∃ t, exec (.getMeasurements p idx) s = .next t ∧ answers t id)
      ∧ (∃ t, exec (.keyExchange p) s = .next t ∧ answers t (· + 1))
      ∧ (∃ t, exec (.finish p) s = .next t ∧ answers t id)
      ∧ (∃ t, exec (.endSession p) s = .next t ∧ answers t (· - 1))
      ∧ (∃ t, exec (.unsupportedRequest p) s = .next t ∧ answers t id))
    ∧ (s.hub.boot = true → s.hub.recovery = false → (s.coreAt .root).run = .service → die < 9 → ∃ t, exec (.cornerCoreStart die prog image) s = .next t
        ∧ (t.coreAt (.work (1024 * die))).run = .boot ∧ (t.coreAt (.work (1024 * die))).pc = 0)
    ∧ (s.hub.boot = true → (s.coreAt (.work (1024 * die))).run = .boot →
      ∃ t, exec (.bootTimeout die) s = .next t ∧ t.hub.recovery = true)
    ∧ (∃ t, exec .deviceReset s = .next t ∧ t.hub.boot = true ∧ (t.coreAt .root).run = .service)
    ∧ (∃ t, exec (.thermalThrottle steps) s = .next t ∧ t.hub.scale = 16 - Nat.min steps 8)
    ∧ (∃ t, exec .thermalTrip s = .next t ∧ t.hub.tripped = true)
    ∧ (∃ t, exec .powerRemoval s = .next t ∧ t.hub.powered = false ∧ t.ram = State.reset.ram)

/-- COMPLETION (R88, R297, R359, R364, R367 to R373, R379, R380, R384, R385, R395, R396, R398, R402, R403, R407): what the firing
unit, the context engine and the fabric interface do completes where each may act: FIRING_CHOICE, REVOCATION_COMPLETE, RESIZE,
TRAP_MESSAGE_DELIVERY, CONTEXT_FAILED, SLICE_END, SAVE_POINT, PREEMPTION_BUDGET_EXPIRY, SCRUB, WATCHDOG, SERVICE_CORE_FAULT,
SERVICE_UNCORRECTABLE, LOCKET_STREAM_END, FABRIC_REQUEST_ARRIVAL, FABRIC_REPLY_ARRIVAL, END_TO_END_RESEND, LINK_REPLAY,
PORT_RETRAIN, DEVICE_LOST, TOKEN_INTERVAL, HUB_STRAND_COMBINE, DIRECTORY_UPDATE_ACKNOWLEDGED and MESSAGE_WINDOW. -/
def Obligations.EngineEventsComplete : Prop :=
  ∀ (s : State) (id : CoreId) (n x y p d k t dev flow seq pidx cl : Nat) (a : ActorId) (m : TrapMsg) (r : Resizing) (q : OutReq)
    (z : Stream) (how : StreamEnd) (fw : Forward) (pa lanes : Nat) (via : PageUse) (v : StrandVal) (bs : List Byte),
    let c := s.coreAt id
    (c.run = .idle → id.regions = true → s.chosenSlot id = some n → (c.slotAt n).actor = some a → (c.slotAt n).resume = none →
      ∃ u, exec (.firingChoice id) s = .next u ∧ (u.coreAt id).run = .firing n)
    ∧ ((s.ctxs.revoking.any fun r => r.ctx == x) = true → (s.dropTenants (s.subtree x)).drained (s.subtree x) = true →
      ∃ u, exec (.revocationComplete x) s = .next u ∧ ∀ r ∈ u.ctxs.revoking, r.ctx ≠ x)
    ∧ (s.ctxs.resizing.find? (fun r => r.ctx == x) = some r → s.resizeStep r = .finish →
      ∃ u, exec (.resize x) s = .next u ∧ u.ctxs.resizing = s.ctxs.resizing.erase r)
    ∧ (s.ctxs.traps = [m] → m.holder = none → m.code ≠ 0x80 → s.route 9 m.target = .actor a →
      ∃ u, exec .trapMessageDelivery s = .next u ∧ (u.actor a).mcount = (s.actor a).mcount + 1)
    ∧ (s.faultDomain x = some y → ∃ u older, exec (.contextFailed x) s = .next u
        ∧ u.ctxs.traps = older ++ [⟨s.ctxParent y, 0x84, y, 0, 0, 0, none⟩])
    ∧ (c.rotation ≠ [] → c.phase = .running → ∃ u, exec (.sliceEnd id) s = .next u ∧ (u.coreAt id).phase = .ending)
    ∧ (c.phase = .ending → c.awaitsAtomic = false → ∃ u, exec (.savePoint id) s = .next u ∧ (u.coreAt id).phase ≠ .ending)
    ∧ (c.phase = .handler → ∃ u, exec (.preemptionBudgetExpiry id) s = .next u ∧ (u.coreAt id).run = .idle)
    ∧ (c.phase = .restoring → (∀ e ∈ c.saves, e.1 ≠ c.ctx) → ∃ u, exec (.scrub id) s = .next u ∧ (u.coreAt id).phase = .running)
    ∧ (c.phase = .ending → ∃ u, exec (.watchdog id) s = .next u ∧ (u.coreAt id).phase = .saving false [] true)
    ∧ (∃ u, exec (.serviceCoreFault p k) s = .next u ∧ (u.coreAt (.service p)).run = .stopped)
    ∧ (∃ u, exec (.serviceUncorrectable .root) s = .next u ∧ u = s.deviceReset)
    ∧ (∃ u older, exec (.serviceUncorrectable (.service p)) s = .next u
        ∧ u.ctxs.traps = older ++ [⟨0, 0xC0, p % 32, 0, 0, 0, none⟩])
    ∧ (s.fab.streams.find? (fun x => x.ticket == t) = some z → z.over = some how →
      ∃ u, exec (.locketStreamEnd t how) s = .next u ∧ u.fab.streams = s.fab.streams.filter fun x => x.ticket != t)
    ∧ (seq = (s.inFlow dev flow).expected → s.admitted dev pidx pa n false = none →
      ∃ u, exec (.fabricRequestArrival dev flow seq pidx (.load pa n via)) s = .next u
        ∧ (u.inFlow dev flow).expected = (seq + 1) % 2 ^ 32)
    ∧ ((s.outFlow flow).unacked.find? (fun q => q.seq == seq) = some q → q.wait = .none → q.req = .store pa bs via →
      ∃ u, exec (.fabricReplyArrival flow seq .ack) s = .next u
        ∧ (u.outFlow flow).unacked = (s.outFlow flow).unacked.filter fun x => x.seq != seq)
    ∧ ((s.outFlow flow).unacked = [q] → q.tries < s.nretry →
      ∃ u, exec (.endToEndResend flow) s = .next u ∧ (u.outFlow flow).unacked = [{ q with tries := q.tries + 1 }])
    ∧ (∃ u, exec (.linkReplay p) s = .next u
        ∧ bitsAt 48 16 (Sparse.get 0 u.fab.fbport p) = Nat.min (bitsAt 48 16 (Sparse.get 0 s.fab.fbport p) + 1) 65535)
    ∧ (p < 24 → bitsAt 0 2 (Sparse.get 0 s.fab.fbport p) ≠ 2 → ∃ u, exec (.portRetrain p true lanes d) s = .next u
        ∧ bitsAt 0 2 (Sparse.get 0 u.fab.fbport p) = 2)
    ∧ (bitsAt 0 24 (Sparse.get 0 s.fab.fbdom d) = 0 → s.fab.outs = [] → s.fab.pending = [] → s.fab.strandUps = [] → ∃ u, exec (.deviceLost d) s = .next u
        ∧ (Sparse.get 0 u.fab.fbdom d).getLsbD 62 = true)
    ∧ (∃ u, exec .tokenInterval s = .next u ∧ u = { s with fab := { s.fab with buckets := u.fab.buckets } })
    ∧ ((s.fstrand k).getLsbD 51 = true → (s.fstrand k).getLsbD 44 = true → s.strandKids k = [] →
      s.ctxNamed (bitsAt 52 12 (s.fstrand k)) = true → s.fab.rounds = [(k, s.thisDev, v)] → ∃ u, exec (.hubStrandCombine k) s = .next u ∧ u.fab.rounds = [])
    ∧ (s.acts.forwards = [fw] → fw.core = id → ∃ u, exec (.directoryUpdateAcknowledged id) s = .next u ∧ u.acts.forwards = [])
    ∧ (∃ u, exec (.messageWindow cl) s = .next u ∧ ∀ e ∈ u.ctxs.msgs, e.1 / 4096 ≠ cl)

/-- Every instruction and every event has a meaning in every state: exec answers a next state; so does every step of a
powered device, which is the move of one unit that can move, or, where none can, the passing of time; without power
nothing moves until the rails come up again. One unit a step (log entry 9) and the stop without power (log entry 101) are the model's choice. -/
def Obligations.EveryStepAnswers : Prop :=
  (∀ (i : Instr) (s : State), ∃ t, exec i s = .next t)
  ∧ (∀ s : State, s.hub.powered = true → (s.movers = [] ∧ step s = .next { s with tick := s.tick + 2 ^ 32 })
      ∨ ∃ m ∈ s.movers, ∃ t, s.move m = .next t ∧ step s = .next { t with tick := t.tick + 2 ^ 32 })
  ∧ ∀ s : State, s.hub.powered = false →
      (.deviceReset ∈ s.inputs → ∃ t, step s = .next t) ∧ (.deviceReset ∉ s.inputs → step s = .fault .powerOff)

/-- The invariant that every step keeps (R14, R426, Table 15.8): the positions that fuses take out are still those of any
set, whatever runs, whatever arrives, through a reset and through a loss of power; and the bytes of HBM and of the boot flash stay in their
canonical form, so that equal memories are equal data (the form is the model's, DESIGN CHOICE, log entry 1). -/
def Obligations.StepsKeepFusesAndMemoryForm : Prop :=
  ∀ fuses : List Nat,
    let Inv (s : State) : Prop := s.mesh.fused = fuses ∧ Memory.wf s.ram.bytes = true ∧ Memory.wf s.hub.flash = true
    (∀ (i : Instr) (s t : State), Inv s → exec i s = .next t → Inv t)
    ∧ ∀ s t : State, Inv s → step s = .next t → Inv t
end

