-- ==== Sys2Proof/Laws/Sparse.lean ====
section
/-!
SUPPORT. The canonical maps: a read after a write gives the value written, a write leaves every other key alone, and every
operation keeps the canonical form.
-/

namespace Sys2Proof.Machine

variable {α : Type}

@[simp] theorem Sparse.get_nil (d : α) (k : Nat) : Sparse.get d [] k = d := rfl

/-- A read of the key last put. -/
@[simp] theorem Sparse.get_put_self (d : α) (m : Sparse α) (k : Nat) (v : α) : Sparse.get d (Sparse.put m k v) k = v := by
  induction m with
  | nil => simp [Sparse.put, Sparse.get]
  | cons e rest ih =>
    obtain ⟨j, x⟩ := e
    unfold Sparse.put
    split
    · simp [Sparse.get]
    · split
      · simp [Sparse.get]
      · rename_i h1 h2
        simp only [Sparse.get]
        rw [if_neg (by omega)]
        exact ih

/-- A read of another key. -/
theorem Sparse.get_put_ne (d : α) (m : Sparse α) {k j : Nat} (v : α) (h : j ≠ k) :
    Sparse.get d (Sparse.put m k v) j = Sparse.get d m j := by
  induction m with
  | nil => simp [Sparse.put, Sparse.get]; omega
  | cons e rest ih =>
    obtain ⟨i, x⟩ := e
    unfold Sparse.put
    split
    · simp only [Sparse.get]; rw [if_neg (by omega)]
    · split
      · rename_i h1 h2; subst h2; simp only [Sparse.get]; rw [if_neg (by omega), if_neg (by omega)]
      · simp only [Sparse.get]; rw [ih]

@[simp] theorem Sparse.get_del_self (d : α) (m : Sparse α) (k : Nat) : Sparse.get d (Sparse.del m k) k = d := by
  induction m with
  | nil => rfl
  | cons e rest ih =>
    obtain ⟨j, x⟩ := e
    unfold Sparse.del
    split
    · exact ih
    · rename_i h; simp only [Sparse.get, if_neg h]; exact ih

theorem Sparse.get_del_ne (d : α) (m : Sparse α) {k j : Nat} (h : j ≠ k) :
    Sparse.get d (Sparse.del m k) j = Sparse.get d m j := by
  induction m with
  | nil => rfl
  | cons e rest ih =>
    obtain ⟨i, x⟩ := e
    unfold Sparse.del
    split
    · rename_i hi; simp only [Sparse.get]; rw [if_neg (by omega)]; exact ih
    · simp only [Sparse.get]; rw [ih]

variable [DecidableEq α]

/-- A read of the key last written. -/
@[simp] theorem Sparse.get_set_self (d : α) (m : Sparse α) (k : Nat) (v : α) : Sparse.get d (Sparse.set d m k v) k = v := by
  unfold Sparse.set; split
  · rename_i h; rw [h]; exact Sparse.get_del_self d m k
  · exact Sparse.get_put_self d m k v

/-- A write leaves every other key alone. -/
theorem Sparse.get_set_ne (d : α) (m : Sparse α) {k j : Nat} (v : α) (h : j ≠ k) :
    Sparse.get d (Sparse.set d m k v) j = Sparse.get d m j := by
  unfold Sparse.set; split
  · exact Sparse.get_del_ne d m h
  · exact Sparse.get_put_ne d m v h

/-- What a key reads after a write. -/
theorem Sparse.get_set (d : α) (m : Sparse α) (k j : Nat) (v : α) :
    Sparse.get d (Sparse.set d m k v) j = if j = k then v else Sparse.get d m j := by
  split
  · rename_i h; rw [h]; exact Sparse.get_set_self d m k v
  · exact Sparse.get_set_ne d m v ‹_›

/-- The canonical form from a lower bound on. -/
theorem Sparse.wfFrom_mono (d : α) {lo hi : Nat} {m : Sparse α} (h : lo ≤ hi) (hm : Sparse.wfFrom d hi m = true) :
    Sparse.wfFrom d lo m = true := by
  cases m with
  | nil => rfl
  | cons e rest =>
    obtain ⟨j, x⟩ := e
    simp only [Sparse.wfFrom, Bool.and_eq_true, decide_eq_true_eq] at hm ⊢
    exact ⟨⟨by omega, hm.1.2⟩, hm.2⟩

theorem Sparse.wfFrom_put (d : α) {lo : Nat} {m : Sparse α} {k : Nat} {v : α} (hk : lo ≤ k) (hv : v ≠ d)
    (hm : Sparse.wfFrom d lo m = true) : Sparse.wfFrom d lo (Sparse.put m k v) = true := by
  induction m generalizing lo with
  | nil => simp [Sparse.put, Sparse.wfFrom, hk, hv]
  | cons e rest ih =>
    obtain ⟨j, x⟩ := e
    simp only [Sparse.wfFrom, Bool.and_eq_true, decide_eq_true_eq] at hm
    unfold Sparse.put
    split
    · simp only [Sparse.wfFrom, Bool.and_eq_true, decide_eq_true_eq]
      exact ⟨⟨hk, hv⟩, ⟨by omega, hm.1.2⟩, hm.2⟩
    · split
      · rename_i h; subst h
        simp only [Sparse.wfFrom, Bool.and_eq_true, decide_eq_true_eq]
        exact ⟨⟨hk, hv⟩, hm.2⟩
      · simp only [Sparse.wfFrom, Bool.and_eq_true, decide_eq_true_eq]
        exact ⟨hm.1, ih (by omega) hm.2⟩

theorem Sparse.wfFrom_del (d : α) {lo : Nat} {m : Sparse α} {k : Nat} (hm : Sparse.wfFrom d lo m = true) :
    Sparse.wfFrom d lo (Sparse.del m k) = true := by
  induction m generalizing lo with
  | nil => rfl
  | cons e rest ih =>
    obtain ⟨j, x⟩ := e
    simp only [Sparse.wfFrom, Bool.and_eq_true, decide_eq_true_eq] at hm
    unfold Sparse.del
    split
    · exact Sparse.wfFrom_mono d (by omega) (ih hm.2)
    · simp only [Sparse.wfFrom, Bool.and_eq_true, decide_eq_true_eq]
      exact ⟨hm.1, ih hm.2⟩

/-- A write keeps the canonical form. -/
theorem Sparse.wfFrom_set (d : α) {lo : Nat} {m : Sparse α} {k : Nat} {v : α} (hk : lo ≤ k)
    (hm : Sparse.wfFrom d lo m = true) : Sparse.wfFrom d lo (Sparse.set d m k v) = true := by
  unfold Sparse.set; split
  · exact Sparse.wfFrom_del d hm
  · exact Sparse.wfFrom_put d hk ‹_› hm

end Sys2Proof.Machine
end

