-- ==== Sys2Proof/Laws/Memory.lean ====
section
/-!
SUPPORT. Byte memories: every operation over them keeps the canonical form, a read after a write gives the bytes written,
and a write leaves every other byte alone.
-/

namespace Sys2Proof.Machine

/-- Reset memory is in the canonical form: nothing is listed. -/
theorem reset_memory_wf : Memory.wf State.reset.ram.bytes = true := rfl

theorem memWrite_wf {m : Mem} (a : Nat) (bs : List Byte) (h : Memory.wf m = true) : Memory.wf (memWrite m a bs) = true := by
  induction bs generalizing m a with
  | nil => exact h
  | cons b bs ih => exact ih (a + 1) (Sparse.wfFrom_set 0 (by omega) h)

theorem padWrite_wf {m : Mem} (a : Nat) (bs : List Byte) (h : Memory.wf m = true) : Memory.wf (padWrite m a bs) = true := by
  induction bs generalizing m a with
  | nil => exact h
  | cons b bs ih => exact ih (a + 1) (Sparse.wfFrom_set 0 (by omega) h)

/-- A byte after a write: one of those written, or as before. -/
theorem memWrite_get (m : Mem) (a : Nat) (bs : List Byte) (q : Nat) :
    Sparse.get 0 (memWrite m a bs) q = if a ≤ q ∧ q < a + bs.length then bs.getD (q - a) 0 else Sparse.get 0 m q := by
  induction bs generalizing m a with
  | nil => simp [memWrite]
  | cons b bs ih =>
    simp only [memWrite, ih, Sparse.get_set, List.length_cons]
    by_cases h : q = a
    · subst h; simp
    · by_cases h2 : a + 1 ≤ q ∧ q < a + 1 + bs.length
      · rw [if_pos h2, if_pos (by omega)]
        have : q - a = (q - (a + 1)) + 1 := by omega
        rw [this]; simp
      · rw [if_neg h2, if_neg h, if_neg (by omega)]

/-- Bytes outside a write are as before. -/
theorem memWrite_get_out (m : Mem) (a : Nat) (bs : List Byte) {q : Nat} (h : q < a ∨ a + bs.length ≤ q) :
    Sparse.get 0 (memWrite m a bs) q = Sparse.get 0 m q := by
  rw [memWrite_get, if_neg (by omega)]

/-- Bytes within a write are those written. -/
theorem memWrite_get_in (m : Mem) (a : Nat) (bs : List Byte) {j : Nat} (h : j < bs.length) :
    Sparse.get 0 (memWrite m a bs) (a + j) = bs.getD j 0 := by
  rw [memWrite_get, if_pos (by omega)]; congr 1; omega

theorem memRead_eq (m : Mem) (a n : Nat) : memRead m a n = (List.range n).map fun j => Sparse.get 0 m (a + j) := by
  induction n generalizing a with
  | zero => rfl
  | succ n ih =>
    rw [memRead, ih, List.range_succ_eq_map]
    simp only [List.map_cons, List.map_map, Nat.add_zero]
    congr 1
    apply List.map_congr_left; intro j _; simp only [Function.comp]; congr 1; omega

theorem padRead_eq (m : Mem) (a n : Nat) :
    padRead m a n = (List.range n).map fun j => Sparse.get 0 m ((a + j) % 2 ^ 18) := by
  induction n generalizing a with
  | zero => rfl
  | succ n ih =>
    rw [padRead, ih, List.range_succ_eq_map]
    simp only [List.map_cons, List.map_map, Nat.add_zero]
    congr 1
    apply List.map_congr_left; intro j _; simp only [Function.comp]; congr 2; omega

/-- A scratchpad byte outside a write of less than the whole scratchpad is as before. -/
theorem padWrite_get_out (m : Mem) (a : Nat) (bs : List Byte) {q : Nat}
    (h : ∀ j, j < bs.length → q ≠ (a + j) % 2 ^ 18) : Sparse.get 0 (padWrite m a bs) q = Sparse.get 0 m q := by
  induction bs generalizing m a with
  | nil => rfl
  | cons b bs ih =>
    simp only [padWrite]
    rw [ih]
    · apply Sparse.get_set_ne
      have := h 0 (by simp)
      simpa using this
    · intro j hj
      have := h (j + 1) (by simpa using hj)
      rwa [show a + 1 + j = a + (j + 1) by omega]

/-- A scratchpad byte within a write of at most the whole scratchpad is the one written. -/
theorem padWrite_get_in (m : Mem) (a : Nat) (bs : List Byte) {j : Nat} (h : j < bs.length) (hn : bs.length ≤ 2 ^ 18) :
    Sparse.get 0 (padWrite m a bs) ((a + j) % 2 ^ 18) = bs.getD j 0 := by
  induction bs generalizing m a j with
  | nil => simp at h
  | cons b bs ih =>
    simp only [padWrite]
    simp only [List.length_cons] at h hn
    cases j with
    | zero =>
      rw [padWrite_get_out]
      · simp
      · intro i hi; omega
    | succ j =>
      have := ih (Sparse.set 0 m (a % 2 ^ 18) b) (a + 1) (j := j) (by omega) (by omega)
      rw [show a + (j + 1) = a + 1 + j by omega, this]; simp

end Sys2Proof.Machine
end

