-- ==== Sys2Proof/Laws/State.lean ====
section
/-!
SUPPORT. Cores, actors and the fields of the state under the named updates: what each update leaves as it was.
-/

namespace Sys2Proof.Machine

/-! ## Cores -/

theorem coreAt_focus (s : State) : s.coreAt s.focus = s.core := by simp [State.coreAt]

theorem setCore_focus (s : State) (c : Core) : s.setCore s.focus c = { s with core := c } := by simp [State.setCore]

theorem modCore_focus (s : State) (f : Core → Core) : s.modCore s.focus f = { s with core := f s.core } := by
  rw [State.modCore, coreAt_focus, setCore_focus]

/-- A core after it is replaced. -/
@[simp] theorem coreAt_setCore (s : State) (id : CoreId) (c : Core) : (s.setCore id c).coreAt id = c := by
  unfold State.setCore State.coreAt
  split
  · rename_i h; simp [h]
  · rename_i h; simp [h]

/-- Every other core after one is replaced. -/
theorem coreAt_setCore_ne (s : State) {id other : CoreId} (c : Core) (h : other ≠ id) (hk : other.key ≠ id.key) :
    (s.setCore id c).coreAt other = s.coreAt other := by
  unfold State.setCore State.coreAt
  split
  · rename_i hf
    have : other ≠ s.focus := by rw [← hf]; exact h
    simp [this]
  · by_cases ho : other = s.focus
    · simp [ho]
    · simp only [ho, if_false]; exact Sparse.get_put_ne _ _ _ hk

@[simp] theorem coreAt_modCore (s : State) (id : CoreId) (f : Core → Core) :
    (s.modCore id f).coreAt id = f (s.coreAt id) := coreAt_setCore s id _

theorem coreAt_modCore_ne (s : State) {id other : CoreId} (f : Core → Core) (h : other ≠ id) (hk : other.key ≠ id.key) :
    (s.modCore id f).coreAt other = s.coreAt other := coreAt_setCore_ne s _ h hk

/-- Replacing a core changes nothing but the cores. -/
theorem setCore_rest (s : State) (id : CoreId) (c : Core) :
    s.setCore id c = { s with core := (s.setCore id c).core, others := (s.setCore id c).others } := by
  unfold State.setCore; split <;> rfl

@[simp] theorem setCore_focusEq (s : State) (id : CoreId) (c : Core) : (s.setCore id c).focus = s.focus := by
  unfold State.setCore; split <;> rfl
@[simp] theorem setCore_inputs (s : State) (id : CoreId) (c : Core) : (s.setCore id c).inputs = s.inputs := by
  unfold State.setCore; split <;> rfl
@[simp] theorem setCore_tick (s : State) (id : CoreId) (c : Core) : (s.setCore id c).tick = s.tick := by
  unfold State.setCore; split <;> rfl
@[simp] theorem setCore_mesh (s : State) (id : CoreId) (c : Core) : (s.setCore id c).mesh = s.mesh := by
  unfold State.setCore; split <;> rfl
@[simp] theorem setCore_bezels (s : State) (id : CoreId) (c : Core) : (s.setCore id c).bezels = s.bezels := by
  unfold State.setCore; split <;> rfl
@[simp] theorem setCore_ram (s : State) (id : CoreId) (c : Core) : (s.setCore id c).ram = s.ram := by
  unfold State.setCore; split <;> rfl
@[simp] theorem setCore_ctxs (s : State) (id : CoreId) (c : Core) : (s.setCore id c).ctxs = s.ctxs := by
  unfold State.setCore; split <;> rfl
@[simp] theorem setCore_acts (s : State) (id : CoreId) (c : Core) : (s.setCore id c).acts = s.acts := by
  unfold State.setCore; split <;> rfl
@[simp] theorem setCore_fab (s : State) (id : CoreId) (c : Core) : (s.setCore id c).fab = s.fab := by
  unfold State.setCore; split <;> rfl
@[simp] theorem setCore_hub (s : State) (id : CoreId) (c : Core) : (s.setCore id c).hub = s.hub := by
  unfold State.setCore; split <;> rfl

@[simp] theorem modCore_focusEq (s : State) (id : CoreId) (f : Core → Core) : (s.modCore id f).focus = s.focus := setCore_focusEq ..
@[simp] theorem modCore_inputs (s : State) (id : CoreId) (f : Core → Core) : (s.modCore id f).inputs = s.inputs := setCore_inputs ..
@[simp] theorem modCore_tick (s : State) (id : CoreId) (f : Core → Core) : (s.modCore id f).tick = s.tick := setCore_tick ..
@[simp] theorem modCore_mesh (s : State) (id : CoreId) (f : Core → Core) : (s.modCore id f).mesh = s.mesh := setCore_mesh ..
@[simp] theorem modCore_bezels (s : State) (id : CoreId) (f : Core → Core) : (s.modCore id f).bezels = s.bezels := setCore_bezels ..
@[simp] theorem modCore_ram (s : State) (id : CoreId) (f : Core → Core) : (s.modCore id f).ram = s.ram := setCore_ram ..
@[simp] theorem modCore_ctxs (s : State) (id : CoreId) (f : Core → Core) : (s.modCore id f).ctxs = s.ctxs := setCore_ctxs ..
@[simp] theorem modCore_acts (s : State) (id : CoreId) (f : Core → Core) : (s.modCore id f).acts = s.acts := setCore_acts ..
@[simp] theorem modCore_fab (s : State) (id : CoreId) (f : Core → Core) : (s.modCore id f).fab = s.fab := setCore_fab ..
@[simp] theorem modCore_hub (s : State) (id : CoreId) (f : Core → Core) : (s.modCore id f).hub = s.hub := setCore_hub ..

/-- The core in focus is the one a change of focus names. -/
@[simp] theorem refocus_focus (s : State) (id : CoreId) : (s.refocus id).focus = id := by
  unfold State.refocus; split
  · rename_i h; exact h.symm
  · rfl
@[simp] theorem refocus_core (s : State) (id : CoreId) : (s.refocus id).core = s.coreAt id := by
  unfold State.refocus State.coreAt; split <;> rfl
theorem refocus_self (s : State) : s.refocus s.focus = s := by simp [State.refocus]
@[simp] theorem refocus_inputs (s : State) (id : CoreId) : (s.refocus id).inputs = s.inputs := by
  unfold State.refocus; split <;> rfl
@[simp] theorem refocus_tick (s : State) (id : CoreId) : (s.refocus id).tick = s.tick := by
  unfold State.refocus; split <;> rfl
@[simp] theorem refocus_mesh (s : State) (id : CoreId) : (s.refocus id).mesh = s.mesh := by
  unfold State.refocus; split <;> rfl
@[simp] theorem refocus_bezels (s : State) (id : CoreId) : (s.refocus id).bezels = s.bezels := by
  unfold State.refocus; split <;> rfl
@[simp] theorem refocus_ram (s : State) (id : CoreId) : (s.refocus id).ram = s.ram := by
  unfold State.refocus; split <;> rfl
@[simp] theorem refocus_ctxs (s : State) (id : CoreId) : (s.refocus id).ctxs = s.ctxs := by
  unfold State.refocus; split <;> rfl
@[simp] theorem refocus_acts (s : State) (id : CoreId) : (s.refocus id).acts = s.acts := by
  unfold State.refocus; split <;> rfl
@[simp] theorem refocus_fab (s : State) (id : CoreId) : (s.refocus id).fab = s.fab := by
  unfold State.refocus; split <;> rfl
@[simp] theorem refocus_hub (s : State) (id : CoreId) : (s.refocus id).hub = s.hub := by
  unfold State.refocus; split <;> rfl

/-! ## Actors -/

@[simp] theorem actor_setActor (s : State) (x : ActorId) (r : ActorRec) : (s.setActor x r).actor x = r := by
  simp [State.setActor, State.actor]
theorem actor_setActor_ne (s : State) {x y : ActorId} (r : ActorRec) (h : y.key ≠ x.key) :
    (s.setActor x r).actor y = s.actor y := by
  simp only [State.setActor, State.actor]; exact Sparse.get_put_ne _ _ _ h
@[simp] theorem actor_modActor (s : State) (x : ActorId) (f : ActorRec → ActorRec) :
    (s.modActor x f).actor x = f (s.actor x) := actor_setActor s x _
theorem actor_modActor_ne (s : State) {x y : ActorId} (f : ActorRec → ActorRec) (h : y.key ≠ x.key) :
    (s.modActor x f).actor y = s.actor y := actor_setActor_ne s _ h
@[simp] theorem modActor_focus (s : State) (x : ActorId) (f : ActorRec → ActorRec) : (s.modActor x f).focus = s.focus := rfl
@[simp] theorem modActor_core (s : State) (x : ActorId) (f : ActorRec → ActorRec) : (s.modActor x f).core = s.core := rfl
@[simp] theorem modActor_others (s : State) (x : ActorId) (f : ActorRec → ActorRec) : (s.modActor x f).others = s.others := rfl
@[simp] theorem modActor_mesh (s : State) (x : ActorId) (f : ActorRec → ActorRec) : (s.modActor x f).mesh = s.mesh := rfl
@[simp] theorem modActor_ram (s : State) (x : ActorId) (f : ActorRec → ActorRec) : (s.modActor x f).ram = s.ram := rfl
@[simp] theorem modActor_ctxs (s : State) (x : ActorId) (f : ActorRec → ActorRec) : (s.modActor x f).ctxs = s.ctxs := rfl
@[simp] theorem modActor_bezels (s : State) (x : ActorId) (f : ActorRec → ActorRec) : (s.modActor x f).bezels = s.bezels := rfl
@[simp] theorem modActor_fab (s : State) (x : ActorId) (f : ActorRec → ActorRec) : (s.modActor x f).fab = s.fab := rfl
@[simp] theorem modActor_hub (s : State) (x : ActorId) (f : ActorRec → ActorRec) : (s.modActor x f).hub = s.hub := rfl
@[simp] theorem modActor_coreAt (s : State) (x : ActorId) (f : ActorRec → ActorRec) (id : CoreId) :
    (s.modActor x f).coreAt id = s.coreAt id := rfl

/-! ## Fields under an update of one part -/

@[simp] theorem onCore_core (s : State) (f : Core → Core) : (s.onCore f).core = f s.core := rfl
@[simp] theorem onCore_focus (s : State) (f : Core → Core) : (s.onCore f).focus = s.focus := rfl
@[simp] theorem onCore_others (s : State) (f : Core → Core) : (s.onCore f).others = s.others := rfl
@[simp] theorem onCore_inputs (s : State) (f : Core → Core) : (s.onCore f).inputs = s.inputs := rfl
@[simp] theorem onCore_tick (s : State) (f : Core → Core) : (s.onCore f).tick = s.tick := rfl
@[simp] theorem onCore_mesh (s : State) (f : Core → Core) : (s.onCore f).mesh = s.mesh := rfl
@[simp] theorem onCore_bezels (s : State) (f : Core → Core) : (s.onCore f).bezels = s.bezels := rfl
@[simp] theorem onCore_ram (s : State) (f : Core → Core) : (s.onCore f).ram = s.ram := rfl
@[simp] theorem onCore_ctxs (s : State) (f : Core → Core) : (s.onCore f).ctxs = s.ctxs := rfl
@[simp] theorem onCore_acts (s : State) (f : Core → Core) : (s.onCore f).acts = s.acts := rfl
@[simp] theorem onCore_fab (s : State) (f : Core → Core) : (s.onCore f).fab = s.fab := rfl
@[simp] theorem onCore_hub (s : State) (f : Core → Core) : (s.onCore f).hub = s.hub := rfl
@[simp] theorem onMesh_mesh (s : State) (f : Mesh → Mesh) : (s.onMesh f).mesh = f s.mesh := rfl
@[simp] theorem onMesh_coreAt (s : State) (f : Mesh → Mesh) (id : CoreId) (h : (f s.mesh).fused = s.mesh.fused) :
    (s.onMesh f).coreAt id = s.coreAt id := by unfold State.coreAt State.onMesh; rw [h]
@[simp] theorem onRam_ram (s : State) (f : Ram → Ram) : (s.onRam f).ram = f s.ram := rfl
@[simp] theorem onRam_coreAt (s : State) (f : Ram → Ram) (id : CoreId) : (s.onRam f).coreAt id = s.coreAt id := rfl
@[simp] theorem onRam_mesh (s : State) (f : Ram → Ram) : (s.onRam f).mesh = s.mesh := rfl
@[simp] theorem onCtxs_ctxs (s : State) (f : Ctxs → Ctxs) : (s.onCtxs f).ctxs = f s.ctxs := rfl
@[simp] theorem onCtxs_coreAt (s : State) (f : Ctxs → Ctxs) (id : CoreId) : (s.onCtxs f).coreAt id = s.coreAt id := rfl
@[simp] theorem onCtxs_actor (s : State) (f : Ctxs → Ctxs) (x : ActorId) : (s.onCtxs f).actor x = s.actor x := rfl
@[simp] theorem onCtxs_mesh (s : State) (f : Ctxs → Ctxs) : (s.onCtxs f).mesh = s.mesh := rfl
@[simp] theorem onActs_acts (s : State) (f : Actors → Actors) : (s.onActs f).acts = f s.acts := rfl
@[simp] theorem onActs_coreAt (s : State) (f : Actors → Actors) (id : CoreId) : (s.onActs f).coreAt id = s.coreAt id := rfl
@[simp] theorem onActs_mesh (s : State) (f : Actors → Actors) : (s.onActs f).mesh = s.mesh := rfl
@[simp] theorem onFab_fab (s : State) (f : Fabric → Fabric) : (s.onFab f).fab = f s.fab := rfl
@[simp] theorem onFab_coreAt (s : State) (f : Fabric → Fabric) (id : CoreId) : (s.onFab f).coreAt id = s.coreAt id := rfl
@[simp] theorem onFab_mesh (s : State) (f : Fabric → Fabric) : (s.onFab f).mesh = s.mesh := rfl
@[simp] theorem onHub_hub (s : State) (f : Hub → Hub) : (s.onHub f).hub = f s.hub := rfl
@[simp] theorem onHub_coreAt (s : State) (f : Hub → Hub) (id : CoreId) : (s.onHub f).coreAt id = s.coreAt id := rfl
@[simp] theorem onHub_mesh (s : State) (f : Hub → Hub) : (s.onHub f).mesh = s.mesh := rfl

/-! ## Commit and the store buffer -/

/-- What commit makes of its core (R96, R137). -/
def Core.afterCommit (c : Core) (ctx : Nat) : Core :=
  { c with
    committed := c.committed ++ c.openB
    openB := []
    recvq := dropReceived ctx c.taken c.recvq
    taken := 0
    transferQ := c.transferQ.map fun q => { q with openRegion := false } }

@[simp] theorem commit_coreAt (s : State) (id : CoreId) :
    (s.commit id).coreAt id = (s.coreAt id).afterCommit (s.ctxOn id) := by
  cases id <;> exact coreAt_modCore s _ _
theorem commit_coreAt_ne (s : State) {id other : CoreId} (h : other ≠ id) (hk : other.key ≠ id.key) :
    (s.commit id).coreAt other = s.coreAt other := by
  cases id <;> exact coreAt_modCore_ne s _ h hk
@[simp] theorem commit_focus (s : State) (id : CoreId) : (s.commit id).focus = s.focus := by
  cases id <;> exact modCore_focusEq s _ _
@[simp] theorem commit_mesh (s : State) (id : CoreId) : (s.commit id).mesh = s.mesh := by
  cases id <;> exact modCore_mesh s _ _
@[simp] theorem commit_ram (s : State) (id : CoreId) : (s.commit id).ram = s.ram := by
  cases id <;> exact modCore_ram s _ _
@[simp] theorem commit_ctxs (s : State) (id : CoreId) : (s.commit id).ctxs = s.ctxs := by
  cases id <;> exact modCore_ctxs s _ _
@[simp] theorem commit_acts (s : State) (id : CoreId) : (s.commit id).acts = s.acts := by
  cases id <;> exact modCore_acts s _ _
@[simp] theorem commit_fab (s : State) (id : CoreId) : (s.commit id).fab = s.fab := by
  cases id <;> exact modCore_fab s _ _
@[simp] theorem commit_hub (s : State) (id : CoreId) : (s.commit id).hub = s.hub := by
  cases id <;> exact modCore_hub s _ _
@[simp] theorem commit_core (s : State) : (s.commit s.focus).core = s.core.afterCommit (s.ctxOn s.focus) := by
  have h := commit_coreAt s s.focus
  rw [coreAt_focus] at h
  rw [← h, State.coreAt, commit_focus, if_pos rfl]

end Sys2Proof.Machine
end

