-- ==== Sys2Proof/Laws/Words.lean ====
section
/-!
SUPPORT. Local addresses, conditions and numbers of the scalar instructions: the model's own operations are the ones the
statements are put in (R21, R68, R104, R106).
-/

namespace Sys2Proof.Machine

/-- Moving n bytes on is moving the PC to the address n bytes further. -/
theorem laFrom_nat (a : LAddr) (n : Nat) : laFrom a n = a + BitVec.ofNat 18 n := by
  unfold laFrom
  apply BitVec.eq_of_toNat_eq
  simp only [BitVec.toNat_ofInt, BitVec.toNat_add, BitVec.toNat_ofNat]
  omega

theorem adv_eq (s : State) (n : Nat) : s.adv n = s.atPc (laFrom s.core.pc n) := by
  rw [laFrom_nat]; rfl

theorem setPc_eq (s : State) (a : LAddr) : s.setPc a = s.atPc a := rfl

theorem done_eq (s : State) (n : Nat) : s.done n = .next (s.atPc (laFrom s.core.pc n)) := by
  rw [laFrom_nat]; rfl

/-- A result and a step on are one update. -/
theorem putS_eq (s : State) (d : SReg) (v : DWord) (n : Nat) : s.putS d v n = .next (s.afterS d v n) := rfl

theorem ws_adv_eq (s : State) (d : SReg) (v : DWord) (n : Nat) : (s.ws d v).adv n = s.afterS d v n := rfl

theorem ws_atPc_eq (s : State) (d : SReg) (v : DWord) (a : LAddr) : (s.ws d v).atPc a = (s.afterS d v 0).atPc a := rfl

/-- The target of a branch (R106). -/
theorem branchTarget_eq (s : State) (off : Word) : s.branchTarget off = laFrom s.core.pc (4 * off.toInt) := by
  unfold State.branchTarget laFrom
  apply BitVec.eq_of_toNat_eq
  simp only [BitVec.toNat_ofInt, BitVec.toNat_add, BitVec.toNat_ofNat, BitVec.toInt_eq_toNat_cond]
  split <;> omega

theorem setWidth18_ofInt (x : BitVec 64) : x.setWidth 18 = BitVec.ofInt 18 x.toInt := by
  apply BitVec.eq_of_toNat_eq
  simp only [BitVec.toNat_setWidth, BitVec.toNat_ofInt, BitVec.toInt_eq_toNat_cond]
  split <;> omega

/-- The target of a jump through a register (R106). -/
theorem regTarget_eq (s : State) (a : SReg) (i : Word) : s.regTarget a i = laFrom 0 ((s.rs a).toNat + i.toInt) := by
  unfold State.regTarget laFrom sext32
  rw [setWidth18_ofInt]
  apply BitVec.eq_of_toNat_eq
  rw [BitVec.toInt_add, BitVec.toInt_signExtend_of_le (by omega)]
  simp only [BitVec.toNat_ofInt, BitVec.toInt_eq_toNat_cond (s.rs a)]
  have h : (0#18 : BitVec 18).toNat = 0 := rfl
  simp only [Int.bmod, BitVec.ofNat_eq_ofNat, h]
  push_cast
  split <;> split <;> omega

theorem readS_eq (w : Bool) (x : DWord) : readS w x = signedOf w x := by
  cases w <;> simp [readS, signedOf, opWidth, BitVec.toInt_eq_toNat_bmod]
  exact Int.emod_bmod _ 4294967296

theorem readU_eq (w : Bool) (x : DWord) : readU w x = unsignedOf w x := by
  cases w <;> simp [readU, readN, unsignedOf, opWidth]
  have := x.isLt; omega

theorem readN_eq (w : Bool) (x : DWord) : (readN w x : Int) = unsignedOf w x := readU_eq w x

theorem readN_nat (w : Bool) (x : DWord) : readN w x = x.toNat % 2 ^ opWidth w := by
  have := readN_eq w x
  unfold unsignedOf at this
  exact_mod_cast this

theorem narrow_eq (w : Bool) (v : Int) : narrow w v = delivered w v := by
  cases w
  · simp [narrow, delivered, opWidth]
    apply BitVec.eq_of_toInt_eq; simp
  · simp only [narrow, delivered, opWidth, if_true]
    apply BitVec.eq_of_toInt_eq
    rw [BitVec.toInt_signExtend_of_le (by omega), BitVec.toInt_ofInt, BitVec.toInt_ofInt]
    have := Int.le_bmod (x := v) (m := 2^32) (by decide)
    have := Int.bmod_lt (x := v) (m := 2^32) (by decide)
    rw [Int.bmod_eq_of_le (n := v.bmod _)] <;> push_cast at * <;> omega

theorem shiftCount_eq (w : Bool) (y : DWord) : (unsignedOf w y % (opWidth w : Int)).toNat = shiftCount w y := by
  cases w <;> simp [unsignedOf, shiftCount, opWidth] <;> omega

theorem unsignedOf_nonneg (w : Bool) (x : DWord) : 0 ≤ unsignedOf w x := by unfold unsignedOf; omega

/-- The conditions of R68 as the model computes them. -/
theorem condHolds_eq (c : Cond) (w : Bool) (x y : DWord) : condHolds c w x y = true ↔ condTrue c w x y := by
  have hx := readN_eq w x
  have hy := readN_eq w y
  cases c <;> simp only [condHolds, condTrue, decide_eq_true_eq, readS_eq, ← hx, ← hy] <;> norm_cast

theorem condHolds_false (c : Cond) (w : Bool) (x y : DWord) : condHolds c w x y = false ↔ ¬ condTrue c w x y := by
  rw [← condHolds_eq]; cases condHolds c w x y <;> simp

end Sys2Proof.Machine
end

