-- ==== Sys2Proof/Laws/Access.lean ====
section
/-!
SUPPORT. Accesses at issue: what a translated access, a load and a store do once their address leads somewhere, and what
the outcomes before that are (R21, R113, R331, R332, R339).
-/

namespace Sys2Proof.Machine

/-- The outcome of a translation that leads to a target. -/
theorem xlate_reaches {s : State} {va : DWord} {kind : Access} {reads : Bool} {t : Target}
    (h : s.Reaches va kind reads t) : ∃ pm, s.xlate va kind = .found t pm ∧ (reads = true → pm = false) := by
  obtain ⟨hva, -, h⟩ := h
  unfold State.xlate
  rw [if_neg (by omega)]
  rcases h with ⟨hp, hr, e, he, hk, hpm, ht⟩ | ⟨hp, hr, ht, hb⟩
  · exact ⟨e.pm va.toNat, by simp [hp, he, hk, ← ht, hr], hpm⟩
  · subst ht
    refine ⟨false, ?_, fun _ => rfl⟩
    by_cases hbo : s.core.run = .boot
    · simpa [hp, hbo] using hr
    · have hlt : va.toNat < 2 ^ 40 := hb.resolve_left hbo
      rw [Nat.mod_eq_of_lt hlt] at hr ⊢
      simp only [hp, if_true, if_neg hbo, if_pos hlt]
      exact if_pos hr

/-- An access that reaches a target goes on with it. -/
theorem translating_reaches {s : State} {va : DWord} {kind : Access} {reads : Bool} {t : Target}
    (h : s.Reaches va kind reads t) (k : Target → Res) : s.translating va kind reads k = k t := by
  obtain ⟨pm, e, hp⟩ := xlate_reaches h
  unfold State.translating
  rw [e]
  cases reads <;> simp_all

/-- The device takes the request of an access that reaches its target. -/
theorem checkPlace_taken {s : State} {t : Target} (h : s.taken? t) (va : DWord) (k : Res) : s.checkPlace t va k = k := by
  unfold State.checkPlace State.placeEnds
  unfold State.taken? at h
  cases hp : t.place <;> simp_all

theorem translatingPlace_reaches {s : State} {va : DWord} {kind : Access} {reads : Bool} {t : Target}
    (h : s.Reaches va kind reads t) (k : Target → Res) :
    (s.translating va kind reads fun t => s.checkPlace t va (k t)) = k t := by
  rw [translating_reaches h, checkPlace_taken h.2.1]

/-- Several accesses that reach their targets go on with them (R117). -/
theorem translatingEach_reaches {s : State} {kind : Access} {reads : Bool} {vas : List DWord} {ts : List Target}
    (h : List.Forall₂ (fun va t => s.Reaches va kind reads t) vas ts) (k : List Target → Res) :
    s.translatingEach kind reads vas k = k ts := by
  have hf : ∀ va ∈ vas, ∃ t pm, s.xlate va kind = .found t pm ∧ (reads = true → pm = false) ∧ s.placeEnds t = none := by
    induction h with
    | nil => simp
    | cons hr _ ih =>
      intro va hv
      rcases List.mem_cons.1 hv with rfl | hv
      · obtain ⟨pm, e, hp⟩ := xlate_reaches hr
        refine ⟨_, pm, e, hp, ?_⟩
        have ht := hr.2.1
        unfold State.taken? at ht
        unfold State.placeEnds
        split at ht <;> simp_all
      · exact ih va hv
  have hm : (vas.map fun va => (va, s.xlate va kind)).filterMap (fun x => match x.2 with
      | .found t _ => some t
      | _ => none) = ts := by
    clear hf
    induction h with
    | nil => rfl
    | cons hr _ ih =>
      obtain ⟨pm, e, -⟩ := xlate_reaches hr
      simp only [List.map_cons, List.filterMap_cons, e, ih]
  have hall : ∀ x ∈ vas.map fun va => (va, s.xlate va kind), ∃ t pm, x.2 = .found t pm ∧ (reads = true → pm = false)
      ∧ s.placeEnds t = none := by
    intro x hx
    obtain ⟨va, hv, rfl⟩ := List.mem_map.1 hx
    exact hf va hv
  unfold State.translatingEach
  simp only
  rw [List.find?_eq_none.2, List.find?_eq_none.2, List.findSome?_eq_none_iff.2, List.find?_eq_none.2]
  · exact congrArg k hm
  all_goals
    intro x hx
    obtain ⟨t, pm, e, hp, hn⟩ := hall x hx
    cases reads <;> simp_all [State.elemEnds, Xlate.poisoned]

/-- A load whose bytes are there goes on with what it meets. -/
theorem loadGlobal_reads {s : State} {va : DWord} {n : Nat} {skip : Bool} {t : Target} {bs : List Byte}
    (h : s.Reaches va .read true t) (hr : s.readTarget skip t va n = .ok bs) (k : State → List Byte → Res) :
    s.loadGlobal va n skip k = k (s.loaded skip t n bs).1 (s.loaded skip t n bs).2 := by
  unfold State.loadGlobal State.loaded
  rw [translating_reaches h, checkPlace_taken h.2.1, hr]
  cases hp : t.place <;> (simp only; split <;> rfl)

/-- A plain load whose bytes are there goes on with them. -/
theorem loadGlobal_brings {s u : State} {va : DWord} {n : Nat} {bs : List Byte} (h : s.Brings n va u bs)
    (k : State → List Byte → Res) : s.loadGlobal va n false k = k u bs := by
  obtain ⟨t, b, ht, hr, hl⟩ := h
  rw [loadGlobal_reads ht hr, ← hl]

/-- Several plain loads go on with their bytes. -/
theorem loadGlobals_brings {n : Nat} (vas : List DWord) : ∀ {s u : State} {bss : List (List Byte)}, s.BringsAll n vas u bss →
    ∀ k : State → List (List Byte) → Res, s.loadGlobals n vas k = k u bss := by
  induction vas with
  | nil => intro s u bss h k; obtain ⟨rfl, rfl⟩ := h; rfl
  | cons va rest ih =>
    intro s u bss h k
    obtain ⟨v, b, bs, h1, h2, rfl⟩ := h
    rw [State.loadGlobals, loadGlobal_brings h1, ih h2]

/-- With nothing on the way into the scratchpad a load of it reads its bytes (R168, R231). -/
theorem localBytes_quiet {s : State} (h : s.incoming = []) (a n : Nat) : s.localBytes a n = s.core.load a n := by
  unfold State.localBytes
  rw [h]

/-- A global address that is narrow enough and aligned. -/
theorem globalAddress_ok {s : State} {ea : DWord} {n : Nat} (h1 : ea.toNat < 2 ^ 48) (h2 : ea.toNat % n = 0) (k : Res) :
    s.globalAddress ea n k = k := by
  unfold State.globalAddress
  rw [if_neg (by omega)]

/-- A global address that is too wide or not aligned ends the code (R21, R113). -/
theorem globalAddress_bad {s : State} {ea : DWord} {n : Nat} (h : 2 ^ 48 ≤ ea.toNat ∨ ea.toNat % n ≠ 0) (k : Res) :
    s.globalAddress ea n k = .next (s.fatal 0x45 5 ea) := by
  unfold State.globalAddress
  rw [if_pos (by omega)]
  rfl

/-- A local access that is aligned and to the code's own bytes. -/
theorem localAccess_ok {s : State} {ea : DWord} {al n : Nat} (h1 : ea.toNat % 2 ^ 18 % al = 0)
    (h2 : s.mayReach (ea.toNat % 2 ^ 18) n = true) (k : Nat → Res) : s.localAccess ea al n k = k (ea.toNat % 2 ^ 18) := by
  unfold State.localAccess la
  rw [if_neg (by omega), if_pos h2]

/-- A local access that is not aligned (R113). -/
theorem localAccess_misaligned {s : State} {ea : DWord} {al n : Nat} (h : ea.toNat % 2 ^ 18 % al ≠ 0) (k : Nat → Res) :
    s.localAccess ea al n k = .next (s.fatal 0x45 5 ea) := by
  unfold State.localAccess la
  rw [if_pos h]
  rfl

/-- A local access to bytes that are not the code's own (R85). -/
theorem localAccess_notOwned {s : State} {ea : DWord} {al n : Nat} (h1 : ea.toNat % 2 ^ 18 % al = 0)
    (h2 : s.mayReach (ea.toNat % 2 ^ 18) n = false) (k : Nat → Res) :
    s.localAccess ea al n k = .next (s.fatal 0x43 3 (dw (ea.toNat % 2 ^ 18))) := by
  unfold State.localAccess la
  rw [if_neg (by omega), h2]
  rfl

/-- An instruction that finds room for its entries. -/
theorem withEntries_ok {s : State} {es : List Entry} (h : s.room es.length = .ok) (k : State → Res) :
    s.withEntries es k = k (s.buffered es) := by
  have : s.addEntries es = s.buffered es := by unfold State.addEntries State.buffered State.onCore; rfl
  simp [State.withEntries, h, this]

/-- An instruction whose entries must wait for room. -/
theorem withEntries_stall {s : State} {es : List Entry} (h : s.room es.length = .stall) (k : State → Res) :
    s.withEntries es k = .next s := by simp [State.withEntries, h]

/-- An instruction whose entries exceed the region's limit (R95). -/
theorem withEntries_capacity {s : State} {es : List Entry} (h : s.room es.length = .capacity) (k : State → Res) :
    s.withEntries es k = .next (s.fatal 0x4C 12 0) := by simp [State.withEntries, h, State.killReason]

/-- Flags that are set besides those that stand. -/
theorem orFlags_eq (s : State) (f : FlagSet) : s.orFlags f = s.flagged f := rfl

theorem clamped_eq (s : State) (b : Bool) : s.clamped b = s.flagged (if b then flagSC else 0) := rfl

/-- The bytes of a number are its base-256 digits. -/
theorem bytesOf_eq (n v : Nat) : bytesOf n v = (List.range n).map fun j => byteAt v j := by
  induction n generalizing v with
  | zero => rfl
  | succ n ih =>
    rw [bytesOf, ih, List.range_succ_eq_map]
    simp only [List.map_cons, List.map_map]
    congr 1
    · simp [byteAt]
    · apply List.map_congr_left; intro j _
      simp only [Function.comp, byteAt, Nat.succ_eq_add_one, pow_succ, Nat.div_div_eq_div_mul]
      rw [Nat.mul_comm]

theorem bytesOf_length (n v : Nat) : (bytesOf n v).length = n := by rw [bytesOf_eq]; simp

/-- The number that bytes hold. -/
theorem natOf_eq (bs : List Byte) : natOf bs = valueOf bs := by
  induction bs with
  | nil => rfl
  | cons b bs ih => simp [natOf, valueOf, ih]

/-- The bytes of the executing core's scratchpad, as a load reads them. -/
theorem load_eq (s : State) (a n : Nat) : s.core.load a n = (List.range n).map fun j => s.pad (a + j) := padRead_eq _ _ _

/-- What a load of the scratchpad reads is what it may read. -/
theorem localBytes_mayRead (s : State) (a n : Nat) : s.MayRead a n (s.localBytes a n) := by
  unfold State.MayRead
  cases hi : s.incoming with
  | nil => rw [localBytes_quiet hi, load_eq]; simp +contextual
  | cons w ws =>
    unfold State.localBytes
    rw [hi]
    refine ⟨by simp, fun j hj => ?_⟩
    simp only [List.getElem?_map, List.getElem?_range hj, Option.map_some]
    generalize hk : Config.freeChoice _ % _ = k
    cases k with
    | zero => left; simp [State.pad]
    | succ k =>
      simp only [List.getElem?_cons_succ]
      cases hg : ((w :: ws).filterMap (writtenByte (a + j)))[k]? with
      | none => left; simp [State.pad]
      | some b =>
        right
        have := List.mem_of_getElem? hg
        obtain ⟨x, hx, hb⟩ := List.mem_filterMap.1 this
        exact ⟨x, hx, by simp [hb]⟩

end Sys2Proof.Machine
end

