-- ==== Sys2Proof/Laws/Place.lean ====
section
/-!
SUPPORT. Placement (R278, R279, R317): what the device's free choices cannot change. A core with an empty slot and room
holds the actor whichever slot and beads the engine chooses; so building it answers a state.
-/

set_option autoImplicit false

namespace Sys2Proof.Machine

/-- A choice among some is one of them. -/
theorem pick_mem {α : Type} (tick : Nat) (xs : List α) (h : xs ≠ []) : ∃ x ∈ xs, pick tick xs = some x := by
  have hl : Config.freeChoice tick % xs.length < xs.length := Nat.mod_lt _ (List.length_pos_iff.2 h)
  exact ⟨xs[Config.freeChoice tick % xs.length], List.getElem_mem hl, List.getElem?_eq_getElem hl⟩

/-- An allocation gives as many beads as needs. -/
theorem Core.alloc_length (slot frm : Nat) (order : List Nat → List Nat) (needs : List Nat) (c : Core) :
    ∀ r, c.alloc slot frm order needs = some r → r.2.length = needs.length := by
  induction needs generalizing c with
  | nil => intro r h; simp [Core.alloc] at h; simp [← h]
  | cons n rest ih =>
    intro r h
    cases n with
    | zero =>
      simp only [Core.alloc, Option.map_eq_some_iff] at h
      obtain ⟨q, hq, rfl⟩ := h
      simp [ih c q hq]
    | succ n =>
      simp only [Core.alloc] at h
      obtain ⟨k, -, hk⟩ := List.exists_of_findSome?_eq_some h
      simp only [Option.map_eq_some_iff] at hk
      obtain ⟨q, hq, rfl⟩ := hk
      simp [ih _ q hq]

/-- Whether an allocation exists does not depend on the order in which runs are tried. -/
theorem Core.alloc_order (slot frm : Nat) (o p : List Nat → List Nat) (hop : ∀ ks k, k ∈ o ks → k ∈ p ks) (needs : List Nat)
    (c : Core) (h : (c.alloc slot frm o needs).isSome = true) : (c.alloc slot frm p needs).isSome = true := by
  induction needs generalizing c with
  | nil => simp [Core.alloc]
  | cons n rest ih =>
    cases n with
    | zero =>
      simp only [Core.alloc, Option.isSome_map] at h ⊢
      exact ih c h
    | succ n =>
      simp only [Core.alloc, List.findSome?_isSome_iff, Option.isSome_map] at h ⊢
      obtain ⟨k, hk, h⟩ := h
      exact ⟨k, hop _ _ hk, ih _ h⟩

/-- Where one order finds room, whatever the engine chooses gives an allocation. -/
theorem Core.allocate_of {c : Core} {tick slot frm : Nat} {needs : List Nat}
    (h : (c.alloc slot frm (fun ks => ks) needs).isSome = true) :
    ∃ r, c.allocate tick slot frm needs = some r ∧ r.2.length = needs.length := by
  unfold Core.allocate
  have h1 := Core.alloc_order slot frm (fun ks => ks)
    (fun ks => ks.drop (Config.freeChoice tick % ks.length) ++ ks.take (Config.freeChoice tick % ks.length))
    (fun ks k hk => by
      have : k ∈ ks.take (Config.freeChoice tick % ks.length) ++ ks.drop (Config.freeChoice tick % ks.length) := by
        rw [List.take_append_drop]; exact hk
      simp only [List.mem_append] at this ⊢
      exact this.symm) needs c h
  obtain ⟨r, hr⟩ := Option.isSome_iff_exists.1 h1
  exact ⟨r, hr, Core.alloc_length _ _ _ _ _ _ hr⟩

/-- A core in no use, with room for an image's text and an actor's beads in any slot, holds the actor. -/
theorem State.fitOn_of {s : State} {x : ActorId} {img : Image} {text : List Byte} {r : ActorRec} {id : CoreId}
    (hf : (s.coreAt id).occupied = false) (he : s.emptySlots id ≠ [])
    (ha : ∀ n, n < 64 → (({ (s.coreAt id).store 0 text with xbound := BitVec.ofNat 18 img.textLen } : Core).alloc n
      ((BitVec.ofNat 18 img.textLen).toNat / 512) (fun ks => ks) r.beadNeeds).isSome = true) :
    (s.fitOn x img text r id).isSome = true := by
  obtain ⟨n, hn, hp⟩ := pick_mem s.tick _ he
  have h64 : n < 64 := by simp [State.emptySlots] at hn; exact hn.1
  obtain ⟨q, hq, hl⟩ := Core.allocate_of (tick := s.tick) (ha n h64)
  have hl6 : q.2.length = 6 := by rw [hl]; simp [ActorRec.beadNeeds]
  obtain ⟨c2, l⟩ := q
  match l, hl6 with
  | [a, b, c, d, e, f], _ =>
    unfold State.fitOn
    simp only [hf, hp, Bool.not_false, Bool.true_or, Bool.not_true, Bool.false_eq_true, if_false, if_true]
    split
    · rfl
    · rename_i hno
      exact absurd hq (hno c2 a b c d e f [])

/-- Building answers a state where the quota admits, the image, the template and the parts read, and one of the cores
holds the actor. -/
theorem State.build_of {s : State} {id : CoreId} {x : ActorId} {gen h k : Nat} {f : ActorRec → ActorRec} {start : Bool}
    {ids : List CoreId} {img : Image} {r0 : ActorRec} {parts : List Byte × List Byte} (hi : s.engImage id x.ctx h = .ok img)
    (ht : s.engTemplate id x.ctx img k = .ok r0) (hp : s.engParts id x.ctx img { f r0 with gen := gen } = .ok parts)
    (hq : s.slotQuota x.ctx 1 = true)
    (hc : ∃ c ∈ ids, ∀ text, text = [] ∨ text = parts.1 → (s.fitOn x img text { f r0 with gen := gen } c).isSome = true) :
    ∃ t, s.build id x gen h k f start ids = .ok t := by
  obtain ⟨c, hc, h3⟩ := hc
  obtain ⟨⟨c0, r2⟩, h0⟩ := Option.isSome_iff_exists.1 (List.findSome?_isSome_iff.2 ⟨c, hc, h3 _ (.inl rfl)⟩)
  obtain ⟨⟨c1, r1⟩, hs⟩ := Option.isSome_iff_exists.1 (List.findSome?_isSome_iff.2 ⟨c, hc, h3 _ (.inr rfl)⟩)
  unfold State.build
  simp only [hq, hi, ht, hp, h0, Option.isNone_some, Bool.not_true, Bool.false_eq_true, if_false]
  unfold State.placeOn
  simp only [hq, Bool.not_true, Bool.false_eq_true, if_false, hs]
  exact ⟨_, rfl⟩

/-- An actor moves to a core in no use that holds it, where its image and its text read and no core stands before it. -/
theorem State.moveTo_of {s : State} {x : ActorId} {id : CoreId} {rest : List CoreId} {img : Image} {text : List Byte}
    (hi : s.engImage (s.actor x).core x.ctx (s.actor x).image = .ok img)
    (ht : s.engGet (s.actor x).core x.ctx ((s.actor x).image + 512) img.textLen = .ok text)
    (hf : (s.coreAt id).occupied = false)
    (h1 : (s.fitOn x ⟨(s.actor x).image, 0, (s.coreAt (s.actor x).core).xbound.toNat, 0⟩ [] (s.actor x) id).isSome = true)
    (h2 : (s.fitOn x img text (s.actor x) id).isSome = true) : ∃ u, s.moveTo x (id :: rest) = .ok u := by
  obtain ⟨⟨c1, r1⟩, e1⟩ := Option.isSome_iff_exists.1 h1
  obtain ⟨⟨c2, r2⟩, e2⟩ := Option.isSome_iff_exists.1 h2
  unfold State.moveTo
  simp only [List.findSome?_cons, e1, Option.map_some, hf, hi, ht, Eng.andThen, e2, Bool.false_eq_true, if_false]
  exact ⟨_, rfl⟩

/-- The move waits where the image is awaited. -/
theorem State.moveTo_waits {s : State} {x : ActorId} {id : CoreId} {rest : List CoreId}
    (hf : (s.coreAt id).occupied = false)
    (h1 : (s.fitOn x ⟨(s.actor x).image, 0, (s.coreAt (s.actor x).core).xbound.toNat, 0⟩ [] (s.actor x) id).isSome = true)
    (hw : (match s.engImage (s.actor x).core x.ctx (s.actor x).image with
      | .wait _ => true
      | _ => false) = true) : ∃ t, s.moveTo x (id :: rest) = .wait t := by
  obtain ⟨⟨c1, r1⟩, e1⟩ := Option.isSome_iff_exists.1 h1
  cases hi : s.engImage (s.actor x).core x.ctx (s.actor x).image with
  | ok i => simp [hi] at hw
  | fail e t => simp [hi] at hw
  | wait t =>
    unfold State.moveTo
    simp only [List.findSome?_cons, e1, Option.map_some, hf, hi, Eng.andThen, Bool.false_eq_true, if_false]
    exact ⟨_, rfl⟩

/-- A job's root is placed where an index is free and it builds. -/
theorem State.placeRoot_of {s : State} {id : CoreId} {x i pa : Nat} {b : List Byte} (hi : s.freeIndex x 1 = some i)
    (hb : ∃ t, s.build id ⟨x, i⟩ (nextGen (s.actor ⟨x, i⟩).gen) (field b 8 8) (field b 0x10 1)
      (fun r => { rootRec b r with job := some pa }) (bitAt 0 (dw (field b 7 1))) (s.candidates x) = .ok t) :
    ∃ t, s.placeRoot id x pa b = .ok (t, ⟨x, i⟩) := by
  obtain ⟨t, ht⟩ := hb
  simp [State.placeRoot, hi, ht]

/-! ## What an engine reads of memory at rest -/

theorem State.engineSrc_quiet {s : State} {die : Nat} (ho : s.orderAt die = []) (hp : s.ram.ports = []) (skip : Bool) (pa : Nat) :
    s.engineSrc die skip pa = .memory := by
  have hq : (s.port (portOf pa)).line pa = [] := by
    simp [State.port, hp, Port.line, Port.reset, Sparse.get]
  simp [State.engineSrc, ho, hq, newest, Pending.orElse, Pending.atPort]

/-- With nothing on its way to the ports, nothing poisoned and nothing coded, an engine reads memory (R28, R36). -/
theorem State.engineRead_quiet {s : State} {die : Nat} (ho : s.orderAt die = []) (hp : s.ram.ports = []) (hm : s.ram.marks = [])
    (hc : s.ram.codes = []) {pa : Nat} (h : pa < hbmEnd) (cmp : BitVec 2) (n : Nat) :
    ∃ bs, s.engineRead die false cmp pa n = .ok bs ∧ bs.length = n := by
  have hs : (List.range n).map (fun i => s.engineSrc die false (pa + i)) = List.replicate n .memory := by
    rw [funext fun i => State.engineSrc_quiet ho hp false (pa + i)]; simp [List.map_const']
  have hpo : s.ram.poisoned pa = false := by simp [Ram.poisoned, hm, Sparse.get]
  have hco : s.ram.code (pa / 1024) = 0 := by simp [Ram.code, hc, Sparse.get]
  simp only [State.engineRead, hs, hpo, Ram.read, hco, if_true, Nat.not_le.mpr h, if_false, Bool.and_false, Bool.false_eq_true]
  rw [if_neg (by simp)]
  exact ⟨_, rfl, by simp⟩

theorem State.engRead_quiet {s : State} {die x : Nat} (ho : s.orderAt die = []) (hp : s.ram.ports = []) (hm : s.ram.marks = [])
    (hc : s.ram.codes = []) (hl : s.lateAt die = []) {top : Nat}
    (hw : ∀ a, a < top → ∃ c, s.engWalk die x a .read = .ok c ∧ c.host = false ∧ c.mode = 0 ∧ c.a < hbmEnd) :
    ∀ fuel va n, va + n ≤ top → n = 0 ∨ va % 1024 + n ≤ 1024 * fuel → ∃ bs, s.engRead die x fuel va n = .ok bs ∧ bs.length = n
  | 0, va, n, _, hf => ⟨[], rfl, by simp; omega⟩
  | fuel + 1, va, n, ht, hf => by
    unfold State.engRead
    by_cases h0 : n = 0
    · exact ⟨[], by simp [h0], by simp [h0]⟩
    obtain ⟨c, hc1, hh, hmo, ha⟩ := hw va (by omega)
    obtain ⟨k, hk⟩ : ∃ k, k = Nat.min n (1024 - va % 1024) := ⟨_, rfl⟩
    have hk1 : k ≤ n := hk ▸ Nat.min_le_left ..
    have hk2 : k = n ∨ k = 1024 - va % 1024 := by
      rcases Nat.le_total n (1024 - va % 1024) with h | h
      · exact .inl (hk.trans (Nat.min_eq_left h))
      · exact .inr (hk.trans (Nat.min_eq_right h))
    have hk3 : k ≤ 1024 - va % 1024 := hk ▸ Nat.min_le_right ..
    obtain ⟨bs, hb, hbl⟩ := State.engineRead_quiet ho hp hm hc ha c.cmp k
    obtain ⟨rest, hr, hrl⟩ := State.engRead_quiet ho hp hm hc hl hw fuel (va + k) (n - k) (by omega) (by omega)
    refine ⟨bs ++ rest, ?_, by simp only [List.length_append, hbl, hrl]; omega⟩
    simp only [h0, if_false, hl, List.any_nil, Bool.false_eq_true, hc1, hh, hmo, ne_eq, not_true_eq_false, or_self, ← hk, hb, hr]

/-- What an engine reads of an address range that its context maps to plain memory at rest. -/
theorem State.engGet_quiet {s : State} {id : CoreId} {x : Nat} (ho : s.orderAt id.die = []) (hp : s.ram.ports = []) (hm : s.ram.marks = [])
    (hc : s.ram.codes = []) (hl : s.lateAt id.die = []) {top : Nat} (h48 : top ≤ 2 ^ 48)
    (hw : ∀ a, a < top → ∃ c, s.engWalk id.die x a .read = .ok c ∧ c.host = false ∧ c.mode = 0 ∧ c.a < hbmEnd)
    (va n : Nat) (h : va + n ≤ top) : ∃ bs, s.engGet id x va n = .ok bs ∧ bs.length = n := by
  obtain ⟨bs, hb, hbl⟩ := State.engRead_quiet ho hp hm hc hl hw (n / 1024 + 2) va n h (by omega)
  exact ⟨bs, by simp only [State.engGet, Nat.not_lt.mpr (Nat.le_trans h h48), if_false, State.engBytes, hb], hbl⟩

theorem State.engGets_quiet {s : State} {id : CoreId} {x : Nat} (ho : s.orderAt id.die = []) (hp : s.ram.ports = []) (hm : s.ram.marks = [])
    (hc : s.ram.codes = []) (hl : s.lateAt id.die = []) {top : Nat} (h48 : top ≤ 2 ^ 48)
    (hw : ∀ a, a < top → ∃ c, s.engWalk id.die x a .read = .ok c ∧ c.host = false ∧ c.mode = 0 ∧ c.a < hbmEnd) :
    ∀ l : List (Nat × Nat), (∀ e ∈ l, e.1 + e.2 ≤ top) → ∃ bss, s.engGets id x l = .ok bss ∧ bss.map List.length = l.map (·.2)
  | [], _ => ⟨[], rfl, rfl⟩
  | (va, n) :: l, h => by
    obtain ⟨b, hb, hbl⟩ := State.engGet_quiet ho hp hm hc hl h48 hw va n (h (va, n) (List.mem_cons_self ..))
    obtain ⟨bs, hbs, hbsl⟩ := State.engGets_quiet ho hp hm hc hl h48 hw l fun e he => h e (List.mem_cons_of_mem _ he)
    exact ⟨b :: bs, by simp [State.engGets, hb, hbs, Eng.andThen], by simp [hbl, hbsl]⟩

/-- A context that is a partition, whose tables map the first GiB by one leaf of level 1 one to one: its walks there (R335 to R337). -/
theorem State.walk_gib {s : State} {die x t0 t1 : Nat} {b0 b1 : List Byte} (hc : s.chain x = [x]) (hf : s.ctxTfmt x = 0)
    (hr : s.ctxTroot x = t0) (hb : s.ctxWbase x = 0) (hl : s.ctxWlen x = 2 ^ 48) (ht0 : t0 < hbmEnd) (ht1 : t1 < hbmEnd)
    (h0 : s.tableEntry die 0 t0 = .ok b0) (h1 : s.tableEntry die 0 t1 = .ok b1)
    (e0 : bitAt 0 (dwOf b0) = true ∧ malformed (dwOf b0) 0 true = false ∧ bitAt 1 (dwOf b0) = false ∧ bitsAt 12 36 (dwOf b0) * 4096 = t1)
    (e1 : bitAt 0 (dwOf b1) = true ∧ malformed (dwOf b1) 1 true = false ∧ bitAt 1 (dwOf b1) = true ∧ bitAt 2 (dwOf b1) = true
      ∧ bitAt 3 (dwOf b1) = true ∧ bitsAt 12 36 (dwOf b1) = 0 ∧ bitAt 4 (dwOf b1) = false ∧ bitsAt 6 2 (dwOf b1) = 0
      ∧ (dwOf b1).extractLsb' 8 2 = 0 ∧ bitsAt 58 6 (dwOf b1) = 0) (hj : s.acts.jobs = []) (a : Nat) (ha : a < 2 ^ 30) :
    s.engWalk die x a .read = .ok ⟨a, true, true, 2 ^ 30, [(a, 0, 2 ^ 48)], false, 0, 0, 0⟩ := by
  obtain ⟨p0, p1, p2, p3⟩ := e0
  obtain ⟨q0, q1, q2, q3, q4, q5, q6, q7, q8, q9⟩ := e1
  have d0 : a / 2 ^ (12 + 9 * 3) = 0 := Nat.div_eq_of_lt (by omega)
  have d1 : a / 2 ^ (12 + 9 * 2) = 0 := Nat.div_eq_of_lt (by omega)
  have m1 : a % 2 ^ 30 = a := Nat.mod_eq_of_lt ha
  have hh : hbmEnd ≤ 2 ^ 48 := by decide
  have l1 : s.level die x true (fun ta => s.walkChain die [] ta .read true) a .read false 3 t1
      = .ok ⟨a, true, true, 2 ^ 30, [], false, 0, 0, 0⟩ := by
    unfold State.level
    simp only [d1, Nat.zero_mod, Nat.mul_zero, Nat.add_zero, hb, hl, State.walkChain]
    rw [if_neg (by omega)]
    simp only [Nat.not_le.mpr ht1, h1, q0, q1, q2, q3, q4, q5, q6, q7, q8, q9, Access.allowed]
    simp
    omega
  have l0 : s.level die x true (fun ta => s.walkChain die [] ta .read true) a .read false 4 t0
      = .ok ⟨a, true, true, 2 ^ 30, [], false, 0, 0, 0⟩ := by
    unfold State.level
    simp only [d0, Nat.zero_mod, Nat.mul_zero, Nat.add_zero, hb, hl]
    rw [if_neg (by omega), show s.walkChain die [] t0 .read true = .ok ⟨t0, true, true, 2 ^ 30, [], false, 0, 0, 0⟩ from rfl]
    simp only [Nat.not_le.mpr ht0, h0, p0, p1, p2, p3]
    simp [l1]
  have w : s.walk die x a .read = .ok ⟨a, true, true, 2 ^ 30, [(a, 0, 2 ^ 48)], false, 0, 0, 0⟩ := by
    rw [State.walk, hc, State.walkChain, if_neg (by simp [hf]), hr, show ([] : List Nat).isEmpty = true from rfl, l0]
    simp [hb, hl]
    omega
  have hah : ¬ hbmEnd ≤ a := by have : 2 ^ 30 ≤ hbmEnd := by decide
                                omega
  simp [State.engWalk, w, hah, State.armedJob, hj]

end Sys2Proof.Machine
end

