-- ==== Sys2Proof/Tests/Slice0.lean ====
section
/-!
SUPPORT. Tests: ill-formed terms that `Instr.wf` refuses, words of the spec's encodings with what they decode to, one
small step of each family with values worked out by hand from the spec, and for each statement with hypotheses a
concrete state and operands that meet them (`witness_` and its name), clause by clause.
-/

set_option autoImplicit false
open Sys2Proof Sys2Proof.Machine

namespace Sys2Proof.Tests

set_option Elab.async false

/-! ## Small states -/

/-- Actor 5 of context 1. -/
def me : ActorId := ⟨1, 5⟩
/-- Actor 6 of context 1. -/
def peer : ActorId := ⟨1, 6⟩
/-- A context that is live, with every core and scope of its parent. -/
def liveCcb : List DWord :=
  [BitVec.ofNat 64 (2 ^ 32 + 2 ^ 48), BitVec.ofNat 64 (2 ^ 36 * 9216), 0, BitVec.ofNat 64 (2 ^ 48)] ++ List.replicate 12 0
    ++ [BitVec.ofNat 64 4] ++ List.replicate 15 0
/-- Scalar registers set one by one. -/
def withS (l : List (Nat × DWord)) (s : State) : State :=
  { s with core := { s.core with regs := l.foldl (fun g e => g.setS (BitVec.ofNat 5 e.1) e.2) s.core.regs } }
/-- A device with contexts 0 and 1 whose work core at position 0 runs actor 5 of context 1 in slot 3, at local address 64
below XBOUND 512; beads 1 to 20 are the firing's own. -/
def here : State :=
  { State.reset with
    core := { State.reset.core with
      run := .firing 3, pc := 64, xbound := 512
      slots := [(3, ⟨.running, some me, none⟩)]
      beads := (List.range 20).map fun i => (i + 1, .owned 3)
      router := { State.reset.core.router with val := true, lci := 9 } }
    ctxs := { State.reset.ctxs with ccb := [(0, ccbRoot 9216), (1, liveCcb)], created := [1] }
    acts := { State.reset.acts with tab := [(me.key, { ActorRec.free with st := .resident, gen := 7, slot := 3, sge := true }),
      (peer.key, { ActorRec.free with st := .resident, gen := 2, slot := 4 })] }
    hub := { State.reset.hub with boot := false, bended := true } }
/-- The same core at another privilege. -/
def atPriv (p : BitVec 2) (s : State) : State := { s with core := { s.core with tsw := { s.core.tsw with priv := p } } }

/-- A TLB entry of context 1 for the 4 KiB page at 0x10000, readable and writable, to device address 0x10000. -/
def page : TlbEntry := ⟨dw (2 ^ 52 + 0x10000 + 13), dw 0x10⟩
/-- A read-only one, at 0x11000. -/
def pageR : TlbEntry := ⟨dw (2 ^ 52 + 0x11000 + 5), dw 0x11⟩
/-- A write-only one, at 0x12000. -/
def pageW : TlbEntry := ⟨dw (2 ^ 52 + 0x12000 + 9), dw 0x12⟩
/-- The running core with those entries in its TLB. -/
def mapped : State := { here with core := { here.core with tlb := [page, pageR, pageW] } }
/-- The target of address 0x10000 + n. -/
def spot (n : Nat) : Target := ⟨.dev (0x10000 + n), 0, 1⟩
/-- An entry for a store of eight bytes at 0x10000. -/
def pending : Entry := ⟨.store (spot 0) [1, 2, 3, 4, 5, 6, 7, 8] (List.range 8), none, here.who, 1⟩
/-- A repetition of one NOP with one iteration. -/
def repeating : Repetition := ⟨[(72, .nop)], 0, 0, 0, 0, 1, 0, 0, Vector.replicate 32 0, none, none, [], []⟩

/-- A CPY between 0x10000 and 0x400, of eight bytes. -/
def copyF (dir : CpyDir) : CpyF := ⟨dir, .core, if dir = .lr then 8 else if dir = .ll then 7 else 1, 6, 7, 0, true, false, false, true, false, 0⟩

/-- An address that an entry of the TLB maps is reached. -/
theorem reaches_of {s : State} {va : DWord} {kind : Access} {reads : Bool} {t : Target} (e : TlbEntry)
    (h0 : va.toNat < 2 ^ 48) (hd : ∃ pa, t.place = .dev pa) (hp : s.core.physical s.focus = false)
    (hr : t.place.reachable s.priv false = true) (hl : s.tlbLookup va.toNat = some e) (ha : kind.allowed e.r e.w = true)
    (hm : reads = true → e.pm va.toNat = false) (ht : t = e.target va.toNat) : s.Reaches va kind reads t := by
  obtain ⟨pa, h⟩ := hd
  exact ⟨h0, by simp [State.taken?, h], .inl ⟨hp, hr, e, hl, ha, hm, ht⟩⟩

/-- Does a plain load of n bytes at a mapped address of HBM, with no earlier version of its line open, bring those given? -/
def brings (s : State) (n : Nat) (va : DWord) (bs : List Byte) : Bool :=
  match s.tlbLookup va.toNat with
  | none => false
  | some e =>
    let t := e.target va.toNat
    decide (va.toNat < 2 ^ 48) && !s.core.physical s.focus && e.r && !e.pm va.toNat && t.place.reachable s.priv false
      && (match t.place with
        | .dev pa => decide (pa < hbmEnd) && (s.olderLines s.focus pa).isEmpty
        | _ => false)
      && (match s.readTarget false t va n with
        | .ok b => b == bs
        | _ => false)

theorem brings_of {s : State} {n : Nat} {va : DWord} {bs : List Byte} (h : brings s n va bs = true) : s.Brings n va s bs := by
  unfold brings at h
  cases hl : s.tlbLookup va.toNat with
  | none => simp [hl] at h
  | some e =>
    simp only [hl, Bool.and_eq_true, decide_eq_true_eq, Bool.not_eq_true'] at h
    obtain ⟨⟨⟨⟨⟨⟨h0, hp⟩, hr⟩, hm⟩, hc⟩, hd⟩, hb⟩ := h
    refine ⟨_, bs, reaches_of e h0 ?_ hp hc hl hr (fun _ => hm) rfl, ?_, ?_⟩
    · cases ht : (e.target va.toNat).place <;> simp [ht] at hd ⊢
    · cases hx : s.readTarget false (e.target va.toNat) va n <;> simp [hx] at hb ⊢
      exact hb
    · unfold State.loaded
      cases ht : (e.target va.toNat).place <;> simp [ht] at hd ⊢
      simp [State.meetLine, hd]

theorem brings_all {s : State} {n : Nat} : ∀ (vas : List DWord) (bss : List (List Byte)), vas.length = bss.length →
    (vas.zip bss).all (fun e => brings s n e.1 e.2) = true → s.BringsAll n vas s bss
  | [], [], _, _ => ⟨rfl, rfl⟩
  | va :: vas, b :: bss, hl, h => by
    simp only [List.zip_cons_cons, List.all_cons, Bool.and_eq_true] at h
    exact ⟨s, b, bss, brings_of h.1, brings_all vas bss (by simpa using hl) h.2, rfl⟩

/-! ## Statements and what meets their hypotheses -/

theorem witness_IntegerOperationsFollowTheirTable : (intRows true 1 2 3 0xFFFFFFFF).length = 20 := by decide +kernel

theorem witness_ScalarRegistersAndFieldOperations :
    let s := withS [(2, 5), (3, 6)] here
    condTrue .ltn false (s.rs 2) (s.rs 3) ∧ ¬condTrue .ge true (s.rs 2) (s.rs 3)
    ∧ condTrue .eq true (s.rs 2) ((5 : Word).signExtend 64) ∧ ¬condTrue .gen false (s.rs 2) ((0xFFFFFFFF : Word).signExtend 64)
    ∧ (63 : BitVec 6).toNat + (0 : BitVec 6).toNat + 1 ≤ 64 ∧ (1 : SReg) ≠ 0 ∧ (2 : SReg) ≠ 1 := by
  refine ⟨?_, ?_, ?_, ?_, ?_, ?_, ?_⟩ <;> (try unfold condTrue) <;> decide +kernel

theorem witness_BranchesAndJumps :
    let s := withS [(2, 0xFFFFFFFFFFFFFFFF), (3, 6)] here
    condTrue .lt false (s.rs 2) (s.rs 3) ∧ ¬condTrue .ltn false (s.rs 2) (s.rs 3)
    ∧ condTrue .eq false (s.rs 2) ((0xFFFFFFFF : Word).signExtend 64) ∧ ¬condTrue .ne true (s.rs 2) ((0xFFFFFFFF : Word).signExtend 64) := by
  refine ⟨?_, ?_, ?_, ?_⟩ <;> unfold condTrue <;> decide +kernel

theorem witness_RegionsAndCommit :
    here.core.rep = none ∧ { here.core with rep := some repeating }.rep ≠ none
    ∧ CoreId.work 1 ≠ here.focus ∧ (CoreId.work 1).key ≠ here.focus.key := by decide +kernel

theorem witness_PadWord :
    (3 : Word).toNat % 4 = 3 ∧ (7 : Word).toNat % 4 = 3 ∧ (7 : Word) ≠ 3
    ∧ (let s := { here with core := { here.core with pc := 508, mem := [(508, 7)] } }
      s.focus.regions = true ∧ s.core.pc.toNat % 4 = 0 ∧ s.core.pc.toNat < s.core.xbound.toNat
      ∧ ∀ j, j < 4 → s.pad (s.core.pc.toNat + j) = byteAt 7 j) := by decide +kernel

/-- A signal firing of the same actor. -/
def signalled : State := { here with core := { here.core with tsw := { here.core.tsw with sf := true } } }

theorem witness_EndOfAFiring :
    (here.core.rep = none ∧ here.core.run = .firing 3 ∧ (here.core.slotAt 3).actor = some me
      ∧ here.coreAt (here.actor me).core = here.core ∧ (∀ p : Fin 4, (here.actor me).ins[p].asks = [])
      ∧ here.core.tsw.sf = false ∧ (here.actor me).ins[0].en = false)
    ∧ (signalled.core.tsw.sf = true ∧ (signalled.core.slotAt 3).actor = some me
      ∧ signalled.coreAt (signalled.actor me).core = signalled.core)
    ∧ ({ IPort.none with en := true }).en = true := by decide +kernel

/-- A VADD that follows a REP at address 64: the word of F32 with p0, d = 3, a = 1, b = 2. -/
def repAhead : State := { here with core := (here.core.store 72 (bytesOf 4 0x00411C00)) }

theorem witness_WaitsAndRepetitions :
    (here.storesCount here.focus ≤ (0 : Word).toNat ∧ here.copiesCount here.focus ≤ 0 ∧ here.bezelCount here.focus ≤ 0
      ∧ here.core.repHolds queuesCopy = false ∧ here.core.repHolds queuesBezel = false)
    ∧ (let c (i : Instr) : Core := { here.core with rep := some { repeating with body := [(72, i)] } }
      (c (.cpy (copyF .gl))).repHolds queuesCopy = true ∧ (c (.mzero .core .f32 0 false false)).repHolds queuesBezel = true)
    ∧ (let s := { here with core := { here.core with committed := [pending]
                                                     tileQ := [⟨.mcast 512 0 [] 0, .queued, .core, false, false, here.who, 1, false⟩] } }
      (0 : Word).toNat < s.storesCount s.focus ∧ (0 : Word).toNat < s.copiesCount s.focus
      ∧ ¬((s.core.committed.all fun e => !e.kind.isStore) = true))
    ∧ (0 : Word).toNat < (here.modBezelQueue 0 fun _ => [⟨0, .mzero true 0, .core, false, false, here.who, [], 0, false, false, []⟩]).bezelCount
        here.focus
    ∧ (here.core.committed.all fun e => !e.kind.isStore) = true ∧ here.performed here.focus (here.clamp .system).1 = true
    ∧ (repAhead.core.tsw.rp = false ∧ repAhead.focus.regions = true ∧ repAhead.core.rep = none
      ∧ repAhead.core.capture (captureFuel ((0 : BitVec 4).toNat + 1)) ((0 : BitVec 4).toNat + 1) (laFrom repAhead.core.pc 8) []
          = .ok [(72, .vadd .f32 (.plain 0) 3 1 2)] 80) := by decide +kernel

/-- The running code with a trap handler at 256. -/
def handled : State := { here with core := { here.core with traps := { here.core.traps with thnd := 256 } } }

theorem witness_RecoverableTrapsAndTheirReturn :
    (here.core.run ≠ .preempt ∧ handled.core.traps.thnd ≠ 0 ∧ handled.core.tsw.it = false ∧ here.core.traps.thnd = 0)
    ∧ (let tsw (p : BitVec 2) (it rp sf ov : Bool) : Tsw := ⟨1, ov, 0, p, rp, sf, it, false⟩
      let at' (p : BitVec 2) (it rp sf ov : Bool) : State := { here with core := { here.core with
        tsw := tsw p it rp sf ov, rep := some { repeating with stop := some 80 } } }
      (at' 2 false false false true).core.tsw.ov = true
      ∧ ((at' 0 true false false false).core.tsw.priv = 0 ∧ (at' 0 true false false false).core.tsw.rp = false)
      ∧ ((at' 0 true true false false).core.rep = some { repeating with stop := some 80 })
      ∧ (at' 0 false false false false).core.tsw.it = false ∧ (at' 1 false false true false).core.tsw.sf = true
      ∧ (at' 1 false false false false).core.tsw.sf = false ∧ (at' 2 true false false false).core.tsw.priv = 2
      ∧ (at' 3 true false false false).core.tsw.it = true ∧ (at' 3 false false false false).core.tsw.priv = 3) := by decide +kernel

theorem witness_LocalLoadsAndStores :
    let s := withS [(1, 0x600), (2, 0x203), (3, 0x2A00)] here
    let ea (a : SReg) (i : Word) : Nat := (s.rs a + i.signExtend 64).toNat % 2 ^ 18
    (ea 1 0 % loadWidth .d = 0 ∧ s.mayReach (ea 1 0) (loadWidth .d) = true)
    ∧ (ea 3 0xFFFFFFFF % storeWidth .b8 = 0 ∧ s.mayReach (ea 3 0xFFFFFFFF) (storeWidth .b8) = true)
    ∧ ea 2 0 % loadWidth .s16 ≠ 0 ∧ ea 2 0 % storeWidth .b32 ≠ 0
    ∧ (ea 3 0 % loadWidth .z8 = 0 ∧ s.mayReach (ea 3 0) (loadWidth .z8) = false)
    ∧ (ea 3 0 % storeWidth .d = 0 ∧ s.mayReach (ea 3 0) (storeWidth .d) = false) := by decide +kernel

/-- The mapped core with registers that name its pages. -/
def atPage : State := withS [(1, 0x10000), (2, 0x11000), (3, 0x12000), (4, 0x13000), (5, 0x1000000000000), (6, 0x400), (7, 0x600), (8, 9)] mapped

theorem atPage_reads : atPage.Reaches (atPage.rs 1 + (8 : Word).signExtend 64) .read true (spot 8) :=
  reaches_of page (by decide +kernel) ⟨_, rfl⟩ (by decide +kernel) (by decide +kernel) (by decide +kernel) (by decide +kernel) (by decide +kernel) (by decide +kernel)
theorem atPage_writes : atPage.Reaches (atPage.rs 1 + (8 : Word).signExtend 64) .write false (spot 8) :=
  reaches_of page (by decide +kernel) ⟨_, rfl⟩ (by decide +kernel) (by decide +kernel) (by decide +kernel) (by decide +kernel) (by decide +kernel) (by decide +kernel)

theorem witness_GlobalLoads :
    (atPage.rs 1 + (8 : Word).signExtend 64).toNat % loadWidth .d = 0
    ∧ atPage.Brings 8 (atPage.rs 1 + (8 : Word).signExtend 64) atPage (List.replicate 8 0)
    ∧ (beyondDie (atPage.clamp .core).1 = false ∧ beyondDie (atPage.clamp .system).1 = true
      ∧ (let u := atPage.podAcquire atPage.focus (atPage.clamp .core).1
        u.Brings 8 (u.rs 1 + (8 : Word).signExtend 64) u (List.replicate 8 0)))
    ∧ atPage.Reaches (atPage.rs 1 + (8 : Word).signExtend 64) .read true (spot 8)
    ∧ atPage.readTarget false (spot 8) 0x10008 8 = .ok (List.replicate 8 0)
    ∧ (atPage.podAcquire atPage.focus (atPage.clamp .system).1).readTarget true (spot 8) 0x10008 8 = .ok (List.replicate 8 0)
    ∧ (let s := { atPage with ram := { atPage.ram with invs := [⟨0, 1, 512, List.replicate 128 7⟩] } }
      s.invLine 0x10008 = some ⟨0, 1, 512, List.replicate 128 7⟩) ∧ atPage.invLine 0x10008 = none :=
  ⟨by decide +kernel, brings_of (by decide +kernel), ⟨by decide +kernel, by decide +kernel, brings_of (by decide +kernel)⟩, atPage_reads,
    by rfl, by rfl, by decide +kernel, by decide +kernel⟩

theorem witness_WhatALoadReads :
    let pa := 0x10008
    (pa + 8 ≤ hbmEnd ∧ pa / 1024 = (pa + 8 - 1) / 1024 ∧ atPage.core.openB = [] ∧ atPage.core.committed = []
      ∧ atPage.orderAt atPage.focus.die = [] ∧ (atPage.port (portOf pa)).queue = [] ∧ atPage.ram.poisoned pa = false
      ∧ atPage.ram.code (pa / 1024) = 0 ∧ atPage.olderLines atPage.focus pa = [])
    ∧ (hbmEnd - 1 + 1 ≤ hbmEnd ∧ (hbmEnd - 1) / 1024 = (hbmEnd - 1 + 1 - 1) / 1024)
    ∧ (let s := { atPage with core := { atPage.core with openB := [] ++ [pending] } }
      s.core.openB = [] ++ [pending] ∧ pending.kind = .store (spot 0) [1, 2, 3, 4, 5, 6, 7, 8] (List.range 8)) := by decide +kernel

theorem witness_GlobalStores :
    ((atPage.rs 1 + (8 : Word).signExtend 64).toNat % storeWidth .d = 0 ∧ atPage.room 1 = .ok
      ∧ atPage.Reaches (atPage.rs 1 + (8 : Word).signExtend 64) .write false (spot 8))
    ∧ 2 ^ 48 ≤ (atPage.rs 5).toNat ∧ (atPage.rs 1 + (1 : Word).signExtend 64).toNat % loadWidth .z16 ≠ 0
    ∧ (atPage.core.physical atPage.focus = false ∧ atPage.tlbLookup (atPage.rs 4).toNat = none)
    ∧ (atPage.tlbLookup (atPage.rs 2).toNat = some pageR ∧ pageR.w = false ∧ pageR.sh = false)
    ∧ (atPage.tlbLookup (atPage.rs 3).toNat = some pageW ∧ pageW.r = false) :=
  ⟨⟨by decide +kernel, by decide +kernel, atPage_writes⟩, by decide +kernel, by decide +kernel, by decide +kernel, by decide +kernel, by decide +kernel⟩

/-- The running core with bead 2's first word full, and core 1 of the context ready to take its accesses in window 0. -/
def tagging : State :=
  let near := { here.coreAt (.work 1) with
    router := { here.core.router with lci := 10 }
    slots := [(0, ⟨.waiting, some peer, none⟩)]
    beads := [(2, .owned 0)]
    tags := [(128, true)]
    wins := (Vector.replicate 8 (0 : DWord)).set 0 (dw (2 ^ 51 + 2 ^ 50 + 2 ^ 49 + 2 ^ 48 + 2 ^ 34 * 0 + 2 ^ 20 * 100 + 2 ^ 9 * 0 + 2)) }
  (withS [(1, 0x400), (2, 10), (3, 0x408)] { here with core := { here.core with tags := [(128, true)] } }).setCore (.work 1) near

theorem witness_TaggedAccesses :
    let ea (i : Word) : Nat := (tagging.rs 1 + i.signExtend 64).toNat % 2 ^ 18
    (ea 0 % 8 = 0 ∧ tagging.mayReach (ea 0) 8 = true ∧ tagging.core.wait = none ∧ tagging.core.tag (ea 0) = true
      ∧ tagging.core.rep = none)
    ∧ (ea 8 % 8 = 0 ∧ tagging.mayReach (ea 8) 8 = true ∧ tagging.core.tag (ea 8) = false)
    ∧ tagging.nameCore tagging.focus (tagging.rs 2) = .other (.work 1)
    ∧ (let s := { tagging with core := { tagging.core with wait := some ⟨.tagged, .ste 1 3 8⟩ } }
      s.tagWait.isSome = true) ∧ (tagging.tagLost = none ∧ tagging.tagWait = none)
    ∧ (let near := { tagging.coreAt (.work 1) with beads := [(2, .transit 0)] }
      let s := { tagging with core := { tagging.core with wait := some ⟨.remote true, .ldfp (some 2) 4 1 0⟩ } }.setCore (.work 1) near
      s.tagLost = some 0x400)
    ∧ (let i (b : Word) : Instr := .ldfp (some 2) 4 1 b
      let o (b : Word) : TagOp := ⟨.ldfp, 0x400 + b.signExtend 64, some 10, 0, 4⟩
      let s (b : Word) : State := { tagging with core := { tagging.core with wait := some ⟨.remote false, i b⟩ } }
      let ok (t : State) (b : Word) : Bool := t.admits (.work 1) permT (t.lciOf t.focus) t.ctx (la (o b).ea) 8
      ((s 0).tagOp (i 0) = some (o 0) ∧ (s 0).tagHome (o 0) = .work 1 ∧ (s 0).tagHome (o 0) ≠ (s 0).focus ∧ ok (s 0) 0 = true
        ∧ (o 0).kind.ready (((s 0).coreAt (.work 1)).tag (la (o 0).ea)) = true)
      ∧ (ok (s 8) 8 = true ∧ (o 8).kind.ready (((s 8).coreAt (.work 1)).tag (la (o 8).ea)) = false)
      ∧ ok (s 0x200) 0x200 = false) := by decide +kernel

/-- Active elements that one TLB entry maps are reached. -/
theorem atPage_elem (k : Nat) (h : k < 512) (kind : Access) (reads : Bool) :
    atPage.Reaches (BitVec.ofNat 64 (0x10000 + 8 * k)) kind reads (spot (8 * k)) := by
  have hn : (BitVec.ofNat 64 (0x10000 + 8 * k)).toNat = 0x10000 + 8 * k := by
    rw [BitVec.toNat_ofNat]; omega
  have all : ∀ k, k < 512 → (spot (8 * k)).place.reachable atPage.priv false = true ∧ atPage.tlbLookup (0x10000 + 8 * k) = some page
      ∧ page.pm (0x10000 + 8 * k) = false ∧ spot (8 * k) = page.target (0x10000 + 8 * k) := by decide +kernel
  obtain ⟨h1, h2, h3, h4⟩ := all k h
  refine reaches_of page (by omega) ⟨_, rfl⟩ (by decide +kernel) h1 (by rw [hn]; exact h2) ?_ (by rw [hn]; exact fun _ => h3)
    (by rw [hn]; exact h4)
  cases kind <;> decide +kernel

theorem witness_VectorMemory :
    (let s := withS [(1, 0x400)] here
      let gd : Guard := .plain 0
      s.incoming = [] ∧ (∀ j, j < Fmt.f32.lanes → active .f32 (s.guard gd) j = true →
        la (s.rowAddr .f32 1 0 j) % Fmt.f32.width = 0 ∧ s.mayReach (la (s.rowAddr .f32 1 0 j)) Fmt.f32.width = true)
      ∧ (∀ j, j < Fmt.i8.lanes → active .i8 (s.guard gd) j = true →
        la (s.indexAddr .i8 0 1 2 j) % Fmt.i8.width = 0 ∧ s.mayReach (la (s.indexAddr .i8 0 1 2 j)) Fmt.i8.width = true)
      ∧ gd.ax = false)
    ∧ (∀ k, k < 32 → (atPage.strideAddr 1 9 0 k).toNat % 4 = 0 ∧ (atPage.rowAddr .f32 1 0 k).toNat % 4 = 0
      ∧ (atPage.indexAddr .f32 0 1 2 k).toNat % 4 = 0)
    ∧ (let va := ((List.range 32).filter (active .f32 (atPage.guard (.plain 0)))).map (atPage.strideAddr 1 9 0)
      atPage.BringsAll 4 va atPage (List.replicate 32 [0, 0, 0, 0]))
    ∧ (∀ k, k < 32 → atPage.strideAddr 1 9 0 k = 0x10000) ∧ atPage.Reaches 0x10000 .read true (spot 0)
    ∧ atPage.Reaches 0x10000 .write false (spot 0) ∧ atPage.room 32 = .ok ∧ (Guard.plain 0).ax = false :=
  ⟨by decide +kernel, by decide +kernel, brings_all _ _ (by decide +kernel) (by decide +kernel), by decide +kernel,
    atPage_elem 0 (by omega) .read true, atPage_elem 0 (by omega) .write false, by decide +kernel, by decide +kernel⟩

theorem witness_ReductionsWithoutReturn :
    (atPage.room 1 = .ok ∧ (∀ ha, (spot 0).place ≠ .host ha) ∧ (atPage.rs 1).toNat % 8 = 0
      ∧ atPage.Reaches (atPage.rs 1) .readWrite true (spot 0) ∧ (atPage.rs 1).toNat % slotSize .f32 true = 0)
    ∧ ((atPriv 1 atPage).priv ≠ 0 ∧ (atPage.rs 1).toNat % 4096 = 0 ∧ atPage.priv = 0)
    ∧ (∀ k, k < 32 → atPage.Reaches (BitVec.ofNat 64 (0x10000 + 8 * k)) .readWrite true (spot (8 * k))) :=
  ⟨⟨by decide +kernel, by intro ha; simp [spot], by decide +kernel, atPage_elem 0 (by omega) .readWrite true, by decide +kernel⟩,
    by decide +kernel, fun k h => atPage_elem k (by omega) .readWrite true⟩

theorem witness_ReturningAtomics :
    ((atPage.rs 1).toNat % 8 = 0 ∧ atPage.closeRegion.Reaches (atPage.rs 1) .readWrite true (spot 0) ∧ 0x10000 < hbmEnd
      ∧ atPage.core.rep = none ∧ atPage.closeRegion.core.committed = []
      ∧ (atPage.closeRegion.orderAt atPage.focus.die).length < 512 ∧ ordReleases .release = true
      ∧ atPage.closeRegion.performed atPage.closeRegion.focus (atPage.closeRegion.clampOrd .release .core).1 = true ∧ (1 : SReg) ≠ 0)
    ∧ 2 ^ 64 - 1 < 2 ^ (8 * 8) ∧ 2 ^ 32 - 1 < 2 ^ (8 * 4) :=
  ⟨⟨by decide +kernel, reaches_of page (by decide +kernel) ⟨_, rfl⟩ (by decide +kernel) (by decide +kernel) (by decide +kernel)
    (by decide +kernel) (by decide +kernel) (by decide +kernel), by decide +kernel, by decide +kernel, by decide +kernel, by decide +kernel,
    by decide +kernel, by decide +kernel, by decide +kernel⟩, by decide +kernel, by decide +kernel⟩

/-- The running code with an initialised clasp of target 2 at 0x400, at rest, and registers that name it and its core. -/
def clasped (release : Bool) : State :=
  let c := (here.core.store 0x404 [2]).setTag 0x400 true
  withS [(1, 0x400), (2, 9), (3, 2), (4, 0x10000)] { here with core := if release then (c.store 0x408 [1]).setTag 0x408 true else c }

theorem witness_Clasps :
    (0x400 % 16 = 0 ∧ 0 < 65535 ∧ 65535 ≤ 65535 ∧ here.mayReach 0x400 16 = true ∧ 65535 < ((clasped false).rs 4).toNat)
    ∧ (claspTarget ((clasped false).core.load8 0x400) = 2 ∧ (claspCount ((clasped false).core.load8 0x400) + 1) % 2 ^ 16 ≠ 2)
    ∧ (let c := ((clasped false).core.arrive 0x400).1
      (claspCount (c.load8 0x400) + 1) % 2 ^ 16 = claspTarget (c.load8 0x400))
    ∧ (let s := clasped false
      la (s.rs 1) % 16 = 0 ∧ s.nameCore s.focus (s.rs 2) = .self ∧ s.mayReach (la (s.rs 1)) 16 = true
      ∧ s.core.tag (la (s.rs 1)) = true ∧ s.core.rep = none ∧ s.closeRegion.core.committed = []
      ∧ s.closeRegion.performed s.closeRegion.focus (s.closeRegion.clamp .system).1 = true ∧ s.core.tsw.apb = false
      ∧ s.core.released (la (s.rs 1)) 0 = false ∧ s.claspLost = none ∧ s.claspWait = none)
    ∧ (let near := { tagging.coreAt (.work 1) with beads := [(2, .transit 0)] }
      let s := { tagging with core := { tagging.core with wait := some ⟨.clasp true, .clwait .core 1 2 0⟩ } }.setCore (.work 1) near
      s.claspLost = some 0x400)
    ∧ (let s := clasped true
      let t := { s with core := { s.core with wait := some ⟨.clasp true, .clwait .core 1 2 0⟩ } }
      s.core.released (la (s.rs 1)) 0 = true ∧ t.claspWait.isSome = true
      ∧ { s.core.tsw with apb := true }.apb = true) := by decide +kernel

/-- The running code with an absent F32 element in lane 5 of v1 and present elements elsewhere. -/
def absent5 : State := { here with core := { here.core with regs := here.core.regs.setV 1 (BitVec.ofNat 1024 (0xFFFFFFFF * 2 ^ 160)) } }

theorem witness_ElementwiseVectorArithmetic :
    let gd : Guard := .pfx true 0 .rtz false 0
    (vecRows absent5 .f32 gd 0 3 1 2 4).length = 19 ∧ gd.ax = true
    ∧ (∀ k, ¬(k < Fmt.f32.lanes ∧ active .f32 (here.guard gd) k = true ∧ ∃ v ∈ [(1 : VReg), 2], lane .f32 (here.rv v) k = absentOf .f32))
    ∧ (5 < Fmt.f32.lanes ∧ active .f32 (absent5.guard gd) 5 = true ∧ lane .f32 (absent5.rv 1) 5 = absentOf .f32
      ∧ ∀ m, m < 5 → ¬(∃ v ∈ [(1 : VReg), 2], lane .f32 (absent5.rv v) m = absentOf .f32)) := by
  refine ⟨by decide +kernel, by decide +kernel, ?_, by decide +kernel⟩
  rintro k ⟨hk, -, hv⟩
  exact absurd hv ((by decide +kernel : ∀ k, k < Fmt.f32.lanes → ¬∃ v ∈ [(1 : VReg), 2], lane .f32 (here.rv v) k = absentOf .f32) k hk)

theorem witness_ElementValues :
    ((Fmt.i8.isInt = true ∧ 0x81 < 2 ^ fmtBits .i8 ∧ 0x7F < 2 ^ fmtBits .i8 ∧ 0x81 ≠ absentOf .i8 ∧ 0x7F ≠ absentOf .i8)
      ∧ ∃ p q, fval .bf16 0x3F80 = .fin p ∧ fval .bf16 0xC000 = .fin q)
    ∧ (Fmt.bf16.isFloat = true ∧ 0x3F80 ≠ absentOf .bf16 ∧ 0xFF7F ≠ absentOf .bf16 ∧ 0 ≠ absentOf .bf16 ∧ 0x3F80 < 2 ^ fmtBits .bf16)
    ∧ (∃ p q r, fval .bf16 0x3F80 = .fin p ∧ fval .bf16 0xFF7F = .fin q ∧ fval .bf16 0 = .fin r ∧ q.num ≠ 0 ∧ r.num = 0)
    ∧ fval .bf16 0xFF80 = .inf true ∧ fval .bf16 0x7F80 = .inf false :=
  ⟨⟨by decide +kernel, _, _, rfl, rfl⟩, by decide +kernel, ⟨_, _, _, rfl, rfl, rfl, by decide +kernel, by decide +kernel⟩, by rfl, by rfl⟩

theorem witness_RoundingPicksTheNeighbour :
    (Fmt.f32.isFloat = true ∧ 0 < 3 ∧ 0 < 1 ∧ (roundF .f32 .rne ⟨true, 1, 3⟩).2.getLsbD 1 = false)
    ∧ (roundF .bf16 .rup ⟨false, 2 ^ 127 + 1, 1⟩).2.getLsbD 1 = false
    ∧ (∃ z, fval .f32 0x3EAAAAAB = .fin z) ∧ 0x3EAAAAAB < 2 ^ fmtBits .f32 :=
  ⟨by decide +kernel, by decide +kernel, ⟨_, rfl⟩, by decide +kernel⟩

theorem witness_VectorFormsComplete :
    (Instr.vcvt .i8 .f32 .rne 3 0 1 2).wf = true ∧ (Instr.vcvt .f32 .i8 .rne 3 0 1 2).wf = true
    ∧ (Instr.vcvt .f32 .i32 .rne 0 0 1 2).wf = true := by decide +kernel

theorem witness_MovementCountsAndPredicates :
    (Guard.plain 0).ax = false ∧ (31 : BitVec 7).toNat < Fmt.f32.lanes ∧ (1 : PReg) ≠ 0 := by decide +kernel

theorem witness_ConvertCompareSelectAndScale :
    (Fmt.f32.lanes < Fmt.i8.lanes ∧ (3 : BitVec 2).toNat * Fmt.f32.lanes < Fmt.i8.lanes) ∧ Fmt.i32.lanes = Fmt.f32.lanes
    ∧ (1 : PReg) ≠ 0 ∧ (2 : PReg) ≠ 1 := by decide +kernel

theorem witness_ReductionAndScanTrees :
    (Guard.pfx false 5 .rtz false 0).ax = false ∧ (Guard.pfx false 5 .rtz false 0).d4 ≠ 3 ∧ (Guard.plain 0).d4 = 0
    ∧ (treeNode .f32 .add .rne (fun _ => ⟨none, 0, 0⟩) (Nat.log2 Fmt.f32.lanes) 0).val = none := by decide +kernel

/-- A strand entry of context 1, adding F32, with a local member and the given way up. -/
def strandWord (up : Nat) : DWord := dw (2 ^ 52 + 2 ^ 31 + 2 ^ 22 * up + 2 ^ 20)
/-- One value of a strand: lane 0 present. -/
def one32 : StrandVal := ⟨0, 0, ⟨some 0x3F800000, 1, 0⟩ :: List.replicate 31 ⟨none, 0, 0⟩, 0⟩
/-- The running core with strand 1 set up, and its own contribution at its router. -/
def strandHere (up : Nat) : State :=
  withS [(1, 0x600), (2, 9), (3, 9216)] { here with
    core := { here.core with strands := here.core.strands.set 1 (strandWord up), recvq := [⟨List.replicate 64 1, 9, 5, 1, .pod⟩] }
    mesh := { here.mesh with rounds := [⟨.router 0, 1, 1, [(4, one32)]⟩] } }

theorem witness_MeshMessagesStrandsAndBoot :
    (let s := strandHere 4;
      s.focus = .work 0 ∧ strandEn (s.strandAt (.router 0) (1 : BitVec 4).toNat) = true
      ∧ strandCtx (s.strandAt (.router 0) 1) = s.ctx ∧ strandOpOf (strandOp (s.strandAt (.router 0) 1)) = some .add
      ∧ strandFmtOf (strandFmt (s.strandAt (.router 0) 1)) = some .f32 ∧ strandUp (s.strandAt (.router 0) 1) ≤ 5
      ∧ la (s.rs 1) % 512 = 0 ∧ s.mayReach (la (s.rs 1)) 512 = true ∧ s.room 1 = .ok
      ∧ (s.ctxCbase s.ctx ≤ (s.rs 2).toNat ∧ (s.rs 2).toNat < s.ctxCbase s.ctx + s.ctxClen s.ctx)
      ∧ s.ctxCbase s.ctx + s.ctxClen s.ctx ≤ (s.rs 3).toNat ∧ (atPriv 3 s).priv = 3 ∧ s.priv ≠ 3
      ∧ received s.ctx s.core.taken s.core.recvq = some ⟨List.replicate 64 1, 9, 5, 1, .pod⟩
      ∧ received here.ctx here.core.taken here.core.recvq = none)
    ∧ (let e : Entry := ⟨.nsend 9 (List.replicate 64 1) 5, some .core, here.who, 1⟩
      let s := { here with core := { here.core with committed := [e] } }
      (s.coreAt s.focus).committed = [e] ∧ s.performed s.focus .core = true ∧ s.coreOfLci 9 = some (.work 0)
      ∧ (s.coreAt (.work 0)).recvHeld < 16)
    ∧ (strandHere 4).roundReady (.router 0) 1 = some [one32] ∧ (strandHere 4).strandParent (.router 0) 1 = none
    ∧ (strandHere 4).fstrandOn 1 = false ∧ (strandHere 1).strandParent (.router 0) 1 = some (.router 1, 3)
    ∧ { (strandHere 4) with fab := { here.fab with fstrand := [(2, dw (2 ^ 51))] } }.fstrandOn 1 = true
    ∧ (let w : NredWait := ⟨1, 0x600, .f32, 3, some me, 1⟩
      let s := { here with core := { here.core with strandIn := [(1, 1, one32)], nredWaits := [w] } }
      let c := s.coreAt s.focus
      c.strandIn.find? (fun e => e.1 == 1) = some (1, 1, one32) ∧ takeWait 1 1 c.nredWaits = some (w, []) ∧ w.slot ≠ 64
      ∧ c.bead (beadOf w.la) = .owned w.slot ∧ (c.slotAt w.slot).actor = w.actor ∧ w.la % 512 = 0 ∧ w.la < 2 ^ 18
      ∧ (strandBytes w.fmt one32).length = 256)
    ∧ (let m : McastIn := ⟨.work 0, 0x400, List.replicate 512 3, 1, 1, 7⟩
      let s := tagging.modCore (.work 1) fun c => { c with mcastIn := [m] }
      (s.coreAt (.work 1)).mcastIn = [m] ∧ s.hub.boot = false
      ∧ s.admits (.work 1) permW (s.lciOf m.src) m.ctx m.la 512 = true)
    ∧ (let d : Discover := ⟨33, some (1, 2, 1), 0x400⟩
      let s := { State.reset with mesh := { State.reset.mesh with discovers := [d], fused := [33] } }
      s.mesh.discovers.find? (fun d => d.pos == 33) = some d ∧ s.hub.boot = true ∧ (s.coreAt (.work 33)).router.cv = false
      ∧ d.frm = some (1, 2, 1) ∧ neighbour 33 0 = some 1 ∧ d.frm.map (·.1) ≠ some 0)
    ∧ (⟨0, none, 0⟩ : Discover).frm = none
    ∧ (let s := { State.reset with mesh := { State.reset.mesh with acks := [(1, 0x408, 1)] } }
      s.mesh.acks.find? (fun e => e.1 == 1 && !(s.coreAt (.work (1024 * 1))).tag e.2.1) = some (1, 0x408, 1)
      ∧ 0x408 % 8 = 0 ∧ 0x408 < 2 ^ 18)
    ∧ (let h := dw (2 ^ 32 * 5 + 2 ^ 14 * 1 + 2 ^ 9 * 1 + 2 ^ 4 * 2)
      let s := { State.reset with mesh := { State.reset.mesh with assigns := [h] } }
      s.mesh.assigns.find? (fun h => bitsAt 14 4 h == 1) = some h ∧ s.hub.boot = true
      ∧ s.mesh.fused.contains (1024 * 1 + 32 * bitsAt 9 5 h + bitsAt 4 5 h) = false) := by
  and_intros <;> decide +kernel

/-- The running core with registers that name 0x2000 and beads of its own. -/
def atBezel : State := withS [(1, 0x400), (2, 0x600), (3, 0x10000)] { here with core := { here.core with
  beads := (List.range 200).map fun i => (i + 1, .owned 3) } }
/-- The same with an operation that writes tile 0 queued. -/
def tileBusy : State := atBezel.modBezelQueue 0 fun _ => [⟨4, .mzero true 0, .core, false, false, here.who, [], 0, false, false, []⟩]

theorem witness_BezelOperations :
    (let s := atBezel
      let p := la (s.rs 1)
      s.focus = .work 0 ∧ (s.bezelQueue 0).length < 8 ∧ s.bankOf 1 = some 1 ∧ (bwm s.core.bzmap).testBit 1 = true
      ∧ (p % 512 = 0 ∧ s.mayReach p 8192 = true) ∧ s.mayReach p (8192 * (1 + 1)) = true ∧ s.mayReach p 24576 = true
      ∧ s.tileOf 1 = some 1 ∧ (List.range 2).mapM (fun i => s.bankOf (0 + i)) = some [0, 1]
      ∧ s.trackedInt 0 = !Fmt.bf16.isFloat ∧ s.tileWriter 0 = none
      ∧ (la (s.rs 2) % 8 = 0 ∧ s.mayReach (la (s.rs 2)) 256 = true) ∧ s.bezelQueue 0 = [])
    ∧ (tileBusy.tileOf 0 = some 0 ∧ tileBusy.tileWriter 0 = some ⟨4, .mzero true 0, .core, false, false, here.who, [], 0, false, false, []⟩
      ∧ tileBusy.bezelQueue 0 = [⟨4, .mzero true 0, .core, false, false, here.who, [], 0, false, false, []⟩]) := by decide +kernel

/-- An MMA that waits at the head of position 0's queue, and its Bezel in a round that visits that position. -/
def mmaOp : BezelOp := ⟨2, .mma .bf16 0 0x400 [0], .core, true, true, here.who, [], 0, false, false, []⟩
def inRound (credit : Int) (iso : Bool) (bank : Fmt) : State :=
  { here with bezels := [(0, { Bezel.reset with
      banks := [(0, ⟨[], bank⟩)]
      queues := Bezel.reset.queues.set 0 [mmaOp]
      arb := { Bezel.reset.arb with credit := Bezel.reset.arb.credit.set 0 credit, visit := [0], iso := iso } })] }

/-- Checksums of a tile whose elements left the range that they check (R226). -/
def unchecked : Sparse Check := (List.range 64).map fun i => (i, { Check.zero with unchecked := true })

theorem witness_BezelArbitrationAndEffects :
    (let s := inRound 64 false .bf16
      let b := s.bezel 0
      b.arb.iso = s.wantIso 0 ∧ b.arb.iso = false ∧ b.flying = none ∧ 0 ∈ s.octetCores 0 ∧ b.arb.visit = 0 :: []
      ∧ b.head 0 = some mmaOp ∧ 0 < b.arb.creditAt 0 ∧ ([0].any fun i => (b.bank i).tag != .bf16) = false)
    ∧ (([0].any fun i => (((inRound 64 false .i8).bezel 0).bank i).tag != .bf16) = true)
    ∧ ([0, 3] : List Nat).Nodup ∧ (∀ r ∈ ([0, 3] : List Nat), r < 8)
    ∧ (let s := (inRound 64 false .bf16).bezelStart 0 0
      s.inFlight 0 = some (.work 0, 0, { mmaOp with started := true }) ∧ s.bezelReady 0 = true)
    ∧ ((match (⟨[(0, (5, 1))], true, 0, unchecked, unchecked⟩ : Tile).check with
        | .ok => true
        | _ => false) = true ∧ 0x400 % 512 = 0)
    ∧ (let s := { (inRound 64 true .bf16).setCore (.work 1) { tagging.coreAt (.work 1) with mem := [] } with
          ctxs := { here.ctxs with ccb := [(0, ccbRoot 9216), (1, liveCcb.set 1 (dw (2 ^ 36 * 10))),
            (2, liveCcb.set 1 (dw (2 ^ 50 * 10 + 2 ^ 36 * 10)))] } }
      (s.bezel 0).arb.iso = s.wantIso 0 ∧ (s.bezel 0).arb.iso = true ∧ (s.bezel 0).flying = none ∧ s.octetCores 0 ≠ []) := by decide +kernel

theorem witness_SavedTileIsRestored :
    ∀ m n, m < 64 → n < 64 → ((⟨[(0, (2 ^ 32 - 1, 2 ^ 16 - 1))], false, 0, [], []⟩ : Tile).elem m n).1 < 2 ^ 32
      ∧ ((⟨[(0, (2 ^ 32 - 1, 2 ^ 16 - 1))], false, 0, [], []⟩ : Tile).elem m n).2 < 2 ^ 16 := by
  intro m n _ _
  simp only [Tile.elem, Sparse.get]
  split <;> decide

theorem atPage_part : List.Forall₂ (fun r t => atPage.Reaches r.ga .read true t) (Run.parts ⟨0x10000, 0x400, 8⟩) [spot 0]
    ∧ List.Forall₂ (fun r t => atPage.Reaches r.ga .write false t) (Run.parts ⟨0x10000, 0x400, 8⟩) [spot 0] := by
  rw [(by decide +kernel : Run.parts ⟨0x10000, 0x400, 8⟩ = [⟨0x10000, 0x400, 8⟩])]
  exact ⟨.cons (atPage_elem 0 (by omega) .read true) .nil, .cons (atPage_elem 0 (by omega) .write false) .nil⟩

/-- A CPY2 of one row of eight bytes between 0x10000 and 0x400. -/
def copy2F (lg : Bool) : Cpy2F := ⟨.f32, .core, 1, 6, 0, 0, 0, lg, false, false, false, false, false, false, 0, 0⟩

/-- The running firing with an output port bound to input port 0 of actor 6, and registers that name its bead 2. -/
def sendF : SendF := ⟨.core, 1, 0, false, false, 0⟩
def sending : State := withS [(1, 0x400)] { here with acts := { here.acts with tab :=
  [(me.key, { here.actor me with outs := (here.actor me).outs.set 0 ⟨true, mkName 0 1 6 2, 0, 0, 1, 0⟩ }),
   (peer.key, here.actor peer)] } }
/-- A SEND of it in the tile queue. -/
def sendCmd (p : TilePhase) (last : Bool) : TileCmd := ⟨.send 0x400 0 64 64 (mkName 0 1 6 2) 0, p, .core, false, false, here.who, 1, last⟩

theorem witness_CopyAndSendAtIssue :
    (let s := atPage;
      la (s.rs 6) % 8 = 0 ∧ s.mayReach (la (s.rs 6)) 8 = true ∧ (0x10000 : DWord).toNat % 8 = 0 ∧ 0x10000 + 8 ≤ 2 ^ 48
      ∧ (copyF .gl).dir = .gl ∧ s.core.transferQ.length < 16 ∧ s.room 1 = .ok
      ∧ la (s.rs 7) % 8 = 0 ∧ s.nameCore s.focus (s.rs 8) = .self ∧ s.mayReach (la (s.rs 7)) 8 = true)
    ∧ (List.Forall₂ (fun r t => atPage.Reaches r.ga .read true t) (Run.parts ⟨0x10000, 0x400, 8⟩) [spot 0]
      ∧ List.Forall₂ (fun r t => atPage.Reaches r.ga .write false t) (Run.parts ⟨0x10000, 0x400, 8⟩) [spot 0])
    ∧ (((atPage.cpy2Rows (copy2F true)).map (·.1)).filter fun r => r.n != 0) = [⟨0x10000, 0x400, 8⟩]
    ∧ (∀ r ∈ atPage.cpy2Rows (copy2F false), atPage.mayReach r.1.la r.2 = true)
    ∧ (let s := sending
      let p := (s.actor me).outPort 0
      let size := 64 * 2 ^ p.dsize.toNat
      s.core.run = .firing 3 ∧ (s.core.slotAt 3).actor = some me ∧ la (s.rs 1) % 512 = 0 ∧ s.mayReach (la (s.rs 1)) 512 = true
      ∧ (s.actor me).ringBead (beadOf (la (s.rs 1))) = false ∧ p.en = true ∧ size ≤ size ∧ p.sent ≠ p.ratem1.toNat + 1
      ∧ s.beadBusy s.focus (beadOf (la (s.rs 1))) = false ∧ s.room 1 = .ok ∧ s.core.rep = none
      ∧ s.closeRegion.beadBusy s.focus (beadOf (la (s.rs 1))) = false)
    ∧ (let s := { sending with core := { sending.core with transferQ := [⟨.gl [] [] false, .core, false, false, false, here.who, 1, [2], 0, false, true, none⟩] } }
      s.beadBusy s.focus (beadOf (la (s.rs 1))) = true ∧ s.closeRegion.beadBusy s.focus (beadOf (la (s.rs 1))) = true)
    ∧ (match sending.lastSend with
        | .none => true
        | _ => false) = true
    ∧ (match ({ sending with core := { sending.core with tileQ := [sendCmd .asking true] } } : State).lastSend with
        | .going => true
        | _ => false) = true
    ∧ (match ({ sending with core := { sending.core with tileQ := [sendCmd .done true] } } : State).lastSend with
        | .over => true
        | _ => false) = true :=
  ⟨by decide +kernel, atPage_part, by decide +kernel, by decide +kernel, by decide +kernel, by decide +kernel, by decide +kernel, by decide +kernel,
    by decide +kernel⟩

/-- A command of the running core's transfer queue. -/
def copyCmd (k : CopyKind) (started : Bool) : CopyCmd := ⟨k, .core, false, false, false, here.who, 1, [], 0, false, started, none⟩
/-- The running core with one command, its neighbour's window open. -/
def copying (k : CopyKind) (started : Bool) : State := { tagging with core := { tagging.core with transferQ := [copyCmd k started] } }
/-- A port of actor 6 with two slots, f filled and r reserved, and n requests waiting. -/
def ring (f r n : Nat) : IPort := ⟨true, 0, 1, 0, 8, f, r, 1, 0, false, List.replicate n (.core (.work 2)), if r = 0 then [] else [(1, false)], []⟩
/-- A tile queued at the running core for that port; actor 6 sits in slot 4 of the core. -/
def tiles (p : TilePhase) (f r n : Nat) : State :=
  { here with
    core := { here.core with tileQ := [sendCmd p false], slots := [(3, ⟨.running, some me, none⟩), (4, ⟨.waiting, some peer, none⟩)] }
    acts := { here.acts with tab := [(me.key, here.actor me), (peer.key, { here.actor peer with ins := (here.actor peer).ins.set 0 (ring f r n) })] } }
/-- A domain whose device 2 is up through port 0, with tokens. -/
def domain : State := { here with fab := { here.fab with fbdom := [(2, dw (2 ^ 63 + 1))], buckets := [(24, 1000), (24 * 0, 1000)] } }

theorem witness_CopyEvents :
    (let s := copying (.lg [.data (spot 0) [1, 2, 3, 4, 5, 6, 7, 8]]) false;
      (s.coreAt s.focus).transferQ[0]? = some (copyCmd (.lg [.data (spot 0) [1, 2, 3, 4, 5, 6, 7, 8]]) false)
      ∧ s.transferNext s.focus = some 0 ∧ s.performed s.focus .core = true)
    ∧ ((copying (.ll 0x600 0x400 8 true []) true).coreAt (.work 0)).transferQ[0]? = some (copyCmd (.ll 0x600 0x400 8 true []) true)
    ∧ (match (copying (.gl [.mem 0x400 (spot 0) 8] [] false) true).glRun (.work 0) 1 false false (segBytes [.mem 0x400 (spot 0) 8] + 1 + 1)
          [.mem 0x400 (spot 0) 8] with
        | .more _ [] => true
        | _ => false) = true
    ∧ ((copying (.lg []) true).lgRun (.work 0) (copyCmd (.lg []) true) 2 [.data (spot 0) [1, 2, 3, 4, 5, 6, 7, 8]]).2 = []
    ∧ (let s := copying (.lr 10 0x400 0x600 8 true [1, 2, 3, 4, 5, 6, 7, 8]) true
      10 ≠ s.lciOf s.focus ∧ s.coreOfLci 10 = some (.work 1) ∧ CoreId.work 1 ≠ s.focus
      ∧ s.admits (.work 1) permW (s.lciOf s.focus) 1 0x400 8 = true ∧ s.admits (.work 1) permW (s.lciOf s.focus) 1 0x600 8 = false)
    ∧ (let s := tiles .queued 0 0 0
      (s.coreAt s.focus).tileQ[0]? = some (sendCmd .queued false) ∧ s.tileNext s.focus = some 0)
    ∧ (0 < 128 - 0x10000 % 128 ∧ 0x10000 + 128 ≤ hbmEnd ∧ here.orderAt here.focus.die = [] ∧ (here.port (portOf 0x10000)).queue = []
      ∧ here.ram.poisoned 0x10000 = false ∧ here.ram.code (0x10000 / 1024) = 0)
    ∧ (((tiles .asking 0 0 0).coreAt (.work 0)).tileQ.findIdx? (fun t => t.phase == .asking) = some 0
      ∧ 0 < (ring 1 0 0).freeCount ∧ (ring 1 1 15).freeCount = 0 ∧ (ring 1 1 15).asks.length < 16 ∧ 16 ≤ (ring 2 0 16).asks.length)
    ∧ (match (tiles .asking 1 1 15).destOf (mkName 0 1 6 2) 0, here.destOf (mkName 0 1 6 1) 0, here.destOf (mkName 0 1 6 2) 0,
          domain.destOf (mkName 2 1 6 2) 0 with
        | .here _, .gone 10, .wait, .away 2 => true
        | _, _, _, _ => false) = true
    ∧ domain.peerUp 2 = true
    ∧ (domain.trySend (CoreId.work 0).key 1 2 here.who (.tile (.work 0)) (.tile (mkName 2 1 6 2) 0 (List.replicate 64 0))).2.isSome = true
    ∧ (let s := tiles (.granted (.work 0) peer 0 1) 0 1 0
      s.publishNext s.focus = some 0 ∧ ((s.actor peer).inPort 0).pend.any (fun e => e.1 == 1) = true) := by decide +kernel

theorem witness_ActorOperationsAtIssue :
    (let s := withS [(1, mkName 0 1 6 2), (2, 0x400), (3, 0xFFFF), (4, 3), (5, 0xFFFFFFFFFFFF), (6, 64), (7, 0x3FFC3FFF)] here;
      s.core.run = .firing 3 ∧ (s.core.slotAt 3).actor = some me ∧ s.room 1 = .ok
      ∧ (s.actor me).links.length + (s.actor me).linkRsv < 16 ∧ (s.rs 5).toNat < 2 ^ 48
      ∧ ((s.rs 3).toNat < 2 ^ 16 ∧ la (s.rs 2) % 64 = 0 ∧ s.mayReach (la (s.rs 2)) 64 = true)
      ∧ ((s.rs 7).toNat < 2 ^ 30 ∧ (s.rs 7).extractLsb' 14 4 = 0) ∧ (s.rs 4).toNat < 4 ∧ (s.rs 6).toNat ≤ 64
      ∧ s.core.tsw.sf = false ∧ s.core.rep = none)
    ∧ ¬({ here.actor me with linkRsv := 16 }.links.length + { here.actor me with linkRsv := 16 }.linkRsv < 16)
    ∧ ({ (here.actor me) with ins := (here.actor me).ins.set 0 (ring 1 0 0) }.inPort 0).en = true := by decide +kernel

theorem witness_SelfInstruction :
    here.room 1 = .ok
    ∧ (let e : Entry := ⟨.actor (.selfTx true), none, here.who, 1⟩
      let s := { here with core := { here.core with committed := [e] } }
      (s.coreAt s.focus).committed = [e] ∧ s.alive here.who = some me ∧ (s.actor me).sge = true)
    ∧ (here.actor peer).sge = false ∧ here.alive ⟨.work 0, some peer, 2⟩ = some peer := by decide +kernel

/-- An image of one actor at 0x10000 in HBM, mapped, for context 1 with one index; registers that name it and bead 2. -/
def imaged : State :=
  let s := withS [(1, 0x10000), (2, 0x400), (3, 0x600)] atPage
  { s with
    ram := { s.ram with bytes := [(0x10000, 1), (0x10004, 1), (0x10009, 2), (0x10011, 2), (0x10029, 4)] }
    ctxs := { s.ctxs with ccb := [(0, ccbRoot 9216), (1, (liveCcb.set 6 1).set 7 0x30000)] } }
/-- Bytes of an image or a template of that state, by pieces of 128. -/
def piecesAt (a n : Nat) : List (List Byte) := (List.range n).map fun i => memRead imaged.ram.bytes (a + 128 * i) 128
/-- SPAWN of its first template, linked. -/
def spawnF : SpawnF := ⟨4, 1, 0, 0, 0, true, false, false, 0⟩

/-- A context with one index, and that one free, gives it. -/
theorem freeIndex_one {s : State} {x : Nat} (h : s.ctxAtlen x = 1) (hf : (s.actor ⟨x, 0⟩).st = .free) : s.freeIndex x 1 = some 0 := by
  simp [State.freeIndex, h, Nat.mod_one, hf]

theorem witness_SpawnAndSupervisionAtIssue :
    (imaged.core.run = .firing 3 ∧ (imaged.core.slotAt 3).actor = some me ∧ imaged.room 1 = .ok
      ∧ (imaged.rs 1).toNat < 2 ^ 48 ∧ (imaged.rs 1).toNat % 512 = 0)
    ∧ imaged.BringsAll 128 (pieces 0x10000 512) imaged (piecesAt 0x10000 4) ∧ goodHeader (piecesAt 0x10000 4).flatten = true
    ∧ ((0 : BitVec 8).toNat < (imageOf 0x10000 (piecesAt 0x10000 4).flatten).nact
      ∧ 0x10000 + (imageOf 0x10000 (piecesAt 0x10000 4).flatten).actOff = 0x10400)
    ∧ imaged.BringsAll 128 (pieces 0x10400 256) imaged (piecesAt 0x10400 2)
    ∧ (imaged.actor me).links.length + (imaged.actor me).linkRsv + 1 ≤ 16 ∧ imaged.freeIndex imaged.ctx 1 = some 0
    ∧ ((0x1001 : DWord).toNat < 2 ^ 13 ∧ (0x1001 : DWord).extractLsb' 3 5 = 0 ∧ (0x1001 : DWord).getLsbD 1 = false
      ∧ (0x1001 : DWord).getLsbD 2 = false ∧ (0 : DWord).toNat < 2 ^ 48 ∧ imaged.ctxSvbase imaged.ctx ≠ 0
      ∧ me.own = true)
    ∧ (let s := { imaged with acts := { imaged.acts with supers := [(me.key, { SuperRec.none with sup := true })] }
                              ctxs := { imaged.ctxs with ccb := [(0, ccbRoot 9216), (1, liveCcb.set 6 1)] } }
      la (s.rs 2) % 128 = 0 ∧ s.mayReach (la (s.rs 2)) 128 = true ∧ s.syncSuper me = s ∧ (s.super me).sup = true
      ∧ (s.alive s.who).isSome = true ∧ s.room 1 = .ok ∧ (s.reserveIndices s.ctx 0 1).room 1 = .ok
      ∧ specBad (s.core.load (la (s.rs 2)) 128) = false
      ∧ (List.range 30).find? (fun e => !(s.super me).used e && !(s.super me).held.contains e) = some 0
      ∧ s.freeIndex s.ctx 1 = some 0)
    ∧ (29 : DWord).toNat ≤ 29 ∧ ((imaged.rs 1).toNat % 64 = 0) ∧ imaged.Reaches (imaged.rs 1) .read false (spot 0) := by
  refine ⟨by decide +kernel, brings_all _ _ (by decide +kernel) (by decide +kernel), by decide +kernel, by decide +kernel,
    brings_all _ _ (by decide +kernel) (by decide +kernel), by decide +kernel,
    freeIndex_one (by decide +kernel) (by decide +kernel), by decide +kernel,
    ⟨by decide +kernel, by decide +kernel, by decide +kernel, by decide +kernel, by decide +kernel, by decide +kernel,
      by decide +kernel, by decide +kernel, by decide +kernel, freeIndex_one (by decide +kernel) (by decide +kernel)⟩, by decide +kernel, by decide +kernel, ?_⟩
  exact reaches_of page (by decide +kernel) ⟨_, rfl⟩ (by decide +kernel) (by decide +kernel) (by decide +kernel) (by decide +kernel)
    (by decide +kernel) (by decide +kernel)

/-- Context 1 with a child 25 below it. -/
def parented : State := atPriv 1 { imaged with ctxs := { imaged.ctxs with
  ccb := [(0, ccbRoot 9216), (1, liveCcb), (25, liveCcb.set 0 (dw (2 ^ 52 + 2 ^ 48 * 2 + 2 ^ 32)))] } }
/-- A stream descriptor for device 2 in HBM at 0x40000, and a core of the hub that may start it. -/
def streamer (fbdom : List (Nat × DWord)) (streams : List Stream) (len : Byte) : State :=
  { State.reset with
    focus := .service 0
    core := { Core.reset [] (.service 0) with run := .service, regs := { Regs.reset with s := Regs.reset.s.set 1 0x40000 } }
    ram := { State.reset.ram with bytes := [(0x40000, 1), (0x40012, len), (0x40018, 2), (0x4001C, 1)] }
    fab := { State.reset.fab with fbdom := fbdom, streams := streams } }
/-- A stream with a ticket. -/
def ticketed (n : Nat) : Stream := ⟨n, [], .service 0, 0, 0, 0, 0, false, false, []⟩
/-- A read, as a list of bytes. -/
def Read.bytes : Machine.Read → Option (List Byte)
  | .ok bs => some bs
  | _ => none

theorem witness_ContextTranslationAndLocketInstructions :
    ((parented.ctxPrivileged = true ∧ parented.room 1 = .ok ∧ (parented.rs 1).toNat % 256 = 0 ∧ (parented.rs 1).toNat < 2 ^ 48)
      ∧ parented.BringsAll 128 [parented.rs 1, parented.rs 1 + 128] parented
        [memRead parented.ram.bytes 0x10000 128, memRead parented.ram.bytes 0x10080 128])
    ∧ (parented.newNumber 26 true = some 26 ∧ parented.ctxPermitted parented.ctx 25 = true ∧ (31 : DWord).toNat ≤ 31)
    ∧ here.ctxPrivileged = false ∧ (here.rs 0 = 0 ∧ parented.ctxPermitted parented.ctx 26 = false ∧ (26 : DWord) ≠ 0
      ∧ (26 : DWord).toNat ≠ parented.ctx)
    ∧ (parented.priv ≠ 0 ∧ ((1 : DWord).extractLsb' 0 12).toNat = parented.ctx
      ∧ parented.inSubtree parented.ctx ((25 : DWord).extractLsb' 0 12).toNat = true ∧ here.priv = 0)
    ∧ (let s := atPriv 3 atPage
      s.priv = 3 ∧ s.coreOfLci ((9 : DWord).extractLsb' 0 14).toNat = some (.work 0) ∧ page.wellFormed = true
      ∧ s.staleWalk 0 page = false ∧ (⟨page.e0 + 2, page.e1⟩ : TlbEntry).wellFormed = false ∧ s.coreOfLci 77 = none
      ∧ { s with ctxs := { s.ctxs with epoch := 2, invLog := [(2, ⟨.work 0, 1, none, []⟩)] } }.staleWalk 1 page = true)
    ∧ (let s := withS [(1, 0x400)] { here with core := { here.core with run := .preempt, tsw := { here.core.tsw with priv := 1 } } }
      s.core.run = .preempt ∧ s.core.rep = none ∧ s.rs 0 = 0 ∧ s.rs 1 ≠ 0 ∧ la (s.rs 1) % 64 = 0 ∧ s.mayReach (la (s.rs 1)) 64 = true
      ∧ here.core.run ≠ .preempt)
    ∧ (let up := [(2, dw (2 ^ 63 + 2 ^ 61 + 1))]
      let s := streamer up [] 1
      let bs := memRead s.ram.bytes 0x40000 64
      2 ≤ s.priv ∧ (s.rs 1).toNat % 64 = 0 ∧ (s.rs 1).toNat + 64 ≤ hbmEnd
      ∧ Read.bytes (s.readTarget false ⟨.dev 0x40000, 0, 0⟩ (s.rs 1) 64) = some bs ∧ badStream s.tick bs = false
      ∧ badStream s.tick (memRead (streamer up [] 0).ram.bytes 0x40000 64) = true
      ∧ (Sparse.get 0 up (natOf ((bs.drop 0x18).take 4))).getLsbD 63 = true ∧ (dw (2 ^ 63 + 2 ^ 61 + 1)).getLsbD 61 = true
      ∧ (dw (2 ^ 63 + 2 ^ 61 + 1)).getLsbD 62 = false ∧ (Sparse.get 0 (streamer [] [] 1).fab.fbdom 2).getLsbD 63 = false
      ∧ (∀ u, u < 5 → 1 ≤ u → u ≤ 4 → ∃ x ∈ [ticketed 1, ticketed 2, ticketed 3, ticketed 4], x.ticket = u)
      ∧ (1 ≤ 4 ∧ 4 ≤ 4 ∧ (∀ u, u < 4 → 1 ≤ u → ∃ x ∈ [ticketed 1, ticketed 2, ticketed 3], x.ticket = u)
        ∧ ∀ x ∈ [ticketed 1, ticketed 2, ticketed 3], x.ticket ≠ 4)
      ∧ [ticketed 1, ticketed 2].find? (fun x => x.ticket == 2) = some (ticketed 2))
    ∧ (1 : DWord).toNat % 64 ≠ 0 ∧ hbmEnd < hbmEnd - 63 + 64 := by
  refine ⟨⟨by decide +kernel, brings_all _ _ (by decide +kernel) (by decide +kernel)⟩, by decide +kernel, by decide +kernel,
    by decide +kernel, by decide +kernel, by decide +kernel, by decide +kernel, by decide +kernel, by decide +kernel, by decide +kernel⟩

theorem witness_TlbProbe :
    (let s := atPriv 3 atPage;
      (1 ≤ s.priv ∧ 3 ≤ s.priv) ∧ s.core.tlb = [page] ++ pageR :: [pageW]
      ∧ (pageR.valid = true ∧ pageR.ctx = s.ctx ∧ pageR.base ≤ (s.rs 2).toNat ∧ (s.rs 2).toNat < pageR.base + pageR.size)
      ∧ (∀ x ∈ [page], ¬(x.base ≤ (s.rs 2).toNat ∧ (s.rs 2).toNat < x.base + x.size)) ∧ (s.rs 2).toNat < 2 ^ 48
      ∧ ∀ e ∈ s.core.tlb, ¬(e.base ≤ (s.rs 4).toNat ∧ (s.rs 4).toNat < e.base + e.size))
    ∧ here.priv < 1 := by decide +kernel

/-- A core with a kind and a privilege. -/
def coreOn (id : CoreId) (p : BitVec 2) : State :=
  { State.reset with focus := id, core := { Core.reset [] id with tsw := { Tsw.reset with priv := p } } }

theorem witness_ReadingControlRegisters :
    (0x100 ≤ (0x100 : BitVec 12).toNat ∧ here.priv = 0)
    ∧ ((coreOn (.work 5) 1).priv ≠ 0 ∧ (coreOn (.transl 5) 3).priv ≠ 0 ∧ ((coreOn (.transl 5) 3).transQ 5).queue = []
      ∧ (coreOn (.service 5) 2).priv ≠ 0)
    ∧ (((coreOn (.transl 5) 3).setTransQ 5 ⟨[⟨.work 0, 9, 1, 1, 0x10000, .read⟩], [], 0⟩).transQ 5).queue
        = [⟨.work 0, 9, 1, 1, 0x10000, .read⟩]
    ∧ (0x0FF : BitVec 12).toNat ∈ [0x018, 0x01F, 0x028, 0x032, 0x0FF] := by decide +kernel

/-- A boot whose dies have reported 1,024 functional cores each, accepted, with their bases. -/
def reported : State := { State.reset with hub := { State.reset.hub with
  dierpt := (List.range 9).map fun d => (d, BitVec.ofNat 48 (2 ^ 32 * 1024 + 1024))
  diebase := (List.range 9).map fun i => (dieChain.getD i 0, BitVec.ofNat 14 (1024 * i)) } }

theorem witness_WritingControlRegisters :
    (let v := dw (2 ^ 51 + 2 ^ 9 * 1 + 2);
      (winEn v = true ∧ winBase v + winNb v ≤ 511) ∧ here.core.run = .firing 3 ∧ winEn here.core.wins[0] = false
      ∧ (∀ i, i ≤ winNb v → here.core.bead (winBase v + i) = .owned 3) ∧ (atPriv 2 here).priv ≠ 0)
    ∧ winBase (dw (2 ^ 51 + 2 ^ 9 * 511)) + winNb (dw (2 ^ 51 + 2 ^ 9 * 511)) ≤ 511
    ∧ (bitsAt 52 12 (dw (2 ^ 52)) = (atPriv 1 here).ctx ∧ (atPriv 1 here).priv = 1 ∧ here.focus = .work 0)
    ∧ (let v := bzmapReset 0
      here.bezelCount here.focus = 0 ∧ ((acm v ||| bwm v) ||| brm v) &&& (0xFFFF ^^^ here.bezelGrant here.ctx (posOctet 0)) = 0
      ∧ acm v &&& (0xFFFF ^^^ acm here.core.bzmap) = 0)
    ∧ ((coreOn (.service 3) 2).focus = .service 3 ∧ (coreOn (.service 3) 2).priv ≠ 0)
    ∧ ((1 : DWord).getLsbD 0 = true ∧ reported.hub.bended = false ∧ reported.bendOk = true ∧ State.reset.bendOk = false
      ∧ State.reset.focus = .work 0 ∧ here.hub.bended = true ∧ (2 : DWord).getLsbD 0 = false)
    ∧ ((511 : DWord).toNat < 512 ∧ 512 ≤ (512 : DWord).toNat)
    ∧ ((Sparse.get 0 [(2, (0x4000000000000000 : DWord))] 2).getLsbD 62 = true ∧ (Sparse.get 0 here.fab.fbdom 2).getLsbD 62 = false)
    ∧ (let s := State.reset.modCore (.service 4) fun c => { c with run := .service }
      (s.coreAt (.service 3)).run = .stopped ∧ (0x3FFFC : DWord).toNat % 4 = 0 ∧ (0x3FFFC : DWord).toNat < 2 ^ 18
      ∧ (s.coreAt (.service 4)).run ≠ .stopped) := by
  refine ⟨⟨by decide +kernel, by decide +kernel, by decide +kernel, ?_, by decide +kernel⟩, by decide +kernel, by decide +kernel,
    by decide +kernel, by decide +kernel, by decide +kernel, by decide +kernel, by decide +kernel, by decide +kernel⟩
  exact fun i h => (by decide +kernel : ∀ i, i < 3 → here.core.bead (winBase (dw (2 ^ 51 + 2 ^ 9 * 1 + 2)) + i) = .owned 3) i
    (Nat.lt_succ_of_le h)

theorem witness_RegisterWritesComplete :
    (let s := atPriv 1 here;
      s.priv ≠ 0 ∧ winEn (dw (2 ^ 51 + 2 ^ 9 * 511)) = true ∧ winBase (dw (2 ^ 51 + 2 ^ 9 * 511)) + winNb (dw (2 ^ 51 + 2 ^ 9 * 511)) ≤ 511
      ∧ s.focus = .work 0 ∧ bitsAt 52 12 (dw (2 ^ 52)) = s.ctx)
    ∧ (let s := atPriv 2 here
      let v := bzmapReset 0
      s.focus = .work 0 ∧ s.priv ≠ 0 ∧ s.bezelCount s.focus = 0
      ∧ ((acm v ||| bwm v) ||| brm v) &&& (0xFFFF ^^^ s.bezelGrant s.ctx (posOctet 0)) = 0 ∧ acm v &&& (0xFFFF ^^^ acm s.core.bzmap) = 0)
    ∧ (0x031 : BitVec 12).toNat = 0x031
    ∧ ((State.reset.coreAt (.service 3)).run = .stopped ∧ (0x3FFFC : DWord).toNat % 4 = 0 ∧ (0x3FFFC : DWord).toNat < 2 ^ 18)
    ∧ ((1 : DWord).getLsbD 0 = true ∧ reported.hub.bended = false ∧ reported.bendOk = true ∧ (511 : DWord).toNat < 512)
    ∧ (Sparse.get 0 [(2, (0x4000000000000000 : DWord))] 2).getLsbD 62 = true := by decide +kernel

/-- The running core with one committed entry. -/
def holding (k : EntryKind) : State := { here with core := { here.core with committed := [⟨k, none, here.who, 1⟩] } }
/-- A device whose context 1 has function 3 bound to it. -/
def hosted : State := { here with
  ctxs := { here.ctxs with ccb := [(0, ccbRoot 9216), (1, liveCcb.set 22 (dw (2 ^ 15 + 3)))] }
  hub := { here.hub with funcs := [(3, { Func.reset with bind := dw (2 ^ 63 + 2 ^ 48 * 1 + 5) })] } }

theorem witness_StoreBufferDrain :
    ((holding (.store (spot 0) [7] [0])).coreAt (holding (.store (spot 0) [7] [0])).focus).committed
        = ⟨.store (spot 0) [7] [0], none, here.who, 1⟩ :: []
    ∧ ((spot 0).place = .dev 0x10000 ∧ 0x10000 < hbmEnd ∧ hbmEnd - 1 < hbmEnd ∧ (here.orderAt here.focus.die).length < 512)
    ∧ (let s := { here with ram := { here.ram with order := [(0, List.replicate 512 ⟨0, .poisonclr, 0, here.who, none, .none⟩)] } }
      512 ≤ (s.orderAt s.focus.die).length)
    ∧ ([1, 2].length = 2 ∧ 0 < 2 ∧ (⟨.host 64, 0, 1⟩ : Target).place = .host 64 ∧ hosted.hostFunc 1 = some 3)
    ∧ (here.core.transferQ.length < 16
      ∧ 16 ≤ { here.core with transferQ := List.replicate 16 (copyCmd (.gl [] [] false) false) }.transferQ.length)
    ∧ (here.core.tileQ.filter fun t => t.phase != .done).length < 8
    ∧ (here.coreAt here.focus).nredFree 0 1 = true
    ∧ here.performed here.focus .device = true ∧ here.performed here.focus .core = true
    ∧ { here with ram := { here.ram with order := [(0, [⟨0, .poisonclr, 0, here.who, none, .none⟩])] } }.performed here.focus .device
        = false := by decide +kernel

/-- An operation of a port on eight bytes at 0x10000. -/
def portOp (k : PortKind) : PortOp := ⟨0x10000, k, 0, here.who, none, .none⟩
/-- A state in which it waits at die 0, and one in which it stands at its port. -/
def waitingOp (k : PortKind) : State := { here with ram := { here.ram with order := [(0, [portOp k])] } }
def queuedOp (k : PortKind) : State := { here with ram := { here.ram with
  ports := [(portOf 0x10000, { Port.reset with queue := [(0x10000 / 128, [portOp k])] })] } }

theorem witness_OrderingPointsAndPorts :
    (∀ k ∈ [PortKind.store [1, 2] [0, 1], .red .add 8 1, .poisonclr],
      ((waitingOp k).orderAt 0)[0]? = some (portOp k) ∧ (waitingOp k).passReady 0 0 = true
      ∧ ((queuedOp k).port (portOf 0x10000)).queue = (0x10000 / 128, portOp k :: []) :: [])
    ∧ ((portOp (.store [1, 2] [0, 1])).kind.wholeGranule = false ∧ (portOp (.store [1, 2] [0, 1])).kind.wholeBlock = false
      ∧ (portOp (.store [1, 2] [0, 1])).lines = [0x10000 / 128] ∧ (waitingOp (.store [1, 2] [0, 1])).ram.poisoned 0x10000 = false ∧ (portOp .poisonclr).cmp = 0 ∧ (portOp .poisonclr).pa % 4096 = 0
      ∧ bitsAt 25 15 ((waitingOp .poisonclr).port (portOf 0x10000)).mpcfg = 0)
    ∧ (0 < [1, 2].length ∧ (∀ j, j < 2 → here.ram.code ((0x10000 + j) / 1024) = 0) ∧ [0, 1].Nodup ∧ ∀ j ∈ [0, 1], j < 2)
    ∧ ((queuedOp (.red .add 8 1)).ram.poisoned 0x10000 = false ∧ (portOp (.red .add 8 1)).kind.scalar 0 = some 1)
    ∧ { here.ram with marks := [(64, true)] }.poisoned 0x10000 = true
    ∧ (let p : Port := { Port.reset with reads := [⟨0x10000, 8, 2, 130, 0, 0⟩] }
      p.reads.findIdx? p.readReady = some 0 ∧ p.reads[0]? = some ⟨0x10000, 8, 2, 130, 0, 0⟩)
    ∧ 1024 * (hbmEnd / 1024 - 1) < hbmEnd := by decide +kernel

/-- Page tables at 0x20000 that map 0x10000 to itself, read and write, for context 1, and nothing else. -/
def walked : State := { here with
  ctxs := { here.ctxs with ccb := [(0, ccbRoot 9216), (1, (liveCcb.set 4 (dw 0x20000)).set 12 (dw (2 ^ 16 * 8 + 8)))] }
  ram := { here.ram with bytes := [(0x20000, 1), (0x20001, 0x10), (0x20002, 2), (0x21000, 1), (0x21001, 0x20), (0x21002, 2),
    (0x22000, 1), (0x22001, 0x30), (0x22002, 2), (0x23080, 15), (0x23082, 1)] } }
/-- The running core waits for a miss at an address. -/
def missed (va : Nat) : Miss := ⟨.work 0, 9, 1, 1, va, .read⟩
def missing (va : Nat) (sent : Bool) : State := { walked with core := { walked.core with wait := some ⟨.miss 1 (missed va) sent, .nop⟩ } }
/-- Code that runs in no slot wants the page 0x11000. -/
def want : PageWant := ⟨⟨.work 0, 64, none, 0⟩, 1, 0, 0x11000, false, false, false⟩
def wanting : State := { walked with ctxs := { walked.ctxs with wants := [want] } }

theorem witness_TranslationEvents :
    (((missing 0x10000 false).coreAt (.work 0)).missings.find? (fun x => !x.2) = some (missed 0x10000, false)
      ∧ (walked.transQ (CoreId.queue (.work 0))).queue.length < 64
      ∧ 64 ≤ ((walked.setTransQ (CoreId.queue (.work 0)) ⟨List.replicate 64 (missed 0), [], 0⟩).transQ (CoreId.queue (.work 0))).queue.length)
    ∧ ((missed 0x10000, true) ∈ ((missing 0x10000 true).coreAt (.work 0)).missings ∧ walked.ctxState 1 ≠ 2
      ∧ (missed 0x10000, true) ∉ ((missing 0x10000 false).coreAt (.work 0)).missings
      ∧ ((missing 0x10000 true).coreAt (.work 0)).absentPage = none
      ∧ { (here.core) with rep := some { repeating with wait := some ⟨.miss 1 (missed 0x10000) true, .nop⟩ } }.wait = none
      ∧ (missing 0x10000 true).messageOf (.work 0) = none
      ∧ (let s := (missing 0x10000 true).setTransQ (CoreId.queue (.work 0)) ⟨[missed 0x10000], [], 0⟩
        s.messageOf (.work 0) = some (missed 0x10000) ∧ (missed 0x10000, true) ∈ (s.coreAt (.work 0)).missings)
      ∧ walked.walk 0 1 0x10000 .read = .ok ⟨0x10000, true, true, 4096, [(0x10000, 0, 2 ^ 48)], false, 0, 0, 0⟩
      ∧ walked.armedJob 1 0x10000 = none)
    ∧ { walked with ctxs := { walked.ctxs with ccb := [(0, ccbRoot 9216), (1, liveCcb.set 4 (dw (0x20000 + 1)))] } }.walk 0 1 0x10000
        .read = .denied
    ∧ (let s := { walked with ram := { walked.ram with marks := [(0x22000 / 1024, true)] } }
      s.walk 0 1 0x10000 .read = .poison 0x22000 ∧ s.ram.poisoned 0x22000 = true)
    ∧ (walked.walk 0 1 0x11000 .read = .notResident 1 0x11000 false ∧ (walked.coreAt (.work 0)).run = .firing 3
      ∧ ((walked.coreAt (.work 0)).slotAt 3).actor = some me
      ∧ ({ (walked.coreAt (.work 0)) with wait := some ⟨.page (missed 0x11000) 1 0x11000 false, .nop⟩ } : Core).absentPage
        = some (missed 0x11000, 1, 0x11000, false))
    ∧ (want.who.core = .work 0 ∧ want.who.actor = none
      ∧ wanting.ctxs.wants.find? (fun v => decide (v.who.core = .work 0) && !v.returned) = some want
      ∧ wanting.prqAdmit want = some false ∧ wanting.ctxs.prq.any (fun e => e.addr == 0x11000) = false
      ∧ (∀ e ∈ wanting.ctxs.prq, e.id ≠ 0) ∧ (∀ j, j < 0 → ∃ e ∈ wanting.ctxs.prq, e.id = j))
    ∧ (let w := { want with returned := true }
      let s := { walked with ctxs := { walked.ctxs with
        wants := [w], prq := [⟨0, 0, 0x11000, false, false, 1, false, 1, [⟨.work 1, 3, none, 0⟩], none⟩] } }
      s.ctxs.wants.find? (fun v => decide (v.who.core = .work 0) && v.returned) = some w
      ∧ s.ctxs.prq.any (fun e => e.handler == w.handler && e.addr == w.addr && e.walk == w.walk) = true)
    ∧ ({ walked with ctxs := { walked.ctxs with ccb := [(0, ccbRoot 9216), (1, liveCcb.set 12 0)] } }.prqAdmit want = none) := by
  decide +kernel

/-- What a name resolves to, as the actor or a number: 0 elsewhere, 1 to be waited for, 2 gone. -/
def Resolved.code : Machine.Resolved → ActorId ⊕ Nat
  | .here x => .inl x
  | .away _ => .inr 0
  | .wait => .inr 1
  | .gone => .inr 2
/-- Context 2, of another partition. -/
def otherCcb : List DWord := liveCcb.set 0 (BitVec.ofNat 64 (2 ^ 32 + 2 ^ 48 + 2 ^ 24))
/-- The running firing with a record of its own, actor 6 in slot 4 as another, and context 2 live. -/
def pair (mine other : ActorRec → ActorRec) : State := { here with
  core := { here.core with slots := [(3, ⟨.running, some me, none⟩), (4, ⟨.waiting, some peer, none⟩)] }
  acts := { here.acts with tab := [(me.key, mine (here.actor me)), (peer.key, other (here.actor peer))] }
  ctxs := { here.ctxs with ccb := [(0, ccbRoot 9216), (1, liveCcb.set 11 16), (2, otherCcb)], created := [1, 2] } }
/-- A used link-table entry for actor 6. -/
def tied (k : LinkKind) (r : ActorRec) : ActorRec := { r with links := [⟨mkName 0 1 6 2, k, 9⟩] }

theorem witness_DrainedActorOperations :
    (let s := { pair id id with core := { (pair id id).core with committed := [⟨.actor (.kill 5), none, here.who, 1⟩] } };
      (s.coreAt s.focus).committed = ⟨.actor (.kill 5), none, here.who, 1⟩ :: [])
    ∧ (pair id id).alive here.who = some me ∧ (pair id id).issuerName here.who = some ((pair id id).nameOf me)
    ∧ ((pair id id).mayName 1 true (mkName 0 1 6 2) = true ∧ (pair id id).mayName 1 false (mkName 0 1 6 2) = true
      ∧ Resolved.code ((pair id id).resolve (mkName 0 1 6 2)) = .inl peer ∧ mkName 0 1 6 2 ≠ 0)
    ∧ ((pair id id).linkFor me ((pair id id).nameOf peer) .link none = none
      ∧ ((pair id id).actor peer).links.length + ((pair id id).actor peer).linkRsv < 16)
    ∧ (let s := pair (tied .link) id;
      s.linkFor me (s.nameOf peer) .link none ≠ none)
    ∧ (let s := pair (tied .watching) id;
      s.linkFor me (s.nameOf peer) .watching (some ((9 : DWord).setWidth 32)) ≠ none)
    ∧ ((pair id id).mayName 1 false (mkName 0 1 6 1) = true ∧ Resolved.code ((pair id id).resolve (mkName 0 1 6 1)) = .inr 2)
    ∧ ((pair id id).mayName 1 false (mkName 0 2 6 1) = false ∧ (pair id id).mayName 1 true (mkName 0 2 6 1) = false)
    ∧ ((pair id id).performed (.work 0) .system = true ∧ (pair id id).msgRoom (.work 0) 1 = true)
    ∧ (let s := pair id fun r => { r with ins := r.ins.set 3 (ring 0 0 0) };
      ((s.actor peer).inPort 3).en = true) := by decide +kernel

/-- Actor 5 died. -/
def dying (d : DeathStep) (mine : ActorRec → ActorRec) : State :=
  pair (fun r => mine { r with st := .leaving, xreason := 3, death := some d }) id
/-- Mail for actor 6. -/
def exitMail (reason : Nat) : Mail := .exit (mkName 0 1 6 2) (mkName 0 1 5 7) reason 0 none false 0 .core
def messageMail (gen : Nat) : Mail := .message (mkName 0 1 6 gen) 3 0 0 0 [] 0 .core
def mailed (m : Mail) (other : ActorRec → ActorRec) : State :=
  let s := pair id other
  { s with acts := { s.acts with mail := [m] } }
/-- A CAPCALL of actor 6 whose reply is due. -/
def called : Capcall := ⟨mkName 0 1 6 2, 1, 0, 9, true, false, 0, []⟩

theorem witness_ArrivalsAndDeath :
    (let s := dying .signals (tied .link);
      s.deathReady me = true ∧ s.jobOfRoot me = none ∧ s.ctxState me.ctx ≠ 4 ∧ me.own = true)
    ∧ (let far : ActorId := ⟨1, 2 ^ 24 * 2 + 5⟩
      let s := { here with acts := { here.acts with tab := [(far.key, { here.actor me with st := .leaving, death := some .signals })] } }
      s.deathReady far = true ∧ s.jobOfRoot far = none ∧ s.ctxState far.ctx ≠ 4 ∧ far.own = false)
    ∧ (pair id id).deathReady me = false
    ∧ (let s := dying .reclaim id
      s.reclaimReady me = true ∧ s.inSlot me = true ∧ (s.actor me).st = .leaving ∧ (∀ d ∈ s.acts.deaths, d.dead ≠ s.nameOf me)
      ∧ Sparse.wfFrom .free 0 (s.coreAt (s.actor me).core).beads = true ∧ s.coreAt (s.actor me).core = s.core
      ∧ CoreId.work 1 ≠ (s.actor me).core)
    ∧ (pair id id).reclaimReady me = false
    ∧ (∀ reason ∈ [0, 3], (mailed (exitMail reason) id).nextMail true (mailed (exitMail reason) id).acts.mail [] = some (exitMail reason)
      ∧ Resolved.code ((mailed (exitMail reason) id).resolve (exitMail reason).dst) = .inl peer
      ∧ ((mailed (exitMail reason) id).actor peer).tx = false)
    ∧ ((mailed (exitMail 3) fun r => { r with tx := true, sge := true }).actor peer).tx = true
    ∧ (let m := Mail.exit (mkName 0 1 6 1) 0 1 0 none false 0 .core
      let s := mailed m id
      s.nextMail true s.acts.mail [] = some m ∧ Resolved.code (s.resolve m.dst) = .inr 2)
    ∧ (let s := mailed (messageMail 2) fun r => { r with sge := true, mcount := 15 }
      s.nextMail false s.acts.mail [] = some (messageMail 2) ∧ Resolved.code (s.resolve (messageMail 2).dst) = .inl peer
      ∧ (s.actor peer).sge = true ∧ (s.actor peer).mcount + (s.actor peer).mrsv < 16)
    ∧ (let s := mailed (messageMail 2) fun r => { r with sge := true, mcount := 15, mrsv := 1 }
      16 ≤ (s.actor peer).mcount + (s.actor peer).mrsv)
    ∧ ((mailed (messageMail 2) id).actor peer).sge = false
    ∧ (let s := mailed (messageMail 1) id
      s.nextMail false s.acts.mail [] = some (messageMail 1) ∧ Resolved.code (s.resolve (messageMail 1).dst) = .inr 2)
    ∧ (∀ kl k, let s := pair id fun r => r.setTimer k ⟨5, 9, kl, true⟩;
      ((s.actor peer).timer k).arm = true ∧ ((s.actor peer).timer k).kl = kl ∧ (s.actor peer).st ≠ .leaving
      ∧ (s.actor peer).st ≠ .migrating ∧ (s.actor peer).dev = 0 ∧ s.inSlot peer = true ∧ ((s.actor me).timer k).arm = false)
    ∧ ((pair id fun r => { r with dev := 3 }).actor peer).dev ≠ 0 ∧ here.inSlot peer = false
    ∧ (here.acts.forwards.all (fun f => decide (f.core ≠ .work 0)) = true
      ∧ { here.acts with forwards := [⟨.work 0, 4, peer⟩] }.forwards = [⟨.work 0, 4, peer⟩] ∧ peer.own = true
      ∧ (⟨1, 2 ^ 24 * 2 + 5⟩ : ActorId).own = false
      ∧ ({ here with acts := { here.acts with tab := [((⟨1, 2 ^ 24 * 2 + 5⟩ : ActorId).key, { here.actor peer with dev := 2 })] } }.actor
        ⟨1, 2 ^ 24 * 2 + 5⟩).dev ≠ 0) := by decide +kernel

theorem witness_ArrivalsAndDeath_elsewhere :
    (let s := pair id fun r => { r with sge := true, mrsv := 1 };
      let t := { s with acts := { s.acts with capcalls := [called] } }
      t.acts.capcalls.find? t.replyReady = some called ∧ called.reserved = true ∧ called.forwarded = false
      ∧ Resolved.code (t.resolve called.caller) = .inl peer ∧ (t.actor peer).sge = true ∧ s.acts.capcalls.find? s.replyReady = none)
    ∧ ((pair id id).actor peer).sge = false
    ∧ (let s := pair id fun r => { r with dev := 3, mrsv := 1 }
      let t := { s with acts := { s.acts with capcalls := [called] }, fab := domain.fab }
      t.acts.capcalls.find? t.replyReady = some called ∧ Resolved.code (t.resolve called.caller) = .inr 0)
    ∧ (let far : ActorId := ⟨1, 2 ^ 24 * 2 + 5⟩
      let s := { here with
        core := { here.core with slots := [(3, ⟨.leaving, some far, none⟩)] }
        acts := { here.acts with tab := [(far.key, { here.actor me with st := .leaving, death := some .reclaim })] } }
      s.reclaimReady far = true ∧ s.inSlot far = true ∧ (s.actor far).st = .leaving ∧ far.own = false
      ∧ Sparse.wfFrom .free 0 (s.coreAt (s.actor far).core).beads = true) := by decide +kernel

/-- The core idle between firings, actor 5 in slot 3 with one filled slot, actor 6 in slot 4 with a message. -/
def choosing (first : Slot) (other : ActorRec → ActorRec) : State :=
  let s := pair (fun r => { r with ins := r.ins.set 0 (ring 1 0 0) }) other
  { s with core := { s.core with run := .idle, slots := [(3, first), (4, ⟨.waiting, some peer, none⟩)] } }
/-- A slot that waits, with a resume pending or not. -/
def waiting (r : Option Resume) : Slot := ⟨.waiting, some me, r⟩

theorem witness_FiringChoiceAndStart :
    (let s := choosing (waiting none) fun r => { r with ins := r.ins.set 0 (ring 0 0 0) };
      s.chosenSlot (.work 0) = some 3 ∧ s.slotKey (.work 0) 3 = some 1 ∧ s.slotKey (.work 0) 4 = none
      ∧ s.core.run = .idle ∧ (CoreId.work 0).regions = true ∧ (s.core.slotAt 3).actor = some me ∧ s.slotRank (.work 0) 3 = some 1)
    ∧ (choosing (waiting none) fun r => { r with mcount := 1 }).chosenSlot (.work 0) = some 4
    ∧ (let s := choosing (waiting (some ⟨Record.reset, false⟩)) id
      s.chosenSlot (.work 0) = some 3 ∧ (s.core.slotAt 3).resume = some ⟨Record.reset, false⟩
      ∧ (match s.resumeVectors (.work 0) me ⟨Record.reset, false⟩ with
        | .ok q => decide (q = ⟨Record.reset, false⟩)
        | _ => false) = true)
    ∧ (scopeOf (([ring 1 0 0].map IPort.acquires).foldl Nat.max 0) = .core
      ∧ scopeOf (([{ ring 1 0 0 with scopes := [(1, scopeNum .system)] }].map IPort.acquires).foldl Nat.max 0) = .system)
    ∧ (here.chosenSlot (.work 0) = none ∧ (63 : Nat) < 64) := by decide +kernel

theorem witness_ReadySlotsAndTheirRank :
    (let s := choosing (waiting none) fun r => { r with mcount := 1 };
      (((s.coreAt (.work 0)).slotAt 3).actor = some me ∧ ((s.coreAt (.work 0)).slotAt 3).st = .waiting
        ∧ s.holdsSlice (.work 0) me.ctx = true ∧ (∀ g, (s.actor me).mig = some g → g.started = false))
      ∧ ((s.coreAt (.work 0)).slotAt 3).resume = none ∧ (s.actor me).mcount = 0
      ∧ (∀ i : Fin 4, (s.actor me).ins[i].en = true → (s.actor me).ins[i].ratem1.toNat + 1 ≤ (s.actor me).ins[i].filled)
      ∧ 0 < (s.actor peer).mcount ∧ ((s.coreAt (.work 0)).slotAt 4).resume = none)
    ∧ (let s := choosing (waiting (some ⟨Record.reset, false⟩)) fun r => { r with ins := r.ins.set 3 (ring 0 0 0) };
      ((s.coreAt (.work 0)).slotAt 3).resume.isSome = true
      ∧ ¬ ∀ i : Fin 4, (s.actor peer).ins[i].en = true → (s.actor peer).ins[i].ratem1.toNat + 1 ≤ (s.actor peer).ins[i].filled) := by
  refine ⟨⟨⟨by decide +kernel, by decide +kernel, by decide +kernel, ?_⟩, by decide +kernel, by decide +kernel, by decide +kernel,
    by decide +kernel, by decide +kernel⟩, by decide +kernel⟩
  intro g h
  exact absurd h (by rw [(by decide +kernel : ((choosing (waiting none) fun r => { r with mcount := 1 }).actor me).mig = none)]; simp)

/-- What a reading operation of the engine gave. -/
def got {α : Type} (e : Eng α) : Option α :=
  match e with
  | .ok a => some a
  | _ => none
theorem ok_of_got {α : Type} {e : Eng α} {a : α} (h : got e = some a) : e = .ok a := by
  cases e <;> simp [got] at h ⊢; exact h

/-- Context 1 with its page tables, an image at 0x10000, a job block at 0x10E00 and index 0 alone; actor 5 waits in slot 3
of core 0, and core 1 is in no use. -/
def landed (mine other : ActorRec → ActorRec) : State :=
  let s := pair (fun r => mine { r with image := 0x10000 }) fun r => other { r with core := .work 1 }
  { s with
    core := { s.core with run := .idle, slots := [(3, ⟨.waiting, some me, none⟩)] }
    others := [(CoreId.key (.work 1), { Core.reset [] (.work 1) with router := { here.core.router with lci := 10 } })]
    ctxs := { s.ctxs with ccb := [(0, ccbRoot 9216), (1, ((liveCcb.set 4 (dw 0x20000)).set 6 (dw 1)).set 10 (dw 100))] }
    ram := { s.ram with bytes := [(0x10000, 1), (0x10004, 1), (0x10009, 2), (0x10011, 2), (0x10029, 4), (0x10E06, 2), (0x10E0A, 1),
      (0x20000, 1), (0x20001, 0x10), (0x20002, 2), (0x21000, 1), (0x21001, 0x20), (0x21002, 2), (0x22000, 1), (0x22001, 0x30),
      (0x22002, 2), (0x23080, 15), (0x23082, 1)] } }
def landing : Image := ⟨0x10000, 1, 512, 0x400⟩
def moving : State := landed (fun r => { r with mig := some ⟨10, 0, .name (mkName 0 1 6 2), true, false⟩ }) id
/-- The same with every slot of core 1 taken. -/
def crowded : State := moving.modCore (.work 1) fun c => { c with slots := (List.range 64).map fun i => (i, ⟨.waiting, some peer, none⟩) }

theorem moves : ∃ u, moving.moveTo me [.work 1] = .ok u :=
  State.moveTo_of (img := landing) (text := List.replicate 512 0) (ok_of_got (by decide +kernel)) (ok_of_got (by decide +kernel))
    (by decide +kernel) (State.fitOn_of (by decide +kernel) (by decide +kernel) (by decide +kernel))
    (State.fitOn_of (by decide +kernel) (by decide +kernel) (by decide +kernel))
/-- An image whose page is not there holds the move up. -/
def paged (m : Migration) : State := landed (fun r => { r with mig := some m, image := 0x11000 }) fun r => { r with st := .free }
theorem awaits : ∃ t, (paged ⟨10, 0, .name 0, true, false⟩).moveTo me [.work 1] = .wait t :=
  State.moveTo_waits (by decide +kernel) (State.fitOn_of (by decide +kernel) (by decide +kernel) (by decide +kernel))
    (by decide +kernel)

/-- The record of a supervisor with the child of entry 0, by the supervisor's policy word, and RMASK. -/
def keeper (policy window hist rmask : Nat) : SuperRec := ⟨true, [], [(0, dw policy), (1, dw window), (3, dw hist), (32, mkName 0 1 6 2),
  (33, dw 32), (34, dw 0x10000), (43, dw rmask)].filter fun e => e.2 != 0, []⟩
/-- Actor 5 supervises actor 6, whose death of reason 3 the restart engine has. -/
def bereaved (r : SuperRec) : State :=
  let s := landed id fun q => { q with st := .leaving, death := none }
  { s with acts := { s.acts with supers := [(me.key, r)], deaths := [⟨me, mkName 0 1 6 2, 3⟩] } }
/-- What the restart engine works on: the death taken, the record read, its reason noted. -/
def noted (r : SuperRec) : State :=
  let u := { bereaved r with acts := { (bereaved r).acts with deaths := [] } }.syncSuper me
  u.modEntry me fun r => r.setField (childWord 0 1) 16 8 3

theorem bounded_cyc (w : DWord) : ((0 : DWord) + 1 + w % 65536).toNat < 2 ^ 48 - 1 := by
  have : (w % 65536).toNat < 65536 := by
    rw [BitVec.toNat_umod]; exact Nat.mod_lt _ (by decide)
  simp only [BitVec.toNat_add]
  have h2 : ((0 : DWord).toNat + (1 : DWord).toNat) = 1 := by decide
  rw [h2]
  omega

theorem recent_one {r : SuperRec} {now : DWord} (h0 : Nat.min (bitsAt 4 5 (r.word 3)) 16 = 1)
    (h1 : r.word (16 + (bitsAt 0 4 (r.word 3) + 31 - 0) % 16) = 0) (h2 : now.toNat < bitsAt 0 48 (r.word 1)) : r.recent now = 1 := by
  have e0 : List.range 1 = [0] := rfl
  have e1 : now - (0 : DWord) = now := by simp
  unfold SuperRec.recent
  simp only [h0, e0, List.filter_cons, List.filter_nil, h1]
  rw [e1]
  simp [h2]

/-- A policy of one restart in a window that no run of cycle counts leaves. -/
def strict : SuperRec := keeper 4 (2 ^ 48 - 1) 16 (2 ^ 3)

theorem exceeded : (noted strict).rateCheck me = none := by
  have hc : ((((noted strict).readCyc ((noted strict).actor me).core).coreAt ((noted strict).actor me).core).cyc)
      = (0 : DWord) + 1 + Config.freeWord (noted strict).tick % 65536 := rfl
  have hr : (((noted strict).readCyc ((noted strict).actor me).core).super me).recent
      ((0 : DWord) + 1 + Config.freeWord (noted strict).tick % 65536) = 1 :=
    recent_one (by decide +kernel) (by decide +kernel) (by
      have hb := bounded_cyc (Config.freeWord (noted strict).tick)
      have h2 : bitsAt 0 48 ((((noted strict).readCyc ((noted strict).actor me).core).super me).word 1) = 2 ^ 48 - 1 := by
        decide +kernel
      rw [h2]; exact hb)
  have hp : (bitAt 2 ((((noted strict).readCyc ((noted strict).actor me).core).super me).word 0)
      && decide (bitsAt 8 5 ((((noted strict).readCyc ((noted strict).actor me).core).super me).word 0) + 1 ≤ 1)) = true := by
    decide +kernel
  have hd : ((noted strict).actor me).dev = 0 := by decide +kernel
  unfold State.rateCheck
  simp only [hd, if_true, hc, hr]
  rw [if_pos hp]

theorem admittedRate (p : Nat) (h : p = 0 ∨ p = 1) : ∃ w, (noted (keeper p 0 0 (2 ^ 3))).rateCheck me = some w := by
  rcases h with rfl | rfl
  · exact Option.isSome_iff_exists.1 (by decide +kernel)
  · exact Option.isSome_iff_exists.1 (by decide +kernel)

/-- A restart of the child of entry 0 that is due. -/
def due : Restart := ⟨me, 0, 1, mkName 0 1 6 2, false, false, []⟩
def restarting : State :=
  let s := (bereaved (keeper 0 0 0 (2 ^ 3))).modActor peer fun r => { r with st := .restarting }
  { s with acts := { s.acts with deaths := [], restarts := [due] } }

theorem rebuilt :
    let u := { restarting with acts := { restarting.acts with restarts := restarting.acts.restarts.erase due } }.syncSuper me
    let c := (u.super me).child 0
    ∃ t, u.build (restarting.actor me).core peer (nameGen (restarting.nextName peer)) (field c.spec 0x10 8) (specK c.spec)
      (restarting.childOf me c.spec) (specStart c.spec)
      ((if restarting.belongs peer.ctx (restarting.actor peer).core then [(restarting.actor peer).core] else [])
        ++ restarting.candidates peer.ctx) = .ok t :=
  State.build_of (img := landing) (r0 := templateRec 0x10000 (List.replicate 256 0))
    (parts := (List.replicate 512 0, [])) (ok_of_got (by decide +kernel)) (ok_of_got (by decide +kernel))
    (ok_of_got (by decide +kernel)) (by decide +kernel) ⟨.work 1, List.mem_append_left _ (by decide +kernel),
      fun text ht => State.fitOn_of (by decide +kernel) (by decide +kernel) (by rcases ht with rfl | rfl <;> decide +kernel)⟩

/-- A job whose root has died, in teardown or ended by itself, with its block at 0x10E00. -/
def job (jstate : Nat) (normal : Bool) (relaunches : Nat) : Job :=
  ⟨0x10E00, 0x10E00, 1, mkName 0 1 5 7, ⟨1, 0⟩, mkName 0 1 0 1, relaunches, jstate, 3, normal, [], [], [], false⟩
def jobbed (j : Job) : State :=
  let s := landed id id
  { s with acts := { s.acts with jobs := [j] } }
/-- The block's bytes. -/
def jobBlock : List Byte := memRead (jobbed (job 2 false 0)).ram.bytes 0x10E00 128

theorem replaced : ∃ t y, (((jobbed (job 2 false 0)).clearJobWord (job 2 false 0)).disarm (job 2 false 0)).placeRoot
    ((jobbed (job 2 false 0)).jobCore (job 2 false 0)) 1 0x10E00 jobBlock = .ok (t, y) := by
  obtain ⟨t, ht⟩ := State.placeRoot_of (s := ((jobbed (job 2 false 0)).clearJobWord (job 2 false 0)).disarm (job 2 false 0))
    (id := (jobbed (job 2 false 0)).jobCore (job 2 false 0)) (x := 1) (i := 0) (pa := 0x10E00) (b := jobBlock)
    (freeIndex_one (by decide +kernel) (by decide +kernel))
    (State.build_of (img := landing) (r0 := templateRec 0x10000 (List.replicate 256 0))
      (parts := (List.replicate 512 0, [])) (ok_of_got (by decide +kernel)) (ok_of_got (by decide +kernel))
      (ok_of_got (by decide +kernel)) (by decide +kernel) ⟨.work 1, by decide +kernel,
        fun text ht => State.fitOn_of (by decide +kernel) (by decide +kernel) (by rcases ht with rfl | rfl <;> decide +kernel)⟩)
  exact ⟨t, _, ht⟩

theorem witness_MigrationRestartsAndJobs :
    (let s := landed (fun r => { r with mig := some ⟨10, 0, .name 0, false, false⟩ }) id;
      s.migrationReady me = true ∧ (s.actor me).mig = some ⟨10, 0, .name 0, false, false⟩)
    ∧ (landed id id).migrationReady me = false ∧ (landed id id).moveReady me = false
    ∧ (moving.moveReady me = true ∧ (moving.actor me).mig = some ⟨10, 0, .name (mkName 0 1 6 2), true, false⟩ ∧ 10 < 2 ^ 14 ∧ 0 = moving.thisDev
      ∧ moving.coreOfLci 10 = some (.work 1) ∧ moving.belongs me.ctx (.work 1) = true)
    ∧ (crowded.moveReady me = true ∧ crowded.coreOfLci 10 = some (.work 1) ∧ crowded.belongs me.ctx (.work 1) = true
      ∧ (match crowded.moveTo me [.work 1] with
        | .fail 15 _ => true
        | _ => false) = true)
    ∧ (paged ⟨10, 0, .name 0, true, false⟩).moveReady me = true
    ∧ (moving.modCore (.work 1) fun c => { c with rotation := [2] }).belongs me.ctx (.work 1) = false
    ∧ (let g : Migration := ⟨10, 2, .name 0, true, false⟩
      let s := landed (fun r => { r with mig := some g }) id
      let up := { s with fab := { s.fab with fbdom := domain.fab.fbdom, buckets := domain.fab.buckets } }
      s.moveReady me = true ∧ g.dev ≠ s.thisDev ∧ s.peerUp g.dev = false ∧ up.peerUp g.dev = true
      ∧ (up.trySend (up.actor me).core.key me.ctx g.dev ⟨.root, none, 0⟩ (.move me) (up.moveRequest me g.core)).2.isSome = true)
    ∧ (restarting.acts.restarts.any (fun q => decide (q.super = me)) = true ∧ (bereaved strict).acts.restarts = [])
    ∧ (let s := bereaved SuperRec.none
      s.acts.deaths.find? (fun d => decide (d.super = me)) = some ⟨me, mkName 0 1 6 2, 3⟩
      ∧ (({ s with acts := { s.acts with deaths := [] } }.syncSuper me).super me).children.find?
          (fun (c : Nat × Child) => c.2.name == mkName 0 1 6 2) = none ∧ (s.lostRecord me).isNone = true)
    ∧ (∀ r ∈ [keeper 0 0 0 0, strict, keeper 0 0 0 (2 ^ 3), keeper 1 0 0 (2 ^ 3)],
      let s := bereaved r
      let u := { s with acts := { s.acts with deaths := [] } }.syncSuper me
      (u.super me).children.find? (fun (c : Nat × Child) => c.2.name == mkName 0 1 6 2) = some (0, (u.super me).child 0)
      ∧ (s.actor me).st = .resident ∧ (u.super me).sup = true ∧ (s.jobOf me).map (·.jstate) ≠ some 2
      ∧ (s.lostRecord me).isNone = true)
    ∧ (let rm (r : SuperRec) : Bool := bitAt (Nat.min 3 17) (field8 (r.child 0).spec 0x58)
      rm (keeper 0 0 0 0) = false ∧ rm strict = true ∧ rm (keeper 1 0 0 (2 ^ 3)) = true
      ∧ bitsAt 0 2 ((keeper 0 0 0 (2 ^ 3)).word 0) ≠ 1 ∧ bitsAt 0 2 ((keeper 1 0 0 (2 ^ 3)).word 0) = 1)
    ∧ (restarting.restartReady me 0 = some due ∧ (restarting.lostRecord me).isNone = true ∧ (restarting.super me).used 0 = true
      ∧ (restarting.actor peer).st = .restarting ∧ restarting.nameOf peer = due.dead ∧ restarting.idOf due.dead = peer ∧ (landed id id).restartReady me 0 = none)
    ∧ ((jobbed (job 2 false 0)).acts.jobs[0]? = some (job 2 false 0) ∧ (job 2 false 0).jstate = 2
      ∧ (jobbed (job 2 false 0)).jobDone (job 2 false 0) = true ∧ (jobbed (job 2 false 0)).ctxState 1 = 1
      ∧ (let s := ((jobbed (job 2 false 0)).clearJobWord (job 2 false 0)).disarm (job 2 false 0)
        let id := (jobbed (job 2 false 0)).jobCore (job 2 false 0)
        got (s.engGet id 1 0x10E00 128) = some jobBlock ∧ (got (s.shadowsOf id 1 jobBlock)).isSome = true)
      ∧ field jobBlock 6 1 ≤ (job 2 false 2).relaunches ∧ (job 2 false 0).relaunches < field jobBlock 6 1)
    ∧ ((jobbed (job 1 true 0)).commitReady (job 1 true 0) = true ∧ (jobbed (job 1 false 0)).commitReady (job 1 false 0) = false) := by
  and_intros <;> decide +kernel

/-- Context 1 being revoked, and changing word 1 to an interval without core 0. -/
def revoking (s : State) : State := { s with ctxs := { s.ctxs with
  ccb := [(0, ccbRoot 9216), (1, liveCcb.set 0 (dw (2 ^ 33 + 2 ^ 48)))], revoking := [⟨1, []⟩] } }
def bare : State := { State.reset with ctxs := { State.reset.ctxs with ccb := [(0, ccbRoot 9216), (1, liveCcb)], created := [1] } }
def change : Resizing := ⟨1, dw (2 ^ 36 * 9216), ⟨.root, none, 0⟩, 0, true⟩
def resizing (s : State) : State :=
  { s with ctxs := { s.ctxs with resizing := [change] } }.setCcbWord 1 1 (dw (2 ^ 50 * 10 + 2 ^ 36))
/-- Actor 5 has stopped for the change. -/
def stopped (image : Nat) : State :=
  resizing (landed (fun r => { r with mig := some ⟨2 ^ 14, 0, .name 0, true, false⟩, image := image }) fun r => { r with st := .free })
theorem stopped_one (a : Nat) (h : a = 0x10000 ∨ a = 0x11000) : (stopped a).candidates 1 = [.work 1] := by
  rcases h with rfl | rfl <;> decide +kernel

theorem resized : ∃ v, (stopped 0x10000).moveTo me ((stopped 0x10000).candidates 1) = .ok v := by
  rw [stopped_one _ (.inl rfl)]
  exact State.moveTo_of (img := landing) (text := List.replicate 512 0) (ok_of_got (by decide +kernel))
    (ok_of_got (by decide +kernel)) (by decide +kernel) (State.fitOn_of (by decide +kernel) (by decide +kernel) (by decide +kernel))
    (State.fitOn_of (by decide +kernel) (by decide +kernel) (by decide +kernel))
theorem heldUp : ∃ v, (stopped 0x11000).moveTo me ((stopped 0x11000).candidates 1) = .wait v := by
  rw [stopped_one _ (.inr rfl)]
  exact State.moveTo_waits (by decide +kernel) (State.fitOn_of (by decide +kernel) (by decide +kernel) (by decide +kernel))
    (by decide +kernel)
/-- The same with every slot of core 1 taken. -/
def full : State := (stopped 0x10000).modCore (.work 1) fun c => { c with slots := (List.range 64).map fun i => (i, ⟨.waiting, some peer, none⟩) }

theorem witness_ContextsTrapsAndServiceCores :
    (let s := revoking bare;
      (s.ctxs.revoking.any fun r => r.ctx == 1) = true ∧ (s.dropTenants (s.subtree 1)).drained (s.subtree 1) = true
      ∧ 1 ∈ s.subtree 1 ∧ 0 ∉ s.subtree 1)
    ∧ (let s := revoking (dying .signals id)
      (s.ctxs.revoking.any fun r => r.ctx == 1) = true ∧ (s.dropTenants (s.subtree 1)).drained (s.subtree 1) = false)
    ∧ (bare.ctxs.revoking.any fun r => r.ctx == 1) = false
    ∧ (∀ s ∈ [resizing (landed id id), stopped 0x10000, resizing bare], s.ctxs.resizing.find? (fun r => r.ctx == 1) = some change)
    ∧ (resizing (landed id id)).resizeStep change = .begin me
    ∧ (∀ a ∈ [0x10000, 0x11000], (stopped a).resizeStep change = .move me)
    ∧ (full.resizeStep change = .move me ∧ (match full.moveTo me (full.candidates 1) with
        | .fail 15 _ => true
        | _ => false) = true)
    ∧ (let s := resizing { here with acts := { here.acts with tab := [] } }
      s.resizeStep change = .finish ∧ s.ctxLive 1 = true
      ∧ { s with core := { s.core with tileQ := [sendCmd (.waiting peer 0) false] } }.resizeStep change = .drop)
    ∧ (resizing here).resizeStep change = .wait ∧ here.ctxs.resizing.find? (fun r => r.ctx == 1) = none
    ∧ (bare.faultDomain 1 = some 1 ∧ bare.faultDomain 7 = none) := by decide +kernel

/-- Core 0, shared by contexts 1 and 2, at a point of a slice's end. -/
def sharing (run : Running) (phase : SlicePhase) (pent : Nat) : State :=
  let s := pair id id
  { s with
    core := { s.core with run := run, phase := phase, ctx := 1, rotation := [1, 2] }
    ctxs := { s.ctxs with ccb := [(0, ccbRoot 9216), (1, (liveCcb.set 18 (dw pent))), (2, otherCcb)] } }
/-- A trap held for context x, and a device that has it. -/
def trapMsg (x : Nat) : TrapMsg := ⟨x, 0x84, 25, 0, 0, 0, none⟩
def trapped (ccb : List (Nat × List DWord)) (ring : Nat × Nat) (h : ActorRec → ActorRec) (m : TrapMsg) : State :=
  { here with
    core := { here.core with slots := [(3, ⟨.running, some ⟨25, 0⟩, none⟩)] }
    acts := { here.acts with tab := [((⟨25, 0⟩ : ActorId).key, h { here.actor me with mcount := 0 })] }
    ctxs := { here.ctxs with ccb := ccb, traps := [m], rings := [(CoreId.ringBase (.service 0), ring)] } }
/-- Context 1, of depth 1, and context 25 below it, of depth 2, with a handler or without. -/
def nested (h : Nat) : List (Nat × List DWord) :=
  [(0, ccbRoot 9216), (1, liveCcb), (25, (liveCcb.set 0 (dw (2 ^ 52 + 2 ^ 48 * 2 + 2 ^ 32))).set 16 (dw (2 ^ 10 * h)))]

theorem witness_SlicesAndScrubs :
    (let c := (sharing (.firing 3) .running 0).coreAt (.work 0);
      c.rotation ≠ [] ∧ c.phase = .running)
    ∧ ((here.coreAt (.work 0)).rotation = [] ∧ (here.coreAt (.work 0)).phase ≠ .handler ∧ (here.coreAt (.work 0)).phase ≠ .ending)
    ∧ (let s := sharing (.firing 3) .ending 72
      (s.coreAt (.work 0)).phase = .ending ∧ (s.coreAt (.work 0)).awaitsAtomic = false ∧ s.ctxPent 1 ≠ 0
      ∧ s.ctxPent 1 < (s.coreAt (.work 0)).xbound.toNat)
    ∧ (sharing .idle .ending 0).ctxPent 1 = 0
    ∧ ((sharing .idle (.saving true [] false) 0).coreAt (.work 0)).phase = .saving true [] false
    ∧ ((sharing .preempt .handler 72).coreAt (.work 0)).phase = .handler
    ∧ (let c := (sharing .idle .restoring 0).coreAt (.work 0)
      c.phase = .restoring ∧ (∀ e ∈ c.saves, e.1 ≠ 1))
    ∧ (here.scrubReady (.work 0) = false ∧ CoreId.work 0 = .work 0) := by decide +kernel

theorem witness_ContextsTrapsAndServiceCores_traps :
    (let s := trapped (nested 1) (5, 4) id (trapMsg 1);
      s.ctxs.traps = [trapMsg 1] ∧ (trapMsg 1).holder = none ∧ (trapMsg 1).code ≠ 0x80 ∧ s.route 9 1 = .ring (.service 0)
      ∧ (let r := Sparse.get (0, 0) s.ctxs.rings (CoreId.ringBase (.service 0)); (r.1 + 512 - r.2) % 512 ≠ 256))
    ∧ (let s := trapped (nested 1) (300, 44) id (trapMsg 1)
      let r := Sparse.get (0, 0) s.ctxs.rings (CoreId.ringBase (.service 0))
      (r.1 + 512 - r.2) % 512 = 256)
    ∧ (trapped (nested 1) (0, 0) id (trapMsg 25)).route 9 25 = .actor ⟨25, 0⟩
    ∧ (trapped (nested 1) (0, 0) (fun r => { r with mcount := 16 }) (trapMsg 25)).route 9 25 = .wait
    ∧ here.ctxs.traps = [] ∧ (23 < 24 ∧ 255 < 256)
    ∧ (here.ctxLive (0 + 1) = true ∧ here.ctxLive (1 + 1) = false) := by decide +kernel

/-- Function 3 of a device whose context 1 has a handler actor 5. -/
def funcOn (f : Func) (recovery : Bool) : State :=
  let s := pair (fun r => { r with sge := true }) id
  { s with hub := { s.hub with funcs := [(3, f)], link := true, recovery := recovery } }
/-- It is bound to context 1, entry actor 5, in TDISP state t, with some messages. -/
def bound (t tail : Nat) : Func := { Func.reset with bind := dw (2 ^ 63 + 2 ^ 60 * t + 2 ^ 48 * 1 + 5), tail := tail }
/-- Function 3 asks for its reset; context 1 runs nothing. -/
def emptied (f : Func) : State := { bare with
  hub := { bare.hub with funcs := [(3, f)] }
  ctxs := { bare.ctxs with resets := [3] } }
/-- A core waits for eight bytes of a host. -/
def hostReq : HostReq := ⟨.work 0, false, 3, false, 64, 8, 0, none⟩
def hostWait : State := { here with
  core := { here.core with wait := some ⟨.host (.host 64) 0x10000, .nop⟩ }
  hub := { here.hub with hostReqs := [hostReq] } }

/-- The ports that answer. -/
abbrev answering (s : State) (q : SpdmPort) : Prop := q = .mctp ∨ (if s.hub.recovery then q = .doe 0 else s.hub.link = true)

/-- The device after reset, its root monitor running. -/
def bootable : State := State.reset.modCore .root fun c => { c with run := .service }

theorem witness_HostsAndAttestation :
    (let f := (funcOn (bound 0 5) false).func 3;
      (funcOn (bound 0 5) false).hub.link = true ∧ (funcOn (bound 0 5) false).hub.recovery = false ∧ 3 < 512
      ∧ ((64 : DWord).toNat % 128 + 128 - f.head) % 128 ≤ 64 ∧ f.rst = false ∧ f.bound = true ∧ f.tst ≠ 3
      ∧ ¬ ((65 : DWord).toNat % 128 + 128 - f.head) % 128 ≤ 64)
    ∧ ((1 : DWord).getLsbD 0 = true ∧ (bound 0 0).bound = true ∧ (bound 0 0).tst ≠ 1 ∧ (bound 0 0).tst ≠ 2
      ∧ (bound 1 0).tst = 1 ∧ (bound 2 0).tst = 2 ∧ 3 ∉ (funcOn (bound 0 0) false).ctxs.resets ∧ (2 : DWord).getLsbD 0 = false
      ∧ Func.reset.bound = false ∧ (funcOn Func.reset true).hub.recovery = true ∧ here.hub.link = false ∧ 0x1FFF < 0x2000)
    ∧ ((funcOn (bound 0 5) false).hostReceiver 3 = some me ∧ (funcOn (bound 0 0) false).hostReceiver 3 = none)
    ∧ ((funcOn Func.reset false).vfbindRefused (.service 1) 3 (dw (2 ^ 63 + 2 ^ 48 * 1)) = true
      ∧ (funcOn Func.reset false).vfbindRefused (.service 0) 3 (dw (2 ^ 63 + 2 ^ 48 * 1)) = false
      ∧ (dw (2 ^ 63 + 2 ^ 48 * 1)).getLsbD 63 = true
      ∧ (∀ t ∈ [0, 1, 2, 3], (funcOn (bound t 0) false).vfbindRefused (.service 0) 3 (dw (2 ^ 48 + 5)) = false ∧ (bound t 0).bound = true)
      ∧ (dw (2 ^ 48 + 5)).getLsbD 63 = false)
    ∧ (let s (f : Func) : State := { funcOn f false with ctxs := { (funcOn f false).ctxs with resets := [3] } }
      (s Func.reset).resetReady 3 = true ∧ (s (bound 0 0)).resetReady 3 = true ∧ (s (bound 0 0)).ctxState 1 ≠ 4
      ∧ (s (bound 0 0)).ctxLive 1 = true ∧ (∀ y ∈ (s (bound 0 0)).liveKids 1, 1 ∉ (s (bound 0 0)).subtree y))
    ∧ (let s (e : Bool) : State := (emptied { bound 0 0 with rst := true, ended := e }).setCcbField 1 0 32 4 4
      (∀ e, (s e).resetReady 3 = true ∧ (s e).ctxState 1 = 4) ∧ (s false).subtree 1 = [1] ∧ (s true).resetDrained 1 = true
      ∧ (s true).ccbWord 1 19 = 0 ∧ (bound 0 0).next = none)
    ∧ (funcOn (bound 0 0) false).resetReady 3 = false
    ∧ (15 < 16 ∧ ∀ e ∈ here.hub.ldHost, e.1 ≠ 15 → e.2 ≠ 7 + 1)
    ∧ (hostWait.hub.hostReqs.find? (fun r => decide (r.core = .work 0)) = some hostReq ∧ hostReq.copy = false
      ∧ (List.replicate 8 (7 : Byte)).length = hostReq.n ∧ (hostWait.coreAt (.work 0)).wait = some ⟨.host (.host 64) 0x10000, .nop⟩
      ∧ here.hub.hostReqs.find? (fun r => decide (r.core = .work 0)) = none)
    := by decide +kernel

theorem witness_HostsAndAttestation_ports :
    (let up := funcOn Func.reset false;
      let lost := funcOn Func.reset true
      answering up (.doe (511 / 32)) ∧ answering lost (.doe (31 / 32)) ∧ ¬ answering lost (.doe (32 / 32)) ∧ ¬ answering here (.doe 0)
      ∧ answering here .mctp ∧ { up.hub with ownerCert := some [1] }.ownerCert = some [1]) := by
  decide +kernel

theorem witness_HostEventsComplete :
    (let s := funcOn (bound 0 5) false
      let f := s.func 3
      s.hub.link = true ∧ s.hub.recovery = false ∧ 3 < 512 ∧ ((64 : DWord).toNat % 128 + 128 - f.head) % 128 ≤ 64 ∧ f.rst = false ∧ f.bound = true
      ∧ f.tst ≠ 3 ∧ s.hostReceiver 3 = some me ∧ (1 : DWord).getLsbD 0 = true ∧ 3 ∉ s.ctxs.resets)
    ∧ ((funcOn Func.reset false).vfbindRefused .root 3 (dw (2 ^ 63 + 2 ^ 48 * 1)) = false ∧ Func.reset.bound = false
      ∧ (dw (2 ^ 63 + 2 ^ 48 * 1)).getLsbD 63 = true ∧ (emptied Func.reset).resetReady 3 = true)
    ∧ (15 < 16 ∧ ∀ e ∈ here.hub.ldHost, e.1 ≠ 15 → e.2 ≠ 7 + 1)
    ∧ (∀ b, ({ here with hub := { here.hub with hostReqs := [{ hostReq with copy := b }] } } : State).hub.hostReqs.find?
        (fun q => decide (q.core = .work 0)) = some { hostReq with copy := b })
    ∧ ((bound 0 0).tst = 0 ∧ (bound 1 0).tst = 1 ∧ bootable.hub.boot = true ∧ bootable.hub.recovery = false
      ∧ (bootable.coreAt .root).run = .service ∧ 8 < 9)
    ∧ (let s := State.reset.modCore (.work 1024) fun c => { c with run := .boot }
      s.hub.boot = true ∧ (s.coreAt (.work (1024 * 1))).run = .boot) := by decide +kernel

theorem witness_BootAndPackage :
    (bootable.hub.boot = true ∧ bootable.hub.recovery = false ∧ (bootable.coreAt .root).run = .service) ∧ 8 < 9
    ∧ (List.replicate 512 (0 : Byte)).length ≤ 0x20000
    ∧ (List.replicate 0x4000 (0 : Byte)).length = 0x4000 ∧ here.hub.boot = false
    ∧ (let s := State.reset.modCore (.work 1024) fun c => { c with run := .boot }
      s.hub.boot = true ∧ (s.coreAt (.work (1024 * 1))).run = .boot ∧ (s.coreAt (.work (1024 * 0))).run ≠ .boot
      ∧ (State.reset.coreAt (.work (1024 * 0))).run ≠ .stopped
      ∧ ((State.reset.modCore (.work 1024) fun c => { c with run := .stopped }).coreAt (.work 1024)).run = .stopped) := by
  refine ⟨by decide +kernel, by decide +kernel, by rw [List.length_replicate]; omega, List.length_replicate, by decide +kernel,
    by decide +kernel⟩

/-- A device of a domain with an import entry for partition 0 of device 2, whole HBM pages from 0x10000, and a request of
its own that is not acknowledged. -/
def outReq (w : OutWait) (tries : Nat) : OutReq := ⟨7, .store 0x10000 [1] ⟨0, 0, 1⟩, here.who, w, tries, false, 0, 0⟩
def fabric (w : OutWait) (tries : Nat) (owner : Nat) : State :=
  let s := pair id id
  { s with
    core := { s.core with wait := some ⟨.fabric 130 7 (.peer 2 0x10000 .direct) 0 0x10000, .nop⟩ }
    fab := { domain.fab with
      imports := [(0, dw (2 ^ 63 + 2 ^ 62 + 2 ^ 56 * 2 + 2 ^ 40 * owner + 0x10000)), (1, dw 0x2000)]
      ins := [(flowKey 130 2, ⟨5, []⟩)], outs := [(130, ⟨8, [outReq w tries]⟩)] } }

theorem witness_FabricRequestsAndAnswers :
    (let s := fabric .none 0 0;
      4 ≠ (s.inFlow 2 130).expected ∧ 5 = (s.inFlow 2 130).expected
      ∧ s.admitted 2 0 0x20000 8 false = none ∧ s.admitted 2 0 0x11FF8 8 true = some 0 ∧ s.admitted 2 0 0x11FF9 8 true = none
      ∧ s.admitted 2 1 0x10000 8 true = none ∧ s.ctxNamed (0 + 1) = true ∧ (⟨0, 0, 1⟩ : PageUse).mode ≠ 3
      ∧ (fabric .none 0 4).admitted 2 0 0x10000 8 true = some 4 ∧ (fabric .none 0 4).ctxNamed (4 + 1) = false)
    ∧ (let s := fabric .none 0 0
      Resolved.code (s.resolve (mkName s.thisDev 1 6 1)) = .inr 2 ∧ Resolved.code (s.resolve (mkName s.thisDev 1 6 2)) = .inl peer
      ∧ s.inSlot peer = true
      ∧ s.ctxNamed (s.idOf (mkName s.thisDev 1 6 2)).ctx = true ∧ s.ctxNamed (s.idOf (mkName s.thisDev 9 6 2)).ctx = false
      ∧ s.mayAsk 0 (some (mkName 2 1 5 7)) peer = true ∧ s.mayAsk 0 (some (mkName 2 2 5 7)) peer = false)
    ∧ (∀ w ∈ [OutWait.none, .core (.work 0), .tile (.work 0)],
      ((fabric w 0 0).outFlow 130).unacked.find? (fun q => q.seq == 7) = some (outReq w 0) ∧ (outReq w 0).wait = w ∧ (outReq w 0).seq = 7)
    ∧ ((fabric .none 0 0).outFlow 130).unacked.find? (fun q => q.seq == 6) = none
    ∧ (((fabric (.core (.work 0)) 0 0).coreAt (.work 0)).wait = some ⟨.fabric 130 7 (.peer 2 0x10000 .direct) 0 0x10000, .nop⟩
      ∧ ((fabric (.core (.work 0)) 0 0).atomicAnswer (.work 0) .nop [1]).isNone = true)
    ∧ (∀ n ∈ [7, 8], ((fabric .none n 0).outFlow 130).unacked = outReq .none n :: [])
    ∧ ((outReq .none 7).tries < Nat.max 1 (bitsAt 24 4 (fabric .none 7 0).fab.fbe2e)
      ∧ Nat.max 1 (bitsAt 24 4 (fabric .none 8 0).fab.fbe2e) ≤ (outReq .none 8).tries)
    ∧ (here.outFlow 130).unacked = [] := by
  decide +kernel

/-- FSTRAND 1 on a device without a member router: the device's own value, and its parent device 2, or none. -/
def rounds (root : Nat) (own : List (Nat × Nat × StrandVal)) : State := { domain with fab := { domain.fab with
  fstrand := [(2, dw (2 ^ 51 + 2 ^ 44 * root + 2 ^ 38 * 2))], rounds := own } }
def ownValue : StrandVal := ⟨0, 0, [], 0⟩
/-- A stream of one granule that the root monitor, or service core 0, started. -/
def streamed (acked : Nat) (stopping failed : Bool) : Stream :=
  ⟨1, List.replicate 64 0 |>.set 0x10 1, .service 0, 0, 0, acked, 0, stopping, failed, []⟩

/-- R404: a device whose context of the strand is gone sends absent lanes up, once for each result; R403: a second value waits for
the first one's result. -/
theorem test_hub_without_context :
    let s : State := { domain with fab := { domain.fab with fstrand := [(2, dw (2 ^ 52 * 77 + 2 ^ 51 + 2 ^ 38 * 2))] } }
    let t := (s.hubCombine 1).getD s
    t.fab.pending.length = 1 ∧ (t.fab.strandUps.map fun u => (u.1, u.2.lanes.all fun c => c.count == 0)) = [(1, true)]
      ∧ t.hubValues 1 = none ∧ (t.roundsDown 2).fab.strandUps = [] ∧ (t.roundsDown 3).fab.strandUps.length = 1 := by
  decide +kernel

theorem witness_LinksTokensRoundsAndStreams :
    (23 < 24 ∧ State.reset.fab.outs = [] ∧ State.reset.fab.pending = [] ∧ State.reset.fab.strandUps = [] ∧ State.reset.acts.tab = []
      ∧ bitsAt 0 24 (Sparse.get 0 State.reset.fab.fbdom 2) = 0 ∧ bitsAt 0 24 (Sparse.get 0 domain.fab.fbdom 2) ≠ 0)
    ∧ (bitsAt 0 2 (Sparse.get 0 [(3, (2 : DWord))] 3) = 2 ∧ bitsAt 0 2 (Sparse.get 0 here.fab.fbport 3) ≠ 2)
    ∧ (0 < 24 ∧ 1 < 4096 ∧ here.ctxLive 1 = true ∧ 1 ∈ here.ctxs.ccb.map (·.1) ∧ (here.ctxs.ccb.map (·.1)).Nodup
      ∧ 24 * 1 + 0 ∉ here.fab.waiting.map (·.2))
    ∧ (let s := rounds 1 [(1, 0, ownValue)]
      s.hubValues 1 = some [ownValue] ∧ s.strandDiffers 1 = false ∧ (s.fstrand 1).getLsbD 44 = true)
    ∧ (let s := rounds 0 [(1, 0, ownValue)]
      s.hubValues 1 = some [ownValue] ∧ s.strandDiffers 1 = false ∧ (s.fstrand 1).getLsbD 44 = false
        ∧ s.strandGone 1 (bitsAt 38 6 (s.fstrand 1)) = false)
    ∧ (rounds 1 []).hubValues 1 = none
    ∧ (∀ x ∈ [streamed 0 false false, streamed 0 true false, streamed 0 false true],
      ({ here with fab := { here.fab with streams := [x] } } : State).fab.streams.find? (fun x => x.ticket == 1) = some x
      ∧ x.issuer = .service 0)
    ∧ ((streamed 0 true false).over ≠ some .failed ∧ (streamed 0 false true).over = some .failed)
    ∧ (let g := Sparse.get (0, 0) here.ctxs.rings (3 * 0 + 1); (g.1 + 512 - g.2) % 512 ≠ 256) := by
  decide +kernel

theorem witness_EngineEventsComplete :
    (let s := choosing (waiting none) fun r => { r with ins := r.ins.set 0 (ring 0 0 0) };
      s.core.run = .idle ∧ (CoreId.work 0).regions = true ∧ s.chosenSlot (.work 0) = some 3 ∧ (s.core.slotAt 3).actor = some me
      ∧ (s.core.slotAt 3).resume = none)
    ∧ (let s := revoking bare
      (s.ctxs.revoking.any fun r => r.ctx == 1) = true ∧ (s.dropTenants (s.subtree 1)).drained (s.subtree 1) = true)
    ∧ (let s := resizing { here with acts := { here.acts with tab := [] } }
      s.ctxs.resizing.find? (fun r => r.ctx == 1) = some change ∧ s.resizeStep change = .finish)
    ∧ (let s := trapped (nested 1) (0, 0) id (trapMsg 25)
      s.ctxs.traps = [trapMsg 25] ∧ (trapMsg 25).holder = none ∧ (trapMsg 25).code ≠ 0x80 ∧ s.route 9 25 = .actor ⟨25, 0⟩)
    ∧ bare.faultDomain 1 = some 1
    ∧ (let c (r : Running) (p : SlicePhase) : Core := (sharing r p 72).coreAt (.work 0)
      (c (.firing 3) .running).rotation ≠ [] ∧ (c (.firing 3) .running).phase = .running ∧ (c (.firing 3) .ending).phase = .ending
      ∧ (c (.firing 3) .ending).awaitsAtomic = false ∧ (c .preempt .handler).phase = .handler
      ∧ (c .idle .restoring).phase = .restoring ∧ ∀ e ∈ (c .idle .restoring).saves, e.1 ≠ (c .idle .restoring).ctx)
    ∧ ((streamed 0 false true).over = some .failed
      ∧ [streamed 0 false true].find? (fun x => x.ticket == 1) = some (streamed 0 false true))
    ∧ (let s := fabric .none 0 0
      5 = (s.inFlow 2 130).expected ∧ s.admitted 2 0 0x20000 8 false = none
      ∧ (s.outFlow 130).unacked.find? (fun q => q.seq == 7) = some (outReq .none 0)
      ∧ (s.outFlow 130).unacked = [outReq .none 0] ∧ (outReq .none 0).tries < s.nretry)
    ∧ (3 < 24 ∧ bitsAt 0 2 (Sparse.get 0 here.fab.fbport 3) ≠ 2)
    ∧ (bitsAt 0 24 (Sparse.get 0 State.reset.fab.fbdom 2) = 0 ∧ State.reset.fab.outs = [] ∧ State.reset.fab.pending = [])
    ∧ (let s := rounds 1 [(1, 0, ownValue)]
      (s.fstrand 1).getLsbD 51 = true ∧ (s.fstrand 1).getLsbD 44 = true ∧ s.strandKids 1 = []
      ∧ s.ctxNamed (bitsAt 52 12 (s.fstrand 1)) = true ∧ s.fab.rounds = [(1, s.thisDev, ownValue)])
    ∧ (⟨.work 0, 4, peer⟩ : Forward).core = .work 0 := by
  and_intros <;> decide +kernel

/-! ## Further clauses of the statements, and what meets their hypotheses -/

theorem witness_EndOfAFiring_grants :
    (let q := ((tiles .queued 1 0 0).actor peer).ins[0];
      q.asks = [] ∧ ((tiles .queued 1 1 1).actor peer).ins[0].slotsm1.toNat + 1 ≤ 1 + 1 ∧ (pair id id).inSlot peer = true
      ∧ here.inSlot peer = false)
    ∧ (let s := tiles (.waiting peer 0) 1 0 1
      let q := (s.actor peer).ins[0]
      q.asks = .core (.work 2) :: [] ∧ q.filled + q.rsv < q.slotsm1.toNat + 1 ∧ s.inSlot peer = true)
    ∧ ((∀ e ∈ [sendCmd .queued false], e.phase ≠ .waiting peer 0) ∧ (sendCmd (.waiting peer 0) false).phase = .waiting peer 0) := by
  decide +kernel

/-- The running firing's actor supervises actor 6. -/
def keeping : State := { here with acts := { here.acts with supers := [(me.key, keeper 0 0 0 0)] } }

theorem witness_RecoverableTrapsAndTheirReturn_ends :
    (here.focus = .work 0 ∧ here.core.run = .firing 3 ∧ (here.core.slotAt 3).actor = some me ∧ here.core.tsw.priv = 0
      ∧ (here.actor me).core = here.focus ∧ (here.actor me).slot = 3 ∧ (here.actor me).st = .resident ∧ (here.actor me).dev = 0
      ∧ (here.super me).sup = false ∧ 255 < 256)
    ∧ ((keeping.super me).sup = true ∧ (keeping.super me).children = [(0, (keeping.super me).child 0)]
      ∧ keeping.idOf ((keeping.super me).child 0).name = peer ∧ peer ≠ me ∧ peer.key ≠ me.key ∧ (keeping.actor peer).st = .resident
      ∧ (keeping.actor peer).dev = 0 ∧ (keeping.actor peer).gen = nameGen ((keeping.super me).child 0).name
      ∧ (keeping.super peer).sup = false)
    ∧ ((here.actor ⟨1, 9⟩).st ≠ .resident ∧ (here.actor ⟨1, 9⟩).st ≠ .migrating)
    ∧ (let s := pair (fun r => { r with dev := 3 }) id
      (s.actor me).st = .resident ∧ (s.actor me).dev ≠ 0)
    ∧ (coreOn (.service 23) 2).focus = .service 23
    ∧ (let s (h : LAddr) (it : Bool) : State := { coreOn .root 3 with core := { (coreOn .root 3).core with
        traps := { TrapRegs.reset with thnd := h }, tsw := { Tsw.reset with it := it } } }
      (s 0 false).focus = .root ∧ (s 0 false).core.traps.thnd = 0 ∧ (s 64 true).core.tsw.it = true ∧ (s 64 false).core.traps.thnd ≠ 0
      ∧ (s 64 false).core.tsw.it = false)
    ∧ (let s := { coreOn (.work 1024) 3 with core := { (coreOn (.work 1024) 3).core with run := .boot } }
      s.focus = .work 1024 ∧ s.core.run = .boot) := by decide +kernel

theorem witness_GlobalLoads_line :
    (match atPage.devRead true (spot 8) (0x10008 / 128 * 128) 128 with
      | .ok bs => decide (bs = List.replicate 128 0)
      | _ => false) = true
    ∧ atPage.focus = .work 0 ∧ ((atPage.ram.invs.filter fun l => l.cluster == posCluster 0).length < 8192) := by decide +kernel

/-- An entry of context 1 for the 4 KiB page at 0x14000 that maps a control register, and one for 0x10000 with its page poisoned. -/
def pageCtl : TlbEntry := ⟨dw (2 ^ 52 + 0x14000 + 13), dw 0xC000031⟩
def pageBad : TlbEntry := ⟨dw (2 ^ 52 + 0x10000 + 13), dw (2 ^ 48 + 0x10)⟩
/-- The mapped core when an access at its pc has been told of a page that is not mapped. -/
def told (x : MissAnswer) (kind : Access) : State :=
  { atPage with core := { atPage.core with heldAt := atPage.core.pc, noted := [(⟨.work 0, 9, 1, 1, 0x13000, kind⟩, x)] } }
/-- Misses of core 0 in its queue, or of another core. -/
def crowd (n : Nat) (id : CoreId) : State := atPage.setTransQ (CoreId.queue (.work 0)) ⟨List.replicate n ⟨id, 9, 1, 1, 0, .read⟩, [], 0⟩

theorem witness_GlobalStores_outcomes :
    (let noted (s : State) (kind : Access) : Option (Miss × MissAnswer) := if s.core.heldAt = s.core.pc then
        s.core.noted.find? (fun e => decide (e.1.ctx = s.ctx ∧ e.1.va = (s.rs 4).toNat / 4096 * 4096 ∧ e.1.kind = kind)) else none;
      noted atPage .read = none
      ∧ ∀ kind ∈ [Access.read, .write], (told (.ends 14) kind).tlbLookup 0x13000 = none
        ∧ noted (told (.ends 14) kind) kind = some (⟨.work 0, 9, 1, 1, 0x13000, kind⟩, .ends 14)
        ∧ noted (told (.absent 1 0x13000 false) kind) kind = some (⟨.work 0, 9, 1, 1, 0x13000, kind⟩, .absent 1 0x13000 false))
    ∧ ((pageCtl.target 0x14000).place.reachable 0 false = false ∧ (page.target 0x10008).place.reachable 0 false = true
      ∧ pageBad.r = true ∧ pageBad.pm 0x10008 = true)
    ∧ (8 ≤ ((crowd 8 (.work 0)).missesOf (.work 0)).length ∧ (atPage.missesOf atPage.focus).length < 8
      ∧ (atPage.transQ (CoreId.queue atPage.focus)).queue.length < 64
      ∧ ((crowd 64 (.work 1)).missesOf (.work 0)).length < 8 ∧ 64 ≤ ((crowd 64 (.work 1)).transQ (CoreId.queue (.work 0))).queue.length) := by
  decide +kernel

theorem witness_TaggedAccesses_performed :
    (CoreId.work 1 ≠ tagging.focus ∧ (CoreId.work 1).key ≠ tagging.focus.key)
    ∧ ∀ k ∈ [TagKind.ldf, .ldfp, .ste, .tagw true, .tagw false, .tagr], (⟨k, 0x400, some 10, 0x77, 4⟩ : TagOp).kind = k := by decide +kernel

theorem witness_VectorMemory_absentTraps :
    let gd : Guard := .pfx true 0 .rtz false 0
    gd.ax = true ∧ ∀ k, k < Fmt.f32.lanes → active .f32 (atPage.guard gd) k = true → lane .f32 (atPage.rv 3) k ≠ absentOf .f32 := by
  decide +kernel

theorem witness_ReductionsWithoutReturn_absentTraps :
    let gd : Guard := .pfx true 0 .rtz false 0
    gd.ax = true ∧ ∀ k ∈ (List.range 32).filter (active .f32 (atPage.guard gd)), lane .f32 (atPage.rv 3) k ≠ absentOf .f32 := by decide +kernel

/-- Entries of context 1 for the page at 0x15000, to a host, and at 0x16000, to device 2 directly. -/
def pageHost : TlbEntry := ⟨dw (2 ^ 52 + 0x15000 + 2 ^ 5 + 13), dw 0x15⟩
def pagePeer : TlbEntry := ⟨dw (2 ^ 52 + 0x16000 + 2 ^ 8 + 13), dw (2 ^ 42 * 2 + 0x16)⟩
/-- The core at a privilege with these entries and the one to control space, function 3 bound to its context, device 2 up with
tokens or without. -/
def outside (tokens : Nat) : State := atPriv 2 (withS [(1, 0x15000), (2, 0x16000), (3, 0x14000)] { hosted with
  core := { hosted.core with tlb := [pageHost, pagePeer, pageCtl] }
  fab := { domain.fab with buckets := [(24, tokens)] } })

theorem outside_host : (outside 9).closeRegion.Reaches 0x15000 .readWrite true ⟨.host 0x15000, 0, 1⟩ :=
  ⟨by decide +kernel, by simp only [State.taken?]; decide +kernel, .inl ⟨by decide +kernel, by decide +kernel, pageHost, by decide +kernel⟩⟩
theorem outside_peer (n : Nat) (h : n = 0 ∨ n = 1000) :
    (outside n).closeRegion.Reaches 0x16000 .readWrite true ⟨.peer 2 0x16000 .direct, 0, 1⟩ := by
  rcases h with rfl | rfl <;>
    exact ⟨by decide +kernel, by simp only [State.taken?]; decide +kernel, .inl ⟨by decide +kernel, by decide +kernel, pagePeer, by decide +kernel⟩⟩
theorem outside_ctl : (outside 9).closeRegion.Reaches 0x14000 .readWrite true ⟨.dev 0xC000031000, 0, 1⟩ :=
  ⟨by decide +kernel, trivial, .inl ⟨by decide +kernel, by decide +kernel, pageCtl, by decide +kernel⟩⟩

theorem witness_ReturningAtomics_beyond :
    ((outside 9).closeRegion.Reaches 0x15000 .readWrite true ⟨.host 0x15000, 0, 1⟩
      ∧ (∀ n, n = 0 ∨ n = 1000 → (outside n).closeRegion.Reaches 0x16000 .readWrite true ⟨.peer 2 0x16000 .direct, 0, 1⟩)
      ∧ (outside 9).closeRegion.Reaches 0x14000 .readWrite true ⟨.dev 0xC000031000, 0, 1⟩)
    ∧ ((∀ n : SReg, n = 1 ∨ n = 2 ∨ n = 3 → ((outside 9).rs n).toNat % 8 = 0) ∧ hbmEnd ≤ 0xC000031000 ∧ (outside 9).core.rep = none
      ∧ (outside 9).closeRegion.core.committed = [] ∧ ordReleases .acqRel = true
      ∧ (outside 9).closeRegion.performed (.work 0) ((outside 9).closeRegion.clampOrd .acqRel .system).1 = true)
    ∧ ((outside 1000).closeRegion.trySend (CoreId.work 0).key 1 2 (outside 1000).closeRegion.who (.core (.work 0))
        (.amo 0x16000 8 .add 5 ⟨1, 0, 1⟩)).2.isSome = true
    ∧ ((outside 0).closeRegion.trySend (CoreId.work 0).key 1 2 (outside 0).closeRegion.who (.core (.work 0))
        (.amo 0x16000 8 .add 5 ⟨1, 0, 1⟩)).2 = none := by
  refine ⟨⟨outside_host, outside_peer, outside_ctl⟩, ?_⟩
  decide +kernel

/-- Core 1 with a clasp of target 2 that a window of its lets core 0 use, its tag full or empty, at rest or released. -/
def claspAway (full : Bool) (count : Nat) : State :=
  let near := { (tagging.coreAt (.work 1)).store 0x404 [2] with
    wins := (Vector.replicate 8 (0 : DWord)).set 0 (dw (2 ^ 51 + 2 ^ 50 + 2 ^ 49 + 2 ^ 48 + 2 ^ 20 * 100 + 2)) }
  (withS [(1, 0x400), (2, 10), (3, 2), (4, 0)] tagging).setCore (.work 1) (((near.store 0x408 (bytesOf 4 count)).setTag 0x400 full).setTag 0x408 true)

theorem witness_Clasps_elsewhere :
    (let s := claspAway true 0;
      la (s.rs 1) % 16 = 0 ∧ s.nameCore s.focus (s.rs 2) = .other (.work 1) ∧ s.core.rep = none ∧ s.closeRegion.core.committed = []
      ∧ s.closeRegion.performed s.focus (s.closeRegion.clamp .system).1 = true ∧ s.core.tsw.apb = false)
    ∧ ({ (claspAway true 0).core.tsw with apb := true }).apb = true
    ∧ (let i : Instr := .arrive .system 5 1 2
      let s (full : Bool) : State := { claspAway full 0 with core := { (claspAway full 0).core with wait := some ⟨.remote false, i⟩ } }
      let o : ClaspOp := ⟨0x400, 10, .system, none, 5, 8⟩
      (s true).claspOp i = some o ∧ ((s true).admits (.work 1) permA 9 1 0x400 16 && ((s true).coreAt (.work 1)).tag 0x400) = true
      ∧ o.seen = none ∧ ((s false).admits (.work 1) permA 9 1 0x400 16 && ((s false).coreAt (.work 1)).tag 0x400) = false)
    ∧ (let i : Instr := .clwait .core 1 2 4
      ∀ n ∈ [0, 1], let s : State := { claspAway true n with core := { (claspAway true n).core with wait := some ⟨.remote false, i⟩ } }
        s.claspOp i = some ⟨0x400, 10, .core, some 0, 0, 8⟩ ∧ (s.coreAt (.work 1)).released 0x400 0 = decide (n = 1)) := by
  decide +kernel

theorem witness_ConvertCompareSelectAndScale_values :
    ((Fmt.f32 ≠ .ts8 ∧ 0xFF81 ≠ absentOf .i16 ∧ 0xFF81 < 2 ^ fmtBits .i16 ∧ Fmt.i16.isFloat = false) ∧ Fmt.f32.isFloat = true
      ∧ (∃ p, fval .f32 0x4300_0001 = .fin p ∧ 128 < p.rat) ∧ (∃ p, fval .f32 0xC3000001 = .fin p ∧ p.rat < -128)
      ∧ (∃ p, fval .f32 0x43000000 = .fin p ∧ |p.rat| ≤ 128) ∧ fval .f32 0x7F800000 = .inf false ∧ fval .f32 0x7FC00000 = .nan false
      ∧ fval .f32 0x7F800001 = .nan true ∧ 254 < 255)
    ∧ (isNaN .bf16 0x7FC0 = true ∧ (∃ p, fval .bf16 0x8000 = .fin p) ∧ fval .bf16 0xFF80 = .inf true ∧ 0x8000 ≠ absentOf .bf16)
    ∧ (∀ s ∈ [0x3F800000, 0x7FC00000, 0xFF800000], s ≠ absentOf .f32 ∧ s < 2 ^ 32) := by
  refine ⟨⟨by decide +kernel, by decide +kernel, ⟨_, rfl, ?_⟩, ⟨_, rfl, ?_⟩, ⟨_, rfl, ?_⟩, rfl, rfl, rfl, by decide +kernel⟩,
    ⟨rfl, ⟨_, rfl⟩, rfl, by decide +kernel⟩, by decide +kernel⟩ <;> decide +kernel

theorem witness_ConvertCompareSelectAndScale_roots :
    Fmt.bf16.isFloat = true ∧ (∀ x ∈ [0x4000, 0x8000, 0xC000, 0x7F80, 0xFF80, 0x7FC0], x < 2 ^ fmtBits .bf16)
    ∧ (∃ p, fval .bf16 0x4000 = .fin p ∧ 0 < p.rat ∧ p.num ≠ 0) ∧ (∃ p, fval .bf16 0x8000 = .fin p ∧ p.num = 0)
    ∧ (∃ p, fval .bf16 0xC000 = .fin p ∧ p.rat < 0) ∧ fval .bf16 0x7F80 = .inf false ∧ fval .bf16 0xFF80 = .inf true
    ∧ fval .bf16 0x7FC0 = .nan false := by
  refine ⟨rfl, by decide +kernel, ⟨_, rfl, ?_, ?_⟩, ⟨_, rfl, ?_⟩, ⟨_, rfl, ?_⟩, rfl, rfl, rfl⟩ <;> decide +kernel

theorem witness_ReductionAndScanTrees_nodes :
    (0x3F80 ≠ absentOf .bf16 ∧ 0x81 ≠ absentOf .i8)
    ∧ (let gd : Guard := .pfx true 5 .rtz false 0
      gd.ax = true ∧ gd.d4 ≠ 3 ∧ ∀ i, i < Fmt.f32.lanes → active .f32 (here.guard gd) i = true → lane .f32 (here.rv 1) i ≠ absentOf .f32) := by
  decide +kernel

theorem witness_MovementCountsAndPredicates_absentTraps :
    let gd : Guard := .pfx true 0 .rtz false 0
    gd.ax = true ∧ ∀ i, i < Fmt.f32.lanes → active .f32 (here.guard gd) i = true → lane .f32 (here.rv 1) i ≠ absentOf .f32 := by decide +kernel

theorem witness_MeshMessagesStrandsAndBoot_contribution :
    [(none : Option Elem), some 0x3F80][1]? = some (some 0x3F80) ∧ [(none : Option Elem), some 0x3F80][0]? = some none := by decide +kernel

/-- A copy command with an acquire. -/
def acquiring (k : CopyKind) : State := { tagging with core := { tagging.core with transferQ := [{ copyCmd k false with aq := true }] } }
/-- The queued tile's bead gone in transit. -/
def inTransit (last : Bool) : State :=
  let s := tiles .asking 0 0 0
  { s with core := { s.core with tileQ := [sendCmd .asking last], beads := [(2, .transit 3)] } }

theorem witness_CopyEvents_starts :
    (∀ k ∈ [CopyKind.lr 10 0x400 0x600 8 true [], .ll 0x600 0x400 8 true [], .lg [.data (spot 0) [1]]],
      (acquiring k).transferNext (.work 0) = some 0 ∧ ((acquiring k).coreAt (.work 0)).transferQ[0]? = some { copyCmd k false with aq := true })
    ∧ (beadOf 0x400 = 2 ∧ ((inTransit true).coreAt (.work 0)).bead 2 = .transit 3 ∧ ((inTransit true).coreAt (.work 0)).tileQ[0]? = some (sendCmd .asking true)
      ∧ (sendCmd .asking true).last = true ∧ (sendCmd .asking false).last = false ∧ (inTransit true).alive (sendCmd .asking true).who ≠ none
      ∧ (inTransit true).alive { here.who with gen := 6 } = none ∧ (sendCmd .asking true).who.actor = some me
      ∧ (copyCmd (.lr 10 0x400 0x600 8 true []) false).aq = false) := by decide +kernel

/-- Actor 5 of device 2's table, at home there, runs here. -/
def guest : ActorId := ⟨1, 2 ^ 24 * 3 + 5⟩
def visiting : State := withS [(2, 0x400)] { domain with
  core := { here.core with slots := [(3, ⟨.running, some guest, none⟩)] }
  acts := { here.acts with
    tab := [(guest.key, { ActorRec.free with st := .resident, gen := 7, slot := 3, sge := true })]
    supers := [(guest.key, { SuperRec.none with sup := true })] } }

theorem witness_ActorOperationsAtIssue_capcall :
    here.mayReach 0x400 64 = true ∧ 2 ^ 16 ≤ (0x10000 : DWord).toNat ∧ la 0x408 % 64 ≠ 0 := by decide +kernel

theorem witness_SpawnAndSupervisionAtIssue_elsewhere :
    let s := visiting
    s.core.run = .firing 3 ∧ (s.core.slotAt 3).actor = some guest ∧ guest.own = false ∧ s.homeOf guest = 2 ∧ s.peerUp (s.homeOf guest) = true
    ∧ s.syncSuper guest = s ∧ (s.alive s.who).isSome = true ∧ la (s.rs 2) % 128 = 0 ∧ s.mayReach (la (s.rs 2)) 128 = true
    ∧ (s.super guest).sup = true ∧ specBad (s.core.load (la (s.rs 2)) 128) = false ∧ s.room 1 = .ok
    ∧ (s.trySend s.focus.key s.ctx (s.homeOf guest) s.who (.core s.focus) (.supcfg (s.nameOf guest) 5 0 0 [])).2.isSome = true := by
  decide +kernel

theorem witness_WritingControlRegisters_boot :
    (hosted.func 3).msix = false ∧ { (hosted.func 3) with msix := true }.msix = true ∧ (511 : DWord).toNat < 512
    ∧ (State.reset.hub.boot = true ∧ here.hub.boot = false ∧ State.reset.hub.recovery = false ∧ { State.reset.hub with recovery := true }.recovery = true)
    ∧ (State.reset.hub.ownerCert = none ∧ { State.reset.hub with ownerCert := some [1] }.ownerCert = some [1])
    ∧ ([(7 : Byte)][0]? = some 7 ∧ 63 < 64 ∧ (5 ≤ 28 ∧ 28 < 29)) := by decide +kernel

theorem witness_StoreBufferDrain_orders :
    (let held := { holding (.store (spot 0) [7] [0]) with ram := { here.ram with order := [(0, [⟨0, .poisonclr, 0, here.who, none, .none⟩])] } };
      held.performedHere (.work 0) .device = false ∧ held.performedHere (.work 0) .die = true
      ∧ (⟨.store (spot 0) [7] [0], some .device, here.who, 1⟩ : Entry).rel ≠ none)
    ∧ (let t : Target := ⟨.peer 2 0x16000 .direct, 0, 1⟩
      t.place = .peer 2 0x16000 .direct ∧ domain.peerUp 2 = true
      ∧ (domain.trySend (CoreId.work 0).key 1 2 here.who .none (.store 0x16000 [1, 2] ⟨1, 0, 1⟩)).2.isSome = true) := by decide +kernel

/-- The page-request queue holds an entry for the page 0x11000 with one waiter, its trap taken by a context. -/
def served (w : Waiter) (receiver : Option Nat) (on : List (Nat × Slot)) : State := { walked with
  core := { walked.core with slots := on }
  acts := { walked.acts with tab := [(me.key, { here.actor me with st := .resident })] }
  ctxs := { walked.ctxs with prq := [⟨0, 1, 0x11000, false, false, 1, false, 1, [w], receiver⟩] } }

theorem witness_TranslationEvents_served :
    (let w : Waiter := ⟨.work 0, 3, some me, 7⟩;
      (∀ r ∈ [some 1, some 0, none], ((served w r []).ctxs.prq.find? fun e => e.id == 0) = some ⟨0, 1, 0x11000, false, false, 1, false, 1, [w], r⟩)
      ∧ (walked.ctxs.prq.find? fun e => e.id == 0) = none
      ∧ (walked.inSubtree 0 1 = true ∧ walked.inSubtree 1 0 = false)
      ∧ ((0 : DWord).getLsbD 10 = false ∧ (2 ^ 10 : DWord).getLsbD 10 = true))
    ∧ (let s := served ⟨.work 0, 3, some me, 7⟩ (some 1) [(3, ⟨.parked, some me, none⟩)]
      ((s.coreAt (.work 0)).slotAt 3).st = .parked ∧ ((s.coreAt (.work 0)).slotAt 3).actor = some me ∧ (s.actor me).gen = 7
      ∧ s.inSlot me = true ∧ (s.actor me).st = .resident ∧ (s.actor me).dev = 0 ∧ (s.super me).sup = false ∧ 3 < 64)
    ∧ (let s := served ⟨.work 0, 3, some me, 6⟩ (some 1) [(3, ⟨.waiting, some me, none⟩)]
      (s.actor me).gen ≠ 6 ∧ s.inSlot me = true ∧ ((s.coreAt (.work 0)).slotAt 3).st ≠ .parked)
    ∧ (served ⟨.service 0, 64, none, 0⟩ (some 1) []).inSlot me = false := by decide +kernel

theorem witness_FiringChoiceAndStart_signal :
    let s := choosing (waiting none) fun r => { r with mcount := 1 }
    s.core.run = .idle ∧ s.chosenSlot (.work 0) = some 4 ∧ (s.core.slotAt 4).actor = some peer ∧ s.slotRank (.work 0) 4 = some 2
    ∧ (s.actor peer).mscopes.headD .core = .core ∧ { (s.actor peer) with mscopes := [.device] }.mscopes.headD .core ≠ .core := by decide +kernel

/-- Actor x is on its way to device 2; a request of device 3 waits at its port 0. -/
def departing (x : ActorId) : State := { here with acts := { here.acts with tab := [(x.key, { here.actor me with
  st := .migrating, mig := some ⟨10, 2, .name 0, true, true⟩
  ins := (here.actor me).ins.set 0 { ring 1 0 0 with asks := [.fabric 3 130 5 7 []] } })] } }
/-- A restart of a group's member that ends in its turn, and its supervisor's record with a transient child or another. -/
def enders (rel : Bool) : State := { restarting with acts := { restarting.acts with
  restarts := [{ due with ends := true }]
  supers := [(me.key, if rel then { keeper 0 0 0 0 with words := (keeper 0 0 0 0).words.map fun e => if e.1 = 34 then (34, dw 0x10000) else e } else keeper 0 0 0 0)] } }

theorem witness_MigrationRestartsAndJobs_tables :
    (∀ x ∈ [me, guest], ((departing x).actor x).st = .migrating ∧ ((departing x).actor x).mig = some ⟨10, 2, .name 0, true, true⟩
      ∧ (((departing x).actor x).inPort 0).asks = [.fabric 3 130 5 7 []] ∧ ∀ i ∈ [1, 2, 3], (((departing x).actor x).inPort i).asks = [])
    ∧ (guest.own = false ∧ (CoreId.work 0).regions = true ∧ here.issuerName here.who = some (here.nameOf me))
    ∧ ((enders false).restartReady me 0 = some { due with ends := true } ∧ ((enders false).actor peer).st = .restarting
      ∧ due.ends = false ∧ 255 < 256 ∧ restarting.nameOf me ≠ 0)
    ∧ (specRel ((restarting.super me).child 0).spec = false ∧ restarting.nameOf (restarting.idOf ((restarting.super me).child 0).name)
        = ((restarting.super me).child 0).name ∧ (restarting.actor (restarting.idOf ((restarting.super me).child 0).name)).death = none) := by
  decide +kernel

/-- Context 1 asks for a change of its interval that has not begun. -/
def growing : State := { resizing bare with ctxs := { (resizing bare).ctxs with resizing := [{ change with grown := false }] } }

theorem witness_ContextsTrapsAndServiceCores_grows :
    growing.ctxs.resizing.find? (fun r => r.ctx == 1) = some { change with grown := false }
    ∧ growing.resizeStep { change with grown := false } = .grow := by decide +kernel

/-- Core 0 after the save of context 1, and while it restores it, with the save area at 0x100000, mapped, and bead 1 saved. -/
def leavingSlice : State :=
  let s := sharing .idle (.saving true [] true) 0
  { s with ctxs := { s.ctxs with ccb := [(0, ccbRoot 9216), (1, liveCcb), (2, otherCcb.set 15 (dw (2 ^ 32 * 100)))] } }
def restoring : State := { here with
  core := { here.core with run := .idle, phase := .restoring, ctx := 1, rotation := [1, 2], saves := [(1, false, 0)]
                           router := { here.core.router with lci := 0 } }
  ctxs := { here.ctxs with ccb := [(0, ccbRoot 9216), (1, (liveCcb.set 4 (dw 0x20000)).set 17 (dw 0x100000)), (2, otherCcb)] }
  ram := { here.ram with bytes := [(0x20000, 1), (0x20001, 0x10), (0x20002, 2), (0x21000, 15), (0x151760, 2)] } }

theorem witness_SlicesAndScrubs_leaves :
    let s := leavingSlice
    (s.coreAt (.work 0)).phase = .saving true [] true ∧ (s.coreAt (.work 0)).ctx = 1 ∧ (s.coreAt (.work 0)).rotation = [1, 2]
    ∧ s.scrubReady (.work 0) = true ∧ s.ctxDebt 2 < s.ctxSlice 2 ∧ ∀ e ∈ (s.coreAt (.work 0)).saves, e.1 ≠ 2 := by decide +kernel

theorem restoring_walks (a : Nat) (h : a < 2 ^ 30) :
    ∃ c, restoring.engWalk (CoreId.work 0).die 1 a .read = .ok c ∧ c.host = false ∧ c.mode = 0 ∧ c.a < hbmEnd :=
  ⟨_, State.walk_gib (t0 := 0x20000) (t1 := 0x21000) (b0 := [1, 0x10, 2, 0, 0, 0, 0, 0]) (b1 := [15, 0, 0, 0, 0, 0, 0, 0])
    (by decide +kernel) (by decide +kernel) (by decide +kernel) (by decide +kernel) (by decide +kernel) (by decide) (by decide)
    (by rfl) (by rfl) (by decide +kernel) (by decide +kernel) (by decide +kernel) a h, rfl, rfl,
    Nat.lt_of_lt_of_le h (by decide)⟩
theorem restoring_reads : ∀ l : List (Nat × Nat), (∀ e ∈ l, e.1 + e.2 ≤ 2 ^ 30) →
    ∃ bss, restoring.engGets (.work 0) 1 l = .ok bss ∧ bss.map List.length = l.map (·.2) :=
  State.engGets_quiet (by decide +kernel) (by decide +kernel) (by decide +kernel) (by decide +kernel) (by decide +kernel) (by decide)
    restoring_walks
theorem three_of_lengths {bss : List (List Byte)} {x y z : Nat} (h : bss.map List.length = [x, y, z]) : ∃ a b c, bss = [a, b, c] := by
  match bss, h with
  | [a, b, c], _ => exact ⟨a, b, c, rfl⟩

theorem witness_SlicesAndScrubs_restores :
    ((restoring.coreAt (.work 0)).phase = .restoring ∧ (restoring.coreAt (.work 0)).ctx = 1
      ∧ (restoring.coreAt (.work 0)).saves.find? (fun e => e.1 == 1) = some (1, false, 0))
    ∧ ∃ m tags slots beads vecs, let s := restoring
      let base := s.saveBase (.work 0) 1
      let ks := (List.range 512).filter fun k => ((m.drop 1888).take 64 |>.getD (k / 8) 0).getLsbD (k % 8) || decide (512 * k < field m 512 8)
      let name (n : Nat) : ActorId := s.idOf (field8 (slots.drop (0x400 * n)) 0)
      s.engGets (.work 0) 1 [(base + 0x51000, 4096), (base + 0x40000, 4096), (base + 0x41000, 0x10000)] = .ok [m, tags, slots]
      ∧ s.engGets (.work 0) 1 (ks.map fun k => (base + 512 * k, 512)) = .ok beads
      ∧ s.engGets (.work 0) 1 ((List.range 64).map fun n =>
        if bitAt 0 (field8 (slots.drop (0x400 * n)) 0x100) ∧ (name n).idx < s.ctxAtlen 1 then
          (s.ctxAtbase 1 + 0x2000 * (name n).idx + 0x200, 4992) else (base, 0)) = .ok vecs
      ∧ ∀ b ∈ beads, b.length = 512 := by
  refine ⟨by decide +kernel, ?_⟩
  have hb : restoring.saveBase (.work 0) 1 = 0x100000 := by decide +kernel
  have ha : restoring.ctxAtlen 1 = 0 := by decide +kernel
  obtain ⟨bss, h1, hl⟩ := restoring_reads [(0x151000, 4096), (0x140000, 4096), (0x141000, 0x10000)] (by decide)
  obtain ⟨m, tags, slots, rfl⟩ := three_of_lengths hl
  let ks := (List.range 512).filter fun k =>
    ((m.drop 1888).take 64 |>.getD (k / 8) 0).getLsbD (k % 8) || decide (512 * k < field m 512 8)
  obtain ⟨beads, h2, hl2⟩ := restoring_reads (ks.map fun k => (0x100000 + 512 * k, 512)) (by
    intro e he
    obtain ⟨k, hk, rfl⟩ := List.mem_map.1 he
    have := List.mem_range.1 (List.mem_filter.1 hk).1
    show 0x100000 + 512 * k + 512 ≤ 2 ^ 30
    omega)
  obtain ⟨vecs, h3, -⟩ := restoring_reads ((List.range 64).map fun _ => (0x100000, 0)) (by
    intro e he
    obtain ⟨k, -, rfl⟩ := List.mem_map.1 he
    decide)
  refine ⟨m, tags, slots, beads, vecs, ?_⟩
  simp only [hb, ha, Nat.not_lt_zero, and_false, if_false]
  refine ⟨h1, h2, h3, fun b hb => ?_⟩
  have := List.mem_map_of_mem (f := List.length) hb
  rw [hl2] at this
  obtain ⟨e, he, h⟩ := List.mem_map.1 this
  obtain ⟨k, -, rfl⟩ := List.mem_map.1 he
  exact h.symm

/-- A request for a load from device 2 that a core waits for, by a page of a mode. -/
def awaited (mode : PageMode) : State :=
  let s := fabric (.core (.work 0)) 0 0
  { s with
    core := { s.core with wait := some ⟨.fabric 130 7 (.peer 2 0x10000 mode) 0 0x10000, .nop⟩ }
    fab := { s.fab with outs := [(130, ⟨8, [{ outReq (.core (.work 0)) 0 with req := .load 0x10000 8 ⟨mode.code, 0, 1⟩ }]⟩)] } }

theorem witness_FabricRequestsAndAnswers_kinds :
    ((List.replicate 1024 (0 : Byte)).length = 1024 ∧ 0x10000 % 1024 = 0 ∧ (fabric .none 0 0).admitted 2 0 0x10000 1024 true = some 0
      ∧ (fabric .none 0 0).admitted 2 0 0x10000 4096 true = some 0)
    ∧ (∀ m ∈ [PageMode.direct, .cached], ((awaited m).outFlow 130).unacked.find? (fun q => q.seq == 7)
          = some { outReq (.core (.work 0)) 0 with req := .load 0x10000 8 ⟨m.code, 0, 1⟩ }
        ∧ ((awaited m).coreAt (.work 0)).wait = some ⟨.fabric 130 7 (.peer 2 0x10000 m) 0 0x10000, .nop⟩)
    ∧ ((outReq .none 0).stale = false ∧ (⟨0, 0, 1⟩ : PageUse).mode ≠ 2)
    ∧ (let q := { outReq .none 0 with req := .granule 3 0 [] false }
      q.wait = .none ∧ q.seq = 7) := by decide +kernel

theorem witness_LinksTokensRoundsAndStreams_tokens :
    (let s : State := { domain with fab := { domain.fab with fstrand := [(2, dw (2 ^ 52 * 77 + 2 ^ 51 + 2 ^ 38 * 2))] } };
      (s.fstrand 1).getLsbD 51 = true ∧ s.ctxNamed (bitsAt 52 12 (s.fstrand 1)) = false ∧ (s.fstrand 1).getLsbD 44 = false
      ∧ s.strandGone 1 (bitsAt 38 6 (s.fstrand 1)) = false)
    ∧ ∃ n, reqTokens (.load 0x10000 8 ⟨0, 0, 1⟩) = [n] ∧ domain.fab.partly = [] ∧ n ≤ domain.bucket 1 0
      ∧ { domain with fab := { domain.fab with buckets := [] } }.bucket 1 0 < n :=
  ⟨by decide +kernel, _, rfl, by decide +kernel⟩

theorem witness_ResetState : 0 < 1 := by decide

/-- The running core with a NOP at its pc. -/
def atNop : State := { here with core := here.core.store 64 (bytesOf 8 0x160) }

theorem witness_AStepRunsTheDecodedInstruction :
    atNop.hub.powered = true ∧ atNop.movers = [.core (.work 0)]
    ∧ (let u := atNop.refocus (.work 0)
      u.core.pc.toNat % 4 = 0 ∧ u.focus.regions = true ∧ u.core.pc.toNat < u.core.xbound.toNat
      ∧ u.core.pc.toNat % 32 + Instr.nop.size ≤ 32
      ∧ (match decode (bytesWords ((List.range Instr.nop.size).map fun j => u.pad (u.core.pc.toNat + j))) with
        | .ok i => decide (i = .nop)
        | _ => false) = true
      ∧ u.executes .nop = true ∧ u.core.afterRep .nop = false) := by decide +kernel

theorem witness_EveryStepAnswers :
    State.reset.hub.powered = true ∧ State.reset.movers = [] ∧ atNop.movers ≠ []
    ∧ (let s := { State.reset with hub := { State.reset.hub with powered := false } }
      s.hub.powered = false ∧ .deviceReset ∉ s.inputs ∧ .deviceReset ∈ { s with inputs := [.thermalTrip, .deviceReset] }.inputs) := by
  decide +kernel

theorem witness_StepsKeepFusesAndMemoryForm :
    (State.reset.mesh.fused = [] ∧ Memory.wf State.reset.ram.bytes = true ∧ Memory.wf State.reset.hub.flash = true)
    ∧ (let s := { walked with mesh := { walked.mesh with fused := [7, 4096] }, hub := { walked.hub with flash := [(5, 7)] } }
      s.mesh.fused = [7, 4096] ∧ Memory.wf s.ram.bytes = true ∧ Memory.wf s.hub.flash = true) := by decide +kernel

theorem witness_DecodeOfEncode : Instr.nop.wf = true ∧ encode .nop ≠ [] ∧ decode [0x160, 0] = .ok .nop := by
  refine ⟨by decide +kernel, by decide +kernel, by rfl⟩

/-! ## Ill-formed terms -/

/-- One term for each check of `Instr.wf` (R62, R67 to R70, R93, R103, R105, R108, R109, R157, R160, R162, R188, R189, R192,
R193, R219, R243, R280): every one is refused. -/
def illFormed : List Instr :=
  [.shlImm true 1 2 32, .shrImm false 1 2 64, .sarImm true 1 2 32, .bfx true 60 4 1 2, .bfi 63 1 1 2, .region 1, .regionVec 3 0,
   .waitc .loads 64, .waitc .rep 1, .rep 0 0 0 0 0 0,
   .vldl .ts8 (.plain 0) 1 2 0, .vldl .f32 (.pfx true 0 .dyn false 1) 1 2 0, .vstl .f32 (.pfx false 0 .dyn true 1) 1 2 0,
   .vldg .ts8 (.plain 0) 1 2 0, .vldg .f32 (.pfx false 1 .dyn false 1) 1 2 0, .vstg .f32 (.pfx false 0 .rne false 1) 1 2 0,
   .vlds .ts8 (.plain 0) 1 2 3 0, .vsts .f32 (.pfx false 0 .dyn true 1) 1 2 3 0, .vgath .ts8 (.plain 0) true 0 1 2 3,
   .vscat .f32 (.pfx false 0 .dyn true 1) true 0 1 2 3,
   .amo .add .acquire false .core 0 1 2, .red .swap false false .core 1 2, .redf .and false false .core .f32 1 2,
   .redf .add false false .core .ts8 1 2, .vred .minn false false .core .i32 (.plain 0) 1 2, .vred .add false false .core .ts8 (.plain 0) 1 2,
   .vred .max false false .core .f32 (.pfx false 0 .rne false 1) 1 2,
   .vadd .ts8 (.plain 0) 1 2 3, .vadd .i32 (.pfx false 0 .rne false 1) 1 2 3, .vsub .f32 (.pfx false 4 .rne false 1) 1 2 3,
   .vmul .ts8 (.plain 0) 1 2 3, .vfma .i32 (.plain 0) 1 2 3 4, .vfms .i8 (.plain 0) 1 2 3 4, .vmin .f32 (.pfx false 0 .rne false 1) 1 2 3,
   .vmax .ts8 (.plain 0) 1 2 3, .vdiv .i32 (.plain 0) 1 2 3, .vsqrt .i16 (.plain 0) 1 2, .vmag .ts8 (.plain 0) 1 2,
   .vneg .ts8 (.plain 0) 1 2, .vand .f32 (.plain 0) 1 2 3, .vor .bf16 (.plain 0) 1 2 3, .vxor .f32 (.plain 0) 1 2 3,
   .vshl .f32 (.plain 0) 1 2 3, .vshr .f32 0 1 2 3, .vsar .bf16 0 1 2 3, .vadds .f32 0 1 2 3, .vsubs .f32 0 1 2 3,
   .vcvt .f32 .ts8 .dyn 0 0 1 2, .vcvt .i16 .f32 .dyn 2 0 1 2, .vcmp .ts8 .eq 0 1 2 3,
   .vsel .ts8 .pred 0 1 2 3 4, .vsel .f32 .pres 0 1 2 3 1, .vsca .ts8 false .dyn 0 1 2 3, .vvoid .ts8 0 1, .vpres .ts8 0 1 2,
   .vmov .ts8 (.plain 0) 1 2, .vmov .f32 (.pfx false 0 .rne false 1) 1 2, .vbcast .ts8 (.plain 0) 1 (.scalar 2),
   .vbcast .f32 (.plain 0) 1 (.elem 2 32), .vextr .f32 (.plain 1) 1 2 3, .vins .ts8 (.plain 0) 1 2 3,
   .vins .f32 (.pfx true 0 .dyn false 0) 1 2 3, .vperm .ts8 (.plain 0) 1 2 3, .vslide .ts8 (.plain 0) true 1 2 3,
   .vzip .ts8 (.plain 0) true 1 2 3, .vunzip .ts8 (.plain 0) true 1 2 3, .vcompr .f32 (.pfx false 0 .dyn true 1) 1 2,
   .vexpq4 (.pfx false 0 .rne false 1) false 1 2, .qtld (.plain 1) 1, .vreduce .f32 (.plain 0) .and 1 2,
   .vreduce .f32 (.pfx false 1 .dyn false 1) .add 1 2, .vscan .ts8 (.plain 0) .add false 1 2,
   .vscan .f32 (.pfx false 1 .dyn false 1) .add false 1 2, .vcount .f32 (.pfx false 0 .dyn true 1) 1 2, .whilelt .f32 (.plain 1) 1 2 3,
   .vlq .ts8 1, .pcnt .ts8 1 2, .pfirst .ts8 1 2, .pset .f32 1 257, .pset .ts8 1 0, .nred .i8 0 1 2 3, .nred .ts8 0 1 2 3]

theorem test_ill_formed : illFormed.all (fun i => !i.wf) = true := by decide +kernel

/-- The same for the Bezel, the copy engine and the actors (R212, R214, R218, R219, R223, R225, R157, R160, R162, R280). -/
def illFormedEngines : List Instr :=
  [.bld .core .f32 1 0 false false, .mma .core .f32 1 2 0 0 false false, .mma .core .bf16 1 2 0 1 false false,
   .mzero .core .bf16 1 false false, .mdrain ⟨.i8, .core, 0, 1, 0, 0, .dyn, false, false, false, false, false, false⟩,
   .mdrain ⟨.f32, .core, 0, 1, 2, 0, .dyn, false, false, false, false, false, false⟩,
   .mdrain ⟨.f32, .core, 0, 1, 0, 2, .dyn, false, false, false, false, false, false⟩, .mstat .seq 1 1,
   .mrest .core .bf16 0 1 false false,
   .cpy ⟨.lg, .core, 1, 2, 0, 0, false, false, true, false, false, 0⟩, .cpy ⟨.lg, .core, 1, 2, 0, 0, false, false, false, true, false, 0⟩,
   .cpy ⟨.lr, .core, 1, 2, 3, 0, false, false, false, false, true, 0⟩, .cpy ⟨.ll, .die, 1, 2, 0, 0, false, false, false, false, false, 0⟩,
   .cpy ⟨.gl, .core, 1, 2, 3, 0, false, false, false, false, false, 0⟩, .cpy ⟨.lr, .core, 1, 2, 3, 0, false, false, false, false, false, 8⟩,
   .cpy2 ⟨.ts8, .core, 1, 2, 3, 0, 0, false, false, false, false, false, false, true, 0, 0⟩,
   .cpy2 ⟨.bf16, .core, 1, 2, 0, 0, 0, false, false, false, false, false, false, false, 0, 0⟩,
   .cpy2 ⟨.f32, .core, 1, 2, 0, 0, 0, true, false, false, true, false, false, false, 0, 0⟩,
   .cpy2 ⟨.f32, .core, 1, 2, 0, 0, 0, false, false, false, false, false, false, false, 4, 0⟩,
   .cpy2 ⟨.f32, .core, 1, 2, 0, 0, 0, false, false, false, false, false, false, false, 0, 4⟩,
   .send ⟨.core, 1, 0, false, false, 32⟩, .sendLast ⟨.core, 1, 0, false, false, 576⟩,
   .spawn ⟨1, 2, 3, 1, 0, false, false, true, 0⟩, .getc 1 0x12B]

theorem test_ill_formed_engines : illFormedEngines.all (fun i => !i.wf) = true := by decide +kernel

/-! ## Words of the spec's encodings -/

/-- Do words decode to an instruction? -/
def reads (ws : List Word) (i : Instr) : Bool :=
  match decode ws with
  | .ok j => decide (j = i)
  | .error _ => false
/-- Are words refused? -/
def refuses (ws : List Word) : Bool :=
  match decode ws with
  | .ok _ => false
  | .error _ => true

/-- Class 0 (Table 03.12, R104, R105): the words the spec works out, then SUB, SEL, SHL, SAR.W, LI and BFX from their fields. -/
theorem test_words_integer :
    reads [0x00411800, 0] (.add false 3 1 2) ∧ reads [0x60042000, 0xFFFFFFFF] (.addImm true 4 4 0xFFFFFFFF)
    ∧ reads [0x10C510A0, 0] (.cmp false .ltn 2 5 6)
    -- f 000, g 000, b 2, a 1, d 3, OP 0x01 and 0x15 with c 4
    ∧ reads [0x00411808, 0] (.sub false 3 1 2) ∧ reads [0x004118A8, 4] (.sel 3 1 2 4)
    -- f 001 (immediate), a 1, d 3, OP 0x0D; f 011, OP 0x0F
    ∧ reads [0x20011868, 63] (.shlImm false 3 1 63) ∧ reads [0x60011878, 31] (.sarImm true 3 1 31)
    -- d 7, OP 0x1C, LEN 01; f 010 on a class 0 form with I = 0 is 32-bit; f 100 is reserved
    ∧ reads [0x000038E1, 0x89ABCDEF, 0x01234567] (.li 7 0x0123456789ABCDEF) ∧ reads [0x40411800, 0] (.add true 3 1 2)
    ∧ refuses [0x80411800, 0] ∧ refuses [0x04411800, 0] ∧ refuses [0x20011868, 64] ∧ refuses [0x000000F0, 0] := by decide +kernel

/-- Class 1 (Tables 03.8 and 03.13, Table 08.4, R93, R103, R106, R110). -/
theorem test_words_control :
    reads [0x00000130, 0xA2] (.region 0xA2) ∧ reads [0x00000131, 0x20, 0x0C] (.regionVec 0x20 0x0C)
    ∧ reads [0x14060148, 0x00020003] (.rep 5 0 6 0 3 2)
    -- BR: g 010 (LT), b 2, a 1, OP 0x20; BRI: g 001 (NE), a 3, OP 0x21, LEN 01
    ∧ reads [0x08410100, 0xFFFFFFFA] (.br false .lt 1 2 0xFFFFFFFA) ∧ reads [0x04030109, 5, 2] (.bri false .ne 3 5 2)
    -- JMP OP 0x22, JAL d 1 OP 0x23, JR a 2 OP 0x24, JALR OP 0x25, END OP 0x27, WAITC g 001 OP 0x28, TRAPI OP 0x2A
    ∧ reads [0x00000110, 3] (.jmp 3) ∧ reads [0x00000918, 3] (.jal 1 3) ∧ reads [0x00020120, 4] (.jr 2 4)
    ∧ reads [0x00020928, 4] (.jalr 1 2 4) ∧ reads [0x00000138, 0] .endF ∧ reads [0x04000140, 63] (.waitc .stores 63)
    ∧ reads [0x00000150, 7] (.trapi 7) ∧ reads [0x00000158, 0] .eret ∧ reads [0x00000160, 0] .nop ∧ reads [3] .padWord
    ∧ refuses [0x1C410100, 0] ∧ refuses [7] ∧ refuses [0x00000130, 0xA3] ∧ refuses [0x04000140, 64] ∧ refuses [0x18000140, 0] := by
  decide +kernel

/-- Class 2 (Tables 03.14 and 03.15, R114, R197). -/
theorem test_words_memory :
    -- f 101 (.s8), a 4, d 6, OP 0x40; f 011 (.b16), b 5, a 4, OP 0x41
    reads [0xA0043200, 0xFFFFFFF8] (.ldl .s8 6 4 0xFFFFFFF8) ∧ reads [0x60A40208, 16] (.stl .b16 4 5 16)
    -- LDG g bit 26; LDAQ g 010 (DEVICE); STRL g 100 (SYSTEM)
    ∧ reads [0x04043210, 0] (.ldg .d true 6 4 0) ∧ reads [0x08043220, 0] (.ldaq .d .device 6 4 0)
    ∧ reads [0x10A40228, 0] (.strl .d .system 4 5 0)
    ∧ refuses [0xE0043200, 0] ∧ refuses [0x40A40208, 0] ∧ refuses [0x08043210, 0]
    -- VLDL.BF16 with guard p2: f 001, g 010, a 4, d 6, OP 0x46; VSTG.I8 with prefix MASK 3: P 1, LEN 01, OP 0x49
    ∧ reads [0x28043230, 64] (.vldl .bf16 (.plain 2) 6 4 64) ∧ reads [0x8004324D, 0, 3] (.vstg .i8 (.pfx false 0 .dyn false 3) 6 4 0)
    ∧ refuses [0xA0043230, 64] := by decide +kernel

/-- Class 3 (Table 09.4, Table 04.7). -/
theorem test_words_atomics :
    reads [0x08C42B00, 0x600] (.amo .add .acqRel false .device 5 4 6) ∧ reads [0x40A41B08, 6] (.cas .relaxed true .core 3 4 5 6)
    ∧ reads [0x02B3C310, 0x14] (.amobnd .relaxed false .core 24 19 21 20)
    ∧ reads [0x036E0320, 0x800] (.redf .add true false .core .f32 14 27)
    ∧ reads [0x004D0328, 0x800] (.vred .add true false .core .f32 (.plain 0) 13 2) ∧ reads [0x08000330, 0] (.fence .device)
    -- CLINIT a 1 b 2 OP 0x67; ARRIVE f 001 (DIE) b 9 a 1 d 3 OP 0x68; CLWAIT c 3 OP 0x6A
    ∧ reads [0x00410338, 0] (.clinit 1 2) ∧ reads [0x21211B40, 0] (.arrive .die 3 1 9) ∧ reads [0x01210350, 3] (.clwait .core 1 9 3)
    ∧ refuses [0x04C42B00, 0x0120] ∧ refuses [0xA1211B40, 0] := by decide +kernel

/-- Classes 4 and 5 (Tables 02.10, 06.2 and 06.3, R134 to R137). -/
theorem test_words_vector :
    reads [0x20411C05, 0, 0x2A] (.vadd .bf16 (.pfx false 0 .rtz true 2) 3 1 2)
    -- VFMA.F32 g 001, b 2, a 1, d 3, OP 0x83, c 4; VDIV of an integer format is refused
    ∧ reads [0x04411C18, 4] (.vfma .f32 (.plain 1) 3 1 2 4) ∧ refuses [0x40411C38, 0]
    -- VBCAST.e.F32 k 31: OP 0xA1, word 1 bit 5 and k in [12:6]; k 32 is refused
    ∧ reads [0x00011D08, 0x7E0] (.vbcast .f32 (.plain 0) 3 (.elem 1 31)) ∧ refuses [0x00011D08, 0x820]
    -- VREDUCE.MAX.I32: f 010, OP 0xAB, op 010 in [7:5]; PSET.I8 p1, 256: f 100, d 1, OP 0xB5, k in [13:5]
    ∧ reads [0x40011D58, 0x40] (.vreduce .i32 (.plain 0) .max 3 1) ∧ reads [0x80000DA8, 0x2000] (.pset .i8 1 256)
    ∧ refuses [0x80000DA8, 0x2020] := by decide +kernel

/-- Class 6 (Tables 05.4, 05.6 and 08.4, R213). -/
theorem test_words_engines :
    reads [0x052A0641, 0x0001003F, 0x40] (.cpy ⟨.gl, .die, 9, 10, 0, 63, true, false, false, false, false, 0x40⟩)
    ∧ reads [0x2134664A, 0x0080030F, 0x800, 0x20]
        (.cpy2 ⟨.bf16, .core, 9, 20, 12, 15, 3, false, false, false, false, false, false, true, 2048, 32⟩)
    ∧ reads [0x20100608, 3] (.mma .core .bf16 0 16 3 0 false false) ∧ reads [0xA00C0600, 5] (.bld .core .ts8 12 5 false false)
    ∧ refuses [0x200C0600, 0x15] ∧ refuses [0x000C0600, 5] ∧ refuses [0x2134664A, 0x0080030F, 0x804, 0x20] := by decide +kernel

/-- Class 7 (Tables 10.3, 11.3, 12.5, 13.4 and 14.6, R263). -/
theorem test_words_system :
    reads [0x00E9A701, 0x2000, 0] (.spawn ⟨20, 9, 7, 0, 0, true, false, false, 0⟩) ∧ reads [0x00090718, 0] (.link 9)
    ∧ reads [0x05AC0738, 0x0E] (.signalMsg .die 12 13 14) ∧ reads [0x216A0748, 0x20] (.timerKill true 10 11)
    ∧ reads [0x00090768, 0x40] (.consume 2 9)
    ∧ reads [0x016A0770, 0] (.supcfgPolicy 10 11) ∧ reads [0x2005A770, 0] (.supcfgAdd 20 5) ∧ reads [0x40090770, 0] (.supcfgRemove 9)
    ∧ reads [0x60090770, 0] (.supcfgLaunch 9) ∧ reads [0x00090778, 0] (.restartChild 9) ∧ reads [0x20090778, 0] (.restartJob 9)
    ∧ reads [0x014947AA, 0x2B, 0, 0] (.tlbw 8 9 10 11 true) ∧ reads [0x00A407B0, 0] (.tlbinvPage 4 5 .k4)
    ∧ reads [0x20A007B0, 0] (.tlbinvCtx 5) ∧ reads [0x00041FB8, 0] (.tlbprobe false 3 4 0)
    ∧ reads [0x0009A782, 0x003DFFFE, 0, 0] (.ctxnew 20 9 0x003DFFFE 0 false) ∧ reads [0x016A0788, 0x0C] (.ctxset 10 11 12)
    ∧ reads [0x000A0790, 0] (.ctxrevoke 10) ∧ reads [0x000A1F98, 0x20] (.ctxstat 3 10 1) ∧ reads [0x000407A0, 0] (.ctxdone 4)
    ∧ reads [0x000947D8, 0] (.locketStart 8 9) ∧ reads [0x200A1FD8, 0] (.locketStat 3 10) ∧ reads [0x400A07D8, 0] (.locketStop 10)
    ∧ reads [0x000407D0, 0] (.poisonclr 4) ∧ reads [0x00001FC0, 5] (.getc 3 5)
    ∧ refuses [0x80090770, 0] ∧ refuses [0x600407D8, 0] ∧ refuses [0x00041FB8, 1] := by decide +kernel

/-! ## One step of an instruction, on values of the spec -/

/-- The state after an instruction that answers a next state. -/
def after (i : Instr) (s : State) : Option State :=
  match exec i s with
  | .next t => some t
  | .fault _ => none
  | .refused _ => none
/-- The value of s3 after an instruction, s1 and s2 holding these before it. -/
def sees (x y : DWord) (i : Instr) : Option DWord := (after i (withS [(1, x), (2, y), (3, 77)] here)).map fun t => t.rs 3
/-- A vector register with the leading lanes given. -/
def vec (f : Fmt) (xs : List Elem) : VWord := BitVec.ofNat 1024 (packLanes (fmtBits f) xs)
/-- Vector registers set one by one. -/
def withV (l : List (Nat × VWord)) (s : State) : State :=
  { s with core := { s.core with regs := l.foldl (fun g e => g.setV (BitVec.ofNat 5 e.1) e.2) s.core.regs } }
/-- Lanes 0 to n − 1 of v3 and the flags after an instruction. -/
def lanes3 (f : Fmt) (n : Nat) (i : Instr) (s : State) : Option (List Elem × FlagSet) :=
  (after i s).map fun t => ((List.range n).map (lane f (t.rv 3)), t.core.regs.flags)

/-- Wrap, sign extension of the 32-bit form (R104), and the divisions worked under R105. -/
theorem test_arithmetic :
    sees (dw (2 ^ 64 - 1)) 2 (.add false 3 1 2) = some 1 ∧ sees 0x7FFFFFFF 1 (.add true 3 1 2) = some (dw (2 ^ 64 - 2 ^ 31))
    ∧ sees 5 0 (.subImm false 3 1 7) = some (dw (2 ^ 64 - 2)) ∧ sees (dw (2 ^ 63)) 4 (.mulh false 3 1 2) = some (dw (2 ^ 64 - 2))
    ∧ sees (dw (2 ^ 63)) 4 (.mulhn false 3 1 2) = some 2 := by decide +kernel

theorem test_division :
    sees (dw (2 ^ 64 - 7)) 2 (.div false 3 1 2) = some (dw (2 ^ 64 - 3)) ∧ sees (dw (2 ^ 64 - 7)) 2 (.rem false 3 1 2) = some (dw (2 ^ 64 - 1))
    ∧ sees (dw (2 ^ 64 - 7)) 0 (.div false 3 1 2) = some (dw (2 ^ 64 - 1)) ∧ sees (dw (2 ^ 64 - 7)) 0 (.rem false 3 1 2) = some (dw (2 ^ 64 - 7))
    ∧ sees (dw (2 ^ 63)) (dw (2 ^ 64 - 1)) (.div false 3 1 2) = some (dw (2 ^ 63)) ∧ sees 0xFFFFFFFF 0 (.divn true 3 1 2) = some (dw (2 ^ 64 - 1)) := by
  decide +kernel

theorem test_bits :
    sees (dw (2 ^ 63)) 0x44 (.sar false 3 1 2) = some (dw (2 ^ 64 - 2 ^ 59)) ∧ sees 0x80000000 0 (.shrImm true 3 1 31) = some 1
    ∧ sees 0 0 (.clz false 3 1) = some 64 ∧ sees 0 0 (.ctz true 3 1) = some 32 ∧ sees 0xF0F0 0 (.popc false 3 1) = some 8
    ∧ sees 0x180 0 (.ext .s8 3 1) = some (dw (2 ^ 64 - 128)) ∧ sees 0xABCD 0 (.bfx false 4 7 3 1) = some 0xBC
    ∧ sees 0xABCD 0 (.bfx true 4 7 3 1) = some (dw (2 ^ 64 - 0x44)) ∧ sees 0xFF 0 (.bfi 4 3 3 1) = some 0xFD
    ∧ sees 1 2 (.cmp false .lt 3 1 2) = some 1 ∧ sees (dw (2 ^ 64 - 1)) 2 (.cmp false .ltn 3 1 2) = some 0
    ∧ (after (.li 0 5) here).map (fun t => t.rs 0) = some 0 := by decide +kernel

/-- R106: an offset counts words from the instruction's own address; JAL saves the next instruction's. -/
theorem test_branches :
    (after (.br false .eq 1 1 0xFFFFFFFA) here).map (fun t => t.core.pc) = some 40
    ∧ (after (.br false .ne 1 1 0xFFFFFFFA) here).map (fun t => t.core.pc) = some 72
    ∧ (after (.jal 3 4) here).map (fun t => (t.core.pc, t.rs 3)) = some (80, 72) ∧ sees 0 0 (.addpc 3 0xFFFFFFFC) = some 60 := by decide +kernel

/-- A store at 0x640 in the open region, read back sign-extended; a misaligned load ends the firing with reason 5. -/
theorem test_local_memory :
    ((after (.stl .b8 1 2 0x40) (withS [(1, 0x600), (2, 0x1F3)] here)).bind (after (.ldl .s8 3 1 0x40))).map (fun t => t.rs 3)
      = some (dw (2 ^ 64 - 13))
    ∧ (after (.ldl .d 3 1 4) (withS [(1, 0x600)] here)).map (fun t => (t.actor me).xreason) = some 5 := by decide +kernel

/-- R110 and R111: TRAPI takes a recoverable trap of code 3 to THND, saving the address of the next instruction. -/
theorem test_trap_entry :
    (after (.trapi 9) handled).map (fun t => (t.core.pc, t.core.traps.tpc, t.core.tsw.priv, t.core.tsw.it, bitsAt 0 8 t.core.traps.tcause))
      = some (256, 72, 0, true, 3) := by decide +kernel

/-- The worked case of R43 (a sum of −128 becomes −127 and sets the saturation flag) and 127 + 1; an absent operand is passed over (R48). -/
theorem test_vector_wraps :
    lanes3 .i8 4 (.vadd .i8 (.plain 0) 3 1 2) (withV [(1, vec .i8 [0x81, 0x7F, 0x80, 3]), (2, vec .i8 [0xFF, 1, 5, 4])] here)
      = some ([0x81, 0x81, 5, 7], 4) := by decide +kernel

/-- Table 02.6, one mode after the other, and the three conversions worked under Table 02.6a. -/
theorem test_rounding_modes :
    ([Rnd.rne, .rtz, .rdn, .rup, .rna].map fun r => lanes3 .bf16 2 (.vcvt .bf16 .f32 r 0 0 3 1) (withV [(1, vec .f32 [0x3F808000, 0xBF808000])] here))
      = [some ([0x3F80, 0xBF80], 1), some ([0x3F80, 0xBF80], 1), some ([0x3F80, 0xBF81], 1), some ([0x3F81, 0xBF80], 1), some ([0x3F81, 0xBF81], 1)]
    ∧ ([Fmt.bf16, .i8, .ts8].map fun f => lanes3 f 1 (.vcvt f .f32 .rne 0 0 3 1) (withV [(1, vec .f32 [0x40490FDB])] here))
      = [some ([0x4049], 1), some ([3], 1), some ([0x28], 1)] := by decide +kernel

/-- R48: VFMS with an absent addend rounds the product and negates it: upwards, the square of 1 + 2⁻²³ gives 1 + 3 × 2⁻²³ before
the sign. -/
theorem test_vfms_absent :
    (vfmaE .f32 .rup true 0x3F800001 0x3F800001 (absentOf .f32)).1 = 0xBF800003
    ∧ (vfmaE .f32 .rup false 0x3F800001 0x3F800001 (absentOf .f32)).1 = 0x3F800003 := by decide +kernel

/-- Table 02.2. -/
theorem test_ts8 :
    [toTS8 .rne ⟨false, 0, 1⟩, toTS8 .rtz ⟨true, 5, 1⟩, toTS8 .rup ⟨false, 11, 1⟩, toTS8 .rdn ⟨false, 11, 1⟩, toTS8 .rne ⟨false, 100, 1⟩,
      toTS8 .rup ⟨false, 100, 1⟩, toTS8 .rne ⟨true, 1007, 10⟩, toTS8 .rne ⟨false, 300, 1⟩]
      = [(0x77, 0), (0xA8, 0), (0x4A, 1), (0x31, 1), (0x65, 1), (0x66, 1), (0xED, 1), (0x66, 4)] := by decide +kernel

/-- R55: 256 + 1 is rounded at the first node, 1 + 1 is exact, and the root is 258 (0x4381), with a count of four. -/
theorem test_reduction :
    (after (.vreduce .bf16 (.plain 0) .add 3 1) (withV [(1, vec .bf16 ([0x4380, 0x3F80, 0x3F80, 0x3F80] ++ List.replicate 60 0xFFFF))] here)).map
      (fun t => (lane .bf16 (t.rv 3) 0, t.core.regs.flags.getLsbD 0)) = some (0x4381, true) := by decide +kernel

/-- The table and the codes of the worked case of R191. -/
theorem test_q4 :
    let tbl := vec .i8 [0x00, 0x01, 0x02, 0x04, 0x08, 0x10, 0x20, 0x40, 0x80, 0xC0, 0xE0, 0xF0, 0xF8, 0xFC, 0xFE, 0xFF]
    ((after (.qtld (.plain 0) 1) (withV [(1, tbl), (2, 0x389E)] here)).bind (after (.vexpq4 (.plain 0) false 3 2))).map
      (fun t => (List.range 4).map (lane .i8 (t.rv 3))) = some [0xFE, 0xC0, 0x80, 0x04] := by decide +kernel

/-- AMOBND admits an addend up to its bound and releases to zero (R247); CAS compares. -/
theorem test_atomics :
    (PortKind.bnd 8 1 1).scalar 0 = some 1 ∧ (PortKind.bnd 8 1 1).scalar 1 = none ∧ (PortKind.bnd 8 (dw (2 ^ 64 - 1)) 0).scalar 1 = some 0
    ∧ (PortKind.bnd 8 (dw (2 ^ 64 - 1)) 0).scalar 0 = none ∧ (PortKind.cas 4 5 9).scalar 5 = some 9 ∧ (PortKind.cas 4 5 9).scalar 6 = none := by
  decide +kernel

/-- The block of the worked block of R256 (200 BF16 ones and 312 zeros): byte planes 0x80 and 0x3F, whose differences end at bytes 0 and
200 of each plane, packed into two headers and four groups. -/
theorem test_compression :
    let d := (List.replicate 200 [(0x80 : Byte), 0x3F]).flatten ++ List.replicate 624 0
    let g (b : Byte) : List Byte := b :: List.replicate 7 0
    let x := g 0x80 ++ List.replicate 192 0 ++ g 0x80 ++ List.replicate 304 0 ++ g 0x3F ++ List.replicate 192 0 ++ g 0x3F ++ List.replicate 304 0
    let h : List Byte := [1, 0, 0, 2, 0, 0, 0, 0]
    ((planes 2 d).getD 7 0 = 0x80 ∧ (planes 2 d).getD 711 0 = 0x3F ∧ (planes 2 d).getD 712 0 = 0)
    ∧ packGroups x = h ++ h ++ g 0x80 ++ g 0x80 ++ g 0x3F ++ g 0x3F ++ List.replicate 80 0 := by decide +kernel

/-- The contexts of Table 12.7: guest 0x047 of partition 0x003, with G's tables at P-addresses 0x100000 to 0x103000, mapped
page by page to 0x3000100000 on, and P's own tables at 0x3000200000. -/
def walking (last : DWord) : State :=
  let w (pa : Nat) (e : DWord) (r : Ram) : Ram := r.write 0 pa (bytesOf 8 (e.toNat))
  let g := 0x3000100000
  let p := 0x3000200000
  let leaf (a : Nat) : DWord := dw (a + 15)
  let row (a : Nat) : DWord := dw (a + 1)
  { here with
    ctxs := { here.ctxs with
      created := [3, 0x47]
      ccb := [(0, ccbRoot 9216),
        (3, ((liveCcb.set 2 (dw 0x3000000000)).set 3 (dw 0x1000000000)).set 4 (dw p)),
        (0x47, ((liveCcb.set 0 (dw (2 ^ 52 * 3 + 2 ^ 48 * 2 + 2 ^ 32))).set 3 (dw (2 ^ 30))).set 4 (dw 0x100000))] }
    ram := w g (row 0x101000) <| w (g + 0x1008) (row 0x102000) <| w (g + 0x2018) (row 0x103000) <| w (g + 0x3018) (leaf 0x205000) <|
      w p (row (p + 0x1000)) <| w (p + 0x1000) (row (p + 0x2000)) <| w (p + 0x2000) (row (p + 0x3000)) <| w (p + 0x2008) (row (p + 0x4000)) <|
      w (p + 0x3800) (leaf g) <| w (p + 0x3808) (leaf (g + 0x1000)) <| w (p + 0x3810) (leaf (g + 0x2000)) <| w (p + 0x3818) last <|
      w (p + 0x4028) (leaf 0x3000005000) here.ram }

/-- Tables 12.7 and 12.8: while P has no page for G's table entry at 0x103018 the walk is reported to P; then the entry is composed. -/
theorem test_two_level_walk :
    (walking 0).walk 0 0x47 0x40603018 .write = .notResident 3 0x103018 true
    ∧ (match (walking (dw (0x3000103000 + 15))).walk 0 0x47 0x40603018 .write with
      | .ok c => some ((walking 0).composedEntry 0x47 0x40603018 c)
      | _ => none) = some ⟨0x047000004060300D, 0x03000005⟩ := by decide +kernel

end Sys2Proof.Tests
end

section
/-!
SUPPORT. Bit fields: what a bit and a field read after `setBits`, and the model's fields in the terms of the statements (R4).
-/

namespace Sys2Proof.Machine

/-- The bits of a word after one of its fields is replaced (R4). -/
theorem getLsbD_setBits {lo n : Nat} (h : lo + n ≤ 64) (w : Nat) (x : DWord) (i : Nat) :
    (setBits lo n w x).getLsbD i = if lo ≤ i ∧ i < lo + n then w.testBit (i - lo) else x.getLsbD i := by
  have hlow : x.toNat % 2 ^ lo < 2 ^ lo := Nat.mod_lt _ (by positivity)
  have hfield : w % 2 ^ n < 2 ^ n := Nat.mod_lt _ (by positivity)
  have hsum : x.toNat % 2 ^ lo + 2 ^ lo * (w % 2 ^ n) + 2 ^ (lo + n) * (x.toNat / 2 ^ (lo + n))
      = 2 ^ lo * (2 ^ n * (x.toNat / 2 ^ (lo + n)) + w % 2 ^ n) + x.toNat % 2 ^ lo := by
    rw [pow_add]; ring
  rw [setBits, dw, hsum, BitVec.getLsbD_ofNat, Nat.testBit_two_pow_mul_add _ hlow, Nat.testBit_two_pow_mul_add _ hfield]
  simp only [Nat.testBit_mod_two_pow, Nat.testBit_div_two_pow, BitVec.testBit_toNat]
  have hx : (decide (i < 64) && x.getLsbD i) = x.getLsbD i := by
    by_cases h64 : i < 64
    · rw [decide_eq_true h64, Bool.true_and]
    · rw [x.getLsbD_of_ge i (not_lt.1 h64), Bool.and_false]
  by_cases h1 : i < lo
  · rw [if_pos h1, if_neg (by omega), decide_eq_true h1, Bool.true_and, hx]
  by_cases h2 : i < lo + n
  · rw [if_neg h1, if_pos (by omega), if_pos (by omega), decide_eq_true (show i < 64 by omega),
      decide_eq_true (show i - lo < n by omega), Bool.true_and, Bool.true_and]
  · rw [if_neg h1, if_neg (by omega), if_neg (by omega), show i - lo - n + (lo + n) = i by omega, hx]

/-- The bits of a field. -/
theorem testBit_bitsAt (lo n : Nat) (x : DWord) (i : Nat) :
    (bitsAt lo n x).testBit i = (decide (i < n) && x.getLsbD (lo + i)) := by
  rw [bitsAt, Nat.testBit_mod_two_pow, Nat.testBit_div_two_pow, BitVec.testBit_toNat, Nat.add_comm]

/-- Fields agree where their bits do. -/
theorem bitsAt_congr {lo n : Nat} {x y : DWord} (h : ∀ i, lo ≤ i → i < lo + n → x.getLsbD i = y.getLsbD i) :
    bitsAt lo n x = bitsAt lo n y := by
  apply Nat.eq_of_testBit_eq
  intro i
  rw [testBit_bitsAt, testBit_bitsAt]
  by_cases hi : i < n
  · rw [h (lo + i) (by omega) (by omega)]
  · simp [hi]

/-- A field within the one that is replaced. -/
theorem bitsAt_setBits_low {lo n k : Nat} (h : lo + n ≤ k) (hk : k ≤ 64) (x y : DWord) :
    bitsAt lo n (setBits 0 k (bitsAt 0 k x) y) = bitsAt lo n x := by
  apply bitsAt_congr
  intro i _ hi
  rw [getLsbD_setBits (by omega), if_pos (by omega), testBit_bitsAt]
  simp only [Nat.sub_zero, Nat.zero_add, show i < k by omega, decide_true, Bool.true_and]

/-- FBDOM without LOST (R398). -/
theorem setBits_lost (x : DWord) : setBits 62 1 0 x = x &&& 0xBFFFFFFFFFFFFFFF := by
  have hmask : ∀ i, i < 64 → (0xBFFFFFFFFFFFFFFF : DWord).getLsbD i = !decide (i = 62) := by decide
  apply BitVec.eq_of_getLsbD_eq
  intro i hi
  rw [getLsbD_setBits (by omega), BitVec.getLsbD_and, hmask i hi]
  by_cases h : i = 62
  · subst h; simp
  · rw [if_neg (by omega)]; simp [h]

/-- A field read as a number, and extracted. -/
theorem extractLsb'_toNat_eq_bitsAt (lo n : Nat) (x : DWord) : (x.extractLsb' lo n).toNat = bitsAt lo n x := by
  rw [BitVec.extractLsb'_toNat, Nat.shiftRight_eq_div_pow]; rfl

/-- The low bits of a word as a number of 64 bits. -/
theorem dw_mod_two_pow (n : Nat) (x : DWord) : dw (x.toNat % 2 ^ n) = (x.extractLsb' 0 n).zeroExtend 64 := by
  apply BitVec.eq_of_toNat_eq
  simp [dw]

end Sys2Proof.Machine
end

section
/-!
SUPPORT. Writes of control registers (R82, R83): which numbers name a register, which write each number stands for, and
the three forms in which a write is made.
-/

namespace Sys2Proof.Machine

/-! ## The forms of a write -/

theorem exec_setc (s : State) (num : BitVec 12) (a : SReg) :
    exec (.setc num a) s = s.writeCr num.toNat (s.rs a) fun t => t.done 8 := rfl
theorem exec_setcImm (s : State) (num : BitVec 12) (i : BitVec 20) :
    exec (.setcImm num i) s = s.writeCr num.toNat (i.setWidth 64) fun t => t.done 8 := rfl
theorem exec_registerWrite_cr (s : State) (num : BitVec 12) (v : DWord) :
    exec (.registerWrite (.cr num) v) s = s.writeCr num.toNat v .next := rfl

/-- The write of a value to a number, as SETC, as its immediate form, and as a step of its own, gives a state (R83). -/
def State.WritesCr (s : State) (v : DWord) (num : Nat) (t : State) : Prop :=
  num < 2 ^ 12 →
    (∀ a, s.rs a = v → exec (.setc (BitVec.ofNat 12 num) a) s = .next (t.atPc (laFrom t.core.pc 8)))
    ∧ (∀ i : BitVec 20, i.zeroExtend 64 = v → exec (.setcImm (BitVec.ofNat 12 num) i) s = .next (t.atPc (laFrom t.core.pc 8)))
    ∧ exec (.registerWrite (.cr (BitVec.ofNat 12 num)) v) s = .next t

/-- A write that goes on with a state gives it in every form. -/
theorem writesCr_of {s t : State} {v : DWord} {num : Nat} (h : ∀ k, s.writeCr num v k = k t) : s.WritesCr v num t := by
  intro hn
  have hnum : (BitVec.ofNat 12 num).toNat = num := by rw [BitVec.toNat_ofNat, Nat.mod_eq_of_lt hn]
  refine ⟨?_, ?_, ?_⟩
  · rintro a rfl
    rw [exec_setc, hnum, h]
    exact done_eq t 8
  · rintro i rfl
    rw [exec_setcImm, hnum]
    exact (h _).trans (done_eq t 8)
  · rw [exec_registerWrite_cr, hnum, h]

/-! ## The write that a number stands for -/

/-- The numbers below 0x100 that name a register of every core, besides the windows (Table 03.2). -/
def PlainNumber (num : Nat) : Prop := num < 0x010 ∨ (0x020 ≤ num ∧ num < 0x028) ∨ num = 0x030 ∨ num = 0x031

theorem readCr_plain (s : State) {num : Nat} (h : PlainNumber num) : (s.readCr num).isSome = true := by
  rcases h with h | ⟨h1, h2⟩ | rfl | rfl
  · interval_cases num <;> rfl
  · interval_cases num <;> rfl
  · rfl
  · rfl

theorem readCr_strand {s : State} {pos : Nat} (hf : s.focus = .work pos) (j : BitVec 4) :
    (s.readCr (0x110 + j.toNat)).isSome = true := by
  have hj := j.isLt
  generalize j.toNat = n at hj
  interval_cases n <;> simp [State.readCr, hf]

theorem readCr_sq {s : State} {p i : Nat} (hf : s.focus = .service p) (hi : i < 3) :
    (s.readCr (0x140 + i)).isSome = true := by
  interval_cases i <;> simp [State.readCr, hf]

/-- A write of a register that the core has, and that is no window. -/
theorem writeCr_present {s : State} {num : Nat} (hp : num < 0x100 ∨ s.priv ≠ 0) (hw : num < 0x010 ∨ 0x018 ≤ num)
    (hr : (s.readCr num).isSome = true) (v : DWord) (k : State → Res) :
    s.writeCr num v k =
      if 0x110 ≤ num ∧ num < 0x120 then s.writeStrand (num - 0x110) v k
      else if num = 0x120 then s.writeBzmap v k
      else if num = 0x128 then k (s.prqdone s.ctx v)
      else if 0x140 ≤ num ∧ num < 0x143 then k (s.writeSq (num - 0x140) v)
      else k (s.writePlain num v) := by
  obtain ⟨x, hx⟩ := Option.isSome_iff_exists.1 hr
  unfold State.writeCr
  rw [if_neg (by omega), dif_neg (by omega), hx]

theorem writeCr_plain (s : State) {num : Nat} (h : PlainNumber num) (v : DWord) (k : State → Res) :
    s.writeCr num v k = k (s.writePlain num v) := by
  have hr := readCr_plain s h
  unfold PlainNumber at h
  rw [writeCr_present (by omega) (by omega) hr, if_neg (by omega), if_neg (by omega), if_neg (by omega), if_neg (by omega)]

/-- A plain register takes a value in every form of a write. -/
theorem writesCr_plain {s t : State} {v : DWord} {num : Nat} (hn : PlainNumber num) (ht : s.writePlain num v = t) :
    s.WritesCr v num t := writesCr_of fun k => (writeCr_plain s hn v k).trans (congrArg k ht)

theorem writeCr_window (s : State) (i : Fin 8) (v : DWord) (k : State → Res) :
    s.writeCr (0x010 + i.val) v k = s.writeWindow i v k := by
  unfold State.writeCr
  rw [if_neg (by omega), dif_pos (by omega)]
  congr 1
  exact Fin.ext (Nat.add_sub_cancel_left ..)

theorem writeCr_strand {s : State} {pos : Nat} (hf : s.focus = .work pos) (hp : s.priv ≠ 0) (j : BitVec 4) (v : DWord)
    (k : State → Res) : s.writeCr (0x110 + j.toNat) v k = s.writeStrand j.toNat v k := by
  rw [writeCr_present (.inr hp) (by omega) (readCr_strand hf j), if_pos (by omega), Nat.add_sub_cancel_left]

theorem writeCr_bzmap {s : State} {pos : Nat} (hf : s.focus = .work pos) (hp : s.priv ≠ 0) (v : DWord) (k : State → Res) :
    s.writeCr 0x120 v k = s.writeBzmap v k := by
  rw [writeCr_present (.inr hp) (by omega) (by simp [State.readCr, hf]), if_neg (by omega), if_pos rfl]

theorem writeCr_prqdone {s : State} {pos : Nat} (hf : s.focus = .work pos) (hp : s.priv ≠ 0) (v : DWord) (k : State → Res) :
    s.writeCr 0x128 v k = k (s.prqdone s.ctx v) := by
  rw [writeCr_present (.inr hp) (by omega) (by simp [State.readCr, hf]), if_neg (by omega), if_neg (by omega), if_pos rfl]

theorem writeCr_sq {s : State} {p i : Nat} (hf : s.focus = .service p) (hp : s.priv ≠ 0) (hi : i < 3) (v : DWord)
    (k : State → Res) : s.writeCr (0x140 + i) v k = k (s.writeSq i v) := by
  rw [writeCr_present (.inr hp) (by omega) (readCr_sq hf hi), if_neg (by omega), if_neg (by omega), if_neg (by omega),
    if_pos (by omega), Nat.add_sub_cancel_left]

/-! ## Plain registers -/

theorem writePlain_rm (s : State) (v : DWord) : s.writePlain 0x003 v
    = { s with core := { s.core with regs := { s.core.regs with
        rm := (RMode.ofCode (v.extractLsb' 0 3).toNat).getD s.core.regs.rm } } } := by
  rw [extractLsb'_toNat_eq_bitsAt]; rfl

/-- A write of a register that software may not write does nothing (R82). -/
theorem writePlain_readOnly (s : State) (v : DWord) {num : Nat}
    (h : num ∉ [0x000, 0x001, 0x002, 0x003, 0x004, 0x00C, 0x00D, 0x00F]) : s.writePlain num v = s := by
  simp only [State.writePlain]
  split
  case h_9 => rfl
  all_goals exact absurd h (by decide)

/-- XBOUND, OVH, TPC and OVRET take no write at privilege 0 (R82). -/
theorem writePlain_unprivileged {s : State} (hp : s.priv = 0) (v : DWord) {num : Nat} (h : num ∈ [0x001, 0x002, 0x00C, 0x00F]) :
    s.writePlain num v = s := by
  simp only [List.mem_cons, List.not_mem_nil, or_false] at h
  rcases h with rfl | rfl | rfl | rfl <;> exact if_pos hp

theorem writePlain_xbound {s : State} (hp : s.priv ≠ 0) (v : DWord) : s.writePlain 0x001 v
    = { s with core := { s.core with xbound := BitVec.ofNat 18 (512 * (v.extractLsb' 9 9).toNat) } } := by
  rw [extractLsb'_toNat_eq_bitsAt, Nat.mul_comm]; exact if_neg hp

theorem writePlain_ovh {s : State} (hp : s.priv ≠ 0) (v : DWord) : s.writePlain 0x002 v
    = { s with core := { s.core with ovh := v.setWidth 18 } } := if_neg hp

theorem writePlain_tpc {s : State} (hp : s.priv ≠ 0) (v : DWord) : s.writePlain 0x00C v
    = { s with core := { s.core with traps := { s.core.traps with tpc := v.setWidth 18 } } } := if_neg hp

theorem writePlain_ovret {s : State} (hp : s.priv ≠ 0) (v : DWord) : s.writePlain 0x00F v
    = { s with core := { s.core with traps := { s.core.traps with ovret := v.setWidth 18 } } } := if_neg hp

/-- The frame of a write of a plain register: the fields that such registers hold, and nothing else. -/
theorem writePlain_frame (s : State) (num : Nat) (v : DWord) :
    let t := s.writePlain num v
    t = { s with core := { s.core with
      regs := { s.core.regs with rm := t.core.regs.rm, flags := t.core.regs.flags }
      tsw := { s.core.tsw with apb := t.core.tsw.apb }
      traps := t.core.traps, xbound := t.core.xbound, ovh := t.core.ovh } } := by
  by_cases hp : s.priv = 0
  · simp only [State.writePlain, if_pos hp]
    split <;> rfl
  · simp only [State.writePlain, if_neg hp]
    split <;> rfl

/-! ## Windows, strand entries and BZMAP -/

/-- The value a window takes: the fields a write reaches, with the running slot as owner, or none (Table 04.4). -/
def windowWord (c : Core) (v : DWord) : DWord :=
  (v &&& winMask) ||| (match c.slot? with
    | some n => dw (2 ^ 52 * (n % 64))
    | none => dw (2 ^ 58))

/-- The running code may write a window (R126): above privilege 0, or it is the firing of a slot that owns the window as it
stands and the beads of the window as it will stand. -/
def State.MayWriteWindow (s : State) (i : Fin 8) (v : DWord) : Prop :=
  s.priv ≠ 0 ∨ ∃ sl, s.core.run = .firing sl
    ∧ (winEn s.core.wins[i] = true → winNs s.core.wins[i] = false ∧ winOwner s.core.wins[i] = sl)
    ∧ (winEn v = true → ∀ j, j ≤ winNb v → s.core.bead (winBase v + j) = .owned sl)

theorem window_not_foreign {s : State} {i : Fin 8} {v : DWord} (hm : s.MayWriteWindow i v) :
    (decide (s.priv = 0) && winEn s.core.wins[i]
      && (winNs s.core.wins[i] || s.core.slot? != some (winOwner s.core.wins[i]))) = false := by
  rcases hm with hp | ⟨sl, hrun, hold, -⟩
  · rw [decide_eq_false hp, Bool.false_and, Bool.false_and]
  · cases he : winEn s.core.wins[i] with
    | false => rw [Bool.and_false, Bool.false_and]
    | true =>
      obtain ⟨hns, howner⟩ := hold he
      simp only [Core.slot?, hrun, hns, howner, bne_self_eq_false, Bool.or_self, Bool.and_false]

theorem window_beads_owned {s : State} {i : Fin 8} {v : DWord} (hm : s.MayWriteWindow i v) (hp : s.priv = 0)
    (he : winEn v = true) : ((List.range (min (winNb v + 1) (512 - winBase v))).all fun j =>
      decide (some (s.core.bead (winBase v + j)) = s.core.slot?.map Bead.owned)) = true := by
  obtain ⟨sl, hrun, -, hnew⟩ := hm.resolve_left (not_not.2 hp)
  rw [List.all_eq_true]
  intro j hj
  rw [List.mem_range] at hj
  rw [hnew he j (by omega), Core.slot?, hrun]
  exact decide_eq_true rfl

theorem writeWindow_ok {s : State} {i : Fin 8} {v : DWord} (hb : winEn v = true → winBase v + winNb v ≤ 511)
    (hm : s.MayWriteWindow i v) (k : State → Res) :
    s.writeWindow i v k = k { s with core := { s.core with wins := s.core.wins.set i (windowWord s.core v) } } := by
  have hforeign := Bool.eq_false_iff.1 (window_not_foreign hm)
  have howned : ¬ (s.priv = 0 ∧ winEn v = true ∧ (!(List.range (min (winNb v + 1) (512 - winBase v))).all fun j =>
      decide (some (s.core.bead (winBase v + j)) = s.core.slot?.map Bead.owned)) = true) := by
    rintro ⟨hp, he, hno⟩
    rw [window_beads_owned hm hp he] at hno
    exact Bool.false_ne_true hno
  have hfits : ¬ (winEn v = true ∧ 511 < winBase v + winNb v) := fun ⟨he, hlt⟩ => absurd (hb he) (by omega)
  exact (if_neg hforeign).trans ((if_neg howned).trans (if_neg hfits))

theorem exec_windowWrite_ok {s : State} {i : Fin 8} {v : DWord} (hb : winEn v = true → winBase v + winNb v ≤ 511)
    (hm : s.MayWriteWindow i v) : exec (.windowWrite (BitVec.ofNat 3 i.val) v) s
      = .next { s with core := { s.core with wins := s.core.wins.set i (windowWord s.core v) } } := by
  have hi : (BitVec.ofNat 3 i.val).toFin = i := Fin.ext (Nat.mod_eq_of_lt i.isLt)
  show s.writeWindow (BitVec.ofNat 3 i.val).toFin v .next = _
  rw [hi, writeWindow_ok hb hm]

theorem writeStrand_ok {s : State} {pos : Nat} {v : DWord} (hf : s.focus = .work pos) (hp : s.priv ≠ 0)
    (hc : s.priv = 1 → bitsAt 52 12 v = s.ctx ∨ s.inSubtree s.ctx (bitsAt 52 12 v) = true) (j : Nat) (k : State → Res) :
    s.writeStrand j v k = k (s.setStrand pos j v) := by
  have hmay : ¬ (s.priv = 1 ∧ (!(bitsAt 52 12 v == s.ctx || s.inSubtree s.ctx (bitsAt 52 12 v))) = true) := by
    rintro ⟨h1, hno⟩
    rcases hc h1 with h | h <;> simp [h] at hno
  unfold State.writeStrand
  rw [hf]
  exact (if_neg hp).trans (if_neg hmay)

/-- No tile is new where BZMAP's ACM loses tiles alone. -/
theorem newTiles_eq_zero {v old : DWord} (h : acm v &&& (0xFFFF ^^^ acm old) = 0) : (acm v ^^^ acm old) &&& acm v = 0 := by
  apply Nat.eq_of_testBit_eq
  intro i
  have hi := congrArg (fun n => Nat.testBit n i) h
  have hmask : Nat.testBit 0xFFFF i = decide (i < 16) := Nat.testBit_two_pow_sub_one (n := 16) ..
  simp only [Nat.testBit_and, Nat.testBit_xor, hmask, acm, testBit_bitsAt, Nat.zero_testBit] at hi ⊢
  generalize v.getLsbD (32 + i) = a at hi ⊢
  generalize old.getLsbD (32 + i) = b at hi ⊢
  generalize decide (i < 16) = m at hi ⊢
  revert a b m
  decide

theorem writeBzmap_ok {s : State} {pos : Nat} {v : DWord} (hf : s.focus = .work pos) (hp : s.priv ≠ 0)
    (hz : s.bezelCount s.focus = 0)
    (hg : ((acm v ||| bwm v) ||| brm v) &&& (0xFFFF ^^^ s.bezelGrant s.ctx (posOctet pos)) = 0)
    (ht : acm v &&& (0xFFFF ^^^ acm s.core.bzmap) = 0) (k : State → Res) :
    s.writeBzmap v k = k { s with core := { s.core with bzmap := setBits 0 48 (bitsAt 0 48 v) s.core.bzmap } } := by
  have hmay (others : Nat) : ¬ (((acm v ||| bwm v) ||| brm v) &&& (0xFFFF ^^^ s.bezelGrant s.ctx (posOctet pos)) ≠ 0
      ∨ 0 &&& others ≠ 0) := by simp [hg]
  unfold State.writeBzmap
  split
  case h_1 q hq =>
    obtain rfl : q = pos := CoreId.work.inj (hq.symm.trans hf)
    rw [newTiles_eq_zero ht]
    exact (if_neg hp).trans ((if_neg (not_not.2 hz)).trans (if_neg (hmay _)))
  case h_2 hno => exact absurd hf (hno pos)

end Sys2Proof.Machine
end

section
/-!
SUPPORT. The writes of control space and of boot that act (R126, R398, R410, R416, R423), and what is done to Hallmark, the
link and the boot flash (R420 to R425, R430), each by its cases.
-/

namespace Sys2Proof.Machine

/-- A step to a state is a step to any that equals it. -/
theorem next_congr {t u : State} (h : t = u) : (.next t : Res) = .next u := congrArg _ h

/-! ## BEND (R126, R423, R425) -/

theorem exec_bendWrite (s : State) (v : DWord) : exec (.bendWrite v) s = .next (if bitAt 0 v then s.bend else s) := rfl

/-- The logical index that a router takes at the end of boot mode (R122). -/
def bootLci (s : State) (pos : Nat) (r : Router) : BitVec 14 :=
  if r.val then BitVec.ofNat 14 (r.lidx.toNat + (Sparse.get 0 s.hub.diebase (pos / 1024)).toNat) else r.lci

theorem bend_ok {s : State} (hb : s.hub.bended = false) (hok : s.bendOk = true) :
    s.bend.hub = { s.hub with boot := false, bended := true, bfail := false }
    ∧ s.bend = { s with core := s.bend.core, others := s.bend.others, hub := s.bend.hub }
    ∧ ∀ pos, s.focus = .work pos → s.bend.core = { s.core with
        wins := Vector.replicate 8 0, router := { s.core.router with lci := bootLci s pos s.core.router } } := by
  simp only [State.bend, hb, hok, Bool.false_eq_true, if_false, if_true]
  refine ⟨rfl, rfl, fun pos hf => ?_⟩
  simp only [State.mapCores, hf]
  rfl

theorem bend_fails {s : State} (hb : s.hub.bended = false) (hok : s.bendOk = false) :
    s.bend = { s with hub := { s.hub with bfail := true, recovery := true } } := by
  simp only [State.bend, hb, hok, Bool.false_eq_true, if_false]

theorem bend_ended {s : State} (hb : s.hub.bended = true) : s.bend = s := if_pos hb

/-! ## VFIRQ, FBDOM.LOST and SCRUN (R398, R416, Table 15.1) -/

theorem exec_vfirqWrite (s : State) (v : DWord) : exec (.vfirqWrite v) s = .next (s.vfirq v) := rfl

theorem vfirq_raises {s : State} {v : DWord} (hv : v.toNat < 512) (hm : (s.func v.toNat).msix = true) :
    s.vfirq v = { s with hub := { s.hub with out := s.hub.out ++ [.irq v.toNat] } } := if_pos ⟨hv, hm⟩

theorem vfirq_ignored {s : State} {v : DWord} (h : 512 ≤ v.toNat ∨ (s.func v.toNat).msix = false) : s.vfirq v = s := by
  refine if_neg ?_
  rintro ⟨hv, hm⟩
  rcases h with h | h
  · omega
  · exact Bool.false_ne_true (h.symm.trans hm)

theorem exec_fbdomLostClear (s : State) (d q : Nat) : exec (.fbdomLostClear d q) s = .next (s.lostClear d q) := rfl

theorem lostClear_restarts {s : State} {d : Nat} (h : (Sparse.get 0 s.fab.fbdom d).getLsbD 62 = true) :
    s.lostClear d 3 = { s with fab := { s.fab with
      fbdom := Sparse.set 0 s.fab.fbdom d (Sparse.get 0 s.fab.fbdom d &&& 0xBFFFFFFFFFFFFFFF)
      outs := s.fab.outs.filter fun e => e.1 % 64 != d
      ins := s.fab.ins.filter fun e => e.1 % 64 != d } } := by
  rw [← setBits_lost]
  refine if_neg ?_
  rintro (hq | hno)
  · exact absurd hq (by decide)
  · rw [bitAt, h] at hno
    exact Bool.false_ne_true hno

theorem lostClear_ignored {s : State} {d q : Nat} (h : q < 3 ∨ (Sparse.get 0 s.fab.fbdom d).getLsbD 62 = false) :
    s.lostClear d q = s := by
  refine if_pos ?_
  rcases h with h | h
  · exact .inl h
  · exact .inr (by rw [bitAt, h]; rfl)

theorem exec_scrunWrite (s : State) (p : Nat) (v : DWord) : exec (.scrunWrite p v) s = .next (s.scrun p v) := rfl

theorem scrun_restarts {s : State} {p : Nat} {v : DWord} (hr : (s.coreAt (.service p)).run = .stopped) (ha : v.toNat % 4 = 0)
    (hv : v.toNat < 2 ^ 18) : s.scrun p v = s.setCore (.service p) { s.coreAt (.service p) with
      run := .service, pc := v.setWidth 18, regs := { Regs.reset with p := Vector.replicate 8 0 },
      tsw := { Tsw.reset with priv := 2 }, traps := TrapRegs.reset, wait := none, rep := none } := if_pos ⟨hr, ha, hv⟩

theorem scrun_ignored {s : State} {p : Nat} (hr : (s.coreAt (.service p)).run ≠ .stopped) (v : DWord) : s.scrun p v = s :=
  if_neg fun h => hr h.1

/-! ## Registers of control space (R410) -/

theorem exec_registerWrite_ctl {pa priv : Nat} (ha : pa % 8 = 0) (hp : 2 ≤ priv) (s : State) (v : DWord) :
    exec (.registerWrite (.ctl pa priv) v) s
      = .next (s.ctlWrite (if 3 ≤ priv then .root else .other) priv (ctlAt pa) v true) := by
  have hpa : pa / 8 * 8 = pa := by omega
  refine (if_neg (by omega : ¬ priv < 2)).trans ?_
  rw [hpa]

theorem exec_registerWrite_ctl_unprivileged {priv : Nat} (hp : priv < 2) (s : State) (pa : Nat) (v : DWord) :
    exec (.registerWrite (.ctl pa priv) v) s = .next s := if_pos hp

theorem ctlAt_diebase {d : Nat} (h : d < 9) : ctlAt (0xC000010200 + 8 * d) = .diebase d := by
  interval_cases d <;> rfl

theorem ctlAt_imp {i : Nat} (h : i < 64) : ctlAt (0xC000031000 + 8 * i) = .imp i := by
  interval_cases i <;> rfl

theorem ctlWrite_fbe2e (s : State) (v : DWord) : s.ctlWrite .root 3 .fbe2e v true
    = { s with fab := { s.fab with fbe2e := (v.extractLsb' 0 28).zeroExtend 64 } } := by
  rw [← dw_mod_two_pow]; rfl

/-! ## Hallmark and the boot flash (R420, R422, R430) -/

theorem exec_registerWrite_extend {i : Nat} (h : i ≠ 4) (bs : List Byte) (s : State) (v : DWord) :
    exec (.registerWrite (.extend i bs) v) s
      = .next (if i = 2 ∨ i = 3 ∨ (5 ≤ i ∧ i < 29) then s.extend i (Config.sm3 bs) else s) := if_neg h

theorem exec_signatureFailed (s : State) (v : DWord) : exec (.registerWrite .signatureFailed v) s
    = .next (if s.hub.boot then s.onHub fun h => { h with recovery := true } else s) := rfl

theorem exec_ownerCert (s : State) (bs : List Byte) (v : DWord) : exec (.registerWrite (.ownerCert bs) v) s
    = .next { s with hub := { s.hub with ownerCert := s.hub.ownerCert.or (some bs) } } := rfl

theorem exec_linkEnable (s : State) (v : DWord) : exec (.registerWrite .linkEnable v) s
    = .next (if s.hub.recovery then s else s.onHub fun h => { h with link := true }) := rfl

theorem exec_flashRead (s : State) (a n : Nat) (v : DWord) : exec (.registerWrite (.flashRead a n) v) s
    = .next { s with hub := { s.hub with
        out := s.hub.out ++ [.flash ((List.range n).map fun j => Sparse.get 0 s.hub.flash (a + j))] } } := by
  rw [← memRead_eq]; rfl

/-- The bytes of a write to memory, by their positions. -/
theorem memWrite_get_of_getElem? (m : Mem) (a : Nat) {bs : List Byte} {j : Nat} {x : Byte} (h : bs[j]? = some x) :
    Sparse.get 0 (memWrite m a bs) (a + j) = x := by
  obtain ⟨hj, rfl⟩ := List.getElem?_eq_some_iff.1 h
  rw [memWrite_get_in m a bs hj, List.getD_eq_getElem _ _ hj]

end Sys2Proof.Machine
end

section
/-!
SUPPORT. The writes of control registers, control space and boot: what a completed write leaves in its register, and the two
statements about them (O36, O56), each put together from the lemmas above.
-/

namespace Sys2Proof.Machine

/-! ## What a completed write leaves in the register -/

/-- The owner that a write gives a window lies above the fields that the write reaches (Table 04.4). -/
theorem getLsbD_windowWord (c : Core) (v : DWord) {j : Nat} (hj : j < 52) :
    (windowWord c v).getLsbD j = (v.getLsbD j && winMask.getLsbD j) := by
  have howner (m : Nat) : (dw (2 ^ 52 * m)).getLsbD j = false := by
    rw [dw, BitVec.getLsbD_ofNat, Nat.testBit_two_pow_mul, decide_eq_false (show ¬ j ≥ 52 by omega), Bool.false_and, Bool.and_false]
  have hnone : (dw (2 ^ 58)).getLsbD j = false := by
    rw [show 2 ^ 58 = 2 ^ 52 * 2 ^ 6 by norm_num, howner]
  rw [windowWord, BitVec.getLsbD_or, BitVec.getLsbD_and]
  cases c.slot? with
  | none => rw [hnone, Bool.or_false]
  | some n => rw [howner, Bool.or_false]

theorem winEn_windowWord (c : Core) (v : DWord) : winEn (windowWord c v) = winEn v := by
  have hmask : winMask.getLsbD 51 = true := by decide
  rw [winEn, bitAt, getLsbD_windowWord c v (by decide), hmask, Bool.and_true]; rfl

theorem winBase_windowWord (c : Core) (v : DWord) : winBase (windowWord c v) = winBase v := by
  have hmask : ∀ j, j < 18 → winMask.getLsbD j = true := by decide
  apply bitsAt_congr
  intro j _ hj
  rw [getLsbD_windowWord c v (by omega), hmask j (by omega), Bool.and_true]

/-- A strand entry keeps its EN, on a fused router too (R128, Table 04.5). -/
theorem setStrand_enabled (s : State) (pos : Nat) {k : Nat} (hk : k < 16) (v : DWord) :
    ((s.setStrand pos k v).strandAt (.router pos) k).getLsbD 31 = v.getLsbD 31 := by
  have hmask : strandMask.getLsbD 31 = true := by decide
  have hword : (v &&& strandMask).getLsbD 31 = v.getLsbD 31 := by rw [BitVec.getLsbD_and, hmask, Bool.and_true]
  simp only [State.setStrand, State.strandAt, hk, dif_pos, coreAt_modCore, Vector.getElem_set_self]
  split
  · rw [getLsbD_setBits (by decide), if_neg (by decide), hword]
  · exact hword

/-- Settles O36, clause by clause, from what each number's write is and what each acting write does. -/
theorem writingControlRegisters : Obligations.WritingControlRegisters := by
  unfold Obligations.WritingControlRegisters
  refine ⟨?_, ?_, ?_⟩
  · intro s v i c writes regs traps word win
    refine ⟨writesCr_plain (.inl (by decide)) rfl, writesCr_plain (.inl (by decide)) (writePlain_rm s v),
      writesCr_plain (.inl (by decide)) rfl, writesCr_plain (.inl (by decide)) rfl, ?readOnly, ?unprivileged, ?privileged,
      ?window, ?work, fun id => rfl, ?queues⟩
    case readOnly =>
      intro num hn
      simp only [List.mem_cons, List.not_mem_nil, or_false] at hn
      refine writesCr_plain ?_ (writePlain_readOnly s v ?_)
      · unfold PlainNumber; omega
      · simp only [List.mem_cons, List.not_mem_nil, or_false]; omega
    case unprivileged =>
      intro hp num hn
      refine writesCr_plain ?_ (writePlain_unprivileged hp v hn)
      simp only [List.mem_cons, List.not_mem_nil, or_false] at hn
      unfold PlainNumber; omega
    case privileged =>
      intro hp
      exact ⟨writesCr_plain (.inl (by decide)) (writePlain_xbound hp v), writesCr_plain (.inl (by decide)) (writePlain_ovh hp v),
        writesCr_plain (.inl (by decide)) (writePlain_tpc hp v), writesCr_plain (.inl (by decide)) (writePlain_ovret hp v)⟩
    case window =>
      intro hb hm
      exact ⟨writesCr_of fun k => (writeCr_window s i v k).trans (writeWindow_ok hb hm k), exec_windowWrite_ok hb hm⟩
    case work =>
      intro pos hf hp
      refine ⟨fun j hc => ⟨writesCr_of fun k => ?_, writeStrand_ok hf hp hc j.toNat .next⟩,
        fun hz hg ht => ⟨writesCr_of fun k => ?_, writeBzmap_ok hf hp hz hg ht .next⟩, writesCr_of (writeCr_prqdone hf hp v)⟩
      · exact (writeCr_strand hf hp j v k).trans (writeStrand_ok hf hp hc j.toNat k)
      · exact (writeCr_bzmap hf hp v k).trans (writeBzmap_ok hf hp hz hg ht k)
    case queues => exact fun p i hf hp hi => writesCr_of (writeCr_sq hf hp hi v)
  · intro s v p d hub ro lci
    refine ⟨?bend, ?noBend, ?vfirq, ?noVfirq, ?lost, ?noLost, ?scrun, ?noScrun, ?unprivileged, ?diebase, ?imports, ?fbe2e⟩
    case bend =>
      intro hv hb
      rw [exec_bendWrite, bitAt, if_pos hv]
      exact ⟨fun hok => ⟨s.bend, rfl, bend_ok hb hok⟩, fun hok => next_congr (bend_fails hb hok)⟩
    case noBend =>
      rintro (hv | hb)
      · rw [exec_bendWrite, bitAt, hv]; rfl
      · rw [exec_bendWrite, bend_ended hb, ite_self]
    case vfirq => exact fun hv hm => next_congr (vfirq_raises hv hm)
    case noVfirq => exact fun h => next_congr (vfirq_ignored h)
    case lost => exact fun h => next_congr (lostClear_restarts h)
    case noLost => exact fun q h => next_congr (lostClear_ignored h)
    case scrun => exact fun hr ha hv => next_congr (scrun_restarts hr ha hv)
    case noScrun => exact fun hr => next_congr (scrun_ignored hr v)
    case unprivileged =>
      exact fun pa => ⟨exec_registerWrite_ctl_unprivileged (by decide) s pa v,
        exec_registerWrite_ctl_unprivileged (by decide) s pa v⟩
    case diebase =>
      intro hd
      rw [exec_registerWrite_ctl (by omega) (by decide), exec_registerWrite_ctl (by omega) (by decide), ctlAt_diebase hd]
      exact ⟨rfl, rfl⟩
    case imports =>
      intro i hi
      rw [exec_registerWrite_ctl (by omega) (by decide), ctlAt_imp hi]
      rfl
    case fbe2e => exact next_congr (ctlWrite_fbe2e s v)
  · intro s v i bs a n write hub
    refine ⟨?extend, rfl, ?noExtend, ?failed, ?noFailed, ?cert, ?noCert, ?link, ?noLink, ?flashWrite, exec_flashRead s a n v, rfl⟩
    case extend =>
      intro hi
      exact (exec_registerWrite_extend (by omega) bs s v).trans (next_congr (if_pos hi))
    case noExtend =>
      intro hi
      exact (exec_registerWrite_extend (by omega) bs s v).trans (next_congr (if_neg (by omega)))
    case failed => exact fun hb => (exec_signatureFailed s v).trans (next_congr (if_pos hb))
    case noFailed =>
      exact fun hb => (exec_signatureFailed s v).trans (next_congr (if_neg (Bool.eq_false_iff.1 hb)))
    case cert => exact fun hc => (exec_ownerCert s bs v).trans (by rw [hc]; rfl)
    case noCert => exact fun old hc => (exec_ownerCert s bs v).trans (by rw [hc, Option.some_or, ← hc])
    case link =>
      exact fun hr => (exec_linkEnable s v).trans (next_congr (if_neg (Bool.eq_false_iff.1 hr)))
    case noLink => exact fun hr => (exec_linkEnable s v).trans (next_congr (if_pos hr))
    case flashWrite =>
      exact ⟨memWrite s.hub.flash a bs, rfl, fun j x hx => memWrite_get_of_getElem? _ _ hx,
        fun q hq => memWrite_get_out _ _ _ hq⟩

/-- Settles O56: each write goes on, by its lemma, and what it leaves in its register is read off the state it gives. -/
theorem registerWritesComplete : Obligations.RegisterWritesComplete := by
  unfold Obligations.RegisterWritesComplete
  intro s v num a i k j p d pos id c held
  refine ⟨?plain, ?window, ?strand, ?bzmap, ⟨_, rfl, rfl⟩, ?scrun, ?bend, ?vfirq, ?lost⟩
  case plain =>
    intro hn
    have heldAfter (w : DWord) (n : LAddr) : held n ((s.writePlain num.toNat w).atPc n) :=
      congrArg (fun t => t.atPc n) (writePlain_frame s num.toNat w)
    have hpc (w : DWord) : (s.writePlain num.toNat w).core.pc = c.pc := by rw [writePlain_frame]
    refine ⟨⟨_, ?_, heldAfter (s.rs a) _⟩, ⟨_, ?_, heldAfter (i.setWidth 64) _⟩, ⟨_, ?_, heldAfter v _⟩⟩
    · rw [exec_setc, writeCr_plain s hn, done_eq, hpc]; rfl
    · rw [exec_setcImm, writeCr_plain s hn, done_eq, hpc]; rfl
    · rw [exec_registerWrite_cr, writeCr_plain s hn, ← hpc v]; rfl
  case window =>
    intro hp hb
    have hword := Vector.getElem_set_self (xs := c.wins) (x := windowWord c v) k.isLt
    exact ⟨_, exec_windowWrite_ok hb (.inl hp), (congrArg winEn hword).trans (winEn_windowWord c v),
      (congrArg winBase hword).trans (winBase_windowWord c v),
      congrArg (fun w => { s with core := { c with wins := c.wins.set k w } }) hword.symm⟩
  case strand => exact fun hf hp hc => ⟨_, writeStrand_ok hf hp hc j.toNat .next, setStrand_enabled s pos j.isLt v⟩
  case bzmap =>
    exact fun hf hp hz hg ht => ⟨_, writeBzmap_ok hf hp hz hg ht .next, bitsAt_setBits_low (by decide) (by decide) v _, rfl⟩
  case scrun =>
    intro hr ha hv
    exact ⟨_, next_congr (scrun_restarts hr ha hv), by rw [coreAt_setCore], by rw [coreAt_setCore]⟩
  case bend =>
    intro hv hb hok
    obtain ⟨hhub, -⟩ := bend_ok hb hok
    exact ⟨s.bend, by rw [exec_bendWrite, bitAt, if_pos hv], by rw [hhub], by rw [hhub]⟩
  case vfirq => exact fun hv hm => ⟨_, next_congr (vfirq_raises hv hm), rfl⟩
  case lost =>
    intro h
    refine ⟨_, next_congr (lostClear_restarts h), ?_⟩
    rw [Sparse.get_set_self, ← setBits_lost, getLsbD_setBits (by decide), if_pos (by decide)]
    rfl

end Sys2Proof.Machine
end

section
/-!
SUPPORT. What a load reads: bytes that nothing pending touches, and the newest store over exactly its bytes (R26, R29, R113; obligation O11).
-/

namespace Sys2Proof.Machine

/-- The bytes of a read, source by source. -/
theorem map_byte_zipIdx (f : Nat → ByteSrc) (m : List Byte) (n : Nat) :
    ((List.range n).map f).zipIdx.map (fun e => e.1.byte (m.getD e.2 0)) = (List.range n).map fun i => (f i).byte (m.getD i 0) := by
  apply List.ext_getElem
  · simp
  · intro i hi hj
    simp

/-- What the uncoded bytes of a block read as. -/
theorem ram_read_uncoded {r : Ram} {pa : Nat} (h : r.code (pa / 1024) = 0) (cmp : BitVec 2) (n : Nat) :
    r.read cmp pa n = some ((List.range n).map fun j => Sparse.get 0 r.bytes (pa + j)) := by
  rw [Ram.read, if_pos h, memRead_eq]

/-- A read of the device whose every byte comes from memory, unpoisoned and uncoded. -/
theorem devRead_memory {s : State} {skip : Bool} {t : Target} {pa n : Nat} (hpa : pa < hbmEnd)
    (hsrc : ∀ i, i < n → s.byteSrc skip (.dev (pa + i)) = .memory) (hpoison : s.ram.poisoned pa = false)
    (hcode : s.ram.code (pa / 1024) = 0) :
    s.devRead skip t pa n = .ok ((List.range n).map fun j => Sparse.get 0 s.ram.bytes (pa + j)) := by
  have hsrcs : (List.range n).map (fun i => s.byteSrc skip (.dev (pa + i))) = (List.range n).map fun _ => .memory :=
    List.map_congr_left fun i hi => hsrc i (List.mem_range.1 hi)
  have hwait : ((List.range n).map fun _ => ByteSrc.memory).contains .wait = false := by simp
  unfold State.devRead
  simp only [if_neg (Nat.not_le.2 hpa), hsrcs, hwait, hpoison, Bool.and_false, Bool.false_eq_true, if_false,
    ram_read_uncoded hcode, map_byte_zipIdx]
  congr 1
  apply List.map_congr_left
  intro i hi
  simp [ByteSrc.byte, List.mem_range.1 hi]

/-- A read of the device whose every byte the core itself holds needs nothing of memory (R26). -/
theorem devRead_held {s : State} {skip : Bool} {t : Target} {pa n : Nat} (hpa : pa < hbmEnd) {b : Nat → Byte}
    (hsrc : ∀ i, i < n → s.byteSrc skip (.dev (pa + i)) = .held (b i)) :
    s.devRead skip t pa n = .ok ((List.range n).map b) := by
  have hsrcs : (List.range n).map (fun i => s.byteSrc skip (.dev (pa + i))) = (List.range n).map fun i => .held (b i) :=
    List.map_congr_left fun i hi => hsrc i (List.mem_range.1 hi)
  have hwait : ((List.range n).map fun i => ByteSrc.held (b i)).contains .wait = false := by simp
  have hmemory : ((List.range n).map fun i => ByteSrc.held (b i)).contains .memory = false := by simp
  have hport : ((List.range n).map fun i => ByteSrc.held (b i)).any (·.fromPort) = false := by
    simp [ByteSrc.fromPort]
  unfold State.devRead
  simp only [if_neg (Nat.not_le.2 hpa), hsrcs, hwait, hmemory, hport, Bool.false_and, Bool.false_eq_true, if_false]
  cases s.ram.read t.cmp pa n with
  | some m => exact congrArg DevRead.ok (map_byte_zipIdx _ m n)
  | none => simp [Function.comp_def, ByteSrc.byte]

/-- An empty write queue holds nothing for a line. -/
theorem port_line_empty {p : Port} (h : p.queue = []) (pa : Nat) : p.line pa = [] := by
  rw [Port.line, h]; rfl

/-- With nothing pending a byte of the device comes from memory (R26, R28). -/
theorem byteSrc_quiet {s : State} {pa : Nat} (hopen : s.core.openB = []) (hcommitted : s.core.committed = [])
    (horder : s.orderAt s.focus.die = []) (hport : (s.port (portOf pa)).queue = []) (skip : Bool) :
    s.byteSrc skip (.dev pa) = .memory := by
  unfold State.byteSrc
  dsimp only
  rw [hopen, hcommitted, horder, port_line_empty hport]
  cases skip <;> rfl

/-- The bytes of one block are at one port (R23). -/
theorem portOf_of_block {pa q : Nat} (h : pa / 1024 = q / 1024) : portOf pa = portOf q := by
  rw [portOf, portOf, h]

/-- The newest of several pending operations that concerns a byte is the last, where it holds a value. -/
theorem newest_append_value {α : Type} {f : α → Pending} {e : α} {b : Byte} (h : f e = .value b) (older : List α) :
    newest f (older ++ [e]) = .value b := by
  rw [newest, List.foldl_append, List.foldl_cons, h]
  rfl

/-- A byte within a store of the open region, the youngest, is the stored one (R26). -/
theorem byteSrc_own_store {s : State} {older : List Entry} {e : Entry} {t : Target} {pa i : Nat} {bs : List Byte}
    (hopen : s.core.openB = older ++ [e]) (he : e.kind = .store t bs (List.range bs.length)) (ht : t.place = .dev pa)
    (hi : i < bs.length) (skip : Bool) : s.byteSrc skip (.dev (pa + i)) = .held (bs.getD i 0) := by
  have hoff : t.place.offset bs.length (.dev (pa + i)) = some i := by
    rw [ht, Place.offset, if_pos ⟨rfl, Nat.le_add_right pa i, Nat.add_lt_add_left hi pa⟩]
    exact congrArg some (Nat.add_sub_cancel_left pa i)
  have hat : e.kind.at false (.dev (pa + i)) = .value (bs.getD i 0) := by
    rw [he]
    simp [EntryKind.at, hoff, hi]
  unfold State.byteSrc
  dsimp only
  rw [hopen, newest_append_value (f := fun e : Entry => e.kind.at false (.dev (pa + i))) hat]
  rfl

/-- What a load of device memory brings where no earlier version of its line is open to it (R29). -/
theorem loaded_present {s : State} {skip : Bool} {t : Target} {pa n : Nat} (ht : t.place = .dev pa)
    (hold : s.olderLines s.focus pa = []) (bs : List Byte) : s.loaded skip t n bs = (s, bs) := by
  have hmeet : s.meetLine pa n bs = (s, bs) := by rw [State.meetLine, hold]; rfl
  rw [State.loaded, ht]
  simp only [hmeet, ite_self]

/-- Settles O11: a quiet load reads memory; one of its own youngest open store reads that store. -/
theorem whatALoadReads : Obligations.WhatALoadReads := by
  unfold Obligations.WhatALoadReads
  constructor
  · intro s skip t pa n va ht hend hblock hn hopen hcommitted horder hport hpoison hcode bs
    have hsrc : ∀ i, i < n → s.byteSrc skip (.dev (pa + i)) = .memory := by
      intro i hi
      refine byteSrc_quiet hopen hcommitted horder ?_ skip
      rw [portOf_of_block (show (pa + i) / 1024 = pa / 1024 by omega)]
      exact hport
    refine ⟨?_, fun hold => loaded_present ht hold bs⟩
    rw [State.readTarget, ht]
    simp only [devRead_memory (t := t) (show pa < hbmEnd by omega) hsrc hpoison hcode]
    rfl
  · rintro s skip t pa n va older e bs ht hend hn rfl hopen he
    have hsrc : ∀ i, i < bs.length → s.byteSrc skip (.dev (pa + i)) = .held (bs.getD i 0) :=
      fun i hi => byteSrc_own_store hopen he ht hi skip
    have hbytes : (List.range bs.length).map (fun i => bs.getD i 0) = bs := by
      apply List.ext_getElem
      · simp
      · intro i hi hj
        simp [hj]
    rw [State.readTarget, ht]
    simp only [devRead_held (t := t) (show pa < hbmEnd by omega) hsrc, hbytes]

end Sys2Proof.Machine
end

section
/-!
SUPPORT. Ordering points, ports, queued reads and the patrol (R28, R239 to R263, R432; obligation O38).
-/

namespace Sys2Proof.Machine

/-! ## What an ordering point puts aside (R29) -/

/-- The versions of its lines that an operation puts aside: all of memory besides stays. -/
theorem putAside_eq (s : State) (die : Nat) (o : PortOp) : s.putAside die o = { s with
    ram := { s.ram with old := (s.putAside die o).ram.old, oldNext := (s.putAside die o).ram.oldNext } } := by
  have hlines (lines : List Nat) (r : Ram) : ∃ old n, lines.foldl (fun r line => { r with
      old := r.old ++ [⟨line, s.lineNow o.cmp line, (List.range 10).filter (· != die), r.oldNext⟩]
      oldNext := r.oldNext + 1 }) r = { r with old := old, oldNext := n } := by
    induction lines generalizing r with
    | nil => exact ⟨r.old, r.oldNext, rfl⟩
    | cons line lines ih =>
      obtain ⟨old, n, h⟩ := ih _
      exact ⟨old, n, h⟩
  unfold State.putAside State.onRam
  dsimp only
  split
  · rfl
  · obtain ⟨old, n, h⟩ := hlines o.lines { s.ram with old := s.ram.old.filterMap (OldLine.lapse die o) }
    rw [h]

/-- An operation has left its ordering point, and what its lines held is put aside. -/
def State.leftPoint (s : State) (die i : Nat) (o : PortOp) : State :=
  (s.putAside die o).onRam fun r => { r with order := Sparse.set [] r.order die ((s.orderAt die).eraseIdx i) }

theorem leftPoint_eq (s : State) (die i : Nat) (o : PortOp) : s.leftPoint die i o = { s with ram := { s.ram with
    order := Sparse.set [] s.ram.order die ((s.orderAt die).eraseIdx i)
    old := (s.putAside die o).ram.old, oldNext := (s.putAside die o).ram.oldNext } } := by
  rw [State.leftPoint, putAside_eq]
  rfl

/-- An operation that nothing before it holds back passes to its port, or takes its granule or its block. -/
theorem exec_orderingPointPass {s : State} {die i : Nat} {o : PortOp} (ho : (s.orderAt die)[i]? = some o)
    (hready : s.passReady die i = true) : exec (.orderingPointPass die i) s =
      match o.kind with
      | .poisonclr => .next (((s.leftPoint die i o).clearGranule o.cmp o.pa (List.replicate 4096 0)).answer o.ack .ack)
      | .granule bs => .next (((s.leftPoint die i o).clearGranule o.cmp o.pa bs).answer o.ack .ack)
      | .block bs => .next (((s.leftPoint die i o).onRam fun r => r.putBlock o.cmp (o.pa / 1024) bs).answer o.ack .ack)
      | _ => .next ((s.leftPoint die i o).setPort (portOf o.pa) { (s.leftPoint die i o).port (portOf o.pa) with
          queue := enqueue (o.pa / 128) o ((s.leftPoint die i o).port (portOf o.pa)).queue }) := by
  show execOrderingPointPass die i s = _
  unfold execOrderingPointPass
  rw [ho, hready]
  dsimp only
  cases o.kind <;> rfl

/-- An operation of one line puts aside what the line holds. -/
theorem putAside_line {s : State} {die line : Nat} {o : PortOp} (hl : o.lines = [line]) (hg : o.kind.wholeGranule = false)
    (hp : s.ram.poisoned o.pa = false) :
    (s.putAside die o).ram.old = s.ram.old.filterMap (OldLine.lapse die o)
      ++ [⟨line, s.lineNow o.cmp line, (List.range 10).filter (· != die), s.ram.oldNext⟩]
    ∧ (s.putAside die o).ram.oldNext = s.ram.oldNext + 1 := by
  unfold State.putAside State.onRam
  simp only [hp, hg, hl, Bool.false_eq_true, or_self, if_false, List.foldl_cons, List.foldl_nil, and_self]

/-! ## A granule that is cleared (R262, R263) -/

theorem getD_zeros (j : Nat) : (List.replicate 1024 (0 : Byte)).getD j 0 = 0 := by
  by_cases h : j < 1024
  · exact List.getD_replicate _ h
  · exact List.getD_eq_default _ _ (by rw [List.length_replicate]; omega)

/-- Blocks written raw with zeros `d`: they hold zeros, uncoded, and all else of memory stays. -/
theorem zeroBlocks {d : List Byte} (hlen : d.length = 1024) (hzero : ∀ j, d.getD j 0 = 0) (b : Nat) (l : List Nat) (r : Ram) :
    ∃ codes bytes, l.foldl (fun r i => r.putBlock 0 (b + i) d) r = { r with codes := codes, bytes := bytes }
      ∧ (∀ c, Sparse.get 0 codes c = if ∃ i ∈ l, c = b + i then 0 else r.code c)
      ∧ (∀ q, Sparse.get 0 bytes q = if ∃ i ∈ l, q / 1024 = b + i then 0 else Sparse.get 0 r.bytes q) := by
  induction l generalizing r with
  | nil => exact ⟨r.codes, r.bytes, rfl, fun c => by simp [Ram.code], fun q => by simp⟩
  | cons i l ih =>
    obtain ⟨codes, bytes, he, hc, hb⟩ := ih (r.putBlock 0 (b + i) d)
    refine ⟨codes, bytes, he, fun c => ?_, fun q => ?_⟩
    · rw [hc]
      simp only [Ram.code, Ram.putBlock, if_true, Sparse.get_set, List.mem_cons, exists_eq_or_imp]
      by_cases h : c = b + i <;> simp [h]
    · have hin : (1024 * (b + i) ≤ q ∧ q < 1024 * (b + i) + 1024) ↔ q / 1024 = b + i := by omega
      rw [hb]
      simp only [Ram.putBlock, if_true, memWrite_get, hlen, hzero, hin, List.mem_cons, exists_eq_or_imp]
      by_cases h : q / 1024 = b + i <;> simp [h]

theorem setPoison_marks (r : Ram) (pa : Nat) (on : Bool) : (r.setPoison pa on).marks
    = (List.range 4).foldl (fun m i => Sparse.set false m (4 * (pa / 4096) + i) on) r.marks := rfl

/-- The marks of a granule set or cleared together (R260). -/
theorem poisoned_setPoison {r : Ram} {pa q : Nat} (h : q / 4096 = pa / 4096) (on : Bool) : (r.setPoison pa on).poisoned q = on := by
  have hmarks (l : List Nat) (m : Sparse Bool) (k : Nat) (hk : k ∈ l ∨ Sparse.get false m (4 * (pa / 4096) + k) = on) :
      Sparse.get false (l.foldl (fun m i => Sparse.set false m (4 * (pa / 4096) + i) on) m) (4 * (pa / 4096) + k) = on := by
    induction l generalizing m with
    | nil => exact hk.resolve_left (List.not_mem_nil)
    | cons i l ih =>
      refine ih _ ?_
      by_cases hik : k = i
      · exact .inr (by rw [hik, Sparse.get_set_self])
      · rw [Sparse.get_set_ne _ _ _ (by omega)]
        exact hk.imp_left fun hm => (List.mem_cons.1 hm).resolve_left hik
  have hq : q / 1024 = 4 * (pa / 4096) + q / 1024 % 4 := by omega
  rw [Ram.poisoned, hq, setPoison_marks]
  exact hmarks _ _ _ (.inl (List.mem_range.2 (by omega)))

/-- Without a bitmap base a change of marks is all that it is. -/
theorem setPoison_rest {r : Ram} {pa : Nat} (h : bitsAt 25 15 (Sparse.get Port.reset r.ports (portOf pa)).mpcfg = 0) (on : Bool) :
    (r.setPoison pa on).bytes = r.bytes ∧ (r.setPoison pa on).codes = r.codes ∧ (r.setPoison pa on).order = r.order := by
  rw [Ram.setPoison]
  simp only [h, Nat.zero_mul, if_true, and_self]

theorem answer_ram (s : State) (a : PortAck) (e : FabricEnd) : (s.answer a e).ram = s.ram := by cases a <;> rfl

/-- A granule cleared raw is zero, uncoded and unpoisoned, and the bytes outside it stay. -/
theorem clearGranule_zero {s : State} {pa : Nat} (ha : pa % 4096 = 0) (hbase : bitsAt 25 15 (s.port (portOf pa)).mpcfg = 0) :
    let t := s.clearGranule 0 pa (List.replicate 4096 0)
    t.ram.order = s.ram.order
    ∧ (∀ j, j < 4096 → t.ram.poisoned (pa + j) = false ∧ t.ram.code ((pa + j) / 1024) = 0 ∧ Sparse.get 0 t.ram.bytes (pa + j) = 0)
    ∧ ∀ q, q < pa ∨ pa + 4096 ≤ q → Sparse.get 0 t.ram.bytes q = Sparse.get 0 s.ram.bytes q := by
  intro t
  obtain ⟨codes, bytes, he, hc, hb⟩ := zeroBlocks (d := List.replicate 1024 0) List.length_replicate
    getD_zeros (pa / 1024) [0, 1, 2, 3] s.ram
  have hram : t.ram = Ram.setPoison { s.ram with codes := codes, bytes := bytes } pa false := by
    have hzero (i : Nat) (hi : i ≤ 3) : ((List.replicate 4096 (0 : Byte)).drop (1024 * i)).take 1024 = List.replicate 1024 0 := by
      rw [List.drop_replicate, List.take_replicate, Nat.min_eq_left (by omega)]
    rw [← he]
    show Ram.setPoison ([0, 1, 2, 3].foldl _ s.ram) pa false = _
    simp only [List.foldl_cons, List.foldl_nil, hzero 0 (by omega), hzero 1 (by omega), hzero 2 (by omega), hzero 3 (by omega)]
  obtain ⟨hbytes, hcodes, horder⟩ := setPoison_rest (r := { s.ram with codes := codes, bytes := bytes }) hbase false
  refine ⟨by rw [hram]; exact horder, fun j hj => ⟨?_, ?_, ?_⟩, fun q hq => ?_⟩
  · rw [hram]
    exact poisoned_setPoison (by omega) false
  · rw [hram, Ram.code, hcodes, hc, if_pos]
    refine ⟨j / 1024, ?_, by omega⟩
    have : j / 1024 < 4 := by omega
    interval_cases j / 1024 <;> simp
  · rw [hram, hbytes, hb, if_pos]
    refine ⟨j / 1024, ?_, by omega⟩
    have : j / 1024 < 4 := by omega
    interval_cases j / 1024 <;> simp
  · rw [hram, hbytes, hb, if_neg]
    rintro ⟨i, hi, hq'⟩
    have : i < 4 := by simp at hi; omega
    omega

/-! ## What a port applies (R245, R250, R258) -/

section
variable {s : State} {m l : Nat} {o : PortOp} {ops : List PortOp} {rest : List (Nat × List PortOp)}
  (hq : (s.port m).queue = (l, o :: ops) :: rest)

/-- The state once the first operation of a port's oldest entry has left its queue. -/
def State.taken (s : State) (m l : Nat) (ops : List PortOp) (rest : List (Nat × List PortOp)) : State :=
  s.setPort m { s.port m with queue := if ops = [] then rest else (l, ops) :: rest }

theorem dequeue_eq (l : Nat) (o : PortOp) (ops : List PortOp) (rest : List (Nat × List PortOp)) :
    dequeue ((l, o :: ops) :: rest) = if ops = [] then rest else (l, ops) :: rest := by
  cases ops <;> rfl

include hq

/-- A port takes the first operation of its oldest entry and applies it. -/
theorem exec_writeQueueApply : exec (.writeQueueApply m) s = match (s.taken m l ops rest).ram.apply (s.port m) o with
    | .ok r old => ((s.taken m l ops rest).onRam fun _ => r).portEnd o (some old)
    | .poison r => ((s.taken m l ops rest).onRam fun _ => r).portEnd o none := by
  show execWriteQueueApply m s = _
  unfold execWriteQueueApply
  simp only [hq, dequeue_eq]
  rfl

/-- An operation that nobody awaits, applied. -/
theorem exec_apply_ok {r : Ram} {old : Nat} (hr : (s.taken m l ops rest).ram.apply (s.port m) o = .ok r old) (hack : o.ack = .none) :
    exec (.writeQueueApply m) s = .next ((s.taken m l ops rest).onRam fun _ => r) := by
  rw [exec_writeQueueApply hq, hr]
  unfold State.portEnd
  rw [hack]

end

/-- The bytes of uncoded blocks that a mask names, written one by one. -/
theorem writes_raw {bs : List Byte} {pa : Nat} (mask : List Nat) (hmask : mask.Nodup) (r : Ram)
    (hcode : ∀ j ∈ mask, r.code ((pa + j) / 1024) = 0) :
    ∃ mem, mask.foldl (fun r i => r.write 0 (pa + i) [bs.getD i 0]) r = { r with bytes := mem }
      ∧ (∀ j ∈ mask, Sparse.get 0 mem (pa + j) = bs.getD j 0)
      ∧ ∀ q, (∀ j ∈ mask, q ≠ pa + j) → Sparse.get 0 mem q = Sparse.get 0 r.bytes q := by
  induction mask generalizing r with
  | nil => exact ⟨r.bytes, rfl, fun j hj => absurd hj List.not_mem_nil, fun q _ => rfl⟩
  | cons i mask ih =>
    have hwrite : r.write 0 (pa + i) [bs.getD i 0] = { r with bytes := memWrite r.bytes (pa + i) [bs.getD i 0] } :=
      if_pos ⟨hcode i (List.mem_cons_self ..), rfl⟩
    obtain ⟨hi, hrest⟩ := List.nodup_cons.1 hmask
    obtain ⟨mem, he, hin, hout⟩ := ih hrest { r with bytes := memWrite r.bytes (pa + i) [bs.getD i 0] } fun j hj =>
      hcode j (List.mem_cons_of_mem _ hj)
    refine ⟨mem, by rw [List.foldl_cons, hwrite, he], fun j hj => ?_, fun q hq => ?_⟩
    · rcases List.mem_cons.1 hj with rfl | hj
      · rw [hout _ fun k hk h => hi (by rwa [show j = k by omega])]
        exact memWrite_get_in _ _ _ (j := 0) (by simp)
      · exact hin j hj
    · rw [hout q fun j hj => hq j (List.mem_cons_of_mem _ hj)]
      have := hq i (List.mem_cons_self ..)
      exact memWrite_get_out _ _ _ (by rw [List.length_singleton]; omega)

/-- The masked bytes of a store, on uncoded blocks. -/
theorem writeMask_raw {r : Ram} {bs : List Byte} {pa : Nat} {mask : List Nat} (hpos : 0 < bs.length)
    (hcode : ∀ j, j < bs.length → r.code ((pa + j) / 1024) = 0) (hmask : mask.Nodup) (hlt : ∀ j ∈ mask, j < bs.length) :
    ∃ mem, r.writeMask 0 pa bs mask = { r with bytes := mem } ∧ (∀ j ∈ mask, Sparse.get 0 mem (pa + j) = bs.getD j 0)
      ∧ ∀ q, (∀ j ∈ mask, q ≠ pa + j) → Sparse.get 0 mem q = Sparse.get 0 r.bytes q := by
  unfold Ram.writeMask
  split
  · rename_i hlen
    have hall : ∀ j, j < bs.length → j ∈ mask := by
      intro j hj
      have hsub : mask.toFinset ⊆ Finset.range bs.length := fun k hk => Finset.mem_range.2 (hlt k (List.mem_toFinset.1 hk))
      have heq := Finset.eq_of_subset_of_card_le hsub (by rw [List.toFinset_card_of_nodup hmask, hlen, Finset.card_range])
      exact List.mem_toFinset.1 (heq ▸ Finset.mem_range.2 hj)
    refine ⟨memWrite r.bytes pa bs, if_pos ⟨hcode 0 hpos, rfl⟩, fun j hj => memWrite_get_in _ _ _ (hlt j hj), fun q hq => ?_⟩
    refine memWrite_get_out _ _ _ (not_and_or.1 (fun ⟨h1, h2⟩ => hq (q - pa) (hall _ ?_) ?_) |>.imp not_le.1 not_lt.1)
    · omega
    · omega
  · exact writes_raw mask hmask r fun j hj => hcode j (hlt j hj)

/-- A block that reads as uncoded is not taken for undecodable. -/
theorem unread_raw {r : Ram} {p : Port} {o : PortOp} (h : r.code (o.pa / 1024) = 0) : r.unread p o = r := by
  have hread : r.read o.cmp (o.pa / 1024 * 1024) 1024 = some _ :=
    ram_read_uncoded (by rwa [Nat.mul_div_cancel _ (by decide)]) o.cmp 1024
  rw [Ram.unread, hread]
  exact if_neg fun ⟨h1, _⟩ => by simp at h1

/-- A store to uncoded blocks. -/
theorem apply_store {r : Ram} {p : Port} {o : PortOp} {bs : List Byte} {mask : List Nat} (hk : o.kind = .store bs mask) (hcmp : o.cmp = 0)
    (hcode : r.code (o.pa / 1024) = 0) : r.apply p o = .ok (r.writeMask 0 o.pa bs mask) 0 := by
  unfold Ram.apply
  dsimp only
  rw [hk, unread_raw hcode, hcmp]

/-- A scalar reduction of an uncoded, unpoisoned word. -/
theorem apply_red {r : Ram} {p : Port} {o : PortOp} {op : AmoOp} {n v : Nat} {y : DWord} (hk : o.kind = .red op n y) (hcmp : o.cmp = 0)
    (hcode : r.code (o.pa / 1024) = 0) (hp : r.poisoned o.pa = false)
    (hv : o.kind.scalar (valueOf ((List.range n).map fun j => Sparse.get 0 r.bytes (o.pa + j))) = some v) :
    r.apply p o = .ok { r with bytes := memWrite r.bytes o.pa (bytesOf n v) }
      (natOf ((List.range n).map fun j => Sparse.get 0 r.bytes (o.pa + j))) := by
  have hread := ram_read_uncoded (pa := o.pa) hcode o.cmp n
  have hwrite : r.write o.cmp o.pa (bytesOf n v) = { r with bytes := memWrite r.bytes o.pa (bytesOf n v) } := if_pos ⟨hcode, hcmp⟩
  rw [← natOf_eq] at hv
  unfold Ram.apply
  dsimp only
  rw [hk] at hv ⊢
  simp only [hp, hread, hv, hwrite, Bool.false_eq_true, if_false]

theorem apply_red_poison {r : Ram} {p : Port} {o : PortOp} {op : AmoOp} {n : Nat} {y : DWord} (hk : o.kind = .red op n y)
    (hp : r.poisoned o.pa = true) : r.apply p o = .poison r := by
  unfold Ram.apply
  dsimp only
  rw [hk]
  exact if_pos hp

/-- A reduction of absent elements alone does nothing. -/
theorem apply_absent {r : Ram} {p : Port} {o : PortOp} {k : ElemRed} (hk : o.kind = .elem k) (h : ∀ x ∈ k.elems, x.2 = absentOf k.fmt) :
    r.apply p o = .ok r 0 := by
  have hall : (k.elems.all fun e => !present k.fmt e.2) = true := List.all_eq_true.2 fun x hx => by simp [present, h x hx]
  unfold Ram.apply
  dsimp only
  rw [hk]
  exact if_pos hall

/-- A port serves its oldest queued read that nothing before it touches. -/
theorem exec_portRead {s : State} {m i : Nat} {r : PortRd} (hi : (s.port m).reads.findIdx? (s.port m).readReady = some i)
    (hr : (s.port m).reads[i]? = some r) : exec (.portRead m) s =
      let u := s.setPort m { s.port m with reads := (s.port m).reads.eraseIdx i }
      if u.ram.poisoned r.pa then .next (u.reply r.dev r.flow r.seq .poison)
      else match u.ram.read r.cmp r.pa r.n with
        | some bs => .next (u.reply r.dev r.flow r.seq (.data bs))
        | none => .next ((u.onRam fun x => x.found r.pa).reply r.dev r.flow r.seq .poison) := by
  show execPortRead m s = _
  unfold execPortRead
  simp only [hi, hr] <;> rfl

/-! ## The patrol (R260) -/

theorem bitsAt_setBits_high {v : Nat} (h : v < 2 ^ 32) (x : DWord) : bitsAt 32 32 (setBits 32 32 v x) = v := by
  have hx := x.isLt
  rw [bitsAt, setBits, dw, BitVec.toNat_ofNat]
  omega

theorem sat32_lt (n : Nat) : sat32 n < 2 ^ 32 := lt_of_le_of_lt (Nat.min_le_right _ _) (by norm_num)

theorem setPoison_ports (r : Ram) (pa : Nat) (on : Bool) : (r.setPoison pa on).ports = r.ports := by rw [Ram.setPoison]

/-- A block found uncorrectable is poisoned. -/
theorem found_poisoned (r : Ram) (pa : Nat) : (r.found pa).poisoned pa = true := by
  have hmarks : (r.found pa).marks = (r.setPoison pa true).marks := by rw [Ram.found]
  rw [Ram.poisoned, hmarks]
  exact poisoned_setPoison (r := r) (pa := pa) rfl true

/-- The port of a block found uncorrectable counts it. -/
theorem found_counts (r : Ram) (pa : Nat) : bitsAt 32 32 (Sparse.get Port.reset (r.found pa).ports (portOf pa)).mperr
    = Nat.min (bitsAt 32 32 (Sparse.get Port.reset r.ports (portOf pa)).mperr + 1) (2 ^ 32 - 1) := by
  rw [Ram.found, setPoison_ports, Sparse.get_set_self]
  exact bitsAt_setBits_high (sat32_lt _) _

/-- Settles O38: an operation passes its ordering point, a port applies one, a read is served, the patrol reads a block. -/
theorem orderingPointsAndPorts : Obligations.OrderingPointsAndPorts := by
  unfold Obligations.OrderingPointsAndPorts
  intro s die i m o p joined v raw
  refine ⟨fun ho hready => ⟨fun hgranule hblock => ?pass, fun line hl hg hp => putAside_line hl hg hp, fun hk hcmp ha hbase => ?clear⟩,
    fun l ops rest hq => ⟨?store, ?red, ?elem, ?poison⟩, fun r hi hr => ?read, fun hend => ⟨fun hcode => ?patrol, ?uncorrectable⟩⟩
  case pass =>
    rw [exec_orderingPointPass ho hready, leftPoint_eq]
    cases hk : o.kind with
    | granule bs => rw [hk] at hgranule; exact absurd hgranule.symm Bool.false_ne_true
    | poisonclr => rw [hk] at hgranule; exact absurd hgranule.symm Bool.false_ne_true
    | block bs => rw [hk] at hblock; exact absurd hblock.symm Bool.false_ne_true
    | _ => rfl
  case clear =>
    have hexec := exec_orderingPointPass ho hready
    rw [hk, leftPoint_eq, hcmp] at hexec
    obtain ⟨horder, hcleared, hrest⟩ := clearGranule_zero (s := s.leftPoint die i o) ha (by rw [leftPoint_eq]; exact hbase)
    rw [leftPoint_eq] at horder hcleared hrest
    refine ⟨_, hexec, ?_, ?_, ?_⟩
    · rw [State.orderAt, answer_ram, horder]
      exact Sparse.get_set_self ..
    · rw [answer_ram]
      exact hcleared
    · rw [answer_ram]
      exact hrest
  case store =>
    intro bs mask hk hack hpos hraw hmask hlt
    obtain ⟨hcmp, hcode⟩ := hraw
    obtain ⟨mem, he, hin, hout⟩ := writeMask_raw (r := (s.taken m l ops rest).ram) hpos hcode hmask hlt
    refine ⟨mem, (exec_apply_ok hq (apply_store hk hcmp (hcode 0 hpos)) hack).trans ?_, hin, hout⟩
    rw [he]
    rfl
  case red =>
    intro op n y v hk hack hraw hp hv
    obtain ⟨hcmp, hcode⟩ := hraw
    refine ⟨memWrite s.ram.bytes o.pa (bytesOf n v), exec_apply_ok hq (apply_red hk hcmp (hcode 0 Nat.one_pos) hp hv) hack,
      fun j hj => ?_, fun q hout => memWrite_get_out _ _ _ (by rwa [bytesOf_length])⟩
    rw [memWrite_get_in _ _ _ (by rwa [bytesOf_length]), bytesOf_eq]
    simp [hj]
  case elem => exact fun r hk hack h => exec_apply_ok hq (apply_absent hk h) hack
  case poison =>
    intro op n y hk hack hp
    rw [exec_writeQueueApply hq, apply_red_poison hk (show (s.taken m l ops rest).ram.poisoned o.pa = true from hp)]
    unfold State.portEnd
    rw [hack]
    rfl
  case read =>
    intro u
    have hexec := exec_portRead hi hr
    refine ⟨fun hp => hexec.trans (if_pos hp), fun hp hcode => hexec.trans ((if_neg (ne_true_of_eq_false hp)).trans ?_)⟩
    rw [show (State.ram _).read r.cmp r.pa r.n = _ from ram_read_uncoded (r := u.ram) hcode r.cmp r.n]
    rfl
  case patrol =>
    have hread (t : State) (h : t.ram.code i = 0) : (t.ram.read 0 (1024 * i) 1024).isNone = false := by
      rw [ram_read_uncoded (by rwa [Nat.mul_div_cancel_left _ (by decide)])]
      rfl
    constructor
    · refine (if_neg (Nat.not_le.2 hend)).trans (if_neg ?_)
      rintro (h | h)
      · exact EccKind.noConfusion h
      · exact absurd ((hread s hcode).symm.trans h) (by decide)
    · refine (if_neg (Nat.not_le.2 hend)).trans (if_neg ?_)
      rintro (h | h)
      · exact EccKind.noConfusion h
      · exact absurd ((hread (s.setPort _ _) hcode).symm.trans h) (by decide)
  case uncorrectable =>
    refine ⟨s.onRam fun r => r.found (1024 * i), (if_neg (Nat.not_le.2 hend)).trans (if_pos (.inl rfl)), found_poisoned _ _,
      found_counts _ _⟩

end Sys2Proof.Machine
end

section
/-!
SUPPORT. What every step keeps: the fused positions, and the canonical form of the two memories; the shared operations keep it (R14, R426; obligation O60). The lemma `f_intact` says that the function `f` of the model keeps it: where `f` writes none of the three parts, as an equivalence.
-/

namespace Sys2Proof.Machine

/-! ### The invariant, and the rules of the state's own operations -/

/-- What every step keeps (R14, R426; log entry 1): the positions that fuses take out, and the bytes of HBM and of the boot flash in
their canonical form. -/
def State.Intact (F : List Nat) (s : State) : Prop :=
  s.mesh.fused = F ∧ Memory.wf s.ram.bytes = true ∧ Memory.wf s.hub.flash = true

/-- A result that goes on goes on with an intact state. -/
def IntactRes (F : List Nat) : Res → Prop
  | .next t => t.Intact F
  | _ => True

variable {F : List Nat} {s : State}

@[simp] theorem intactRes_next : IntactRes F (.next s) ↔ s.Intact F := Iff.rfl

/-- An update of the other parts. -/
@[simp] theorem intact_mk {a b c d e f g h i : _} :
   (State.mk a b c d e s.mesh f s.ram g h i s.hub).Intact F ↔ s.Intact F := Iff.rfl

@[simp] theorem intact_ite {c : Prop} [Decidable c] {t u : State} :
    (if c then t else u).Intact F ↔ if c then t.Intact F else u.Intact F := by split <;> rfl
@[simp] theorem intactRes_ite {c : Prop} [Decidable c] {t u : Res} :
    IntactRes F (if c then t else u) ↔ if c then IntactRes F t else IntactRes F u := by split <;> rfl
@[simp] theorem intact_ite_fst {α} {c : Prop} [Decidable c] {t u : State × α} :
    (if c then t else u).1.Intact F ↔ if c then t.1.Intact F else u.1.Intact F := by split <;> rfl

@[simp] theorem foldl_intact {α} {f : State → α → State} {l : List α} (hf : ∀ t x, (f t x).Intact F ↔ t.Intact F) :
    (l.foldl f s).Intact F ↔ s.Intact F := by
  induction l generalizing s with
  | nil => rfl
  | cons x xs ih => exact ih.trans (hf s x)

theorem foldl_keeps {α} {f : State → α → State} {l : List α} (hf : ∀ t x, t.Intact F → (f t x).Intact F) (h : s.Intact F) :
    (l.foldl f s).Intact F := by
  induction l generalizing s with
  | nil => exact h
  | cons x xs ih => exact ih (hf s x h)

theorem intactRes_cases {c : Prop} [Decidable c] {t u : Res} (ht : IntactRes F t) (hu : IntactRes F u) : IntactRes F (if c then t else u) := by
  split
  · exact ht
  · exact hu

@[simp] theorem setCore_intact {id c} : (s.setCore id c).Intact F ↔ s.Intact F := by
  unfold State.setCore; split <;> rfl
@[simp] theorem refocus_intact {id} : (s.refocus id).Intact F ↔ s.Intact F := by
  unfold State.refocus; split <;> rfl
@[simp] theorem refocused_intact {r : Res} {id} : IntactRes F (r.refocused id) ↔ IntactRes F r := by
  cases r with
  | next t => exact refocus_intact
  | _ => rfl
@[simp] theorem onCore_intact {f} : (s.onCore f).Intact F ↔ s.Intact F := Iff.rfl
@[simp] theorem onCtxs_intact {f} : (s.onCtxs f).Intact F ↔ s.Intact F := Iff.rfl
@[simp] theorem onActs_intact {f} : (s.onActs f).Intact F ↔ s.Intact F := Iff.rfl
@[simp] theorem onFab_intact {f} : (s.onFab f).Intact F ↔ s.Intact F := Iff.rfl
@[simp] theorem onMesh_intact {f} (hf : ∀ m, (f m).fused = m.fused) : (s.onMesh f).Intact F ↔ s.Intact F := by
  unfold State.onMesh State.Intact; rw [hf]
@[simp] theorem onHub_intact {f} (hf : ∀ m, (f m).flash = m.flash) : (s.onHub f).Intact F ↔ s.Intact F := by
  unfold State.onHub State.Intact; rw [hf]
@[simp] theorem onRam_intact {f} (hf : ∀ r, (f r).bytes = r.bytes) : (s.onRam f).Intact F ↔ s.Intact F := by
  unfold State.onRam State.Intact; rw [hf]
theorem onRam_writes {f} (h : s.Intact F) (hf : ∀ r, Memory.wf r.bytes = true → Memory.wf (f r).bytes = true) : (s.onRam f).Intact F :=
  ⟨h.1, hf _ h.2.1, h.2.2⟩
theorem onHub_writes {f} (h : s.Intact F) (hf : ∀ r, Memory.wf r.flash = true → Memory.wf (f r).flash = true) : (s.onHub f).Intact F :=
  ⟨h.1, h.2.1, hf _ h.2.2⟩

section
variable {r : Ram} (h : Memory.wf r.bytes = true)
include h
theorem putBlock_wf {a b c} : Memory.wf (r.putBlock a b c).bytes = true := by
  unfold Ram.putBlock; exact memWrite_wf _ _ h
theorem setPoison_wf {a b} : Memory.wf (r.setPoison a b).bytes = true := by
  unfold Ram.setPoison; dsimp only; split
  · exact h
  · exact Sparse.wfFrom_set 0 (Nat.zero_le _) h
theorem found_wf {a} : Memory.wf (r.found a).bytes = true := setPoison_wf h
theorem write_wf {a b c} : Memory.wf (r.write a b c).bytes = true := by
  unfold Ram.write; dsimp only; split
  · exact memWrite_wf _ _ h
  split
  · exact putBlock_wf h
  · exact putBlock_wf (found_wf h)
theorem foldl_wf {α} {f : Ram → α → Ram} {l : List α} (hf : ∀ t x, Memory.wf t.bytes = true → Memory.wf (f t x).bytes = true) :
    Memory.wf (l.foldl f r).bytes = true := by
  induction l generalizing r with
  | nil => exact h
  | cons x xs ih => exact ih (hf r x h)
theorem writeMask_wf {a b c d} : Memory.wf (r.writeMask a b c d).bytes = true := by
  unfold Ram.writeMask; split
  · exact write_wf h
  · exact foldl_wf h fun _ _ h => write_wf h
end

@[simp] theorem deviceReset_intact : s.deviceReset.Intact F ↔ s.Intact F := Iff.rfl
@[simp] theorem disown_intact {id} : (s.disown id).Intact F ↔ s.Intact F := by
  unfold State.disown; split <;> rfl

/-! ### Machine/Ops -/

@[simp] theorem modCore_intact {id f} : (s.modCore id f).Intact F ↔ s.Intact F := by simp [State.modCore]

@[simp] theorem mapCores_intact {f} : (s.mapCores f).Intact F ↔ s.Intact F := Iff.rfl

@[simp] theorem ws_intact {r x} : (s.ws r x).Intact F ↔ s.Intact F := Iff.rfl

@[simp] theorem wv_intact {r x} : (s.wv r x).Intact F ↔ s.Intact F := Iff.rfl

@[simp] theorem orFlags_intact {f} : (s.orFlags f).Intact F ↔ s.Intact F := Iff.rfl

@[simp] theorem setPc_intact {a} : (s.setPc a).Intact F ↔ s.Intact F := Iff.rfl

@[simp] theorem adv_intact {n} : (s.adv n).Intact F ↔ s.Intact F := Iff.rfl

@[simp] theorem done_intact {n} : IntactRes F (s.done n) ↔ s.Intact F := Iff.rfl

@[simp] theorem setActor_intact {x r} : (s.setActor x r).Intact F ↔ s.Intact F := Iff.rfl

@[simp] theorem modActor_intact {x f} : (s.modActor x f).Intact F ↔ s.Intact F := Iff.rfl

@[simp] theorem setCcbWord_intact {x i v} : (s.setCcbWord x i v).Intact F ↔ s.Intact F := by
  unfold State.setCcbWord
  split <;> rfl

@[simp] theorem setCcbField_intact {x i lo n v} : (s.setCcbField x i lo n v).Intact F ↔ s.Intact F := by simp [State.setCcbField]

@[simp] theorem clamped_intact {b} : (s.clamped b).Intact F ↔ s.Intact F := Iff.rfl

@[simp] theorem raiseTrap_intact {target code info taddr name lci} : (s.raiseTrap target code info taddr name lci).Intact F ↔ s.Intact F := Iff.rfl

@[simp] theorem modSuper_intact {x f} : (s.modSuper x f).Intact F ↔ s.Intact F := Iff.rfl

@[simp] theorem enqueueReq_intact {src dev ctx w r} : (s.enqueueReq src dev ctx w r).Intact F ↔ s.Intact F := Iff.rfl

@[simp] theorem releaseReserved_intact {w k} : (s.releaseReserved w k).Intact F ↔ s.Intact F := by
  unfold State.releaseReserved
  repeat' split
  all_goals simp

@[simp] theorem discardRegion_intact {id} : (s.discardRegion id).Intact F ↔ s.Intact F := by
  unfold State.discardRegion
  split <;> simp

@[simp] theorem reply_intact {dev flow seq e} : (s.reply dev flow seq e).Intact F ↔ s.Intact F := Iff.rfl

@[simp] theorem askAgain_intact {x p a e} : (s.askAgain x p a e).Intact F ↔ s.Intact F := by
  unfold State.askAgain
  split <;> simp

@[simp] theorem returnAsks_intact {x} : (s.returnAsks x).Intact F ↔ s.Intact F := by simp [State.returnAsks]

@[simp] theorem freeIndexOf_intact {x} : (s.freeIndexOf x).Intact F ↔ s.Intact F := by simp [State.freeIndexOf]

@[simp] theorem takeBack_intact {x} : (s.takeBack x).Intact F ↔ s.Intact F := by simp [State.takeBack]

@[simp] theorem unwatch_intact {x l} : (s.unwatch x l).Intact F ↔ s.Intact F := by simp [State.unwatch]

@[simp] theorem killOne_intact {x reason quiet} : (s.killOne x reason quiet).Intact F ↔ s.Intact F := by simp [State.killOne]

@[simp] theorem dropEvents_intact {x} : (s.dropEvents x).Intact F ↔ s.Intact F := by simp [State.dropEvents]

@[simp] theorem orphan_intact {x die} (hd : ∀ t y, (die t y).Intact F ↔ t.Intact F) : (s.orphan x die).Intact F ↔ s.Intact F := by
  simp [State.orphan, hd]

@[simp] theorem killN_intact {n x reason quiet} : (State.killN n s x reason quiet).Intact F ↔ s.Intact F := by
  induction n generalizing s x reason quiet with
  | zero => simp [State.killN]
  | succ n ih => simp [State.killN, ih]

@[simp] theorem kill_intact {x reason} : (s.kill x reason).Intact F ↔ s.Intact F := by simp [State.kill]

@[simp] theorem forcedSave_intact {id} : (s.forcedSave id).Intact F ↔ s.Intact F := by simp [State.forcedSave]

@[simp] theorem reportFault_intact {id x t code} : (s.reportFault id x t code).Intact F ↔ s.Intact F := by
  simp [State.reportFault]

@[simp] theorem fatal_intact {code reason taddr} : (s.fatal code reason taddr).Intact F ↔ s.Intact F := by
  unfold State.fatal
  repeat' split
  all_goals simp

@[simp] theorem killReason_intact {reason taddr} : IntactRes F (s.killReason reason taddr) ↔ s.Intact F := by
  simp [State.killReason]

@[simp] theorem illegal_intact : IntactRes F s.illegal ↔ s.Intact F := by simp [State.illegal]

@[simp] theorem privilege_intact : IntactRes F s.privilege ↔ s.Intact F := by simp [State.privilege]

@[simp] theorem badAddress_intact {a} : IntactRes F (s.badAddress a) ↔ s.Intact F := by simp [State.badAddress]

@[simp] theorem notOwned_intact {a} : IntactRes F (s.notOwned a) ↔ s.Intact F := by simp [State.notOwned]

@[simp] theorem refusedR_intact : IntactRes F s.refusedR ↔ s.Intact F := by simp [State.refusedR]

@[simp] theorem recoverable_intact {code info iter taddr back} : IntactRes F (s.recoverable code info iter taddr back) ↔ s.Intact F := by
  simp [State.recoverable]

@[simp] theorem overlay_intact : IntactRes F s.overlay ↔ s.Intact F := by simp [State.overlay]

@[simp] theorem overlayReturn_intact : s.overlayReturn.Intact F ↔ s.Intact F := Iff.rfl

@[simp] theorem trapReturn_intact : s.trapReturn.Intact F ↔ s.Intact F := Iff.rfl

@[simp] theorem abort_intact {id st} : (s.abort id st).Intact F ↔ s.Intact F := by
  unfold State.abort
  dsimp only
  split
  · split <;> simp
  · simp

@[simp] theorem commit_intact {id} : (s.commit id).Intact F ↔ s.Intact F := by
  unfold State.commit
  split <;> simp

@[simp] theorem closeRegion_intact : s.closeRegion.Intact F ↔ s.Intact F := by simp [State.closeRegion]

@[simp] theorem addEntries_intact {es} : (s.addEntries es).Intact F ↔ s.Intact F := Iff.rfl

@[simp] theorem withEntries_intact {es k} (h : s.Intact F) (hk : ∀ t, t.Intact F → IntactRes F (k t)) : IntactRes F (s.withEntries es k) := by
  unfold State.withEntries
  split <;> simp [h, hk]

/-! ### Machine/Ctl -/

@[simp] theorem setFunc_intact {n f} : (s.setFunc n f).Intact F ↔ s.Intact F := Iff.rfl

@[simp] theorem extend_intact {i d} : (s.extend i d).Intact F ↔ s.Intact F := Iff.rfl

@[simp] theorem extendFabric_intact {off v} : (s.extendFabric off v).Intact F ↔ s.Intact F := Iff.rfl

@[simp] theorem bend_intact : s.bend.Intact F ↔ s.Intact F := by
  unfold State.bend
  split
  · rfl
  split <;> rfl

@[simp] theorem tdispError_intact {hit} : (s.tdispError hit).Intact F ↔ s.Intact F := Iff.rfl

@[simp] theorem requestReset_intact {n} : (s.requestReset n).Intact F ↔ s.Intact F := by simp [State.requestReset]

@[simp] theorem vfbind_intact {w n v bound} : (s.vfbind w n v bound).Intact F ↔ s.Intact F := by simp [State.vfbind]

@[simp] theorem vfirq_intact {v} : (s.vfirq v).Intact F ↔ s.Intact F := by
  unfold State.vfirq
  split <;> rfl

@[simp] theorem lostClear_intact {d priv} : (s.lostClear d priv).Intact F ↔ s.Intact F := by simp [State.lostClear]

@[simp] theorem scrun_intact {p v} : (s.scrun p v).Intact F ↔ s.Intact F := by simp [State.scrun]

@[simp] theorem setStrand_intact {pos k v} : (s.setStrand pos k v).Intact F ↔ s.Intact F := by
  unfold State.setStrand
  split <;> simp

@[simp] theorem ctlWrite_intact {w priv r v high} : (s.ctlWrite w priv r v high).Intact F ↔ s.Intact F := by
  unfold State.ctlWrite
  repeat' split
  all_goals simp

@[simp] theorem ctlStore_intact {w priv pa bs n} : (s.ctlStore w priv pa bs n).Intact F ↔ s.Intact F := by
  induction n generalizing s pa bs with
  | zero => rfl
  | succ n ih =>
    cases bs with
    | nil => rfl
    | cons b bs => exact ih.trans ctlWrite_intact

/-! ### Machine/Pending -/

@[simp] theorem setPort_intact {m p} : (s.setPort m p).Intact F ↔ s.Intact F := Iff.rfl

/-! ### Machine/Translate -/

@[simp] theorem setTransQ_intact {k q} : (s.setTransQ k q).Intact F ↔ s.Intact F := Iff.rfl

@[simp] theorem sendMiss_intact {m} : (s.sendMiss m).1.Intact F ↔ s.Intact F := by simp [State.sendMiss]

@[simp] theorem miss_intact {va kind} : (s.miss va kind).Intact F ↔ s.Intact F := by simp [State.miss]

@[simp] theorem pageAbsent_intact {m handler addr walk} : IntactRes F (s.pageAbsent m handler addr walk) ↔ s.Intact F := Iff.rfl

@[simp] theorem translating_intact {va kind reads k} (h : s.Intact F) (hk : ∀ x, IntactRes F (k x)) : IntactRes F (s.translating va kind reads k) := by
  unfold State.translating
  split <;> simp [h, hk]

@[simp] theorem checkPlace_intact {t va k} (h : s.Intact F) (hk : IntactRes F k) : IntactRes F (s.checkPlace t va k) := by
  unfold State.checkPlace
  split <;> simp [h, hk]

theorem elemEnds_intact {va x r} (h : s.Intact F) (hr : s.elemEnds va x = some r) : IntactRes F r := by
  cases x with
  | ends n =>
    obtain ⟨-, rfl⟩ : ¬ n = 6 ∧ s.killReason n va = r := by simpa [State.elemEnds] using hr
    simp [h]
  | absent m a b w =>
    obtain rfl : s.pageAbsent m a b w = r := by simpa [State.elemEnds] using hr
    simp [h]
  | found t pm =>
    obtain ⟨n, -, rfl⟩ : ∃ n, s.placeEnds t = some n ∧ s.killReason n va = r := by simpa [State.elemEnds] using hr
    simp [h]
  | _ => exact absurd hr (by simp [State.elemEnds])

@[simp] theorem translatingEach_intact {kind reads vas k} (h : s.Intact F) (hk : ∀ ts, IntactRes F (k ts)) :
    IntactRes F (s.translatingEach kind reads vas k) := by
  unfold State.translatingEach
  dsimp only
  split
  · simp [h]
  split
  · simp [h]
  split
  · rename_i r hr
    obtain ⟨x, -, hx⟩ := List.exists_of_findSome?_eq_some hr
    exact elemEnds_intact h hx
  split
  · simp [h]
  · exact hk _

/-! ### Machine/Global -/

@[simp] theorem joinOrder_intact {die o} : (s.joinOrder die o).Intact F ↔ s.Intact F := Iff.rfl

theorem intoOrder_intact {die o} (h : s.Intact F) : ∀ t, s.intoOrder die o = some t → t.Intact F := by simp [State.intoOrder, h]

@[simp] theorem putAside_intact {die o} : (s.putAside die o).Intact F ↔ s.Intact F := by
  rw [putAside_eq]
  rfl

@[simp] theorem meetLine_intact {pa n bs} : (s.meetLine pa n bs).1.Intact F ↔ s.Intact F := by
  unfold State.meetLine
  dsimp only
  split
  · rfl
  split
  · rfl
  split <;> rfl

@[simp] theorem podAcquire_intact {id sc} : (s.podAcquire id sc).Intact F ↔ s.Intact F := by
  unfold State.podAcquire
  split <;> simp

@[simp] theorem seal_intact {id} : (s.seal id).Intact F ↔ s.Intact F := by simp [State.seal]

@[simp] theorem sendReq_intact {flow who w r} : (s.sendReq flow who w r).Intact F ↔ s.Intact F := Iff.rfl

@[simp] theorem payPackets_intact {ctx ports l} : (s.payPackets ctx ports l).1.Intact F ↔ s.Intact F := by
  induction l generalizing s with
  | nil => rfl
  | cons n l ih =>
    unfold State.payPackets
    split
    · exact ih.trans onFab_intact
    · rfl

@[simp] theorem takeTokens_intact {flow ctx r ports} : (s.takeTokens flow ctx r ports).1.Intact F ↔ s.Intact F := by
  simp [State.takeTokens]

/-- The state that a taking of tokens leaves. -/
theorem intact_of_takeTokens {flow ctx r ports t b} (he : s.takeTokens flow ctx r ports = (t, b)) : t.Intact F ↔ s.Intact F := by
  rw [← takeTokens_intact (s := s), he]

@[simp] theorem trySend_intact {src ctx d who w r} : (s.trySend src ctx d who w r).1.Intact F ↔ s.Intact F := by
  unfold State.trySend
  dsimp only
  split
  · split
    · rename_i hs
      exact sendReq_intact.trans (intact_of_takeTokens hs)
    · rename_i hs
      exact intact_of_takeTokens hs
  · rfl

/-- The state that an attempt to send leaves. -/
theorem intact_of_trySend {src ctx d who w r t q} (he : s.trySend src ctx d who w r = (t, q)) : t.Intact F ↔ s.Intact F := by
  rw [← trySend_intact (s := s), he]

@[simp] theorem meetRemote_intact {id t} : (s.meetRemote id t).Intact F ↔ s.Intact F := by
  unfold State.meetRemote
  repeat' split
  all_goals simp

@[simp] theorem remoteLoad_intact {t va n} : (s.remoteLoad t va n).Intact F ↔ s.Intact F := by
  unfold State.remoteLoad
  split
  · dsimp only
    split
    · rename_i hs
      exact onCore_intact.trans (intact_of_trySend hs)
    · rename_i hs
      exact intact_of_trySend hs
  · split <;> simp
  · rfl

theorem found_intact (h : s.Intact F) (pa : Nat) : (s.onRam fun r => r.found pa).Intact F := onRam_writes h fun _ hr => found_wf hr

/-- What a read leaves where it brings nothing. -/
def IntactRead (F : List Nat) : Read → Prop
  | .ok _ => True
  | .again t => t.Intact F
  | .poison t => t.Intact F

theorem IntactRead.of_again {r : Read} {t : State} (hr : IntactRead F r) (hs : r = .again t) : t.Intact F := by
  subst hs
  exact hr

theorem IntactRead.of_poison {r : Read} {t : State} (hr : IntactRead F r) (hs : r = .poison t) : t.Intact F := by
  subst hs
  exact hr

theorem readTarget_intact {skip t va n} (h : s.Intact F) : IntactRead F (s.readTarget skip t va n) := by
  unfold State.readTarget
  split
  · split
    · trivial
    · exact h
    · exact h
    · exact found_intact h _
  · dsimp only
    split
    · exact h
    split
    · trivial
    split
    · trivial
    split
    · split
      · trivial
      · exact remoteLoad_intact.2 h
    · exact remoteLoad_intact.2 h

@[simp] theorem loadGlobal_intact {va n skip k} (h : s.Intact F) (hk : ∀ t bs, t.Intact F → IntactRes F (k t bs)) :
    IntactRes F (s.loadGlobal va n skip k) := by
  refine translating_intact h fun t => checkPlace_intact h ?_
  split
  · repeat' split
    all_goals simp [h, hk]
  · rename_i hs
    exact (readTarget_intact h).of_again hs
  · rename_i hs
    simp [(readTarget_intact h).of_poison hs]

@[simp] theorem loadGlobals_intact {n vas k} (h : s.Intact F) (hk : ∀ t bs, t.Intact F → IntactRes F (k t bs)) :
    IntactRes F (s.loadGlobals n vas k) := by
  induction vas generalizing s k with
  | nil => exact hk s [] h
  | cons va vas ih => exact loadGlobal_intact h fun t bs ht => ih ht fun u r hu => hk u (bs :: r) hu

/-! ### Machine/Operands -/

@[simp] theorem localAccess_intact {ea align n k} (h : s.Intact F) (hk : ∀ x, IntactRes F (k x)) : IntactRes F (s.localAccess ea align n k) := by
  simp [State.localAccess, h, hk]

@[simp] theorem globalAddress_intact {ea align k} (h : s.Intact F) (hk : IntactRes F k) : IntactRes F (s.globalAddress ea align k) := by
  simp [State.globalAddress, h, hk]

@[simp] theorem absentTrap_intact {gd first k} (h : s.Intact F) (hk : IntactRes F k) : IntactRes F (s.absentTrap gd first k) := by
  unfold State.absentTrap
  split <;> simp [h, hk]

/-! ### Machine/Ports -/

@[simp] theorem writeTile_intact {x p i bs sc} : (s.writeTile x p i bs sc).Intact F ↔ s.Intact F := by simp [State.writeTile]

@[simp] theorem grant_intact {x p n} : (s.grant x p n).Intact F ↔ s.Intact F := by
  induction n generalizing s with
  | zero => rfl
  | succ n ih =>
    unfold State.grant
    dsimp only
    split
    · rfl
    split
    · rfl
    rw [ih]
    split <;> simp

@[simp] theorem grantAll_intact {x} : (s.grantAll x).Intact F ↔ s.Intact F := foldl_intact fun _ _ => grant_intact

@[simp] theorem mailWrite_intact {x bs sc} : (s.mailWrite x bs sc).Intact F ↔ s.Intact F := by simp [State.mailWrite]

@[simp] theorem mailArrive_intact {x bs sc} : (s.mailArrive x bs sc).Intact F ↔ s.Intact F := by simp [State.mailArrive]

@[simp] theorem modBezelQueue_intact {p f} : (s.modBezelQueue p f).Intact F ↔ s.Intact F := Iff.rfl

@[simp] theorem popCommitted_intact {id} : (s.popCommitted id).Intact F ↔ s.Intact F := by
  unfold State.popCommitted
  split <;> simp

/-! ### Machine/Tiles -/

@[simp] theorem setBezel_intact {oct b} : (s.setBezel oct b).Intact F ↔ s.Intact F := Iff.rfl

end Sys2Proof.Machine
end

section
/-!
SUPPORT. What every step keeps: the instructions of a core (obligation O60).
-/

namespace Sys2Proof.Machine

variable {F : List Nat} {s : State}

/-! ### Machine/Control -/

@[simp] theorem branchIf_intact {c off n} : IntactRes F (s.branchIf c off n) ↔ s.Intact F := by simp [State.branchIf]

@[simp] theorem execBr_intact {w cond a b off} : IntactRes F (execBr w cond a b off s) ↔ s.Intact F := by simp [execBr]

@[simp] theorem execBri_intact {w cond a y off} : IntactRes F (execBri w cond a y off s) ↔ s.Intact F := by simp [execBri]

@[simp] theorem execJmp_intact {off} : IntactRes F (execJmp off s) ↔ s.Intact F := Iff.rfl

@[simp] theorem execJal_intact {d off} : IntactRes F (execJal d off s) ↔ s.Intact F := Iff.rfl

@[simp] theorem execJr_intact {a imm} : IntactRes F (execJr a imm s) ↔ s.Intact F := Iff.rfl

@[simp] theorem execJalr_intact {d a imm} : IntactRes F (execJalr d a imm s) ↔ s.Intact F := Iff.rfl

@[simp] theorem regionOp_intact {smask vmask n} : IntactRes F (s.regionOp smask vmask n) ↔ s.Intact F := by simp [State.regionOp]

@[simp] theorem execRegion_intact {smask} : IntactRes F (execRegion smask s) ↔ s.Intact F := by simp [execRegion]

@[simp] theorem execRegionVec_intact {smask vmask} : IntactRes F (execRegionVec smask vmask s) ↔ s.Intact F := by
  simp [execRegionVec]

@[simp] theorem endSignal_intact {x} : (s.endSignal x).Intact F ↔ s.Intact F := by simp [State.endSignal]

@[simp] theorem endFiring_intact {sl} : (s.endFiring sl).Intact F ↔ s.Intact F := by
  unfold State.endFiring
  split <;> simp

@[simp] theorem endOp_intact : IntactRes F s.endOp ↔ s.Intact F := by
  unfold State.endOp
  repeat' split
  all_goals simp

@[simp] theorem execEndF_intact : IntactRes F (execEndF s) ↔ s.Intact F := by simp [execEndF]

@[simp] theorem execWaitc_intact {sel n} : IntactRes F (execWaitc sel n s) ↔ s.Intact F := by simp [execWaitc]

@[simp] theorem execRep_intact {nM1 sd sa sb sc count} : IntactRes F (execRep nM1 sd sa sb sc count s) ↔ s.Intact F := by
  unfold execRep
  repeat' split
  all_goals simp

@[simp] theorem execTrapi_intact {imm} : IntactRes F (execTrapi imm s) ↔ s.Intact F := by simp [execTrapi]

@[simp] theorem execEret_intact : IntactRes F (execEret s) ↔ s.Intact F := by
  unfold execEret
  repeat' split
  all_goals simp

@[simp] theorem execNop_intact : IntactRes F (execNop s) ↔ s.Intact F := Iff.rfl

@[simp] theorem execPadWord_intact : IntactRes F (execPadWord s) ↔ s.Intact F := Iff.rfl

/-! ### Machine/CtlReg -/

@[simp] theorem execGetc_intact {d num} : IntactRes F (execGetc d num s) ↔ s.Intact F := by
  simp only [execGetc]
  repeat' split
  all_goals simp

@[simp] theorem execGetcMissb_intact {d} : IntactRes F (execGetcMissb d s) ↔ s.Intact F := by
  simp only [execGetcMissb]
  repeat' split
  all_goals simp

@[simp] theorem writeWindow_intact {k v k'} (h : s.Intact F) (hk : ∀ t, t.Intact F → IntactRes F (k' t)) : IntactRes F (s.writeWindow k v k') := by
  simp [State.writeWindow, h, hk]

@[simp] theorem writeStrand_intact {k v k'} (h : s.Intact F) (hk : ∀ t, t.Intact F → IntactRes F (k' t)) : IntactRes F (s.writeStrand k v k') := by
  unfold State.writeStrand
  split <;> simp [h, hk]

@[simp] theorem writeBzmap_intact {v k'} (h : s.Intact F) (hk : ∀ t, t.Intact F → IntactRes F (k' t)) : IntactRes F (s.writeBzmap v k') := by
  unfold State.writeBzmap
  split <;> simp [h, hk]

@[simp] theorem wakeSlot_intact {w} : (s.wakeSlot w).Intact F ↔ s.Intact F := by simp [State.wakeSlot]

@[simp] theorem denySlot_intact {e w} : (State.denySlot e s w).Intact F ↔ s.Intact F := by
  unfold State.denySlot
  split
  · rfl
  split
  · simp
  split
  · dsimp only
    split
    · rfl
    split <;> simp
  · rfl

@[simp] theorem prqdone_intact {issuer v} : (s.prqdone issuer v).Intact F ↔ s.Intact F := by
  have hend (e : PageReq) (t : State) (b : Bool) :
      (e.waiters.foldl (if b then State.denySlot e else State.wakeSlot) t).Intact F ↔ t.Intact F := by
    cases b with
    | false => exact foldl_intact fun _ _ => wakeSlot_intact
    | true => exact foldl_intact fun _ _ => denySlot_intact
  unfold State.prqdone
  dsimp only
  split
  · rfl
  · rw [intact_ite, hend]
    simp

@[simp] theorem writeSq_intact {i v} : (s.writeSq i v).Intact F ↔ s.Intact F := by simp [State.writeSq]

@[simp] theorem writePlain_intact {num v} : (s.writePlain num v).Intact F ↔ s.Intact F := by
  simp only [State.writePlain]
  split <;> simp

@[simp] theorem writeCr_intact {num v k} (h : s.Intact F) (hk : ∀ t, t.Intact F → IntactRes F (k t)) :
    IntactRes F (s.writeCr num v k) := by
  unfold State.writeCr
  split
  · simp [h]
  split
  · exact writeWindow_intact h hk
  split
  · split <;> simp [h, hk]
  split
  · exact writeStrand_intact h hk
  split
  · exact writeBzmap_intact h hk
  · simp [h, hk]

@[simp] theorem execSetc_intact {num a} (h : s.Intact F) : IntactRes F (execSetc num a s) := by simp [execSetc, h]

@[simp] theorem execSetcImm_intact {num imm} (h : s.Intact F) : IntactRes F (execSetcImm num imm s) := by simp [execSetcImm, h]

@[simp] theorem execWindowWrite_intact {k v} (h : s.Intact F) : IntactRes F (execWindowWrite k v s) := by
  simp [execWindowWrite, h]

@[simp] theorem execBzmapWrite_intact {v} (h : s.Intact F) : IntactRes F (execBzmapWrite v s) := by simp [execBzmapWrite, h]

@[simp] theorem execStrandWrite_intact {k v} (h : s.Intact F) : IntactRes F (execStrandWrite k v s) := by
  simp [execStrandWrite, h]

@[simp] theorem execPrqdoneWrite_intact {c v} : IntactRes F (execPrqdoneWrite c v s) ↔ s.Intact F := by simp [execPrqdoneWrite]

@[simp] theorem execRegisterWrite_intact {r v} (h : s.Intact F) : IntactRes F (execRegisterWrite r v s) := by
  cases r with
  | flashWrite a bs => exact onHub_writes h fun _ hm => memWrite_wf _ _ hm
  | cr num => exact writeCr_intact h fun _ ht => ht
  | ctl pa priv => unfold execRegisterWrite; simp [h]
  | extend i object => unfold execRegisterWrite; simp [h]
  | _ => unfold execRegisterWrite; simp [h]

/-! ### Machine/Memory -/

@[simp] theorem execLdl_intact {k d a imm} (h : s.Intact F) : IntactRes F (execLdl k d a imm s) := by simp [execLdl, h]

@[simp] theorem execStl_intact {k a b imm} (h : s.Intact F) : IntactRes F (execStl k a b imm s) := by simp [execStl, h]

@[simp] theorem fillInv_intact {t pa} : (s.fillInv t pa).Intact F ↔ s.Intact F := by
  unfold State.fillInv
  split <;> rfl

@[simp] theorem loadInvariant_intact {va n k} (h : s.Intact F) (hk : ∀ t bs, t.Intact F → IntactRes F (k t bs)) :
    IntactRes F (s.loadInvariant va n k) := by
  refine translating_intact h fun t => ?_
  split
  · split
    · exact hk _ _ h
    · refine loadGlobal_intact h fun u bs hu => hk _ _ ?_
      simp [hu]
  · exact loadGlobal_intact h hk

@[simp] theorem execLdg_intact {k inv d a imm} (h : s.Intact F) : IntactRes F (execLdg k inv d a imm s) := by
  refine globalAddress_intact h ?_
  split
  · exact loadInvariant_intact h fun t bs ht => by simp [ht]
  · exact loadGlobal_intact h fun t bs ht => by simp [ht]

@[simp] theorem storeGlobal_intact {va bs rel k} (h : s.Intact F) (hk : ∀ t, t.Intact F → IntactRes F (k t)) :
    IntactRes F (s.storeGlobal va bs rel k) :=
  translating_intact h fun _ => checkPlace_intact h (withEntries_intact h hk)

@[simp] theorem execStg_intact {k a b imm} (h : s.Intact F) : IntactRes F (execStg k a b imm s) := by simp [execStg, h]

@[simp] theorem execLdaq_intact {k sc d a imm} (h : s.Intact F) : IntactRes F (execLdaq k sc d a imm s) :=
  globalAddress_intact h (loadGlobal_intact (podAcquire_intact.2 h) fun t bs ht => by simp [ht])

@[simp] theorem execStrl_intact {k scope a b imm} (h : s.Intact F) : IntactRes F (execStrl k scope a b imm s) := by
  simp [execStrl, h]

@[simp] theorem finish_intact {closing n} : (s.finish closing n).Intact F ↔ s.Intact F := Iff.rfl

@[simp] theorem tagDone_intact {home o} : (s.tagDone home o).Intact F ↔ s.Intact F := by simp [State.tagDone]

@[simp] theorem tagIssue_intact {i} : IntactRes F (s.tagIssue i) ↔ s.Intact F := by
  simp only [State.tagIssue]
  repeat' split
  all_goals simp

@[simp] theorem execLdf_intact {tgt d a imm} : IntactRes F (execLdf tgt d a imm s) ↔ s.Intact F := by simp [execLdf]

@[simp] theorem execLdfp_intact {tgt d a imm} : IntactRes F (execLdfp tgt d a imm s) ↔ s.Intact F := by simp [execLdfp]

@[simp] theorem execSte_intact {a b imm} : IntactRes F (execSte a b imm s) ↔ s.Intact F := by simp [execSte]

@[simp] theorem execSteRem_intact {a b c} : IntactRes F (execSteRem a b c s) ↔ s.Intact F := by simp [execSteRem]

@[simp] theorem execTagw_intact {full tgt a imm} : IntactRes F (execTagw full tgt a imm s) ↔ s.Intact F := by simp [execTagw]

@[simp] theorem execTagr_intact {tgt d a imm} : IntactRes F (execTagr tgt d a imm s) ↔ s.Intact F := by simp [execTagr]

@[simp] theorem execTaggedWaitComplete_intact {id} : IntactRes F (execTaggedWaitComplete id s) ↔ s.Intact F := by
  simp only [execTaggedWaitComplete]
  split <;> simp

/-! ### Machine/Atomics -/

@[simp] theorem amoDone_intact {c here old} : (s.amoDone c here old).Intact F ↔ s.Intact F := by simp [State.amoDone]

@[simp] theorem amoGo_intact {i c va} (h : s.Intact F) : IntactRes F (s.amoGo i c va) := by
  refine translating_intact h fun t => checkPlace_intact h ?_
  dsimp only
  split
  · simp [h]
  refine intactRes_cases h ?_
  split
  · split
    · rename_i hs
      exact (intact_of_trySend hs).2 h
    · rename_i hs
      exact (intact_of_trySend hs).2 h
  refine intactRes_cases ?_ ?_
  · split <;> simp [h]
  · split
    · exact h
    · rename_i hs
      exact onCore_intact.2 (intoOrder_intact h _ hs)

@[simp] theorem amoIssue_intact {i va} (h : s.Intact F) : IntactRes F (s.amoIssue i va) := by
  unfold State.amoIssue
  split
  · simp [h]
  · refine globalAddress_intact h (intactRes_cases h (amoGo_intact ?_))
    simp [h]

@[simp] theorem redIssue_intact {op o w sc a b} (h : s.Intact F) : IntactRes F (s.redIssue op o w sc a b) := by
  refine globalAddress_intact h (translating_intact h fun t => checkPlace_intact h ?_)
  split
  · simp [h]
  · exact withEntries_intact h fun u hu => by simp [hu]

@[simp] theorem execAmo_intact {op ord w scope d a b} (h : s.Intact F) : IntactRes F (execAmo op ord w scope d a b s) := by
  simp [execAmo, h]

@[simp] theorem execCas_intact {ord w scope d a b c} (h : s.Intact F) : IntactRes F (execCas ord w scope d a b c s) := by
  simp [execCas, h]

@[simp] theorem execAmobnd_intact {ord w scope d a b c} (h : s.Intact F) : IntactRes F (execAmobnd ord w scope d a b c s) := by
  simp [execAmobnd, h]

@[simp] theorem execRed_intact {op rl w scope a b} (h : s.Intact F) : IntactRes F (execRed op rl w scope a b s) := by
  simp [execRed, h]

@[simp] theorem execRedf_intact {op cnt rl sc f a b} (h : s.Intact F) : IntactRes F (execRedf op cnt rl sc f a b s) := by
  refine globalAddress_intact h (translating_intact h fun t => checkPlace_intact h ?_)
  split
  · simp [h]
  · exact withEntries_intact h fun u hu => by simp [hu]

@[simp] theorem execFence_intact {scope} : IntactRes F (execFence scope s) ↔ s.Intact F := by simp [execFence]

@[simp] theorem execPoisonclr_intact {a} (h : s.Intact F) : IntactRes F (execPoisonclr a s) := by
  unfold execPoisonclr
  dsimp only
  split
  · simp [h]
  · refine globalAddress_intact h (translating_intact h fun t => checkPlace_intact h ?_)
    split
    · simp [h]
    · exact withEntries_intact h fun u hu => by simp [hu]

/-! ### Machine/Clasp -/

@[simp] theorem execClinit_intact {a b} : IntactRes F (execClinit a b s) ↔ s.Intact F := by simp [execClinit]

@[simp] theorem claspArrived_intact {i home o} : (s.claspArrived i home o).Intact F ↔ s.Intact F := by simp [State.claspArrived]

@[simp] theorem claspReleased_intact {i o} : (s.claspReleased i o).Intact F ↔ s.Intact F := by simp [State.claspReleased]

@[simp] theorem claspAt_intact {i home o} : IntactRes F (s.claspAt i home o) ↔ s.Intact F := by
  unfold State.claspAt
  split <;> simp

@[simp] theorem claspIssue_intact {i} : IntactRes F (s.claspIssue i) ↔ s.Intact F := by
  simp only [State.claspIssue]
  repeat' split
  all_goals simp

@[simp] theorem execArrive_intact {scope d a b} : IntactRes F (execArrive scope d a b s) ↔ s.Intact F := by simp [execArrive]

@[simp] theorem execArrivew_intact {scope d a b} : IntactRes F (execArrivew scope d a b s) ↔ s.Intact F := by simp [execArrivew]

@[simp] theorem execClwait_intact {scope a b c} : IntactRes F (execClwait scope a b c s) ↔ s.Intact F := by simp [execClwait]

@[simp] theorem execRemoteAccessRequest_intact {id} : IntactRes F (execRemoteAccessRequest id s) ↔ s.Intact F := by
  simp only [execRemoteAccessRequest]
  repeat' split
  all_goals simp

@[simp] theorem execClaspReleaseAnswer_intact {id} : IntactRes F (execClaspReleaseAnswer id s) ↔ s.Intact F := by
  simp only [execClaspReleaseAnswer]
  split <;> simp

/-! ### Machine/Mesh -/

@[simp] theorem setRound_intact {n k got} : (s.setRound n k got).Intact F ↔ s.Intact F := Iff.rfl

@[simp] theorem contribute_intact {n k port v} : (s.contribute n k port v).Intact F ↔ s.Intact F := Iff.rfl

@[simp] theorem strandDeliver_intact {n k v} : (s.strandDeliver n k v).Intact F ↔ s.Intact F := by simp [State.strandDeliver]

@[simp] theorem execStrandNodeCombine_intact {n k} : IntactRes F (execStrandNodeCombine n k s) ↔ s.Intact F := by
  simp only [execStrandNodeCombine]
  repeat' split
  all_goals simp

@[simp] theorem execStrandResultWrite_intact {id k} : IntactRes F (execStrandResultWrite id k s) ↔ s.Intact F := by
  simp only [execStrandResultWrite]
  split <;> simp

@[simp] theorem execNred_intact {fmt g a b k} (h : s.Intact F) : IntactRes F (execNred fmt g a b k s) := by simp [execNred, h]

@[simp] theorem drainNred_intact {id w x k p f lanes slot} : (s.drainNred id w x k p f lanes slot).Intact F ↔ s.Intact F := by
  unfold State.drainNred
  split <;> simp

@[simp] theorem execMcast_intact {a k} (h : s.Intact F) : IntactRes F (execMcast a k s) := by simp [execMcast, h]

@[simp] theorem drainMcast_intact {id t} : (s.drainMcast id t).Intact F ↔ s.Intact F := by
  unfold State.drainMcast
  split <;> simp

@[simp] theorem startMcast_intact {id i t} : (s.startMcast id i t).Intact F ↔ s.Intact F := by
  unfold State.startMcast
  split <;> simp

@[simp] theorem killIssuer_intact {w reason} : (s.killIssuer w reason).Intact F ↔ s.Intact F := by
  unfold State.killIssuer
  split <;> simp

@[simp] theorem execMcastMemberWrite_intact {id} : IntactRes F (execMcastMemberWrite id s) ↔ s.Intact F := by
  simp only [execMcastMemberWrite]
  repeat' split
  all_goals simp

@[simp] theorem execMcastComplete_intact {id} : IntactRes F (execMcastComplete id s) ↔ s.Intact F := by simp [execMcastComplete]

@[simp] theorem execNsend_intact {scope a b tag} (h : s.Intact F) : IntactRes F (execNsend scope a b tag s) := by
  simp [execNsend, h]

@[simp] theorem execNsendRaw_intact {_scope a _b} (h : s.Intact F) : IntactRes F (execNsendRaw _scope a _b s) := by
  simp [execNsendRaw, h]

@[simp] theorem execNsendDelivery_intact {id} : IntactRes F (execNsendDelivery id s) ↔ s.Intact F := by
  simp only [execNsendDelivery]
  repeat' split
  all_goals simp

@[simp] theorem execNrecv_intact {d} : IntactRes F (execNrecv d s) ↔ s.Intact F := by
  unfold execNrecv
  split <;> simp

@[simp] theorem drainRaw_intact {id x2} : (s.drainRaw id x2).Intact F ↔ s.Intact F := by
  unfold State.drainRaw
  repeat' split
  all_goals simp

@[simp] theorem execDiscover_intact {pos} : IntactRes F (execDiscover pos s) ↔ s.Intact F := by
  unfold execDiscover
  split <;> simp

@[simp] theorem execDiscoverAck_intact {die} : IntactRes F (execDiscoverAck die s) ↔ s.Intact F := by
  simp only [execDiscoverAck]
  split <;> simp

@[simp] theorem execAssign_intact {die} : IntactRes F (execAssign die s) ↔ s.Intact F := by
  unfold execAssign
  split <;> simp

/-! ### Machine/VectorArith -/

@[simp] theorem vecWrite_intact {f gd d bad g} (h : s.Intact F) : IntactRes F (s.vecWrite f gd d bad g) := by
  simp [State.vecWrite, h]

@[simp] theorem vec1_intact {f gd d a g} (h : s.Intact F) : IntactRes F (s.vec1 f gd d a g) := by simp [State.vec1, h]

@[simp] theorem vec2_intact {f gd d a b g} (h : s.Intact F) : IntactRes F (s.vec2 f gd d a b g) := by simp [State.vec2, h]

@[simp] theorem vec3_intact {f gd d a b c g} (h : s.Intact F) : IntactRes F (s.vec3 f gd d a b c g) := by simp [State.vec3, h]

@[simp] theorem execVadd_intact {fmt gd d a b} (h : s.Intact F) : IntactRes F (execVadd fmt gd d a b s) := by simp [execVadd, h]

@[simp] theorem execVsub_intact {fmt gd d a b} (h : s.Intact F) : IntactRes F (execVsub fmt gd d a b s) := by simp [execVsub, h]

@[simp] theorem execVmul_intact {fmt gd d a b} (h : s.Intact F) : IntactRes F (execVmul fmt gd d a b s) := by simp [execVmul, h]

@[simp] theorem execVfma_intact {fmt gd d a b c} (h : s.Intact F) : IntactRes F (execVfma fmt gd d a b c s) := by
  simp [execVfma, h]

@[simp] theorem execVfms_intact {fmt gd d a b c} (h : s.Intact F) : IntactRes F (execVfms fmt gd d a b c s) := by
  simp [execVfms, h]

@[simp] theorem execVmin_intact {fmt gd d a b} (h : s.Intact F) : IntactRes F (execVmin fmt gd d a b s) := by simp [execVmin, h]

@[simp] theorem execVmax_intact {fmt gd d a b} (h : s.Intact F) : IntactRes F (execVmax fmt gd d a b s) := by simp [execVmax, h]

@[simp] theorem execVdiv_intact {fmt gd d a b} (h : s.Intact F) : IntactRes F (execVdiv fmt gd d a b s) := by simp [execVdiv, h]

@[simp] theorem execVsqrt_intact {fmt gd d a} (h : s.Intact F) : IntactRes F (execVsqrt fmt gd d a s) := by simp [execVsqrt, h]

@[simp] theorem execVmag_intact {fmt gd d a} (h : s.Intact F) : IntactRes F (execVmag fmt gd d a s) := by simp [execVmag, h]

@[simp] theorem execVneg_intact {fmt gd d a} (h : s.Intact F) : IntactRes F (execVneg fmt gd d a s) := by simp [execVneg, h]

@[simp] theorem execVand_intact {fmt gd d a b} (h : s.Intact F) : IntactRes F (execVand fmt gd d a b s) := by simp [execVand, h]

@[simp] theorem execVor_intact {fmt gd d a b} (h : s.Intact F) : IntactRes F (execVor fmt gd d a b s) := by simp [execVor, h]

@[simp] theorem execVxor_intact {fmt gd d a b} (h : s.Intact F) : IntactRes F (execVxor fmt gd d a b s) := by simp [execVxor, h]

@[simp] theorem execVshl_intact {fmt gd d a b} (h : s.Intact F) : IntactRes F (execVshl fmt gd d a b s) := by simp [execVshl, h]

@[simp] theorem execVshr_intact {fmt g d a b} : IntactRes F (execVshr fmt g d a b s) ↔ s.Intact F := Iff.rfl

@[simp] theorem execVsar_intact {fmt g d a b} : IntactRes F (execVsar fmt g d a b s) ↔ s.Intact F := Iff.rfl

@[simp] theorem execVadds_intact {fmt g d a b} : IntactRes F (execVadds fmt g d a b s) ↔ s.Intact F := Iff.rfl

@[simp] theorem execVsubs_intact {fmt g d a b} : IntactRes F (execVsubs fmt g d a b s) ↔ s.Intact F := Iff.rfl

@[simp] theorem execVcvt_intact {dst src rnd part g d a} : IntactRes F (execVcvt dst src rnd part g d a s) ↔ s.Intact F := Iff.rfl

@[simp] theorem execVcmp_intact {fmt cond g d a b} : IntactRes F (execVcmp fmt cond g d a b s) ↔ s.Intact F := Iff.rfl

@[simp] theorem execVsel_intact {fmt k g d a b c} : IntactRes F (execVsel fmt k g d a b c s) ↔ s.Intact F := Iff.rfl

@[simp] theorem execVexp2_intact {g d a} : IntactRes F (execVexp2 g d a s) ↔ s.Intact F := Iff.rfl

@[simp] theorem execVlog2_intact {g d a} : IntactRes F (execVlog2 g d a s) ↔ s.Intact F := Iff.rfl

@[simp] theorem execVrcp_intact {g d a} : IntactRes F (execVrcp g d a s) ↔ s.Intact F := Iff.rfl

@[simp] theorem execVrsq_intact {g d a} : IntactRes F (execVrsq g d a s) ↔ s.Intact F := Iff.rfl

@[simp] theorem execVsca_intact {fmt sv rnd g d a b} : IntactRes F (execVsca fmt sv rnd g d a b s) ↔ s.Intact F := Iff.rfl

@[simp] theorem execVvoid_intact {fmt g d} : IntactRes F (execVvoid fmt g d s) ↔ s.Intact F := Iff.rfl

@[simp] theorem execVpres_intact {fmt g d a} : IntactRes F (execVpres fmt g d a s) ↔ s.Intact F := Iff.rfl

/-! ### Machine/VectorMove -/

@[simp] theorem vecCopy_intact {f gd d inp src} (h : s.Intact F) : IntactRes F (s.vecCopy f gd d inp src) := by
  simp [State.vecCopy, h]

@[simp] theorem execVmov_intact {fmt gd d a} (h : s.Intact F) : IntactRes F (execVmov fmt gd d a s) := by simp [execVmov, h]

@[simp] theorem execVbcast_intact {fmt gd d src} (h : s.Intact F) : IntactRes F (execVbcast fmt gd d src s) := by
  unfold execVbcast
  split <;> simp [h]

@[simp] theorem execVextr_intact {fmt gd d a b} : IntactRes F (execVextr fmt gd d a b s) ↔ s.Intact F := Iff.rfl

@[simp] theorem execVins_intact {fmt gd d a b} : IntactRes F (execVins fmt gd d a b s) ↔ s.Intact F := Iff.rfl

@[simp] theorem execVperm_intact {fmt gd d a b} (h : s.Intact F) : IntactRes F (execVperm fmt gd d a b s) := by
  simp [execVperm, h]

@[simp] theorem execVslide_intact {fmt gd dn d a b} (h : s.Intact F) : IntactRes F (execVslide fmt gd dn d a b s) := by
  simp [execVslide, h]

@[simp] theorem execVzip_intact {fmt gd hi d a b} (h : s.Intact F) : IntactRes F (execVzip fmt gd hi d a b s) := by
  simp [execVzip, h]

@[simp] theorem execVunzip_intact {fmt gd od d a b} (h : s.Intact F) : IntactRes F (execVunzip fmt gd od d a b s) := by
  simp [execVunzip, h]

@[simp] theorem execVcompr_intact {fmt gd d a} (h : s.Intact F) : IntactRes F (execVcompr fmt gd d a s) := by simp [execVcompr, h]

@[simp] theorem execVexpq4_intact {gd part d a} (h : s.Intact F) : IntactRes F (execVexpq4 gd part d a s) := by
  simp [execVexpq4, h]

@[simp] theorem execQtld_intact {gd a} : IntactRes F (execQtld gd a s) ↔ s.Intact F := Iff.rfl

@[simp] theorem vecCounted_intact {f gd d a r} (h : s.Intact F) : IntactRes F (s.vecCounted f gd d a r) := by
  simp [State.vecCounted, h]

@[simp] theorem execVreduce_intact {fmt gd op d a} (h : s.Intact F) : IntactRes F (execVreduce fmt gd op d a s) := by
  simp [execVreduce, h]

@[simp] theorem execVscan_intact {fmt gd op ex d a} (h : s.Intact F) : IntactRes F (execVscan fmt gd op ex d a s) := by
  simp [execVscan, h]

@[simp] theorem execVcount_intact {fmt gd d a} (h : s.Intact F) : IntactRes F (execVcount fmt gd d a s) := by simp [execVcount, h]

@[simp] theorem execWhilelt_intact {fmt gd d a b} : IntactRes F (execWhilelt fmt gd d a b s) ↔ s.Intact F := Iff.rfl

@[simp] theorem execVlq_intact {fmt d} : IntactRes F (execVlq fmt d s) ↔ s.Intact F := Iff.rfl

@[simp] theorem execPand_intact {d a b} : IntactRes F (execPand d a b s) ↔ s.Intact F := Iff.rfl

@[simp] theorem execPor_intact {d a b} : IntactRes F (execPor d a b s) ↔ s.Intact F := Iff.rfl

@[simp] theorem execPnot_intact {d a} : IntactRes F (execPnot d a s) ↔ s.Intact F := Iff.rfl

@[simp] theorem execPcnt_intact {fmt d a} : IntactRes F (execPcnt fmt d a s) ↔ s.Intact F := Iff.rfl

@[simp] theorem execPfirst_intact {fmt d a} : IntactRes F (execPfirst fmt d a s) ↔ s.Intact F := Iff.rfl

@[simp] theorem execPset_intact {fmt d k} : IntactRes F (execPset fmt d k s) ↔ s.Intact F := Iff.rfl

/-! ### Machine/VectorMem -/

@[simp] theorem localElems_intact {n es k} (h : s.Intact F) (hk : IntactRes F k) : IntactRes F (s.localElems n es k) := by
  unfold State.localElems
  repeat' split
  all_goals simp [h, hk]

@[simp] theorem globalElems_intact {n kind reads es k} (h : s.Intact F) (hk : ∀ x, IntactRes F (k x)) : IntactRes F (s.globalElems n kind reads es k) := by
  unfold State.globalElems
  split <;> simp [h, hk]

@[simp] theorem vecLoaded_intact {f gd d got} : IntactRes F (s.vecLoaded f gd d got) ↔ s.Intact F := Iff.rfl

@[simp] theorem vecLoadLocal_intact {f gd d addr} (h : s.Intact F) : IntactRes F (s.vecLoadLocal f gd d addr) := by
  simp [State.vecLoadLocal, h]

@[simp] theorem vecStoreLocal_intact {f gd d addr} (h : s.Intact F) : IntactRes F (s.vecStoreLocal f gd d addr) := by
  simp [State.vecStoreLocal, h]

@[simp] theorem vecLoadGlobal_intact {f gd d addr} (h : s.Intact F) : IntactRes F (s.vecLoadGlobal f gd d addr) := by
  simp [State.vecLoadGlobal, h]

@[simp] theorem withEntriesThen_intact {es gd bad k} (h : s.Intact F) (hk : ∀ t, t.Intact F → IntactRes F (k t)) : IntactRes F (s.withEntriesThen es gd bad k) := by
  unfold State.withEntriesThen
  split <;> simp [h, hk]

@[simp] theorem vecStoreGlobal_intact {f gd d addr} (h : s.Intact F) : IntactRes F (s.vecStoreGlobal f gd d addr) := by
  simp [State.vecStoreGlobal, h]

@[simp] theorem execVldl_intact {fmt gd d a imm} (h : s.Intact F) : IntactRes F (execVldl fmt gd d a imm s) := by
  simp [execVldl, h]

@[simp] theorem execVstl_intact {fmt gd d a imm} (h : s.Intact F) : IntactRes F (execVstl fmt gd d a imm s) := by
  simp [execVstl, h]

@[simp] theorem execVldg_intact {fmt gd d a imm} (h : s.Intact F) : IntactRes F (execVldg fmt gd d a imm s) := by
  simp [execVldg, h]

@[simp] theorem execVstg_intact {fmt gd d a imm} (h : s.Intact F) : IntactRes F (execVstg fmt gd d a imm s) := by
  simp [execVstg, h]

@[simp] theorem execVlds_intact {fmt gd d a b imm} (h : s.Intact F) : IntactRes F (execVlds fmt gd d a b imm s) := by
  simp [execVlds, h]

@[simp] theorem execVsts_intact {fmt gd d a b imm} (h : s.Intact F) : IntactRes F (execVsts fmt gd d a b imm s) := by
  simp [execVsts, h]

@[simp] theorem execVgath_intact {fmt gd loc sh d a b} (h : s.Intact F) : IntactRes F (execVgath fmt gd loc sh d a b s) := by
  simp [execVgath, h]

@[simp] theorem execVscat_intact {fmt gd loc sh d a b} (h : s.Intact F) : IntactRes F (execVscat fmt gd loc sh d a b s) := by
  simp [execVscat, h]

@[simp] theorem execVred_intact {op cnt rl scope fmt gd a b} (h : s.Intact F) : IntactRes F (execVred op cnt rl scope fmt gd a b s) := by
  simp [execVred, h]

/-! ### Machine/Bezel -/

@[simp] theorem localRanges_intact {rs k} (h : s.Intact F) (hk : IntactRes F k) : IntactRes F (s.localRanges rs k) := by
  unfold State.localRanges
  repeat' split
  all_goals simp [h, hk]

@[simp] theorem bezelIssue_intact {k scope aq rl rs} : IntactRes F (s.bezelIssue k scope aq rl rs) ↔ s.Intact F := by
  unfold State.bezelIssue
  split <;> simp

@[simp] theorem unmapped_intact : IntactRes F s.unmapped ↔ s.Intact F := by simp [State.unmapped]

@[simp] theorem execBld_intact {scope fmt a k aq rl} (h : s.Intact F) : IntactRes F (execBld scope fmt a k aq rl s) := by
  unfold execBld
  split <;> simp [h]

@[simp] theorem track_intact {t isInt} : (s.track t isInt).Intact F ↔ s.Intact F := Iff.rfl

@[simp] theorem execMma_intact {scope fmt d a k nbm1 aq rl} (h : s.Intact F) : IntactRes F (execMma scope fmt d a k nbm1 aq rl s) := by
  simp only [execMma]
  split <;> simp [h]

@[simp] theorem execMzero_intact {scope fmt d aq rl} : IntactRes F (execMzero scope fmt d aq rl s) ↔ s.Intact F := by
  unfold execMzero
  split <;> simp

@[simp] theorem tileFree_intact {t name k} (h : s.Intact F) (hk : IntactRes F k) : IntactRes F (s.tileFree t name k) := by
  unfold State.tileFree
  split <;> simp [h, hk]

@[simp] theorem execMdrain_intact {f} (h : s.Intact F) : IntactRes F (execMdrain f s) := by
  unfold execMdrain
  repeat' split
  all_goals simp [h]

@[simp] theorem execMsave_intact {scope d a aq rl} (h : s.Intact F) : IntactRes F (execMsave scope d a aq rl s) := by
  unfold execMsave
  split <;> simp [h]

@[simp] theorem execMrest_intact {scope fmt d a aq rl} (h : s.Intact F) : IntactRes F (execMrest scope fmt d a aq rl s) := by
  unfold execMrest
  split <;> simp [h]

@[simp] theorem execMstat_intact {sel d c} : IntactRes F (execMstat sel d c s) ↔ s.Intact F := by
  unfold execMstat
  repeat' split
  all_goals simp

@[simp] theorem syncIso_intact {oct} : (s.syncIso oct).Intact F ↔ s.Intact F := by simp [State.syncIso]

@[simp] theorem bezelStart_intact {oct q} : (s.bezelStart oct q).Intact F ↔ s.Intact F := by
  simp only [State.bezelStart]
  split <;> simp

@[simp] theorem execBezelOpStart_intact {oct} : IntactRes F (execBezelOpStart oct s) ↔ s.Intact F := by
  simp only [execBezelOpStart]
  repeat' split
  all_goals simp

@[simp] theorem execBezelIsolationSlot_intact {oct} : IntactRes F (execBezelIsolationSlot oct s) ↔ s.Intact F := by
  simp [execBezelIsolationSlot]

@[simp] theorem execBezelOpComplete_intact {oct} : IntactRes F (execBezelOpComplete oct s) ↔ s.Intact F := by
  simp only [execBezelOpComplete]
  repeat' split
  all_goals simp

/-! ### Machine/Copy -/

@[simp] theorem copyChecks_intact {kind runs locals k} (h : s.Intact F) (hk : ∀ x, IntactRes F (k x)) : IntactRes F (s.copyChecks kind runs locals k) := by
  unfold State.copyChecks
  repeat' split
  all_goals simp [h, hk]

@[simp] theorem copyNow_intact {c sc n} : IntactRes F (s.copyNow c sc n) ↔ s.Intact F := by simp [State.copyNow]

@[simp] theorem copyLater_intact {c sc n} (h : s.Intact F) : IntactRes F (s.copyLater c sc n) := by simp [State.copyLater, h]

@[simp] theorem execCpy_intact {f} (h : s.Intact F) : IntactRes F (execCpy f s) := by
  unfold execCpy
  split <;> simp [h]

@[simp] theorem execCpy2_intact {f} (h : s.Intact F) : IntactRes F (execCpy2 f s) := by simp [execCpy2, h]

@[simp] theorem sendFaults_intact {f last k} (h : s.Intact F) (hk : ∀ x, IntactRes F (k x)) : IntactRes F (s.sendFaults f last k) := by
  simp [State.sendFaults, h, hk]

@[simp] theorem sendChecks_intact {f last k} (h : s.Intact F) (hk : ∀ t c, t.Intact F → IntactRes F (k t c)) : IntactRes F (s.sendChecks f last k) := by
  simp [State.sendChecks, h, hk]

@[simp] theorem beginSend_intact {c} : (s.beginSend c).Intact F ↔ s.Intact F := by
  unfold State.beginSend
  repeat' split
  all_goals simp

@[simp] theorem execSend_intact {f} (h : s.Intact F) : IntactRes F (execSend f s) := by
  simp +contextual [execSend, h]

@[simp] theorem execSendLast_intact {f} (h : s.Intact F) : IntactRes F (execSendLast f s) := by
  unfold execSendLast
  split <;> simp [h]

@[simp] theorem drainCopy_intact {id c} : (s.drainCopy id c).Intact F ↔ s.Intact F := by simp [State.drainCopy]

@[simp] theorem execCopyCommandStart_intact {id q} : IntactRes F (execCopyCommandStart id q s) ↔ s.Intact F := by
  simp only [execCopyCommandStart]
  repeat' split
  all_goals simp

@[simp] theorem dropTransfer_intact {id i} : (s.dropTransfer id i).Intact F ↔ s.Intact F := by simp [State.dropTransfer]

@[simp] theorem setTransfer_intact {id i x} : (s.setTransfer id i x).Intact F ↔ s.Intact F := by simp [State.setTransfer]

@[simp] theorem glAsk_intact {id i x t n} : (s.glAsk id i x t n).Intact F ↔ s.Intact F := by
  unfold State.glAsk
  dsimp only
  split
  · split
    · simp
    split
    · rename_i hs
      exact setTransfer_intact.trans (intact_of_trySend hs)
    · rename_i hs
      exact intact_of_trySend hs
  · split <;> simp
  · rfl

@[simp] theorem glAnswer_intact {id a bs} : (s.glAnswer id a bs).Intact F ↔ s.Intact F := by
  unfold State.glAnswer
  repeat' split
  all_goals simp

@[simp] theorem glFail_intact {id a reason} : (s.glFail id a reason).Intact F ↔ s.Intact F := by
  unfold State.glFail
  repeat' split
  all_goals simp

@[simp] theorem lgRun_intact {id x n segs} : (s.lgRun id x n segs).1.Intact F ↔ s.Intact F := by
  induction n generalizing s segs with
  | zero => cases segs <;> rfl
  | succ n ih =>
    cases segs with
    | nil => rfl
    | cons g segs =>
      cases g with
      | data t bs =>
        unfold State.lgRun
        split
        · split
          · exact ih.trans ctlStore_intact
          split
          · rfl
          · exact ih.trans joinOrder_intact
        · split
          · simp
          split
          · rename_i hs
            exact ih.trans (intact_of_trySend hs)
          · rename_i hs
            exact intact_of_trySend hs
        · split
          · exact ih.trans (onHub_intact fun _ => rfl)
          · simp
      | _ => exact ih

/-- What a run of a GL leaves. -/
def IntactGl (F : List Nat) : GlEnd → Prop
  | .more t _ => t.Intact F
  | .poison t => t.Intact F

theorem glRun_intact {id ctx inv skip n segs} (h : s.Intact F) : IntactGl F (s.glRun id ctx inv skip n segs) := by
  induction n generalizing s skip segs with
  | zero => cases segs <;> exact h
  | succ n ih =>
    cases segs with
    | nil => exact h
    | cons g segs =>
      cases g with
      | fill a bs => exact ih (modCore_intact.2 h)
      | data t bs => exact ih h
      | mem a t m =>
        unfold State.glRun
        split
        · exact ih h
        split
        · exact ih (modCore_intact.2 (meetRemote_intact.2 h))
        · exact h
        · exact h
        · exact found_intact h _

@[simp] theorem execCopyCommandComplete_intact {id q i} (h : s.Intact F) : IntactRes F (execCopyCommandComplete id q i s) := by
  unfold execCopyCommandComplete
  split
  · rename_i x _
    refine intactRes_cases h ?_
    split
    · rename_i segs tags inv _
      have hrun := glRun_intact h (id := id) (ctx := x.ctx) (inv := inv) (skip := x.firstSkips)
        (n := segBytes segs + segs.length + 1) (segs := segs)
      split
      · rename_i hs
        rw [hs] at hrun
        change State.Intact F _ at hrun
        simpa using hrun
      · rename_i hs
        rw [hs] at hrun
        change State.Intact F _ at hrun
        simpa using hrun
      · rename_i hs
        rw [hs] at hrun
        change State.Intact F _ at hrun
        dsimp only
        split <;> simpa using hrun
    · simp [h]
    · dsimp only
      split
      · split <;> simp [h]
      · simp [h]
    · simp [h]
  · exact h

@[simp] theorem glStep_intact {id i} : (s.glStep id i).Intact F ↔ s.Intact F := by
  unfold State.glStep
  repeat' split
  all_goals simp

@[simp] theorem setTile_intact {id i c} : (s.setTile id i c).Intact F ↔ s.Intact F := by simp [State.setTile]

@[simp] theorem endTile_intact {id i} : (s.endTile id i).Intact F ↔ s.Intact F := by
  unfold State.endTile
  split <;> simp

@[simp] theorem discardSend_intact {id i reason} : (s.discardSend id i reason).Intact F ↔ s.Intact F := by
  unfold State.discardSend
  repeat' split
  all_goals simp

@[simp] theorem execReservationRequest_intact {id} (h : s.Intact F) : IntactRes F (execReservationRequest id s) := by
  unfold execReservationRequest
  dsimp only
  split
  · exact h
  split
  · split
    · split
      · simp [h]
      · exact h
      · refine intactRes_cases (by simp [h]) (intactRes_cases h ?_)
        split
        · rename_i hs
          exact setTile_intact.2 ((intact_of_trySend hs).2 h)
        · rename_i hs
          exact (intact_of_trySend hs).2 h
      · simp [h]
    · exact h
  · exact h

@[simp] theorem execReservationResend_intact {id} : IntactRes F (execReservationResend id s) ↔ s.Intact F := by
  simp [execReservationResend]

@[simp] theorem execSlotPublication_intact {id} : IntactRes F (execSlotPublication id s) ↔ s.Intact F := by
  unfold execSlotPublication
  repeat' split
  all_goals simp

@[simp] theorem tileReply_intact {id flow seq e} : (s.tileReply id flow seq e).Intact F ↔ s.Intact F := by
  unfold State.tileReply
  repeat' split
  all_goals simp

end Sys2Proof.Machine
end

section
/-!
SUPPORT. What every step keeps: the memory ports, translation, and the actor and restart engines (obligation O60).
-/

namespace Sys2Proof.Machine

variable {F : List Nat} {s : State}

/-! ### Machine/PortOps -/

@[simp] theorem clearGranule_intact {cmp pa bs} (h : s.Intact F) : (s.clearGranule cmp pa bs).Intact F :=
  mapCores_intact.2 (onRam_writes h fun _ hr => setPoison_wf (foldl_wf hr fun _ _ hr => putBlock_wf hr))

@[simp] theorem answer_intact {a e} : (s.answer a e).Intact F ↔ s.Intact F := by
  unfold State.answer
  split <;> rfl

@[simp] theorem execOrderingPointPass_intact {die i} (h : s.Intact F) : IntactRes F (execOrderingPointPass die i s) := by
  unfold execOrderingPointPass
  split
  · rename_i o _ _
    have hleft : ((s.putAside die o).onRam fun r => { r with order := Sparse.set [] r.order die ((s.orderAt die).eraseIdx i) }).Intact F :=
      (onRam_intact fun _ => rfl).2 (putAside_intact.2 h)
    split
    · exact answer_intact.2 (clearGranule_intact hleft)
    · exact answer_intact.2 (clearGranule_intact hleft)
    · exact answer_intact.2 (onRam_writes hleft fun _ hr => putBlock_wf hr)
    · exact (onRam_intact fun _ => rfl).2 hleft
  · exact h

@[simp] theorem portEnd_intact {o e} : IntactRes F (s.portEnd o e) ↔ s.Intact F := by
  simp only [State.portEnd]
  repeat' split
  all_goals simp

theorem elem_wf {r r' : Ram} (h : Memory.wf r.bytes = true) {cmp pa k x} (he : r.elem cmp pa k x = some r') : Memory.wf r'.bytes = true := by
  unfold Ram.elem at he
  dsimp only at he
  split at he
  · rw [← Option.some.inj he]
    exact h
  split at he
  · obtain ⟨bs, -, rfl⟩ := Option.map_eq_some_iff.1 he
    exact write_wf (write_wf h)
  · obtain ⟨bs, -, rfl⟩ := Option.map_eq_some_iff.1 he
    exact write_wf h

theorem elemsN_wf {r r' : Ram} (h : Memory.wf r.bytes = true) {cmp pa k xs} (he : r.elemsN cmp pa k xs = some r') :
    Memory.wf r'.bytes = true := by
  induction xs generalizing r with
  | nil => rw [← Option.some.inj he]; exact h
  | cons x xs ih =>
    obtain ⟨r1, h1, h2⟩ := Option.bind_eq_some_iff.1 he
    exact ih (elem_wf h h1) h2

/-- What an application leaves. -/
def WfApplied : Applied → Prop
  | .ok r _ => Memory.wf r.bytes = true
  | .poison r => Memory.wf r.bytes = true

theorem unread_wf {r : Ram} (h : Memory.wf r.bytes = true) {p o} : Memory.wf (r.unread p o).bytes = true := by
  unfold Ram.unread
  split
  · exact putBlock_wf h
  · exact h

theorem apply_wf {r : Ram} (h : Memory.wf r.bytes = true) (p : Port) (o : PortOp) : WfApplied (r.apply p o) := by
  have hscalar (n : Nat) : WfApplied (if r.poisoned o.pa then .poison r
      else match r.read o.cmp o.pa n with
        | none => .poison (r.found o.pa)
        | some bs => match o.kind.scalar (natOf bs) with
          | some v => .ok (r.write o.cmp o.pa (bytesOf n v)) (natOf bs)
          | none => .ok r (natOf bs)) := by
    split
    · exact h
    split
    · exact found_wf h
    split
    · exact write_wf h
    · exact h
  unfold Ram.apply
  dsimp only
  split
  · exact writeMask_wf (unread_wf h)
  · exact hscalar _
  · exact hscalar _
  · exact hscalar _
  · exact hscalar _
  · split
    · exact h
    split
    · exact h
    split
    · rename_i hs
      exact elemsN_wf h hs
    · exact found_wf h
  · exact h
  · exact write_wf h
  · exact putBlock_wf h

@[simp] theorem execWriteQueueApply_intact {m} (h : s.Intact F) : IntactRes F (execWriteQueueApply m s) := by
  unfold execWriteQueueApply
  dsimp only
  split
  · rename_i l o ops rest _
    have happly := apply_wf (r := (s.setPort m { s.port m with queue := dequeue (s.port m).queue }).ram) (setPort_intact.2 h).2.1 (s.port m) o
    split
    · rename_i hs
      rw [hs] at happly
      exact portEnd_intact.2 (onRam_writes (setPort_intact.2 h) fun _ _ => happly)
    · rename_i hs
      rw [hs] at happly
      exact portEnd_intact.2 (onRam_writes (setPort_intact.2 h) fun _ _ => happly)
  · exact h
  · simp [h]

@[simp] theorem execPortRead_intact {m} (h : s.Intact F) : IntactRes F (execPortRead m s) := by
  unfold execPortRead
  dsimp only
  split
  · exact h
  split
  · exact h
  refine intactRes_cases (by simp [h]) ?_
  split
  · simp [h]
  · exact reply_intact.2 (found_intact (setPort_intact.2 h) _)

@[simp] theorem execPatrolRead_intact {b e} (h : s.Intact F) : IntactRes F (execPatrolRead b e s) := by
  unfold execPatrolRead
  dsimp only
  refine intactRes_cases h (intactRes_cases (found_intact ?_ _) ?_)
  · split <;> simp [h]
  · split <;> simp [h]

@[simp] theorem countAt_intact {m pa dev ctx} : (s.countAt m pa dev ctx).1.Intact F ↔ s.Intact F := by simp [State.countAt]

@[simp] theorem countAccess_intact {pa n dev ctx} : (s.countAccess pa n dev ctx).1.Intact F ↔ s.Intact F := by
  have hall (ms : List Nat) (r : State × List (List Byte)) : (ms.foldl (fun r m =>
      let c := r.1.countAt m pa dev ctx
      (c.1, r.2 ++ c.2.toList)) r).1.Intact F ↔ r.1.Intact F := by
    induction ms generalizing r with
    | nil => rfl
    | cons m ms ih => exact (ih _).trans countAt_intact
  exact hall _ _

/-! ### Machine/Trans -/

@[simp] theorem closeMiss_intact {m} : (s.closeMiss m).Intact F ↔ s.Intact F := Iff.rfl

@[simp] theorem answerMiss_intact {id missId} : (s.answerMiss id missId).Intact F ↔ s.Intact F := by
  unfold State.answerMiss
  split <;> simp

@[simp] theorem execTlbw_intact {d a b c rsp} : IntactRes F (execTlbw d a b c rsp s) ↔ s.Intact F := by
  unfold execTlbw
  repeat' split
  all_goals simp

@[simp] theorem tlbinvIssue_intact {ctx page} (h : s.Intact F) : IntactRes F (s.tlbinvIssue ctx page) := by
  simp [State.tlbinvIssue, h]

@[simp] theorem execTlbinvPage_intact {a b sz} (h : s.Intact F) : IntactRes F (execTlbinvPage a b sz s) := by
  simp [execTlbinvPage, h]

@[simp] theorem execTlbinvCtx_intact {b} (h : s.Intact F) : IntactRes F (execTlbinvCtx b s) := by simp [execTlbinvCtx, h]

@[simp] theorem startInval_intact {id ctx page} : (s.startInval id ctx page).Intact F ↔ s.Intact F := Iff.rfl

@[simp] theorem execTlbinvComplete_intact : IntactRes F (execTlbinvComplete s) ↔ s.Intact F := Iff.rfl

@[simp] theorem execTlbprobe_intact {e1 d a b} : IntactRes F (execTlbprobe e1 d a b s) ↔ s.Intact F := by simp [execTlbprobe]

@[simp] theorem engAsk_intact {id x va n} : (s.engAsk id x va n).Intact F ↔ s.Intact F := by
  unfold State.engAsk
  repeat' split
  all_goals simp

@[simp] theorem engAnswer_intact {x va n bs why} : (s.engAnswer x va n bs why).Intact F ↔ s.Intact F := Iff.rfl

@[simp] theorem engForget_intact : s.engForget.Intact F ↔ s.Intact F := Iff.rfl

@[simp] theorem engWant_intact {id x handler addr isWalk} : (s.engWant id x handler addr isWalk).Intact F ↔ s.Intact F := by
  simp [State.engWant]

theorem copyGranule_wf {r : Ram} (h : Memory.wf r.bytes = true) {g f} : Memory.wf (r.copyGranule g f).bytes = true := by
  unfold Ram.copyGranule
  dsimp only [List.foldl]
  generalize 4096 = n
  exact setPoison_wf (memWrite_wf _ _ h)

/-- The first write of a shadowed granule leaves an intact state. -/
theorem firstWrite_taken {x va c kind t} (h : s.Intact F) (ht : s.firstWrite x va c kind = .taken t) : t.Intact F := by
  unfold State.firstWrite at ht
  dsimp only at ht
  split at ht
  · cases ht
  split at ht
  · cases ht
  split at ht
  · cases ht
  split at ht
  · cases ht
  · cases ht
    exact mapCores_intact.2 (onActs_intact.2 (onRam_writes h fun _ hr => copyGranule_wf hr))

theorem engPut_intact {die w t} (h : s.Intact F) (ht : s.engPut die w = some t) : t.Intact F := by
  unfold State.engPut at ht
  split at ht
  · cases ht
  · rename_i c _
    split at ht
    · rw [← Option.some.inj ht]
      split <;> simp [h]
    split at ht
    · rw [← Option.some.inj ht]
      split <;> simp [h]
    split at ht
    · rw [← Option.some.inj ht]
      exact h
    split at ht
    · cases ht
    · rw [← Option.some.inj ht]
      exact h
    · have hfirst : (match s.firstWrite w.ctx w.va c .write with
          | .taken t => t
          | _ => s).Intact F := by
        split
        · rename_i hs
          exact firstWrite_taken h hs
        · exact h
      dsimp only at ht
      split at ht
      · exact intoOrder_intact hfirst _ ht
      · rw [← Option.some.inj ht]
        exact hfirst
  · rw [← Option.some.inj ht]
    exact h

@[simp] theorem engSend_intact {die w} (h : s.Intact F) : (s.engSend die w).Intact F := by
  unfold State.engSend
  dsimp only
  split
  · cases hs : s.engPut die w with
    | none => exact h
    | some t => exact engPut_intact h hs
  · exact h

theorem engLate_intact {die t} (h : s.Intact F) (ht : s.engLate die = some t) : t.Intact F := by
  unfold State.engLate at ht
  split at ht
  · cases ht
  · obtain ⟨u, hu, rfl⟩ := Option.map_eq_some_iff.1 ht
    exact (onRam_intact fun _ => rfl).2 (engPut_intact h hu)

@[simp] theorem engWrite_intact {die x n va bs} (h : s.Intact F) : (s.engWrite die x n va bs).Intact F := by
  induction n generalizing s va bs with
  | zero => exact h
  | succ n ih =>
    cases bs with
    | nil => exact h
    | cons b bs => exact ih (engSend_intact h)

@[simp] theorem engStore_intact {die x va bs} (h : s.Intact F) : (s.engStore die x va bs).Intact F := by simp [State.engStore, h]

@[simp] theorem saveVectors_intact {id sl} (h : s.Intact F) : (s.saveVectors id sl).Intact F := by
  unfold State.saveVectors
  dsimp only
  split
  · split
    · exact h
    · exact foldl_keeps (fun _ _ ht => engStore_intact ht) (foldl_keeps (fun _ _ ht => engStore_intact ht) h)
  · exact h

@[simp] theorem execMissResend_intact {id} : IntactRes F (execMissResend id s) ↔ s.Intact F := by
  unfold execMissResend
  split <;> simp

@[simp] theorem notResident_intact {id m handler addr isWalk} (h : s.Intact F) : (s.notResident id m handler addr isWalk).Intact F := by
  simp only [State.notResident]
  split <;> simp [h]

@[simp] theorem execTlbMissAnswer_intact {id} (h : s.Intact F) : IntactRes F (execTlbMissAnswer id s) := by
  unfold execTlbMissAnswer
  split
  · exact notResident_intact h
  split
  · have hclosed (m : Miss) : (s.closeMiss m).Intact F := closeMiss_intact.2 h
    refine intactRes_cases (hclosed _) ?_
    split
    · exact h
    · simp [h]
    · refine modCore_intact.2 ?_
      split
      · exact hclosed _
      · exact found_intact (hclosed _) _
    · simp [h]
    · split
      · simp [h]
      · exact h
      · refine modCore_intact.2 ?_
        split
        · rename_i hs
          exact firstWrite_taken (hclosed _) hs
        · exact hclosed _
  · exact h

@[simp] theorem offerRequest_intact {w} : (s.offerRequest w).Intact F ↔ s.Intact F := by
  unfold State.offerRequest
  repeat' split
  all_goals simp

@[simp] theorem execPageRequest_intact {id} : IntactRes F (execPageRequest id s) ↔ s.Intact F := by
  unfold execPageRequest
  split <;> simp

@[simp] theorem execPageRequestRetry_intact {id} : IntactRes F (execPageRequestRetry id s) ↔ s.Intact F := by
  unfold execPageRequestRetry
  split <;> simp

/-! ### Machine/Place -/

@[simp] theorem charge_intact {x} : (s.charge x).Intact F ↔ s.Intact F := Iff.rfl

@[simp] theorem modJob_intact {pa f} : (s.modJob pa f).Intact F ↔ s.Intact F := Iff.rfl

@[simp] theorem jobWrite_intact {die j} (h : s.Intact F) : (s.jobWrite die j).Intact F := by simp [State.jobWrite, h]

@[simp] theorem tearDown_intact {j reason} (h : s.Intact F) : (s.tearDown j reason).Intact F := by simp [State.tearDown, h]

@[simp] theorem recordError_intact {x why} (h : s.Intact F) : (s.recordError x why).Intact F := by
  unfold State.recordError
  split <;> simp [h]

/-- What a read of the engine leaves where it fails. -/
def IntactEngRead (F : List Nat) : EngRead → Prop
  | .fail _ t => t.Intact F
  | _ => True

theorem IntactEngRead.of_fail {e : EngRead} {why : Nat} {t : State} (he : IntactEngRead F e) (hs : e = .fail why t) : t.Intact F := by
  subst hs
  exact he

theorem intactEngRead_then {e : EngRead} {k : List Byte → EngRead} : IntactEngRead F e → (∀ bs, IntactEngRead F (k bs)) →
    IntactEngRead F (match e with
      | .ok bs => k bs
      | r => r) := by
  intro he hk
  cases e with
  | ok bs => exact hk bs
  | fail why t => exact he
  | _ => trivial

theorem engFar_intact {x va n} (h : s.Intact F) : IntactEngRead F (s.engFar x va n) := by
  unfold State.engFar
  split
  · split
    · trivial
    · trivial
    · exact h
  · trivial

theorem engRead_intact {die x fuel va n} (h : s.Intact F) : IntactEngRead F (s.engRead die x fuel va n) := by
  induction fuel generalizing va n with
  | zero => trivial
  | succ fuel ih =>
    unfold State.engRead
    split
    · trivial
    split
    · trivial
    dsimp only
    split
    · trivial
    · exact h
    · split
      · exact h
      · exact found_intact h _
    · split
      · exact h
      · trivial
    · refine intactEngRead_then ?_ fun bs => intactEngRead_then (k := fun rest => .ok (bs ++ rest)) ih fun _ => trivial
      split
      · exact engFar_intact h
      split
      · trivial
      · exact h
      · exact found_intact h _
      · trivial

theorem engBytes_intact {die x va n} (h : s.Intact F) : IntactEngRead F (s.engBytes die x va n) := engRead_intact h

/-- What a reading operation of the engine leaves, with a claim about what it has read. -/
inductive IntactEng (F : List Nat) {α : Type} (P : α → Prop) : Eng α → Prop
  | ok {a : α} (ha : P a) : IntactEng F P (.ok a)
  | fail {why : Nat} {t : State} (ht : t.Intact F) : IntactEng F P (.fail why t)
  | wait {t : State} (ht : t.Intact F) : IntactEng F P (.wait t)

theorem IntactEng.of_ok {α : Type} {P : α → Prop} {e : Eng α} {a : α} (he : IntactEng F P e) (hs : e = .ok a) : P a := by
  subst hs
  obtain ⟨ha⟩ := he
  exact ha

theorem IntactEng.of_fail {α : Type} {P : α → Prop} {e : Eng α} {why : Nat} {t : State} (he : IntactEng F P e)
    (hs : e = .fail why t) : t.Intact F := by
  subst hs
  cases he with
  | fail ht => exact ht

theorem IntactEng.of_wait {α : Type} {P : α → Prop} {e : Eng α} {t : State} (he : IntactEng F P e) (hs : e = .wait t) :
    t.Intact F := by
  subst hs
  cases he with
  | wait ht => exact ht

theorem andThen_intact {α β : Type} {P : α → Prop} {Q : β → Prop} {e : Eng α} {k : α → Eng β} (he : IntactEng F P e)
    (hk : ∀ a, P a → IntactEng F Q (k a)) : IntactEng F Q (e.andThen k) := by
  cases he with
  | ok ha => exact hk _ ha
  | fail ht => exact .fail ht
  | wait ht => exact .wait ht

theorem engGet_intact {id x va n} (h : s.Intact F) : IntactEng F (fun _ => True) (s.engGet id x va n) := by
  unfold State.engGet
  split
  · exact .fail h
  split
  · exact .ok trivial
  · exact .wait (engWant_intact.2 h)
  · exact .wait (engAsk_intact.2 h)
  · rename_i hs
    exact .fail ((engBytes_intact h).of_fail hs)
  · exact .wait h

theorem engImage_intact {id x va} (h : s.Intact F) : IntactEng F (fun _ => True) (s.engImage id x va) := by
  refine andThen_intact (engGet_intact h) fun bs _ => ?_
  split
  · exact .ok trivial
  · exact .fail h

theorem engTemplate_intact {id x img k} (h : s.Intact F) : IntactEng F (fun _ => True) (s.engTemplate id x img k) := by
  unfold State.engTemplate
  split
  · exact .fail h
  refine andThen_intact (engGet_intact h) fun bs _ => ?_
  dsimp only
  split
  · exact .fail h
  · exact .ok trivial

theorem engTemplates_intact {id x img ks} (h : s.Intact F) : IntactEng F (fun _ => True) (s.engTemplates id x img ks) := by
  induction ks with
  | nil => exact .ok trivial
  | cons k ks ih => exact andThen_intact (engTemplate_intact h) fun _ _ => andThen_intact ih fun _ _ => .ok trivial

theorem engParts_intact {id x img r} (h : s.Intact F) : IntactEng F (fun _ => True) (s.engParts id x img r) := by
  refine andThen_intact (engGet_intact h) fun text _ => ?_
  split
  · exact .ok trivial
  · exact andThen_intact (engGet_intact h) fun _ _ => .ok trivial

@[simp] theorem writeBack_intact {x} (h : s.Intact F) : (s.writeBack x).Intact F := by
  unfold State.writeBack
  split
  · exact h
  refine modActor_intact.2 (engStore_intact ?_)
  split
  · rename_i hs
    exact recordError_intact ((engBytes_intact h).of_fail hs)
  · exact h

theorem linksMove_intact {x} (h : s.Intact F) : ∀ t, s.linksMove x = some t → t.Intact F := by
  simp only [State.linksMove]
  repeat' split
  all_goals simp [h]

@[simp] theorem reserveIndices_intact {x b n} : (s.reserveIndices x b n).Intact F ↔ s.Intact F := by simp [State.reserveIndices]

@[simp] theorem releaseIndices_intact {x b n} : (s.releaseIndices x b n).Intact F ↔ s.Intact F := by simp [State.releaseIndices]

/-! ### Machine/Actor -/

@[simp] theorem post_intact {m} : (s.post m).Intact F ↔ s.Intact F := Iff.rfl

@[simp] theorem postExit_intact {dst frm reason} : (s.postExit dst frm reason).Intact F ↔ s.Intact F := Iff.rfl

@[simp] theorem postNotice_intact {dst subject code body} : (s.postNotice dst subject code body).Intact F ↔ s.Intact F := Iff.rfl

@[simp] theorem exitTo_intact {w frm reason} : (s.exitTo w frm reason).Intact F ↔ s.Intact F := by
  unfold State.exitTo
  split <;> rfl

theorem ringWrite_intact {id i bs} (h : s.Intact F) : ∀ t, s.ringWrite id i bs = some t → t.Intact F := by simp [State.ringWrite, h]

theorem getD_intact {o : Option State} (h : s.Intact F) (ho : ∀ t, o = some t → t.Intact F) : (o.getD s).Intact F := by
  cases o with
  | none => exact h
  | some t => exact ho t rfl

@[simp] theorem noticeTo_intact {w subject code body} (h : s.Intact F) : (s.noticeTo w subject code body).Intact F := by
  unfold State.noticeTo
  split
  · split <;> simp [h]
  · exact getD_intact h fun t ht => ringWrite_intact h t ht

@[simp] theorem sendOp_intact {e d r} : (s.sendOp e d r).1.Intact F ↔ s.Intact F := by
  unfold State.sendOp
  split
  · rename_i hs
    exact intact_of_trySend hs
  · rename_i hs
    exact intact_of_trySend hs

@[simp] theorem sendHead_intact {e d r} : (s.sendHead e d r).1.Intact F ↔ s.Intact F := by simp [State.sendHead]

@[simp] theorem actorIssue_intact {op rel n} (h : s.Intact F) : IntactRes F (s.actorIssue op rel n) := by
  simp [State.actorIssue, h]

@[simp] theorem ifRoom_intact {k} (h : s.Intact F) (hk : IntactRes F k) : IntactRes F (s.ifRoom k) := by
  unfold State.ifRoom
  split <;> simp [h, hk]

@[simp] theorem withLinks_intact {n k} (h : s.Intact F) (hk : ∀ t, t.Intact F → IntactRes F (k t)) : IntactRes F (s.withLinks n k) := by
  unfold State.withLinks
  repeat' split
  all_goals simp [h, hk]

@[simp] theorem execSpawn_intact {f} (h : s.Intact F) : IntactRes F (execSpawn f s) := by
  unfold execSpawn
  dsimp only
  refine intactRes_cases (by simp [h]) (loadGlobals_intact h fun t hs ht => ?_)
  refine intactRes_cases (by simp [ht]) (loadGlobals_intact ht fun u _ hu => withLinks_intact hu fun v hv => ?_)
  split
  · simp [hu]
  · exact withEntries_intact (reserveIndices_intact.2 hv) fun w hw => by simp [hw]

@[simp] theorem execExit_intact {a} : IntactRes F (execExit a s) ↔ s.Intact F := by
  unfold execExit
  repeat' split
  all_goals simp

@[simp] theorem execKill_intact {a} (h : s.Intact F) : IntactRes F (execKill a s) := by simp [execKill, h]

@[simp] theorem execLink_intact {a} (h : s.Intact F) : IntactRes F (execLink a s) := by
  simp +contextual [execLink, h]

@[simp] theorem execUnlink_intact {a} (h : s.Intact F) : IntactRes F (execUnlink a s) := by simp [execUnlink, h]

@[simp] theorem execMonitor_intact {a b} (h : s.Intact F) : IntactRes F (execMonitor a b s) := by
  simp +contextual [execMonitor, h]

@[simp] theorem execUnmon_intact {a b} (h : s.Intact F) : IntactRes F (execUnmon a b s) := by simp [execUnmon, h]

@[simp] theorem execSignalMsg_intact {scope a b c} (h : s.Intact F) : IntactRes F (execSignalMsg scope a b c s) := by
  simp [execSignalMsg, h]

@[simp] theorem execSignalExit_intact {scope a b} (h : s.Intact F) : IntactRes F (execSignalExit scope a b s) := by
  simp [execSignalExit, h]

@[simp] theorem execSelf_intact {d} : IntactRes F (execSelf d s) ↔ s.Intact F := Iff.rfl

@[simp] theorem execSelfStable_intact {d} : IntactRes F (execSelfStable d s) ↔ s.Intact F := Iff.rfl

@[simp] theorem execSelfTx_intact {a} (h : s.Intact F) : IntactRes F (execSelfTx a s) := by simp [execSelfTx, h]

@[simp] theorem timerIssue_intact {k kl a b} (h : s.Intact F) : IntactRes F (s.timerIssue k kl a b) := by
  simp [State.timerIssue, h]

@[simp] theorem execTimer_intact {k a b} (h : s.Intact F) : IntactRes F (execTimer k a b s) := by simp [execTimer, h]

@[simp] theorem execTimerKill_intact {k a b} (h : s.Intact F) : IntactRes F (execTimerKill k a b s) := by simp [execTimerKill, h]

@[simp] theorem execCapcall_intact {a b c} (h : s.Intact F) : IntactRes F (execCapcall a b c s) := by simp [execCapcall, h]

@[simp] theorem execMigrate_intact {a b} (h : s.Intact F) : IntactRes F (execMigrate a b s) := by simp [execMigrate, h]

@[simp] theorem execPortcfg_intact {k a b} (h : s.Intact F) : IntactRes F (execPortcfg k a b s) := by simp [execPortcfg, h]

@[simp] theorem execConsume_intact {k a} : IntactRes F (execConsume k a s) ↔ s.Intact F := by
  unfold execConsume
  split <;> simp

@[simp] theorem joinGroup_intact {w lk mn tag x b n} : (s.joinGroup w lk mn tag x b n).Intact F ↔ s.Intact F := by
  unfold State.joinGroup
  split <;> simp

@[simp] theorem freeLinks_intact {w n} : (s.freeLinks w n).Intact F ↔ s.Intact F := by
  unfold State.freeLinks
  split <;> rfl

/-- What a placement leaves. -/
def IntactPlaced (F : List Nat) : Placed → Prop
  | .ok t => t.Intact F
  | _ => True

theorem IntactPlaced.of_ok {e : Placed} {t : State} (he : IntactPlaced F e) (hs : e = .ok t) : t.Intact F := by
  subst hs
  exact he

theorem placeOn_intact {x img text state r ids} (h : s.Intact F) : IntactPlaced F (s.placeOn x img text state r ids) := by
  unfold State.placeOn
  split
  · trivial
  split
  · trivial
  · exact setActor_intact.2 (setCore_intact.2 h)

/-- What the placing of a group leaves. -/
def IntactGroup (F : List Nat) : Group → Prop
  | .ok t => t.Intact F
  | .fail _ t => t.Intact F
  | .wait t => t.Intact F

theorem IntactGroup.of_ok {e : Group} {t : State} (he : IntactGroup F e) (hs : e = .ok t) : t.Intact F := by
  subst hs
  exact he

theorem placeGroup_intact {id x img ids b rs} (h : s.Intact F) : IntactGroup F (s.placeGroup id x img ids b rs) := by
  induction rs generalizing s b with
  | nil => exact h
  | cons r rest ih =>
    unfold State.placeGroup
    split
    · rename_i hs
      exact (engParts_intact h).of_fail hs
    · rename_i hs
      exact (engParts_intact h).of_wait hs
    · dsimp only
      split
      · exact h
      · exact h
      · rename_i hs
        exact ih ((placeOn_intact h).of_ok hs)

@[simp] theorem drainSpawn_intact {w x va param k core lk mn all tag b n} (h : s.Intact F) :
    (s.drainSpawn w x va param k core lk mn all tag b n).1.Intact F := by
  have hbuilt (g : Image → List ActorRec → Image × List ActorRec) (ks : List Nat) :
      IntactEng F (fun _ => True) ((s.engImage w.core x va).andThen fun img =>
        (s.engTemplates w.core x img ks).andThen fun rs => .ok (g img rs)) :=
    andThen_intact (engImage_intact h) fun _ _ => andThen_intact (engTemplates_intact h) fun _ _ => .ok trivial
  unfold State.drainSpawn
  dsimp only
  split
  · simp [h]
  split
  · simp [h]
  · rename_i hs _
    simp [(hbuilt (fun img rs => (img, _)) _).of_fail hs]
  · rename_i hs _
    exact (hbuilt (fun img rs => (img, _)) _).of_wait hs
  · split
    · simp [h]
    · exact onCtxs_intact.2 h
    · rename_i hs
      simp [(placeGroup_intact h).of_ok hs]

theorem onName_intact {e tree n gone here away} (h : s.Intact F) (hgone : ∀ t, t.Intact F → (gone t).Intact F)
    (hhere : ∀ t x, t.Intact F → (here t x).Intact F) (haway : ∀ t d, t.Intact F → (away t d).1.Intact F) :
    (s.onName e tree n gone here away).1.Intact F := by
  unfold State.onName
  split
  · exact killIssuer_intact.2 h
  split
  · exact hgone _ h
  · exact hhere _ _ h
  · exact h
  · exact haway _ _ h

@[simp] theorem unlinkEntry_intact {i l} : (s.unlinkEntry i l).Intact F ↔ s.Intact F := by
  unfold State.unlinkEntry
  split <;> rfl

@[simp] theorem addLink_intact {i l} : (s.addLink i l).Intact F ↔ s.Intact F := Iff.rfl

@[simp] theorem downTo_intact {w frm reason tag} : (s.downTo w frm reason tag).Intact F ↔ s.Intact F := by
  unfold State.downTo
  split <;> rfl

@[simp] theorem drainLink_intact {e n} (h : s.Intact F) : (s.drainLink e n).1.Intact F := by
  refine onName_intact h (fun t ht => by simp [ht]) (fun t x ht => ?_) fun t d ht => ?_
  · split
    · exact ht
    · simp [ht]
  · split
    · exact ht
    · simp [ht]

@[simp] theorem drainUnlink_intact {e n} (h : s.Intact F) : (s.drainUnlink e n).1.Intact F := by
  refine onName_intact h (fun t ht => ht) (fun t x ht => ?_) fun t d ht => ?_
  · split
    · exact ht
    · simp [ht]
  · split
    · exact ht
    · simp [ht]

@[simp] theorem drainMonitor_intact {e n tag} (h : s.Intact F) : (s.drainMonitor e n tag).1.Intact F := by
  refine onName_intact h (fun t ht => by simp [ht]) (fun t x ht => ?_) fun t d ht => ?_
  · split
    · exact ht
    · simp [ht]
  · split <;> simp [ht]

@[simp] theorem drainUnmon_intact {e n tag} (h : s.Intact F) : (s.drainUnmon e n tag).1.Intact F := by
  refine onName_intact h (fun t ht => ht) (fun t x ht => ?_) fun t d ht => ?_
  · split
    · exact ht
    · simp [ht]
  · split
    · exact ht
    · simp [ht]

@[simp] theorem drainKill_intact {e n} (h : s.Intact F) : (s.drainKill e n).1.Intact F :=
  onName_intact h (fun t ht => by simp [ht]) (fun t x ht => by simp [ht]) fun t d ht => by simp [ht]

@[simp] theorem countMsg_intact {id x} : (s.countMsg id x).Intact F ↔ s.Intact F := Iff.rfl

@[simp] theorem drainSignal_intact {id e n m counts} (h : s.Intact F) : (s.drainSignal id e n m counts).1.Intact F := by
  unfold State.drainSignal
  split
  · exact h
  split
  · exact h
  dsimp only
  split
  · simp [h]
  split
  · split
    · exact h
    split
    · rename_i hs
      have ht := (intact_of_trySend hs).2 h
      split
      · exact countMsg_intact.2 ht
      · exact ht
    · rename_i hs
      exact (intact_of_trySend hs).2 h
  · simp [h]

@[simp] theorem drainSelfTx_intact {e on} : (s.drainSelfTx e on).Intact F ↔ s.Intact F := by
  unfold State.drainSelfTx
  split <;> simp

@[simp] theorem drainTimer_intact {e k kl cycles tag} : (s.drainTimer e k kl cycles tag).Intact F ↔ s.Intact F := by
  unfold State.drainTimer
  split <;> rfl

@[simp] theorem unbind_intact {i k} : (s.unbind i k).Intact F ↔ s.Intact F := Iff.rfl

@[simp] theorem bindPort_intact {i k n dport size} : (s.bindPort i k n dport size).Intact F ↔ s.Intact F := Iff.rfl

@[simp] theorem drainPortcfg_intact {e k n dport} (h : s.Intact F) : (s.drainPortcfg e k n dport).1.Intact F := by
  unfold State.drainPortcfg
  split
  · exact h
  split
  · exact unbind_intact.2 h
  · exact onName_intact h (fun t ht => by simp [ht]) (fun t x ht => by simp [ht]) fun t d ht => by simp [ht]

@[simp] theorem tellMove_intact {a subject code} (h : s.Intact F) : (s.tellMove a subject code).Intact F := by
  unfold State.tellMove
  split <;> simp [h]

@[simp] theorem drainMigrate_intact {e n v} (h : s.Intact F) : (s.drainMigrate e n v).1.Intact F :=
  onName_intact h (fun t ht => by simp [ht]) (fun t x ht => by simp [ht]) fun t d ht => by simp [ht]

@[simp] theorem execMigrationStart_intact {x} : IntactRes F (execMigrationStart x s) ↔ s.Intact F := by simp [execMigrationStart]

@[simp] theorem relocated_intact {x} (h : s.Intact F) : (s.relocated x).Intact F := by simp [State.relocated, h]

@[simp] theorem departed_intact {x core slot} (h : s.Intact F) : (s.departed x core slot).Intact F := by simp [State.departed, h]

@[simp] theorem moved_intact {x c r1} (h : s.Intact F) : (s.moved x c r1).Intact F := by simp [State.moved, h]

@[simp] theorem redirectAsks_intact {x dev} : (s.redirectAsks x dev).Intact F ↔ s.Intact F := by
  refine (foldl_intact fun t a => ?_).trans modActor_intact
  split <;> simp

@[simp] theorem moveAnswer_intact {x name dev e} (h : s.Intact F) : (s.moveAnswer x name dev e).Intact F := by
  unfold State.moveAnswer
  dsimp only
  split <;> simp [h]

/-- An actor's arrival from another device leaves an intact state. -/
theorem arrive_intact {name core block links rings bytes tags p} (h : s.Intact F)
    (hp : s.arrive name core block links rings bytes tags = some p) : p.1.Intact F := by
  unfold State.arrive at hp
  dsimp only at hp
  split at hp
  · cases hp
  split at hp
  · cases hp
  split at hp
  · split at hp
    · split at hp
      · rw [← Option.some.inj hp]
        split
        · exact relocated_intact (setActor_intact.2 (setCore_intact.2 h))
        · exact modSuper_intact.2 (setActor_intact.2 (setCore_intact.2 h))
      · cases hp
    · cases hp
  · cases hp

theorem moveTo_intact {x ids} (h : s.Intact F) : IntactEng F (State.Intact F) (s.moveTo x ids) := by
  unfold State.moveTo
  dsimp only
  split
  · exact .fail h
  split
  · exact .ok (moved_intact h)
  · refine andThen_intact (engImage_intact h) fun _ _ => andThen_intact (engGet_intact h) fun _ _ => ?_
    split
    · exact .ok (moved_intact h)
    · exact .fail h

@[simp] theorem execMigrationMove_intact {x} (h : s.Intact F) : IntactRes F (execMigrationMove x s) := by
  unfold execMigrationMove
  dsimp only
  split
  · split
    · split
      · split
        · split
          · rename_i hs
            simp [(moveTo_intact h).of_ok hs]
          · rename_i hs
            simp [(moveTo_intact h).of_fail hs]
          · rename_i hs
            exact (moveTo_intact h).of_wait hs
        · simp [h]
      · simp [h]
    · split
      · split
        · rename_i hs
          exact modActor_intact.2 ((intact_of_trySend hs).2 h)
        · rename_i hs
          exact (intact_of_trySend hs).2 h
      · simp [h]
  · exact h

@[simp] theorem execForwardingRedirect_intact {id} : IntactRes F (execForwardingRedirect id s) ↔ s.Intact F := by
  simp [execForwardingRedirect]

@[simp] theorem execDirectoryUpdateAcknowledged_intact {id} : IntactRes F (execDirectoryUpdateAcknowledged id s) ↔ s.Intact F := by
  unfold execDirectoryUpdateAcknowledged
  split <;> simp

@[simp] theorem signalEnd_intact {x l} : (s.signalEnd x l).Intact F ↔ s.Intact F := by
  unfold State.signalEnd
  split <;> simp

@[simp] theorem handDeath_intact {x} (h : s.Intact F) : (s.handDeath x).Intact F := by
  simp only [State.handDeath]
  split <;> simp [h]

@[simp] theorem execDeathSignals_intact {x} (h : s.Intact F) : IntactRes F (execDeathSignals x s) := by simp [execDeathSignals, h]

@[simp] theorem execSlotReclaim_intact {x} (h : s.Intact F) : IntactRes F (execSlotReclaim x s) := by
  unfold execSlotReclaim
  dsimp only
  refine intactRes_cases h (intactRes_cases (writeBack_intact ?_) ?_)
  · split <;> simp [h]
  · simp [h]

@[simp] theorem takeMail_intact {m} : (s.takeMail m).Intact F ↔ s.Intact F := Iff.rfl

@[simp] theorem exitArrive_intact {x frm reason tag timer sc} : (s.exitArrive x frm reason tag timer sc).Intact F ↔ s.Intact F := by
  simp [State.exitArrive]

@[simp] theorem sendMail_intact {m d} : (s.sendMail m d).Intact F ↔ s.Intact F := by
  unfold State.sendMail
  split
  · rename_i hs
    exact takeMail_intact.trans (intact_of_trySend hs)
  · rename_i hs
    exact intact_of_trySend hs

@[simp] theorem execExitSignalArrival_intact : IntactRes F (execExitSignalArrival s) ↔ s.Intact F := by
  unfold execExitSignalArrival
  repeat' split
  all_goals simp

@[simp] theorem execControlMessageArrival_intact : IntactRes F (execControlMessageArrival s) ↔ s.Intact F := by
  unfold execControlMessageArrival
  repeat' split
  all_goals simp

@[simp] theorem execTimerExpiry_intact {x k} : IntactRes F (execTimerExpiry x k s) ↔ s.Intact F := by simp [execTimerExpiry]

/-- What the gate leaves. -/
def IntactGate (F : List Nat) : Gate → Prop
  | .done t _ _ => t.Intact F
  | .forwarded t => t.Intact F
  | .wait t => t.Intact F

theorem IntactGate.of_done {g : Gate} {t : State} {st res} (hg : IntactGate F g) (hs : g = .done t st res) : t.Intact F := by
  subst hs
  exact hg

theorem IntactGate.of_forwarded {g : Gate} {t : State} (hg : IntactGate F g) (hs : g = .forwarded t) : t.Intact F := by
  subst hs
  exact hg

theorem IntactGate.of_wait {g : Gate} {t : State} (hg : IntactGate F g) (hs : g = .wait t) : t.Intact F := by
  subst hs
  exact hg

theorem intactGate_cases {c : Prop} [Decidable c] {g g' : Gate} (hg : IntactGate F g) (hg' : IntactGate F g') :
    IntactGate F (if c then g else g') := by
  split
  · exact hg
  · exact hg'

theorem gateFail_intact {x why} (h : s.Intact F) : IntactGate F (s.gateFail x why) := by
  unfold State.gateFail
  split
  · exact charge_intact.2 h
  · exact h

theorem gate_intact {id x index caller tag req} (h : s.Intact F) : IntactGate F (s.gate id x index caller tag req) := by
  unfold State.gate
  refine intactGate_cases h ?_
  split
  · rename_i hs
    exact (engGet_intact h).of_wait hs
  · rename_i hs
    exact gateFail_intact ((engGet_intact h).of_fail hs)
  dsimp only
  refine intactGate_cases h (intactGate_cases h ?_)
  split
  · refine intactGate_cases h ?_
    split
    · rename_i hs
      exact ringWrite_intact h _ hs
    · exact h
  · refine intactGate_cases h (intactGate_cases h ?_)
    split
    · rename_i hs
      exact (engGet_intact h).of_wait hs
    · rename_i hs
      exact (engGet_intact h).of_fail hs
    · split
      · exact engStore_intact h
      · exact h
  · exact intactGate_cases h (intactGate_cases h h)
  · exact h

@[simp] theorem drainCapcall_intact {id e index a tag} (h : s.Intact F) : (s.drainCapcall id e index a tag).1.Intact F := by
  have hbook (me : Option ActorId) (t : State) (g : Actors → Actors) (ht : t.Intact F) :
      (((match me with
        | some x => t.modActor x fun r => { r with mrsv := r.mrsv + 1 }
        | none => t).countMsg id e.ctx).onActs g).Intact F := by
    cases me with
    | none => exact ht
    | some x => exact ht
  have hgate (c : Bool) (index caller tag req res) :
      IntactGate F (if c then s.gate id e.ctx index caller tag req else .done s 9 res) := intactGate_cases (gate_intact h) h
  unfold State.drainCapcall
  split
  · exact h
  dsimp only
  split
  · simp [h]
  split
  · rename_i hs
    exact (hgate _ _ _ _ _ _).of_wait hs
  · rename_i hs
    exact hbook _ _ _ ((hgate _ _ _ _ _ _).of_forwarded hs)
  · rename_i hs
    exact hbook _ _ _ ((hgate _ _ _ _ _ _).of_done hs)

@[simp] theorem replyWrite_intact {x bs sc} : (s.replyWrite x bs sc).Intact F ↔ s.Intact F := by simp [State.replyWrite]

@[simp] theorem execCapcallReply_intact : IntactRes F (execCapcallReply s) ↔ s.Intact F := by
  simp only [execCapcallReply]
  repeat' split
  all_goals simp

@[simp] theorem execMessageWindow_intact {cl} : IntactRes F (execMessageWindow cl s) ↔ s.Intact F := Iff.rfl

/-! ### Machine/Supervise -/

@[simp] theorem execSupcfgPolicy_intact {a b} (h : s.Intact F) : IntactRes F (execSupcfgPolicy a b s) := by
  simp [execSupcfgPolicy, h]

@[simp] theorem syncSuper_intact {x} (h : s.Intact F) : (s.syncSuper x).Intact F := by
  unfold State.syncSuper
  split
  · exact h
  split
  · exact modSuper_intact.2 h
  · rename_i hs
    exact recordError_intact ((engBytes_intact h).of_fail hs)
  · exact h

@[simp] theorem flushSuper_intact {x} (h : s.Intact F) : (s.flushSuper x).Intact F := by
  unfold State.flushSuper
  split
  · exact h
  · exact modSuper_intact.2 (foldl_keeps (fun _ _ ht => engStore_intact ht) h)

@[simp] theorem withSuper_intact {x f} (h : s.Intact F) : (s.withSuper x f).Intact F := by simp [State.withSuper, h]

@[simp] theorem modEntry_intact {x f} (h : s.Intact F) : (s.modEntry x f).Intact F := by simp [State.modEntry, h]

theorem reserveChild_intact {me p} (h : s.Intact F) (hp : s.reserveChild me = .ok p) : p.1.Intact F := by
  unfold State.reserveChild at hp
  split at hp
  · cases hp
  split at hp
  · cases hp
  · cases hp
    exact modEntry_intact (reserveIndices_intact.2 h)

@[simp] theorem addIssued_intact {d e name spec} (h : s.Intact F) : IntactRes F (s.addIssued d e name spec) := by
  simp [State.addIssued, h]

@[simp] theorem execSupcfgAdd_intact {d a} (h : s.Intact F) : IntactRes F (execSupcfgAdd d a s) := by
  unfold execSupcfgAdd
  extract_lets t p
  have ht : t.Intact F := by
    unfold t
    split
    · exact syncSuper_intact h
    · exact h
  clear_value t
  refine intactRes_cases ht (intactRes_cases (by simp [ht]) (intactRes_cases (by simp [ht]) ?_))
  split
  · simp [ht]
  refine intactRes_cases (by simp [ht]) (ifRoom_intact ht (intactRes_cases ?_ (intactRes_cases (by simp [ht]) ?_)))
  · split
    · simp [ht]
    · rename_i hs
      exact addIssued_intact (reserveChild_intact ht hs)
  · split
    · rename_i hs
      exact onCore_intact.2 ((intact_of_trySend hs).2 ht)
    · rename_i hs
      exact (intact_of_trySend hs).2 ht

@[simp] theorem execSupcfgRemove_intact {a} (h : s.Intact F) : IntactRes F (execSupcfgRemove a s) := by simp [execSupcfgRemove, h]

@[simp] theorem execSupcfgLaunch_intact {a} (h : s.Intact F) : IntactRes F (execSupcfgLaunch a s) := by simp [execSupcfgLaunch, h]

@[simp] theorem execRestartChild_intact {a} (h : s.Intact F) : IntactRes F (execRestartChild a s) := by simp [execRestartChild, h]

@[simp] theorem execRestartJob_intact {a} (h : s.Intact F) : IntactRes F (execRestartJob a s) := by simp [execRestartJob, h]

@[simp] theorem publishStart_intact {x} : (s.publishStart x).Intact F ↔ s.Intact F := by simp [State.publishStart]

@[simp] theorem regrant_intact {x asks} : (s.regrant x asks).Intact F ↔ s.Intact F := by simp [State.regrant]

@[simp] theorem drainPolicy_intact {x p w} (h : s.Intact F) : (s.drainPolicy x p w).Intact F := by simp [State.drainPolicy, h]

/-- What the building of an actor leaves. -/
def IntactBuilt (F : List Nat) : Built → Prop
  | .ok t => t.Intact F
  | .fail _ t => t.Intact F
  | .wait t => t.Intact F
  | _ => True

theorem IntactBuilt.of_ok {b : Built} {t : State} (hb : IntactBuilt F b) (hs : b = .ok t) : t.Intact F := by
  subst hs
  exact hb

theorem IntactBuilt.of_fail {b : Built} {why : Nat} {t : State} (hb : IntactBuilt F b) (hs : b = .fail why t) : t.Intact F := by
  subst hs
  exact hb

theorem IntactBuilt.of_wait {b : Built} {t : State} (hb : IntactBuilt F b) (hs : b = .wait t) : t.Intact F := by
  subst hs
  exact hb

theorem build_intact {id x gen a k f start ids} (h : s.Intact F) : IntactBuilt F (s.build id x gen a k f start ids) := by
  unfold State.build
  dsimp only
  split
  · trivial
  split
  · rename_i hs
    exact (engImage_intact h).of_fail hs
  · rename_i hs
    exact (engImage_intact h).of_wait hs
  split
  · rename_i hs
    split
    · trivial
    · exact (engTemplate_intact h).of_fail hs
  · rename_i hs
    exact (engTemplate_intact h).of_wait hs
  split
  · trivial
  split
  · rename_i hs
    exact (engParts_intact h).of_fail hs
  · rename_i hs
    exact (engParts_intact h).of_wait hs
  split
  · trivial
  · trivial
  · rename_i hs
    refine regrant_intact.2 ?_
    split
    · exact publishStart_intact.2 (podAcquire_intact.2 ((placeOn_intact h).of_ok hs))
    · exact podAcquire_intact.2 ((placeOn_intact h).of_ok hs)

@[simp] theorem addChild_intact {me id e name spec} (h : s.Intact F) : (s.addChild me id e name spec).1.Intact F := by
  unfold State.addChild
  dsimp only
  split
  · rename_i hs
    have ht := (build_intact h).of_ok hs
    split <;> simp [h, ht]
  · simp [h]
  · simp [h]
  · rename_i hs
    simp [(build_intact h).of_fail hs]
  · rename_i hs
    exact (build_intact h).of_wait hs

theorem onRecord_intact {e me f x y bytes here} (h : s.Intact F) (hhere : here.1.Intact F) :
    (s.onRecord e me f x y bytes here).1.Intact F := by
  unfold State.onRecord
  split
  · exact hhere
  split
  · exact h
  · exact sendHead_intact.2 h

@[simp] theorem drainAdd_intact {en e name spec} (h : s.Intact F) : (s.drainAdd en e name spec).1.Intact F := by
  unfold State.drainAdd
  split
  · simp [h]
  · exact onRecord_intact h (addChild_intact h)

@[simp] theorem drainRemove_intact {x e} (h : s.Intact F) : (s.drainRemove x e).Intact F := by simp [State.drainRemove, h]

@[simp] theorem drainRestartChild_intact {x e} (h : s.Intact F) : (s.drainRestartChild x e).Intact F := by
  simp [State.drainRestartChild, h]

@[simp] theorem invalidateCtx_intact {x} : (s.invalidateCtx x).Intact F ↔ s.Intact F := Iff.rfl

@[simp] theorem jobNotice_intact {dst code subject w32 va relaunches} : (s.jobNotice dst code subject w32 va relaunches).Intact F ↔ s.Intact F := by
  simp [State.jobNotice]

theorem placeRoot_intact {id x pa b} (h : s.Intact F) : IntactEng F (fun p => p.1.Intact F) (s.placeRoot id x pa b) := by
  unfold State.placeRoot
  split
  · exact .fail h
  split
  · rename_i hs
    exact .ok ((build_intact h).of_ok hs)
  · exact .fail h
  · exact .fail h
  · rename_i hs
    exact .fail ((build_intact h).of_fail hs)
  · rename_i hs
    exact .wait ((build_intact h).of_wait hs)

@[simp] theorem clearJobWord_intact {j} (h : s.Intact F) : (s.clearJobWord j).Intact F := by simp [State.clearJobWord, h]

@[simp] theorem launched_intact {die j x code w32} (h : s.Intact F) : (s.launched die j x code w32).Intact F := by
  simp [State.launched, h]

theorem granulesOf_intact {id x gs acc} (h : s.Intact F) : IntactEng F (fun _ => True) (s.granulesOf id x gs acc) := by
  induction gs generalizing acc with
  | nil => exact .ok trivial
  | cons g rest ih =>
    unfold State.granulesOf
    split
    · exact .fail h
    split
    · split
      · exact .fail h
      · exact ih
    · exact .wait h
    · split
      · exact .fail h
      · exact .wait (engWant_intact.2 h)
    · exact .fail h

theorem shadowsOf_intact {id x b} (h : s.Intact F) : IntactEng F (fun _ => True) (s.shadowsOf id x b) :=
  andThen_intact (engGet_intact h) fun _ _ => andThen_intact (granulesOf_intact h) fun _ _ => .ok trivial

@[simp] theorem drainLaunch_intact {en va} (h : s.Intact F) : (s.drainLaunch en va).1.Intact F := by
  unfold State.drainLaunch
  dsimp only
  split
  · exact h
  · rename_i hs _
    simp [(engGet_intact h).of_fail hs]
  · rename_i hs _
    exact (engGet_intact h).of_wait hs
  · split
    · simp [h]
    split
    · rename_i hs
      simp [(shadowsOf_intact h).of_fail hs]
    · rename_i hs
      exact (shadowsOf_intact h).of_wait hs
    split
    · simp [h]
    split
    · rename_i hs
      exact (placeRoot_intact h).of_wait hs
    · rename_i hs
      have ht := (placeRoot_intact h).of_fail hs
      split <;> simp [ht]
    · rename_i hs
      exact launched_intact ((placeRoot_intact h).of_ok hs)
  · simp [h]

@[simp] theorem drainRestartJob_intact {en pa} (h : s.Intact F) : (s.drainRestartJob en pa).Intact F := by
  unfold State.drainRestartJob
  split <;> simp [h]

@[simp] theorem drainSup_intact {en f x y bytes} (h : s.Intact F) : (s.drainSup en f x y bytes).1.Intact F := by
  unfold State.drainSup
  split
  · exact drainAdd_intact h
  · exact drainLaunch_intact h
  split
  · exact h
  · refine onRecord_intact h ?_
    dsimp only
    split
    · exact drainPolicy_intact h
    · exact drainRemove_intact h

@[simp] theorem drainChild_intact {en x} (h : s.Intact F) : (s.drainChild en x).1.Intact F := by
  unfold State.drainChild
  split
  · exact h
  · exact onRecord_intact h (drainRestartChild_intact h)

@[simp] theorem readCyc_intact {id} : (s.readCyc id).Intact F ↔ s.Intact F := by simp [State.readCyc]

theorem rateCheck_intact {x} (h : s.Intact F) : ∀ t, s.rateCheck x = some t → t.Intact F := by simp [State.rateCheck, h]

@[simp] theorem endedNotice_intact {x dead e reason} : (s.endedNotice x dead e reason).Intact F ↔ s.Intact F := Iff.rfl

@[simp] theorem endChild_intact {x e reason} (h : s.Intact F) : (s.endChild x e reason).Intact F := by simp [State.endChild, h]

@[simp] theorem awaitRestart_intact {x} : (s.awaitRestart x).Intact F ↔ s.Intact F := Iff.rfl

@[simp] theorem restartGroup_intact {x dead reason group} : (s.restartGroup x dead reason group).Intact F ↔ s.Intact F := by
  simp [State.restartGroup]

/-- A record that is lost leaves an intact state. -/
theorem lostRecord_intact {x p} (h : s.Intact F) (hp : s.lostRecord x = some p) : p.2.2.Intact F := by
  unfold State.lostRecord at hp
  split at hp
  · cases hp
  split at hp
  · rename_i hs
    obtain ⟨j, -, rfl⟩ := Option.map_eq_some_iff.1 hp
    exact (engBytes_intact h).of_fail hs
  · cases hp

@[simp] theorem execRestartEvent_intact {x} (h : s.Intact F) : IntactRes F (execRestartEvent x s) := by
  unfold execRestartEvent
  split
  · exact h
  extract_lets y s1 r up
  split
  · rename_i hs
    have ht : State.Intact F _ := lostRecord_intact h hs
    simp [ht]
  have h1 : s1.Intact F := syncSuper_intact (onActs_intact.2 h)
  split
  · simp [h1]
  refine intactRes_cases (by simp [h1]) ?_
  extract_lets s2
  have h2 : s2.Intact F := modEntry_intact h1
  clear_value s2
  refine intactRes_cases (by simp [h2]) (intactRes_cases (by simp [h2]) ?_)
  split
  · simp [h2]
  · rename_i hs
    have ht := rateCheck_intact h2 _ hs
    exact intactRes_cases (by simp [ht]) (by simp [ht])

@[simp] theorem execRestartSequence_intact {x e} (h : s.Intact F) : IntactRes F (execRestartSequence x e s) := by
  unfold execRestartSequence
  split
  · exact h
  extract_lets y s1 c old name ids named dead
  split
  · rename_i hs
    have ht : State.Intact F _ := lostRecord_intact h hs
    simp [ht]
  have h1 : s1.Intact F := syncSuper_intact (onActs_intact.2 h)
  have hnamed (t : State) (ht : t.Intact F) : (named t).Intact F := modActor_intact.2 (modEntry_intact ht)
  have hdead (t : State) (ht : t.Intact F) : (dead t).Intact F := freeIndexOf_intact.2 (modEntry_intact (hnamed t ht))
  clear_value dead named s1
  refine intactRes_cases ?_ (intactRes_cases (by simp [h1]) ?_)
  · split <;> simp [h1]
  split
  · rename_i hs
    exact onActs_intact.2 ((build_intact h1).of_wait hs)
  · simp [hdead s1 h1]
  · simp [hdead s1 h1]
  · rename_i hs
    simp [hdead _ ((build_intact h1).of_fail hs)]
  · rename_i hs
    have ht := (build_intact h1).of_fail hs
    split
    · simp [hnamed _ ht]
    · simp [hdead _ ht]
  · rename_i hs
    simp [hnamed _ ((build_intact h1).of_ok hs)]

@[simp] theorem disarm_intact {j} : (s.disarm j).Intact F ↔ s.Intact F := by simp [State.disarm]

@[simp] theorem jobEnd_intact {j jstate code w32} (h : s.Intact F) : (s.jobEnd j jstate code w32).Intact F := by
  simp [State.jobEnd, h]

@[simp] theorem execJobTeardown_intact {i} (h : s.Intact F) : IntactRes F (execJobTeardown i s) := by
  have hforgotten (t : State) (ht : t.Intact F) (a : Actors) : ({ t with acts := a } : State).Intact F := ht
  unfold execJobTeardown
  split
  · exact h
  rename_i j _
  refine intactRes_cases h ?_
  dsimp only
  have hleft : ((s.clearJobWord j).disarm j).Intact F := disarm_intact.2 (clearJobWord_intact h)
  refine intactRes_cases (modJob_intact.2 hleft) ?_
  split
  · rename_i hs
    exact hforgotten _ ((engGet_intact hleft).of_wait hs) _
  · rename_i hs
    exact jobEnd_intact ((engGet_intact hleft).of_fail hs)
  refine intactRes_cases ?_ (jobEnd_intact hleft)
  split
  · rename_i hs
    exact hforgotten _ ((shadowsOf_intact hleft).of_wait hs) _
  · rename_i hs
    have ht := (shadowsOf_intact hleft).of_fail hs
    exact intactRes_cases (by simp [ht]) (jobEnd_intact ht)
  split
  · rename_i hs
    exact hforgotten _ ((placeRoot_intact hleft).of_wait hs) _
  · rename_i hs
    have ht := (placeRoot_intact hleft).of_fail hs
    exact intactRes_cases (by simp [ht]) (jobEnd_intact ht)
  · rename_i hs
    exact launched_intact ((placeRoot_intact hleft).of_ok hs)

theorem foldl_fst_keeps {α β : Type} {f : State × β → α → State × β} {l : List α} {r : State × β}
    (hf : ∀ r x, r.1.Intact F → (f r x).1.Intact F) (h : r.1.Intact F) : (l.foldl f r).1.Intact F := by
  induction l generalizing r with
  | nil => exact h
  | cons x xs ih => exact ih (hf r x h)

@[simp] theorem commitShadows_intact {j} (h : s.Intact F) : (s.commitShadows j).1.Intact F := by
  refine foldl_fst_keeps (fun r g hr => ?_) h
  split
  · exact hr
  split
  · exact hr
  · exact mapCores_intact.2 (onRam_writes hr fun _ hm => copyGranule_wf hm)

@[simp] theorem execJobShadowCommit_intact {i} (h : s.Intact F) : IntactRes F (execJobShadowCommit i s) := by
  unfold execJobShadowCommit
  split
  · exact h
  · exact intactRes_cases h (jobEnd_intact (disarm_intact.2 (clearJobWord_intact (commitShadows_intact h))))

end Sys2Proof.Machine
end

section
/-!
SUPPORT. What every step keeps: slices, contexts, the fabric, the host, and the drain of the store buffer (obligation O60).
-/

namespace Sys2Proof.Machine

variable {F : List Nat} {s : State}

/-! ### Machine/Slice -/

@[simp] theorem startFiring_intact {id n x signal} : (s.startFiring id n x signal).Intact F ↔ s.Intact F := by
  simp [State.startFiring]

@[simp] theorem resumeFiring_intact {id n x r} : (s.resumeFiring id n x r).Intact F ↔ s.Intact F := by simp [State.resumeFiring]

theorem resumeVectors_intact {id x r} (h : s.Intact F) : IntactEng F (fun _ => True) (s.resumeVectors id x r) := by
  unfold State.resumeVectors
  split
  · exact .ok trivial
  · exact andThen_intact (engGet_intact h) fun _ _ => .ok trivial

@[simp] theorem execFiringChoice_intact {id} (h : s.Intact F) : IntactRes F (execFiringChoice id s) := by
  unfold execFiringChoice
  refine intactRes_cases h ?_
  split
  · exact h
  dsimp only
  split
  · split
    · exact resumeFiring_intact.2 h
    · rename_i hs
      exact (resumeVectors_intact h).of_wait hs
    · rename_i hs
      have ht := (resumeVectors_intact h).of_fail hs
      split <;> simp [ht]
  · exact startFiring_intact.2 h
  · exact h

@[simp] theorem scrubCore_intact {id t} : (s.scrubCore id t).Intact F ↔ s.Intact F := by
  unfold State.scrubCore
  split <;> simp

@[simp] theorem leaveStrands_intact {id t} : (s.leaveStrands id t).Intact F ↔ s.Intact F := by simp [State.leaveStrands]

@[simp] theorem scrubAbsent_intact {id t} : (s.scrubAbsent id t).Intact F ↔ s.Intact F := by simp [State.scrubAbsent]

@[simp] theorem startOn_intact {id x} : (s.startOn id x).Intact F ↔ s.Intact F := by simp [State.startOn]

@[simp] theorem dropSend_intact {id t} : (s.dropSend id t).Intact F ↔ s.Intact F := by
  unfold State.dropSend
  repeat' split
  all_goals simp

@[simp] theorem dropWaiting_intact {id t bezelToo} : (s.dropWaiting id t bezelToo).Intact F ↔ s.Intact F := by
  unfold State.dropWaiting
  split <;> simp

@[simp] theorem saveCore_intact {id forced bitmap} (h : s.Intact F) : (s.saveCore id forced bitmap).Intact F := by
  unfold State.saveCore
  extract_lets x base s1
  have h1 : s1.Intact F := by
    unfold s1
    generalize s.savePieces id x forced bitmap = l
    exact foldl_keeps (fun _ _ ht => engStore_intact ht) h
  exact modCore_intact.2 h1

@[simp] theorem restoreBlocks_intact {c slots} : (s.restoreBlocks c slots).Intact F ↔ s.Intact F := by
  refine foldl_intact fun t e => ?_
  split <;> simp

@[simp] theorem restoreBezel_intact {id m tiles banks tagBytes} : (s.restoreBezel id m tiles banks tagBytes).Intact F ↔ s.Intact F := by
  unfold State.restoreBezel
  split <;> simp

theorem engGets_intact {id x l} (h : s.Intact F) : IntactEng F (fun _ => True) (s.engGets id x l) := by
  induction l with
  | nil => exact .ok trivial
  | cons p rest ih => exact andThen_intact (engGet_intact h) fun _ _ => andThen_intact ih fun _ _ => .ok trivial

theorem savedEnds_intact {o : Option (Nat × Bool × Nat)} {t : State} {k : Nat → Bool → Nat → State} (ht : t.Intact F)
    (hk : ∀ x f n, (k x f n).Intact F) : (match o with
      | none => t
      | some (x, f, n) => k x f n).Intact F := by
  split
  · exact ht
  · exact hk _ _ _

@[simp] theorem restoreCore_intact {id} (h : s.Intact F) : (s.restoreCore id).Intact F := by
  unfold State.restoreCore
  extract_lets c x base fresh first
  have hgets (l : List (Nat × Nat)) : IntactEng F (fun _ => True) (s.engGets id x l) := engGets_intact h
  have hfirst : IntactEng F (fun _ => True) first := hgets _
  have hfresh (t : State) (ht : t.Intact F) : (fresh t).Intact F := by simp [fresh, ht]
  clear_value first fresh
  generalize s.engGets id x = gets at hgets ⊢
  generalize List.find? _ _ = o
  refine savedEnds_intact (hfresh s h) fun _ forced _ => ?_
  generalize hall : first.andThen _ = all
  have hend : IntactEng F (State.Intact F) all := by
    rw [← hall]
    refine andThen_intact hfirst fun p _ => ?_
    split
    · refine andThen_intact (hgets _) fun _ _ => andThen_intact (hgets _) fun _ _ =>
        andThen_intact (P := fun _ => True) ?_ fun _ _ => .ok ?_
      · split
        · exact hgets _
        · exact .ok trivial
      · split <;> simp [h]
    · exact .fail h
  clear hall
  cases hend with
  | ok ht => exact ht
  | fail ht => exact onCtxs_intact.2 (hfresh _ ht)
  | wait ht => exact ht

@[simp] theorem execSliceEnd_intact {id} : IntactRes F (execSliceEnd id s) ↔ s.Intact F := by simp [execSliceEnd]

@[simp] theorem startHandler_intact {id} : (s.startHandler id).Intact F ↔ s.Intact F := by simp [State.startHandler]

@[simp] theorem execSavePoint_intact {id} (h : s.Intact F) : IntactRes F (execSavePoint id s) := by
  simp only [execSavePoint]
  repeat' split
  all_goals simp [h]

@[simp] theorem execPreemptionBudgetExpiry_intact {id} : IntactRes F (execPreemptionBudgetExpiry id s) ↔ s.Intact F := by
  simp [execPreemptionBudgetExpiry]

@[simp] theorem execWatchdog_intact {id} : IntactRes F (execWatchdog id s) ↔ s.Intact F := by simp [execWatchdog]

@[simp] theorem execCtxdone_intact {a} (h : s.Intact F) : IntactRes F (execCtxdone a s) := by simp [execCtxdone, h]

@[simp] theorem nextTurn_intact {rot x} : (s.nextTurn rot x).1.Intact F ↔ s.Intact F := by
  simp only [State.nextTurn]
  split <;> simp

@[simp] theorem execScrub_intact {id} (h : s.Intact F) : IntactRes F (execScrub id s) := by
  unfold execScrub
  refine intactRes_cases h ?_
  dsimp only
  split
  · exact restoreCore_intact h
  · exact restoreCore_intact (modCore_intact.2 (nextTurn_intact.2 (by simp [h])))

/-! ### Machine/Context -/

@[simp] theorem syncRotations_intact : s.syncRotations.Intact F ↔ s.Intact F := by simp [State.syncRotations]

@[simp] theorem ctxNotice_intact {w code x v} (h : s.Intact F) : (s.ctxNotice w code x v).Intact F := by simp [State.ctxNotice, h]

@[simp] theorem execCtxnew_intact {d a ovr num rq} (h : s.Intact F) : IntactRes F (execCtxnew d a ovr num rq s) := by
  unfold execCtxnew
  refine intactRes_cases (by simp [h]) (intactRes_cases (by simp [h]) (loadGlobals_intact h fun t bs ht => ifRoom_intact ht ?_))
  split
  · simp [ht]
  · refine withEntries_intact ?_ fun u hu => by simp [hu]
    split
    · exact ht
    · exact onCtxs_intact.2 ht

@[simp] theorem execCtxset_intact {a b c} (h : s.Intact F) : IntactRes F (execCtxset a b c s) := by simp [execCtxset, h]

@[simp] theorem execCtxrevoke_intact {a} (h : s.Intact F) : IntactRes F (execCtxrevoke a s) := by simp [execCtxrevoke, h]

@[simp] theorem execCtxstat_intact {d a k} : IntactRes F (execCtxstat d a k s) ↔ s.Intact F := Iff.rfl

@[simp] theorem killContexts_intact {xs} : (s.killContexts xs).Intact F ↔ s.Intact F := by simp [State.killContexts]

@[simp] theorem discardHeld_intact {xs} : (s.discardHeld xs).Intact F ↔ s.Intact F := by simp [State.discardHeld]

@[simp] theorem revoke_intact {x tell} : (s.revoke x tell).Intact F ↔ s.Intact F := by
  unfold State.revoke
  repeat' split
  all_goals simp

@[simp] theorem dropTenants_intact {xs} : (s.dropTenants xs).Intact F ↔ s.Intact F := by simp [State.dropTenants]

@[simp] theorem tellHost_intact {n} : (s.tellHost n).Intact F ↔ s.Intact F := Iff.rfl

@[simp] theorem endRevoke_intact {x} (h : s.Intact F) : (s.endRevoke x).Intact F := by
  unfold State.endRevoke
  extract_lets xs t up ids s1 s2 s3 fns s4 told s5 s6 s7 s8 s9
  have h2 : s2.Intact F := (onRam_intact fun _ => rfl).2 (invalidateCtx_intact.2 h)
  have h3 : s3.Intact F := foldl_keeps (fun u id hu => by split <;> simp [hu]) h2
  have h4 : s4.Intact F := foldl_keeps (fun u e hu => by dsimp only; split <;> simp [hu]) h3
  have h9 : s9.Intact F := foldl_keeps (fun u id hu => by simp [hu]) (by simp [s8, s7, s6, s5, h4])
  exact foldl_keeps (fun u w hu => by simp [hu]) h9

@[simp] theorem execRevocationComplete_intact {x} (h : s.Intact F) : IntactRes F (execRevocationComplete x s) := by
  simp [execRevocationComplete, h]

theorem placeInitial_intact {id x} (h : s.Intact F) : IntactBuilt F (s.placeInitial id x) := by
  unfold State.placeInitial
  dsimp only
  split
  · exact h
  · exact build_intact h

@[simp] theorem finishNew_intact {e n} (h : s.Intact F) : (s.finishNew e n).1.Intact F := by
  unfold State.finishNew
  dsimp only
  split
  · rename_i hs
    exact (placeInitial_intact h).of_wait hs
  · rename_i hs
    simp [(placeInitial_intact h).of_ok hs]
  · simp [h]
  · simp [h]
  · rename_i hs
    simp [(placeInitial_intact h).of_fail hs]

@[simp] theorem drainCtxnew_intact {e n ovr t} (h : s.Intact F) : (s.drainCtxnew e n ovr t).1.Intact F := by
  simp only [State.drainCtxnew]
  repeat' split
  all_goals simp [h]

@[simp] theorem drainCtxset_intact {e x i v} (h : s.Intact F) : (s.drainCtxset e x i v).1.Intact F := by
  unfold State.drainCtxset
  repeat' split
  all_goals simp [h]

@[simp] theorem drainCtxrevoke_intact {e x} (h : s.Intact F) : (s.drainCtxrevoke e x).1.Intact F := by
  simp [State.drainCtxrevoke, h]

@[simp] theorem grow_intact {r} : (s.grow r).Intact F ↔ s.Intact F := by simp [State.grow]

@[simp] theorem endResize_intact {r} (h : s.Intact F) : (s.endResize r).Intact F := by simp [State.endResize, h]

@[simp] theorem execResize_intact {x} (h : s.Intact F) : IntactRes F (execResize x s) := by
  unfold execResize
  split
  · exact h
  split
  · simp [h]
  · simp [h]
  · split
    · rename_i hs
      simp [(moveTo_intact h).of_ok hs]
    · rename_i hs
      simp [(moveTo_intact h).of_fail hs]
    · rename_i hs
      exact (moveTo_intact h).of_wait hs
  · exact foldl_keeps (fun u id hu => by simp [hu]) h
  · simp [h]
  · exact h

theorem deliverTrap_intact {m} (h : s.Intact F) : ∀ t, s.deliverTrap m = some t → t.Intact F := by
  intro t ht
  unfold State.deliverTrap at ht
  dsimp only at ht
  split at ht
  · cases ht
  · obtain ⟨u, hu, rfl⟩ := Option.map_eq_some_iff.1 ht
    have := ringWrite_intact h u hu
    split <;> simp [this]
  · rw [← Option.some.inj ht]
    split <;> simp [h]

theorem nextTrap_intact {ms seen} (h : s.Intact F) : ∀ t, s.nextTrap ms seen = some t → t.Intact F := by
  intro t ht
  induction ms generalizing seen with
  | nil => cases ht
  | cons m rest ih =>
    unfold State.nextTrap at ht
    split at ht
    · exact ih ht
    split at ht
    · exact ih ht
    split at ht
    · rename_i hs
      rw [← Option.some.inj ht]
      exact deliverTrap_intact h _ hs
    · exact ih ht

@[simp] theorem execTrapMessageDelivery_intact (h : s.Intact F) : IntactRes F (execTrapMessageDelivery s) :=
  getD_intact h (nextTrap_intact h)

@[simp] theorem execContextFailed_intact {x} : IntactRes F (execContextFailed x s) ↔ s.Intact F := by
  unfold execContextFailed
  split <;> simp

@[simp] theorem execServiceCoreFault_intact {p code} : IntactRes F (execServiceCoreFault p code s) ↔ s.Intact F := by
  simp [execServiceCoreFault]

@[simp] theorem resetFuncs_intact {x} : (s.resetFuncs x).Intact F ↔ s.Intact F := by simp [State.resetFuncs]

@[simp] theorem execServiceUncorrectable_intact {u} : IntactRes F (execServiceUncorrectable u s) ↔ s.Intact F := by
  unfold execServiceUncorrectable
  split <;> simp

@[simp] theorem execScrunWrite_intact {p v} : IntactRes F (execScrunWrite p v s) ↔ s.Intact F := by simp [execScrunWrite]

/-! ### Machine/Locket -/

@[simp] theorem sendNotice_intact {p dev pidx bs} : (s.sendNotice p dev pidx bs).Intact F ↔ s.Intact F := Iff.rfl

@[simp] theorem messageIn_intact {y bs sc} : (s.messageIn y bs sc).Intact F ↔ s.Intact F := by simp [State.messageIn]

@[simp] theorem diedAway_intact {x reason} (h : s.Intact F) : (s.diedAway x reason).Intact F := by
  unfold State.diedAway
  extract_lets t again s1 pending s2
  have ht : t.Intact F := by
    unfold t
    split
    · exact (orphan_intact fun _ _ => killN_intact).2 h
    · exact h
  have h2 : s2.Intact F := modActor_intact.2 (handDeath_intact (modActor_intact.2 ht))
  clear_value s2
  refine writeBack_intact ?_
  split <;> simp [h2]

@[simp] theorem remoteSup_intact {me f x y bytes} (h : s.Intact F) : (s.remoteSup me f x y bytes).1.Intact F := by
  unfold State.remoteSup
  split
  · split <;> simp [h]
  · simp [h]
  · simp [h]
  · simp [h]
  · split
    · exact h
    · rename_i hs
      exact reserveChild_intact (syncSuper_intact h) hs
  · simp [h]

@[simp] theorem strandDown_intact {k v} : (s.strandDown k v).Intact F ↔ s.Intact F := by simp [State.strandDown]

@[simp] theorem expectNext_intact {dev flow} : (s.expectNext dev flow).Intact F ↔ s.Intact F := Iff.rfl

/-- What the performance of a request of another device leaves. -/
def IntactArrived (F : List Nat) : Arrived → Prop
  | .answered t _ => t.Intact F
  | .later t => t.Intact F
  | .wait t => t.Intact F

theorem IntactArrived.of_answered {a : Arrived} {t : State} {e} (ha : IntactArrived F a) (hs : a = .answered t e) : t.Intact F := by
  subst hs
  exact ha

theorem IntactArrived.of_later {a : Arrived} {t : State} (ha : IntactArrived F a) (hs : a = .later t) : t.Intact F := by
  subst hs
  exact ha

theorem IntactArrived.of_wait {a : Arrived} {t : State} (ha : IntactArrived F a) (hs : a = .wait t) : t.Intact F := by
  subst hs
  exact ha

theorem intactArrived_cases {c : Prop} [Decidable c] {a b : Arrived} (ha : IntactArrived F a) (hb : IntactArrived F b) :
    IntactArrived F (if c then a else b) := by
  split
  · exact ha
  · exact hb

theorem memRequest_intact {dev pidx pa n write via go} (h : s.Intact F) (hgo : ∀ t, t.Intact F → IntactArrived F (go t)) :
    IntactArrived F (s.memRequest dev pidx pa n write via go) := by
  unfold State.memRequest
  split
  · exact h
  refine intactArrived_cases h ?_
  split
  · rename_i hs
    exact (hgo s h).of_wait hs
  · rename_i hs
    have ht := (hgo s h).of_later hs
    refine intactArrived_cases ?_ ht
    exact foldl_keeps (fun u bs hu => sendNotice_intact.2 hu) (countAccess_intact.2 ht)
  · exact hgo s h

theorem fromFabric_intact {o} (h : s.Intact F) : IntactArrived F (s.fromFabric o) := (onRam_intact fun _ => rfl).2 h

theorem nameRequest_intact {at' r n may k} (h : s.Intact F) (hk : ∀ y, IntactArrived F (k y)) :
    IntactArrived F (s.nameRequest at' r n may k) := by
  unfold State.nameRequest
  dsimp only
  refine intactArrived_cases h ?_
  split
  · exact intactArrived_cases h (intactArrived_cases h (hk _))
  · exact h
  · refine intactArrived_cases ?_ (enqueueReq_intact.2 h)
    split
    · exact intactArrived_cases h h
    · exact h
  · exact h

theorem perform_intact {dev flow seq pidx r} (h : s.Intact F) : IntactArrived F (s.perform dev flow seq pidx r) := by
  unfold State.perform
  extract_lets op here
  cases r
  case load => exact memRequest_intact h fun t ht => intactArrived_cases ht (setPort_intact.2 ht)
  case tile =>
    refine nameRequest_intact h fun y => ?_
    split
    · refine intactArrived_cases ?_ (intactArrived_cases ?_ h)
      · exact writeTile_intact.2 (modActor_intact.2 h)
      · exact modActor_intact.2 h
    · exact h
    · exact h
    · exact h
  case message => exact nameRequest_intact h fun y => messageIn_intact.2 h
  case exitSignal =>
    refine nameRequest_intact h fun y => exitArrive_intact.2 ?_
    split
    · exact modActor_intact.2 h
    · exact h
  case link => exact nameRequest_intact h fun y => intactArrived_cases h (intactArrived_cases h (addLink_intact.2 h))
  case unlink => exact nameRequest_intact h fun y => modActor_intact.2 h
  case watch => exact nameRequest_intact h fun y => intactArrived_cases h (addLink_intact.2 h)
  case unwatch => exact nameRequest_intact h fun y => modActor_intact.2 h
  case kill => exact nameRequest_intact h fun y => kill_intact.2 h
  case portcfg => exact nameRequest_intact h fun y => h
  case migrate => exact nameRequest_intact h fun y => modActor_intact.2 h
  case move =>
    refine intactArrived_cases h ?_
    split
    · rename_i hs
      exact grantAll_intact.2 (arrive_intact h hs)
    · exact h
  case died =>
    show State.Intact F (if _ then _ else _)
    split
    · exact diedAway_intact h
    · exact h
  case located =>
    show State.Intact F (if _ then _ else _)
    split
    · exact relocated_intact (modActor_intact.2 h)
    · exact h
  case supcfg n f x y bs =>
    have hsup := remoteSup_intact h (me := s.idOf n) (f := f) (x := x) (y := y) (bytes := bs)
    refine intactArrived_cases h ?_
    split
    · rename_i hs
      rw [hs] at hsup
      exact hsup
    · rename_i hs
      rw [hs] at hsup
      exact hsup
  case strandValue => exact intactArrived_cases h (intactArrived_cases h (onFab_intact.2 h))
  case strandResult => exact intactArrived_cases h (intactArrived_cases h (strandDown_intact.2 (onFab_intact.2 h)))
  case migrationNotice => exact getD_intact h (ringWrite_intact h)
  case granule => exact h
  all_goals exact memRequest_intact h fun t ht => fromFabric_intact ht

@[simp] theorem execFabricRequestArrival_intact {dev flow seq pidx r} (h : s.Intact F) :
    IntactRes F (execFabricRequestArrival dev flow seq pidx r s) := by
  unfold execFabricRequestArrival
  refine intactRes_cases h ?_
  split
  · rename_i hs
    simp [(perform_intact h).of_answered hs]
  · rename_i hs
    simp [(perform_intact h).of_later hs]
  · rename_i hs
    exact (perform_intact h).of_wait hs

@[simp] theorem coreFails_intact {id reason addr} : (s.coreFails id reason addr).Intact F ↔ s.Intact F := by
  simp [State.coreFails]

theorem atomicAnswer_intact {id i bs} (h : s.Intact F) : ∀ t, s.atomicAnswer id i bs = some t → t.Intact F := by
  simp [State.atomicAnswer, h]

/-- What is gone on with is intact. -/
theorem IntactRes.of_next {r : Res} {t : State} (hr : IntactRes F r) (hs : r = .next t) : t.Intact F := by
  subst hs
  exact hr

theorem addAnswer_intact {id i bs} (h : s.Intact F) : ∀ t, s.addAnswer id i bs = some t → t.Intact F := by
  intro t ht
  unfold State.addAnswer at ht
  split at ht
  · dsimp only at ht
    split at ht
    · rename_i hs
      rw [← Option.some.inj ht]
      refine refocus_intact.2 (IntactRes.of_next ?_ hs)
      split <;> simp [h]
    · cases ht
  · cases ht

@[simp] theorem fillLine_intact {p epoch left bs} : (s.fillLine p epoch left bs).Intact F ↔ s.Intact F := by
  unfold State.fillLine
  split <;> rfl

@[simp] theorem noteArrival_intact {dev q} : (s.noteArrival dev q).Intact F ↔ s.Intact F := by simp [State.noteArrival]

theorem orGetD_intact {o p : Option State} {t : State} (ho : ∀ u, o = some u → u.Intact F) (hp : ∀ u, p = some u → u.Intact F)
    (ht : t.Intact F) : ((o.or p).getD t).Intact F := by
  cases o with
  | none => exact getD_intact ht hp
  | some u => exact ho u rfl

@[simp] theorem coreAnswer_intact {id flow seq e stale left} (h : s.Intact F) : (s.coreAnswer id flow seq e stale left).Intact F := by
  unfold State.coreAnswer
  split
  · split
    · split
      · refine orGetD_intact (atomicAnswer_intact h) (addAnswer_intact h) ?_
        split <;> simp [h]
      · exact h
      · simp [h]
    · exact h
  · exact h

@[simp] theorem nameAnswer_intact {w op e} : (s.nameAnswer w op e).Intact F ↔ s.Intact F := by
  simp only [State.nameAnswer]
  repeat' split
  all_goals simp

@[simp] theorem headAnswer_intact {c e} : (s.headAnswer c e).Intact F ↔ s.Intact F := by
  unfold State.headAnswer
  repeat' split
  all_goals simp

@[simp] theorem loneAnswer_intact {w dev r e} (h : s.Intact F) : (s.loneAnswer w dev r e).Intact F := by
  unfold State.loneAnswer
  repeat' split
  all_goals simp [h]

@[simp] theorem copyFill_intact {dev q bs} : (s.copyFill dev q bs).Intact F ↔ s.Intact F := by
  unfold State.copyFill
  split <;> simp

@[simp] theorem dropReserved_intact {c flow q e} : (s.dropReserved c flow q e).Intact F ↔ s.Intact F := by
  unfold State.dropReserved
  split <;> simp

@[simp] theorem endRequest_intact {flow q e} (h : s.Intact F) : (s.endRequest flow q e).Intact F := by
  unfold State.endRequest
  repeat' split
  all_goals simp [h]

@[simp] theorem execFabricReplyArrival_intact {flow seq r} (h : s.Intact F) : IntactRes F (execFabricReplyArrival flow seq r s) := by
  simp only [execFabricReplyArrival]
  split <;> simp [h]

@[simp] theorem peerLost_intact {d x} : (s.peerLost d x).Intact F ↔ s.Intact F := by
  refine (foldl_intact fun t l => ?_).trans modActor_intact
  split <;> simp

@[simp] theorem endUnsent_intact {q} (h : s.Intact F) : (s.endUnsent q).Intact F := by simp [State.endUnsent, h]

@[simp] theorem roundsDown_intact {d} : (s.roundsDown d).Intact F ↔ s.Intact F := by simp [State.roundsDown]

@[simp] theorem deviceLost_intact {d} (h : s.Intact F) : (s.deviceLost d).Intact F := by
  unfold State.deviceLost
  extract_lets flows s1 s2 s3 s4
  have h2 : s2.Intact F := foldl_keeps (fun t e ht => foldl_keeps (fun t q ht => by simp [ht]) ht) (onFab_intact.2 h)
  have h3 : s3.Intact F := foldl_keeps (fun t q ht => by simp [ht]) h2
  refine foldl_keeps (fun t x ht => ?_) (roundsDown_intact.2 h3)
  split
  · exact peerLost_intact.2 ht
  · exact ht

@[simp] theorem execDeviceLost_intact {d} (h : s.Intact F) : IntactRes F (execDeviceLost d s) := by simp [execDeviceLost, h]

theorem pendingMove_intact (h : s.Intact F) : ∀ t, s.pendingMove = some t → t.Intact F := by
  intro t ht
  obtain ⟨i, -, hi⟩ := List.exists_of_findSome?_eq_some ht
  dsimp only at hi
  split at hi
  · cases hi
  split at hi
  · cases hi
  split at hi
  · rw [← Option.some.inj hi]
    exact endUnsent_intact (onFab_intact.2 h)
  split at hi
  · rename_i hs
    rw [← Option.some.inj hi]
    exact onFab_intact.2 ((intact_of_trySend hs).2 h)
  · rename_i hs
    split at hi
    · cases hi
    · rw [← Option.some.inj hi]
      exact (intact_of_trySend hs).2 h

@[simp] theorem execEndToEndResend_intact {flow} (h : s.Intact F) : IntactRes F (execEndToEndResend flow s) := by
  simp only [execEndToEndResend]
  split <;> simp [h]

@[simp] theorem execLinkReplay_intact {p} : IntactRes F (execLinkReplay p s) ↔ s.Intact F := Iff.rfl

@[simp] theorem execPortRetrain_intact {p ok lanes peer} : IntactRes F (execPortRetrain p ok lanes peer s) ↔ s.Intact F := by
  simp [execPortRetrain]

@[simp] theorem execFbdomLostClear_intact {d priv} : IntactRes F (execFbdomLostClear d priv s) ↔ s.Intact F := by
  simp [execFbdomLostClear]

@[simp] theorem execTokenInterval_intact : IntactRes F (execTokenInterval s) ↔ s.Intact F := Iff.rfl

theorem hubCombine_intact {k} (h : s.Intact F) : ∀ t, s.hubCombine k = some t → t.Intact F := by simp [State.hubCombine, h]

@[simp] theorem execHubStrandCombine_intact {k} (h : s.Intact F) : IntactRes F (execHubStrandCombine k s) :=
  getD_intact h (hubCombine_intact h)

@[simp] theorem writeStatus_intact {x state reason} : (s.writeStatus x state reason).Intact F ↔ s.Intact F := Iff.rfl

@[simp] theorem execLocketStart_intact {d a} (h : s.Intact F) : IntactRes F (execLocketStart d a s) := by
  unfold execLocketStart
  dsimp only
  refine intactRes_cases (by simp [h]) (intactRes_cases (by simp [h]) ?_)
  split
  · rename_i hs
    exact (readTarget_intact h).of_again hs
  · rename_i hs
    simp [(readTarget_intact h).of_poison hs]
  · refine intactRes_cases (by simp [h]) (intactRes_cases (by simp [h]) ?_)
    split <;> simp [h]

@[simp] theorem execLocketStat_intact {d a} : IntactRes F (execLocketStat d a s) ↔ s.Intact F := by simp [execLocketStat]

@[simp] theorem execLocketStop_intact {a} : IntactRes F (execLocketStop a s) ↔ s.Intact F := by simp [execLocketStop]

@[simp] theorem putStream_intact {y} : (s.putStream y).Intact F ↔ s.Intact F := Iff.rfl

theorem streamMove_intact {x} (h : s.Intact F) : ∀ t, s.streamMove x = some t → t.Intact F := by
  intro t ht
  unfold State.streamMove at ht
  dsimp only at ht
  split at ht
  · cases ht
  split at ht
  · obtain ⟨b, -, rfl⟩ := Option.map_eq_some_iff.1 ht
    exact putStream_intact.2 h
  split at ht
  · cases ht
  split at ht
  · rename_i hs
    split at ht
    · cases ht
    · rw [← Option.some.inj ht]
      exact (intact_of_takeTokens hs).2 h
  · rename_i hs
    have hsent := (intact_of_takeTokens hs).2 h
    rw [← Option.some.inj ht]
    split <;> simp [hsent]

@[simp] theorem execLocketStreamEnd_intact {t how} (h : s.Intact F) : IntactRes F (execLocketStreamEnd t how s) := by
  unfold execLocketStreamEnd
  split <;> simp [h]

/-! ### Machine/HostAttach -/

@[simp] theorem beginReset_intact {n x} : (s.beginReset n x).Intact F ↔ s.Intact F := by simp [State.beginReset]

@[simp] theorem endActors_intact {n x} : (s.endActors n x).Intact F ↔ s.Intact F := by simp [State.endActors]

@[simp] theorem applyBind_intact {n} : (s.applyBind n).Intact F ↔ s.Intact F := by
  simp only [State.applyBind]
  split <;> simp

@[simp] theorem revokeCaps_intact {x} (h : s.Intact F) : (s.revokeCaps x).Intact F := by simp [State.revokeCaps, h]

@[simp] theorem endReset_intact {n x} (h : s.Intact F) : (s.endReset n x).Intact F := by
  unfold State.endReset
  extract_lets t s1 s2 s3 free s4 s5 s5a s5b s6 over'
  have h2 : s2.Intact F := (onRam_intact fun _ => rfl).2 (by simp [s1, h])
  have h3 : s3.Intact F := foldl_keeps (fun u id hu => by split <;> simp [hu]) h2
  have h5 : s5.Intact F := onCtxs_intact.2 (mapCores_intact.2 (onActs_intact.2 h3))
  have h6 : s6.Intact F := setCcbField_intact.2 (foldl_keeps (fun u id hu => startOn_intact.2 hu) (getD_intact h5 (ringWrite_intact h5)))
  have hover (u : State) (hu : u.Intact F) : (over' u).Intact F := by
    unfold over'
    dsimp only
    split <;> simp [hu]
  clear_value over' s6
  split
  · rename_i hs
    have hu := (placeInitial_intact h6).of_wait hs
    exact ⟨h.1, hu.2.1, h.2.2⟩
  · rename_i hs
    exact hover _ ((placeInitial_intact h6).of_ok hs)
  · rename_i hs
    exact hover _ ((placeInitial_intact h6).of_fail hs)
  · exact hover _ h6

@[simp] theorem execFunctionReset_intact {n} (h : s.Intact F) : IntactRes F (execFunctionReset n s) := by
  simp [execFunctionReset, h]

@[simp] theorem execMbtailWrite_intact {n v slots} : IntactRes F (execMbtailWrite n v slots s) ↔ s.Intact F := by
  unfold execMbtailWrite
  repeat' split
  all_goals simp

@[simp] theorem execHostMessageDelivery_intact {n} : IntactRes F (execHostMessageDelivery n s) ↔ s.Intact F := by
  unfold execHostMessageDelivery
  split <;> simp

@[simp] theorem execFresetWrite_intact {n v} : IntactRes F (execFresetWrite n v s) ↔ s.Intact F := by simp [execFresetWrite]

@[simp] theorem execVfbindWrite_intact {w n v} : IntactRes F (execVfbindWrite w n v s) ↔ s.Intact F := by simp [execVfbindWrite]

@[simp] theorem execVfirqWrite_intact {v} : IntactRes F (execVfirqWrite v s) ↔ s.Intact F := by simp [execVfirqWrite]

@[simp] theorem hostEnd_intact {c data reason} : (s.hostEnd c data reason).Intact F ↔ s.Intact F := by
  simp only [State.hostEnd]
  repeat' split
  all_goals simp

@[simp] theorem execHostCompletion_intact {c r} : IntactRes F (execHostCompletion c r s) ↔ s.Intact F := by
  unfold execHostCompletion
  split <;> simp

@[simp] theorem execHostCompletionTimeout_intact {c} : IntactRes F (execHostCompletionTimeout c s) ↔ s.Intact F := by
  simp [execHostCompletionTimeout]

@[simp] theorem execFabricManagerBind_intact {ld host} : IntactRes F (execFabricManagerBind ld host s) ↔ s.Intact F := by
  simp [execFabricManagerBind]

@[simp] theorem execLockInterface_intact {n} : IntactRes F (execLockInterface n s) ↔ s.Intact F := by simp [execLockInterface]

@[simp] theorem execStartInterface_intact {n} : IntactRes F (execStartInterface n s) ↔ s.Intact F := by simp [execStartInterface]

@[simp] theorem execStopInterface_intact {n} : IntactRes F (execStopInterface n s) ↔ s.Intact F := by simp [execStopInterface]

@[simp] theorem execGetDeviceInterfaceReport_intact {n} : IntactRes F (execGetDeviceInterfaceReport n s) ↔ s.Intact F := by
  simp [execGetDeviceInterfaceReport]

@[simp] theorem spdmCount_intact {p r count} : (s.spdmCount p r count).Intact F ↔ s.Intact F := by simp [State.spdmCount]

@[simp] theorem spdm_intact {p r} : (s.spdm p r).Intact F ↔ s.Intact F := by simp [State.spdm]

@[simp] theorem execGetVersion_intact {p} : IntactRes F (execGetVersion p s) ↔ s.Intact F := by simp [execGetVersion]

@[simp] theorem execGetCapabilities_intact {p} : IntactRes F (execGetCapabilities p s) ↔ s.Intact F := by
  simp [execGetCapabilities]

@[simp] theorem execNegotiateAlgorithms_intact {p} : IntactRes F (execNegotiateAlgorithms p s) ↔ s.Intact F := by
  simp [execNegotiateAlgorithms]

@[simp] theorem execGetDigests_intact {p} : IntactRes F (execGetDigests p s) ↔ s.Intact F := by simp [execGetDigests]

@[simp] theorem execGetCertificate_intact {p slot} : IntactRes F (execGetCertificate p slot s) ↔ s.Intact F := by
  simp [execGetCertificate]

@[simp] theorem execChallenge_intact {p slot} : IntactRes F (execChallenge p slot s) ↔ s.Intact F := by simp [execChallenge]

@[simp] theorem execGetMeasurements_intact {p idx} : IntactRes F (execGetMeasurements p idx s) ↔ s.Intact F := by
  simp [execGetMeasurements]

@[simp] theorem execKeyExchange_intact {p} : IntactRes F (execKeyExchange p s) ↔ s.Intact F := by simp [execKeyExchange]

@[simp] theorem execFinish_intact {p} : IntactRes F (execFinish p s) ↔ s.Intact F := by simp [execFinish]

@[simp] theorem execEndSession_intact {p} : IntactRes F (execEndSession p s) ↔ s.Intact F := by simp [execEndSession]

@[simp] theorem execUnsupportedRequest_intact {p} : IntactRes F (execUnsupportedRequest p s) ↔ s.Intact F := by
  simp [execUnsupportedRequest]

@[simp] theorem execCornerCoreStart_intact {die prog image} : IntactRes F (execCornerCoreStart die prog image s) ↔ s.Intact F := by
  simp [execCornerCoreStart]

@[simp] theorem execBendWrite_intact {v} : IntactRes F (execBendWrite v s) ↔ s.Intact F := by simp [execBendWrite]

@[simp] theorem execBootTimeout_intact {die} : IntactRes F (execBootTimeout die s) ↔ s.Intact F := by simp [execBootTimeout]

@[simp] theorem execDeviceReset_intact : IntactRes F (execDeviceReset s) ↔ s.Intact F := by simp [execDeviceReset]

@[simp] theorem execThermalThrottle_intact {steps} : IntactRes F (execThermalThrottle steps s) ↔ s.Intact F := Iff.rfl

@[simp] theorem execThermalTrip_intact : IntactRes F (execThermalTrip s) ↔ s.Intact F := Iff.rfl

@[simp] theorem execPowerRemoval_intact (h : s.Intact F) : IntactRes F (execPowerRemoval s) :=
  ⟨h.1, rfl, h.2.2⟩

/-! ### Machine/Drain -/

@[simp] theorem drainCtl_intact {id pa k} : (s.drainCtl id pa k).Intact F ↔ s.Intact F := by
  unfold State.drainCtl
  repeat' split
  all_goals simp

@[simp] theorem drainOp_intact {id e t k} (h : s.Intact F) : (s.drainOp id e t k).1.Intact F := by
  unfold State.drainOp
  dsimp only
  split
  · split
    · split <;> simp [h]
    split
    · rename_i hs
      have hordered := intoOrder_intact h _ hs
      dsimp only
      split <;> simp [hordered]
    · exact h
  · split
    · exact h
    split
    · simp [h]
    split
    · rename_i hs
      exact (intact_of_trySend hs).2 h
    · rename_i hs
      exact (intact_of_trySend hs).2 h
  · exact h

@[simp] theorem drainStore_intact {id e t bs mask} (h : s.Intact F) : (s.drainStore id e t bs mask).1.Intact F := by
  unfold State.drainStore
  dsimp only
  split
  · split
    · split
      · exact foldl_keeps (fun u r hu => ctlStore_intact.2 hu) h
      · exact h
    split
    · rename_i hs
      have hordered := intoOrder_intact h _ hs
      dsimp only
      split <;> simp [hordered]
    · exact h
  · split
    · exact h
    split
    · simp [h]
    split
    · exact h
    split
    · rename_i hs
      exact (intact_of_trySend hs).2 h
    · rename_i hs
      exact (intact_of_trySend hs).2 h
  · split
    · exact h
    split
    · exact foldl_keeps (fun u r hu => (onHub_intact fun _ => rfl).2 hu) h
    · simp [h]

@[simp] theorem drainActor_intact {id e op} (h : s.Intact F) : (s.drainActor id e op).1.Intact F := by
  unfold State.drainActor
  split <;> simp [h]

@[simp] theorem drainHead_intact {id e} (h : s.Intact F) : (s.drainHead id e).1.Intact F := by
  unfold State.drainHead
  split <;> simp [h]

@[simp] theorem execStoreBufferDrain_intact {id} (h : s.Intact F) : IntactRes F (execStoreBufferDrain id s) := by
  unfold execStoreBufferDrain
  split <;> simp [h]

/-! ### Machine/Integer -/

@[simp] theorem execAdd_intact {w d a b} : IntactRes F (execAdd w d a b s) ↔ s.Intact F := Iff.rfl

@[simp] theorem execAddImm_intact {w d a imm} : IntactRes F (execAddImm w d a imm s) ↔ s.Intact F := Iff.rfl

@[simp] theorem execSub_intact {w d a b} : IntactRes F (execSub w d a b s) ↔ s.Intact F := Iff.rfl

@[simp] theorem execSubImm_intact {w d a imm} : IntactRes F (execSubImm w d a imm s) ↔ s.Intact F := Iff.rfl

@[simp] theorem execMul_intact {w d a b} : IntactRes F (execMul w d a b s) ↔ s.Intact F := Iff.rfl

@[simp] theorem execMulImm_intact {w d a imm} : IntactRes F (execMulImm w d a imm s) ↔ s.Intact F := Iff.rfl

@[simp] theorem execMulh_intact {w d a b} : IntactRes F (execMulh w d a b s) ↔ s.Intact F := Iff.rfl

@[simp] theorem execMulhImm_intact {w d a imm} : IntactRes F (execMulhImm w d a imm s) ↔ s.Intact F := Iff.rfl

@[simp] theorem execMulhn_intact {w d a b} : IntactRes F (execMulhn w d a b s) ↔ s.Intact F := Iff.rfl

@[simp] theorem execMulhnImm_intact {w d a imm} : IntactRes F (execMulhnImm w d a imm s) ↔ s.Intact F := Iff.rfl

@[simp] theorem execDiv_intact {w d a b} : IntactRes F (execDiv w d a b s) ↔ s.Intact F := Iff.rfl

@[simp] theorem execDivImm_intact {w d a imm} : IntactRes F (execDivImm w d a imm s) ↔ s.Intact F := Iff.rfl

@[simp] theorem execDivn_intact {w d a b} : IntactRes F (execDivn w d a b s) ↔ s.Intact F := Iff.rfl

@[simp] theorem execDivnImm_intact {w d a imm} : IntactRes F (execDivnImm w d a imm s) ↔ s.Intact F := Iff.rfl

@[simp] theorem execRem_intact {w d a b} : IntactRes F (execRem w d a b s) ↔ s.Intact F := Iff.rfl

@[simp] theorem execRemImm_intact {w d a imm} : IntactRes F (execRemImm w d a imm s) ↔ s.Intact F := Iff.rfl

@[simp] theorem execRemn_intact {w d a b} : IntactRes F (execRemn w d a b s) ↔ s.Intact F := Iff.rfl

@[simp] theorem execRemnImm_intact {w d a imm} : IntactRes F (execRemnImm w d a imm s) ↔ s.Intact F := Iff.rfl

@[simp] theorem execAnd_intact {w d a b} : IntactRes F (execAnd w d a b s) ↔ s.Intact F := Iff.rfl

@[simp] theorem execAndImm_intact {w d a imm} : IntactRes F (execAndImm w d a imm s) ↔ s.Intact F := Iff.rfl

@[simp] theorem execOr_intact {w d a b} : IntactRes F (execOr w d a b s) ↔ s.Intact F := Iff.rfl

@[simp] theorem execOrImm_intact {w d a imm} : IntactRes F (execOrImm w d a imm s) ↔ s.Intact F := Iff.rfl

@[simp] theorem execXor_intact {w d a b} : IntactRes F (execXor w d a b s) ↔ s.Intact F := Iff.rfl

@[simp] theorem execXorImm_intact {w d a imm} : IntactRes F (execXorImm w d a imm s) ↔ s.Intact F := Iff.rfl

@[simp] theorem execAndn_intact {w d a b} : IntactRes F (execAndn w d a b s) ↔ s.Intact F := Iff.rfl

@[simp] theorem execAndnImm_intact {w d a imm} : IntactRes F (execAndnImm w d a imm s) ↔ s.Intact F := Iff.rfl

@[simp] theorem execShl_intact {w d a b} : IntactRes F (execShl w d a b s) ↔ s.Intact F := Iff.rfl

@[simp] theorem execShlImm_intact {w d a imm} : IntactRes F (execShlImm w d a imm s) ↔ s.Intact F := Iff.rfl

@[simp] theorem execShr_intact {w d a b} : IntactRes F (execShr w d a b s) ↔ s.Intact F := Iff.rfl

@[simp] theorem execShrImm_intact {w d a imm} : IntactRes F (execShrImm w d a imm s) ↔ s.Intact F := Iff.rfl

@[simp] theorem execSar_intact {w d a b} : IntactRes F (execSar w d a b s) ↔ s.Intact F := Iff.rfl

@[simp] theorem execSarImm_intact {w d a imm} : IntactRes F (execSarImm w d a imm s) ↔ s.Intact F := Iff.rfl

@[simp] theorem execMin_intact {w d a b} : IntactRes F (execMin w d a b s) ↔ s.Intact F := Iff.rfl

@[simp] theorem execMinImm_intact {w d a imm} : IntactRes F (execMinImm w d a imm s) ↔ s.Intact F := Iff.rfl

@[simp] theorem execMax_intact {w d a b} : IntactRes F (execMax w d a b s) ↔ s.Intact F := Iff.rfl

@[simp] theorem execMaxImm_intact {w d a imm} : IntactRes F (execMaxImm w d a imm s) ↔ s.Intact F := Iff.rfl

@[simp] theorem execMinn_intact {w d a b} : IntactRes F (execMinn w d a b s) ↔ s.Intact F := Iff.rfl

@[simp] theorem execMinnImm_intact {w d a imm} : IntactRes F (execMinnImm w d a imm s) ↔ s.Intact F := Iff.rfl

@[simp] theorem execMaxn_intact {w d a b} : IntactRes F (execMaxn w d a b s) ↔ s.Intact F := Iff.rfl

@[simp] theorem execMaxnImm_intact {w d a imm} : IntactRes F (execMaxnImm w d a imm s) ↔ s.Intact F := Iff.rfl

@[simp] theorem execCmp_intact {w cond d a b} : IntactRes F (execCmp w cond d a b s) ↔ s.Intact F := Iff.rfl

@[simp] theorem execCmpImm_intact {w cond d a imm} : IntactRes F (execCmpImm w cond d a imm s) ↔ s.Intact F := Iff.rfl

@[simp] theorem execSel_intact {d a b c} : IntactRes F (execSel d a b c s) ↔ s.Intact F := Iff.rfl

@[simp] theorem execClz_intact {w d a} : IntactRes F (execClz w d a s) ↔ s.Intact F := Iff.rfl

@[simp] theorem execCtz_intact {w d a} : IntactRes F (execCtz w d a s) ↔ s.Intact F := Iff.rfl

@[simp] theorem execPopc_intact {w d a} : IntactRes F (execPopc w d a s) ↔ s.Intact F := Iff.rfl

@[simp] theorem execExt_intact {k d a} : IntactRes F (execExt k d a s) ↔ s.Intact F := Iff.rfl

@[simp] theorem execBfx_intact {sgn pos lenM1 d a} : IntactRes F (execBfx sgn pos lenM1 d a s) ↔ s.Intact F := Iff.rfl

@[simp] theorem execBfi_intact {pos lenM1 d a} : IntactRes F (execBfi pos lenM1 d a s) ↔ s.Intact F := Iff.rfl

@[simp] theorem execLi_intact {d lit} : IntactRes F (execLi d lit s) ↔ s.Intact F := Iff.rfl

@[simp] theorem execAddpc_intact {d imm} : IntactRes F (execAddpc d imm s) ↔ s.Intact F := Iff.rfl

end Sys2Proof.Machine
end

section
/-!
SUPPORT. What every step keeps: every instruction and event, every mover, and a step (obligation O60).
-/

namespace Sys2Proof.Machine

variable {F : List Nat} {s : State}

/-! ### Machine/Dispatch -/

/-- Each instruction and each event keeps what every step keeps: the lemma of its meaning. -/
theorem exec_intact (i : Instr) (h : s.Intact F) : IntactRes F (exec i s) := by
  cases i
  all_goals
    dsimp only [exec]
    simp [h]

@[simp] theorem settle_intact {pc} : (s.settle pc).Intact F ↔ s.Intact F := by simp [State.settle]

/-! ### Machine/Issue -/

@[simp] theorem settled_intact {pc r} : IntactRes F (settled pc r) ↔ IntactRes F r := by
  cases r with
  | next t => exact settle_intact
  | _ => rfl

theorem runCore_intact (h : s.Intact F) : IntactRes F s.runCore := by
  unfold State.runCore
  split
  · simp [h]
  · simp [h]
  · refine intactRes_cases (by simp [h]) (intactRes_cases h ?_)
    exact settled_intact.2 (exec_intact _ h)

theorem repAfter_intact {r a n t} (h : s.Intact F) (ht : t.Intact F) : (s.repAfter r a n t).Intact F := by
  unfold State.repAfter
  split
  · exact ht
  split
  · split
    · exact ht
    · exact h
  split
  · exact ht
  · exact ht

theorem runRep_intact (h : s.Intact F) : IntactRes F s.runRep := by
  unfold State.runRep
  split
  · exact h
  split
  · exact h
  dsimp only
  refine intactRes_cases (illegal_intact.2 h) ?_
  split
  · rename_i hs
    exact repAfter_intact h (IntactRes.of_next (exec_intact _ (onCore_intact.2 h)) hs)
  · exact exec_intact _ (onCore_intact.2 h)

/-! ### Machine/Engines -/

theorem move_intact (m : Mover) (h : s.Intact F) : IntactRes F (s.move m) := by
  cases m with
  | core id => exact runCore_intact (refocus_intact.2 h)
  | rep id => exact runRep_intact (refocus_intact.2 h)
  | event i => exact exec_intact i h
  | input n =>
    unfold State.move
    dsimp only
    split
    · refine exec_intact _ ?_
      split <;> exact h
    · exact h
  | reset n => exact execFunctionReset_intact h
  | hostMessage n => exact execHostMessageDelivery_intact.2 h
  | isolation oct => exact execBezelIsolationSlot_intact.2 h
  | stream t =>
    refine getD_intact h fun u hu => ?_
    obtain ⟨x, -, hx⟩ := Option.bind_eq_some_iff.1 hu
    exact streamMove_intact h u hx
  | streamEnd t how => exact execLocketStreamEnd_intact h
  | record x => exact flushSuper_intact h
  | links x => exact getD_intact h (linksMove_intact h)
  | forget => exact engForget_intact.2 h
  | word id i => exact glStep_intact.2 h
  | late die => exact getD_intact h fun t ht => engLate_intact h ht
  | pending => exact getD_intact h (pendingMove_intact h)

theorem stepped_intact {r : Res} (hr : IntactRes F r) : IntactRes F (stepped r) := by
  cases r with
  | next t => exact hr
  | _ => trivial

theorem railsUp_intact (h : s.Intact F) : IntactRes F s.railsUp := by
  unfold State.railsUp
  split
  · exact stepped_intact (exec_intact _ h)
  · trivial

/-! ### Machine/Step -/

/-- A step keeps what every step keeps. -/
theorem step_intact (h : s.Intact F) : IntactRes F (step s) := by
  unfold step
  refine intactRes_cases ?_ (railsUp_intact h)
  split
  · exact stepped_intact h
  · exact stepped_intact (move_intact _ h)
  · exact stepped_intact (move_intact _ h)

/-- Settles O60: every instruction, every event and every mover keeps the fused positions and the form of the two memories, each by the lemma of its
meaning. -/
theorem stepsKeepFusesAndMemoryForm : Obligations.StepsKeepFusesAndMemoryForm := by
  intro fuses Inv
  constructor
  · intro i s t h hs
    exact IntactRes.of_next (exec_intact i h) hs
  · intro s t h hs
    exact IntactRes.of_next (step_intact h) hs

end Sys2Proof.Machine
end

section
/-!
SUPPORT. The actor operations of a firing at issue: one entry of the store buffer each (R95, R280 to R299; obligation O30).
-/

namespace Sys2Proof.Machine

/-- Entries in the store buffer leave the program counter where it is. -/
theorem buffered_pc (s : State) (es : List Entry) : (s.buffered es).core.pc = s.core.pc := by
  unfold State.buffered
  split <;> rfl

/-- An actor operation that finds room is one entry of the store buffer (R95, R280). -/
theorem actorIssue_ok {s : State} (h : s.room 1 = .ok) (op : ActorOp) :
    s.actorIssue op none 8 = .next ((s.buffered [⟨.actor op, none, s.who, s.ctx⟩]).atPc (laFrom s.core.pc 8)) := by
  unfold State.actorIssue
  rw [withEntries_ok (by exact h), done_eq, buffered_pc]
  rfl

/-- A signal that finds room is one entry of the store buffer, a release of its clamped scope (R33, R287). -/
theorem withEntries_signal {s : State} (h : s.room 1 = .ok) (op : ActorOp) (sc : Scope × Bool) :
    (s.withEntries [s.entry (.actor op) (some sc.1)] fun t => (t.clamped sc.2).done 8)
      = .next (((s.buffered [⟨.actor op, some sc.1, s.who, s.ctx⟩]).flagged (if sc.2 then flagSC else 0)).atPc
          (laFrom s.core.pc 8)) := by
  rw [withEntries_ok (by exact h), done_eq, clamped_eq, ← buffered_pc s]
  rfl

/-- The actor of a firing. -/
theorem actor?_of_firing {c : Core} {sl : Nat} {x : ActorId} (hrun : c.run = .firing sl) (hx : (c.slotAt sl).actor = some x) :
    c.actor? = some x := by
  rw [Core.actor?, Core.slot?, hrun]
  exact hx

/-- A reservation in the link table leaves the incarnation of every issuer as it was. -/
theorem who_reserveLinks (s : State) (x : ActorId) (n : Nat) :
    (s.modActor x fun r => { r with linkRsv := r.linkRsv + n }).who = s.who := by
  have hgen (y : ActorId) : ((s.modActor x fun r => { r with linkRsv := r.linkRsv + n }).actor y).gen = (s.actor y).gen := by
    simp only [State.modActor, State.setActor, State.actor]
    by_cases h : y.key = x.key
    · rw [h, Sparse.get_put_self]
    · rw [Sparse.get_put_ne _ _ _ h]
  unfold State.who State.issuerOn
  simp only [hgen, modActor_focus, modActor_coreAt]

section
variable {s : State} {x : ActorId} {sl : Nat} (hrun : s.core.run = .firing sl) (hx : (s.core.slotAt sl).actor = some x)
include hrun hx

/-- LINK and MONITOR reserve an entry of the issuer's link table with their store-buffer entry (R274, R284). -/
theorem withLinks_one (hroom : s.room 1 = .ok) (hfree : (s.actor x).links.length + (s.actor x).linkRsv < 16) (op : ActorOp) :
    (s.withLinks 1 fun t => t.actorIssue op none 8)
      = .next (((s.modActor x fun r => { r with linkRsv := r.linkRsv + 1 }).buffered [⟨.actor op, none, s.who, s.ctx⟩]).atPc
          (laFrom s.core.pc 8)) := by
  unfold State.withLinks State.ifRoom
  simp only [if_neg Nat.one_ne_zero, actor?_of_firing hrun hx, hroom]
  rw [if_neg (by omega), actorIssue_ok (by exact hroom), who_reserveLinks]
  rfl

/-- A full link table refuses (R274). -/
theorem withLinks_full (hfull : ¬ (s.actor x).links.length + (s.actor x).linkRsv < 16) (k : State → Res) :
    s.withLinks 1 k = .next (s.fatal 0x44 4 0) := by
  unfold State.withLinks
  simp only [if_neg Nat.one_ne_zero, actor?_of_firing hrun hx]
  exact if_pos (by omega)

theorem exec_consume_ok {p : BitVec 2} {a : SReg} (ha : (s.rs a).toNat ≤ 64) (hen : ((s.actor x).inPort p.toNat).en = true)
    (hsf : s.core.tsw.sf = false) : exec (.consume p a) s = .next ((s.modActor x fun r => r.setIn p.toNat
      { (s.actor x).inPort p.toNat with adv := Nat.min (s.rs a).toNat ((s.actor x).inPort p.toNat).filled, ca := true }).atPc
        (laFrom s.core.pc 8)) := by
  show execConsume p a s = _
  unfold execConsume
  have hok : ¬ (64 < (s.rs a).toNat ∨ (!((s.actor x).inPort p.toNat).en) = true ∨ s.core.tsw.sf = true) := by
    simp [hen, hsf, Nat.not_lt.2 ha]
  rw [actor?_of_firing hrun hx]
  exact (if_neg hok).trans (done_eq _ 8)

theorem exec_exit_ok (hrep : s.core.rep = none) (a : SReg) :
    exec (.exit a) s = .next ((s.commit s.focus).kill x ((s.rs a).toNat % 256)) := by
  show execExit a s = _
  unfold execExit
  simp only [actor?_of_firing hrun hx, Core.canCommit, hrep]
  rfl

end

/-- The tag of MONITOR and UNMON is the low word of its register. -/
theorem and_low_word (v : DWord) : v &&& 0xFFFFFFFF = (v.setWidth 32).zeroExtend 64 := by
  apply BitVec.eq_of_toNat_eq
  have h := Nat.and_two_pow_sub_one_eq_mod v.toNat 32
  simpa [Nat.mod_eq_of_lt (show v.toNat % 4294967296 < 18446744073709551616 by omega)] using h

theorem exec_timer_ok {s : State} (hroom : s.room 1 = .ok) (k kl : Bool) {a : SReg} (ha : (s.rs a).toNat < 2 ^ 48) (b : SReg) :
    s.timerIssue k kl a b = .next ((s.buffered
      [⟨.actor (.timer k kl (s.rs a).toNat ((s.rs b).setWidth 32)), none, s.who, s.ctx⟩]).atPc (laFrom s.core.pc 8)) := by
  unfold State.timerIssue
  rw [if_neg (by omega), actorIssue_ok hroom]

theorem exec_capcall_ok {s : State} (hroom : s.room 1 = .ok) {a b : SReg} (ha : (s.rs a).toNat < 2 ^ 16)
    (hp : la (s.rs b) % 64 = 0) (hown : s.mayReach (la (s.rs b)) 64 = true) (c : SReg) :
    exec (.capcall a b c) s = .next ((s.buffered
      [⟨.actor (.capcall (s.rs a).toNat (la (s.rs b)) ((s.rs c).setWidth 32)), none, s.who, s.ctx⟩]).atPc (laFrom s.core.pc 8)) := by
  show execCapcall a b c s = _
  unfold execCapcall
  simp only [hown, Bool.not_true, Bool.false_eq_true, if_false]
  rw [if_neg (by omega), actorIssue_ok hroom]

theorem exec_capcall_refused {s : State} {a b : SReg} (hown : s.mayReach (la (s.rs b)) 64 = true)
    (h : 2 ^ 16 ≤ (s.rs a).toNat ∨ la (s.rs b) % 64 ≠ 0) (c : SReg) :
    exec (.capcall a b c) s = .next (s.fatal 0x44 4 0) := by
  show execCapcall a b c s = _
  unfold execCapcall
  simp only [hown, Bool.not_true, Bool.false_eq_true, if_false]
  exact if_pos (by omega)

theorem exec_migrate_ok {s : State} (hroom : s.room 1 = .ok) {b : SReg} (hb : (s.rs b).toNat < 2 ^ 30)
    (hz : (s.rs b).extractLsb' 14 4 = 0) (a : SReg) : exec (.migrate a b) s = .next ((s.buffered
      [⟨.actor (.migrate (s.rs a) (s.rs b)), none, s.who, s.ctx⟩]).atPc (laFrom s.core.pc 8)) := by
  have hbits : bitsAt 14 4 (s.rs b) = 0 := by rw [← extractLsb'_toNat_eq_bitsAt, hz]; rfl
  show execMigrate a b s = _
  unfold execMigrate
  rw [if_neg (by omega), actorIssue_ok hroom]

theorem exec_portcfg_ok {s : State} (hroom : s.room 1 = .ok) {b : SReg} (hb : (s.rs b).toNat < 4) (p : BitVec 2) (a : SReg) :
    exec (.portcfg p a b) s = .next ((s.buffered
      [⟨.actor (.portcfg p.toNat (s.rs a) (s.rs b).toNat), none, s.who, s.ctx⟩]).atPc (laFrom s.core.pc 8)) := by
  show execPortcfg p a b s = _
  unfold execPortcfg
  rw [if_neg (by omega), actorIssue_ok hroom]

/-- Settles O30: each operation is its store-buffer entry, by the lemma of its form. -/
theorem actorOperationsAtIssue : Obligations.ActorOperationsAtIssue := by
  unfold Obligations.ActorOperationsAtIssue
  intro s x sl sc a b c k p hrun hx buf linked free low q signal
  refine ⟨fun hroom => ⟨actorIssue_ok hroom _, actorIssue_ok hroom _, ?unmon, ?linked, ?full,
    withEntries_signal hroom _ (s.clamp sc), withEntries_signal hroom _ (s.clamp sc),
    fun ha => ⟨exec_timer_ok hroom k false ha b, exec_timer_ok hroom k true ha b⟩,
    fun ha hp hown => exec_capcall_ok hroom ha hp hown c, fun hown h => exec_capcall_refused hown h c,
    fun hb hz => exec_migrate_ok hroom hb hz a, fun hb => exec_portcfg_ok hroom hb p a⟩,
    exec_consume_ok hrun hx, fun hrep => exec_exit_ok hrun hx hrep a⟩
  case unmon => exact (actorIssue_ok hroom _).trans (by rw [and_low_word])
  case linked =>
    exact fun hfree => ⟨withLinks_one hrun hx hroom hfree _,
      (withLinks_one hrun hx hroom hfree _).trans (by rw [and_low_word])⟩
  case full => exact fun hfull => ⟨withLinks_full hrun hx hfull fun t => t.actorIssue (.link (s.rs a)) none 8,
      withLinks_full hrun hx hfull fun t => t.actorIssue (.monitor (s.rs a) (s.rs b &&& 0xFFFFFFFF)) none 8⟩

end Sys2Proof.Machine
end

section
/-!
SUPPORT. WAITC, REP and FENCE: what completes them and what they leave (R103, R108, R30, R253; obligation O7).
-/

namespace Sys2Proof.Machine

/-- WAITC goes on where the selected counters have fallen to its threshold (R103). -/
theorem exec_waitc_done {s : State} {sel : WaitSel} {n : Word} (h : s.counted sel n.toNat = true) :
    exec (.waitc sel n) s = .next (s.atPc (laFrom s.core.pc 8)) := (if_pos h).trans (done_eq s 8)

/-- WAITC waits while they have not. -/
theorem exec_waitc_waits {s : State} {sel : WaitSel} {n : Word} (h : s.counted sel n.toNat = false) :
    exec (.waitc sel n) s = .next s := if_neg (Bool.eq_false_iff.1 h)

theorem counted_stores (s : State) (n : Nat) : s.counted .stores n = decide (s.storesCount s.focus ≤ n) := rfl
theorem counted_copies (s : State) (n : Nat) :
    s.counted .copies n = (!s.core.repHolds queuesCopy && decide (s.copiesCount s.focus ≤ n)) := rfl
theorem counted_bezel (s : State) (n : Nat) :
    s.counted .bezel n = (!s.core.repHolds queuesBezel && decide (s.bezelCount s.focus ≤ n)) := rfl
theorem counted_all (s : State) (n : Nat) :
    s.counted .all n = (s.counted .stores n && s.counted .copies n && s.counted .bezel n) := rfl
theorem counted_rep (s : State) (n : Nat) : s.counted .rep n = s.core.rep.isNone := rfl

/-- REP fills the empty repetition buffer with what it has captured, and goes on after it (R108). -/
theorem exec_rep_fills {s : State} {nM1 : BitVec 4} {sd sa sb sc : BitVec 5} {count : BitVec 16} {body : List (LAddr × Instr)}
    {after : LAddr} (hrp : s.core.tsw.rp = false) (hcount : count ≠ 0) (hregions : s.focus.regions = true)
    (hrep : s.core.rep = none)
    (hbody : s.core.capture (captureFuel (nM1.toNat + 1)) (nM1.toNat + 1) (laFrom s.core.pc 8) [] = .ok body after) :
    exec (.rep nM1 sd sa sb sc count) s = .next { s with core := { s.core with
      pc := after
      rep := some ⟨body, sd.toNat, sa.toNat, sb.toNat, sc.toNat, count.toNat, 0, 0, s.core.regs.s, none, none, [], []⟩ } } := by
  have hmay : ¬ (s.core.tsw.rp = true ∨ count = 0 ∨ (!s.focus.regions) = true) := by
    simpa [hrp, hregions] using hcount
  have hpc : laFrom s.core.pc 8 = s.core.pc + 8 := laFrom_nat s.core.pc 8
  rw [hpc] at hbody
  show execRep nM1 sd sa sb sc count s = _
  unfold execRep
  rw [if_neg hmay, hbody]
  exact if_neg (by rw [hrep]; decide)

/-- An acquire leaves the program counter where it is. -/
theorem podAcquire_pc (s : State) (sc : Scope) : (s.podAcquire s.focus sc).core.pc = s.core.pc := by
  cases sc <;> simp [State.podAcquire, State.onFab, State.modCore, State.setCore, State.coreAt]

/-- FENCE goes on once no committed store is still to drain and the earlier ones are performed (R30, R253). -/
theorem exec_fence_done {s : State} {sc : Scope} (hdrained : (s.core.committed.all fun e => !e.kind.isStore) = true)
    (hperformed : s.performed s.focus (s.clamp sc).1 = true) :
    exec (.fence sc) s = .next (((s.podAcquire s.focus (s.clamp sc).1).flagged
      (if (s.clamp sc).2 then flagSC else 0)).atPc (laFrom s.core.pc 8)) := by
  have hmay : ¬ (((s.core.committed.any fun e => e.kind.isStore) || !s.performed s.focus (s.clamp sc).1) = true) := by
    rw [List.all_eq_not_any_not, Bool.not_eq_true'] at hdrained
    simpa [hperformed] using hdrained
  rw [← podAcquire_pc s (s.clamp sc).1]
  exact (if_neg hmay).trans (done_eq _ 8)

/-- FENCE waits until then. -/
theorem exec_fence_waits {s : State} {sc : Scope} (h : ¬ ((s.core.committed.all fun e => !e.kind.isStore) = true
    ∧ s.performed s.focus (s.clamp sc).1 = true)) : exec (.fence sc) s = .next s := by
  refine if_pos ?_
  rw [List.all_eq_not_any_not] at h
  simp only [Bool.not_not] at h
  cases hany : s.core.committed.any fun e => e.kind.isStore with
  | true => rfl
  | false =>
    rw [hany] at h
    rw [Bool.false_or, Bool.not_eq_true', Bool.eq_false_iff]
    exact fun hp => h ⟨rfl, hp⟩

/-- Settles O7, by what each selection of WAITC counts, and by the conditions of REP and FENCE. -/
theorem waitsAndRepetitions : Obligations.WaitsAndRepetitions := by
  unfold Obligations.WaitsAndRepetitions
  refine ⟨?_, fun s sc => ⟨fun ⟨hdrained, hperformed⟩ => exec_fence_done hdrained hperformed, exec_fence_waits⟩⟩
  intro s n nM1 sd sa sb sc count body after on
  refine ⟨exec_waitc_done rfl, fun h => ?stores, fun h hr => ?copies, fun h hr => ?bezel, fun h hc hb => ?all, fun h => ?rep,
    fun h => ?noStores, fun h => ?noCopies, fun h => ?noBezel, exec_rep_fills⟩
  case stores => exact exec_waitc_done (by rw [counted_stores, decide_eq_true h])
  case copies => exact exec_waitc_done (by rw [counted_copies, hr, decide_eq_true h]; rfl)
  case bezel => exact exec_waitc_done (by rw [counted_bezel, hr, decide_eq_true h]; rfl)
  case all =>
    obtain ⟨hstores, hcopies, hbezel⟩ := h
    refine exec_waitc_done ?_
    rw [counted_all, counted_stores, counted_copies, counted_bezel, hc, hb, decide_eq_true hstores, decide_eq_true hcopies,
      decide_eq_true hbezel]
    rfl
  case rep => exact exec_waitc_done (by rw [counted_rep, h]; rfl)
  case noStores => exact exec_waitc_waits (by rw [counted_stores, decide_eq_false (Nat.not_le.2 h)])
  case noCopies =>
    refine exec_waitc_waits ?_
    rw [counted_copies]
    rcases h with h | h
    · rw [decide_eq_false (Nat.not_le.2 h), Bool.and_false]
    · rw [h]; rfl
  case noBezel =>
    refine exec_waitc_waits ?_
    rw [counted_bezel]
    rcases h with h | h
    · rw [decide_eq_false (Nat.not_le.2 h), Bool.and_false]
    · rw [h]; rfl

end Sys2Proof.Machine
end

section
/-!
SUPPORT. Global stores, and how a global access ends or waits (R22, R95, R113, R331, R332; obligation O12).
-/

namespace Sys2Proof.Machine

theorem ldBytes_eq (l : LdW) : ldBytes l = loadWidth l := by cases l <;> rfl
theorem stBytes_eq (k : StW) : stBytes k = storeWidth k := by cases k <;> rfl

/-! ## What a translation gives, by what stands in the TLB and by what has been answered (R22, R331, R332, R339) -/

section
variable {s : State} {va : DWord}

theorem xlate_tooWide (h : 2 ^ 48 ≤ va.toNat) (kind : Access) : s.xlate va kind = .bad := if_pos (by omega)

/-- The answer that the waiting instruction holds about an address, if it holds one. -/
def State.noteOf (s : State) (va : Nat) (kind : Access) : Option (Miss × MissAnswer) :=
  if s.core.heldAt = s.core.pc then
    s.core.noted.find? fun e => decide (e.1.ctx = s.ctx ∧ e.1.va = va / 4096 * 4096 ∧ e.1.kind = kind)
  else none

/-- The instruction that holds an answer about an address is the one at the PC. -/
theorem held_of_noteOf {kind : Access} {n : Nat} {x : Miss × MissAnswer} (h : s.noteOf n kind = some x) :
    s.core.heldAt = s.core.pc := by
  by_contra hno
  rw [State.noteOf, if_neg hno] at h
  exact absurd h (by simp)

theorem answerTo_none {kind : Access} {n : Nat} (h : s.noteOf n kind = none) : s.answerTo n kind = .miss := by
  unfold State.answerTo
  split
  · rfl
  · rename_i hheld
    rw [State.noteOf, if_pos (not_not.1 hheld)] at h
    simp only [h]

theorem answerTo_ends {kind : Access} {n r : Nat} {m : Miss} (h : s.noteOf n kind = some (m, .ends r)) :
    s.answerTo n kind = .ends r := by
  have hheld := held_of_noteOf h
  rw [State.noteOf, if_pos hheld] at h
  unfold State.answerTo
  rw [if_neg (not_not.2 hheld)]
  simp only [h]

theorem answerTo_absent {kind : Access} {n hd p : Nat} {w : Bool} {m : Miss} (h : s.noteOf n kind = some (m, .absent hd p w)) :
    s.answerTo n kind = .absent m hd p w := by
  have hheld := held_of_noteOf h
  rw [State.noteOf, if_pos hheld] at h
  unfold State.answerTo
  rw [if_neg (not_not.2 hheld)]
  simp only [h]

variable (h48 : va.toNat < 2 ^ 48) (hv : s.core.physical s.focus = false)
include h48 hv

theorem xlate_noEntry (hl : s.tlbLookup va.toNat = none) (kind : Access) : s.xlate va kind = s.answerTo va.toNat kind := by
  unfold State.xlate
  rw [if_neg (by omega)]
  simp only [hv, hl, Bool.false_eq_true, if_false]

variable {e : TlbEntry} (hl : s.tlbLookup va.toNat = some e)
include hl

theorem xlate_entry (kind : Access) : s.xlate va kind =
    if !(e.target va.toNat).place.reachable s.priv false then .bad
    else if !kind.allowed e.r e.w then
      if e.sh ∧ !e.w ∧ (kind = .write ∨ (kind = .readWrite ∧ e.r)) then s.answerTo va.toNat kind else .ends 14
    else .found (e.target va.toNat) (e.pm va.toNat) := by
  unfold State.xlate
  rw [if_neg (by omega)]
  simp only [hv, hl, Bool.false_eq_true, if_false]

theorem xlate_unreachable (hr : (e.target va.toNat).place.reachable s.priv false = false) (kind : Access) :
    s.xlate va kind = .bad := by
  rw [xlate_entry h48 hv hl, if_pos (by rw [hr]; rfl)]

variable (hr : (e.target va.toNat).place.reachable s.priv false = true)
include hr

/-- A page that its entry does not allow, and that no shadow explains. -/
theorem xlate_denied {kind : Access} (ha : kind.allowed e.r e.w = false)
    (hsh : e.sh = false ∨ kind = .read) : s.xlate va kind = .ends 14 := by
  have hno : ¬ (e.sh = true ∧ (!e.w) = true ∧ (kind = .write ∨ (kind = .readWrite ∧ e.r = true))) := by
    rintro ⟨h1, -, h2⟩
    rcases hsh with h | rfl
    · rw [h] at h1; exact Bool.false_ne_true h1
    · rcases h2 with h | ⟨h, -⟩ <;> exact Access.noConfusion h
  rw [xlate_entry h48 hv hl, if_neg (by rw [hr]; decide), if_pos (by rw [ha]; rfl), if_neg hno]

theorem xlate_allowed {kind : Access} (ha : kind.allowed e.r e.w = true) :
    s.xlate va kind = .found (e.target va.toNat) (e.pm va.toNat) := by
  rw [xlate_entry h48 hv hl, if_neg (by rw [hr]; decide), if_neg (by rw [ha]; decide)]

end

/-! ## The outcomes of a translation at issue -/

section
variable {s : State} {va : DWord} {kind : Access}

theorem translating_bad (h : s.xlate va kind = .bad) (reads : Bool) (k : Target → Res) :
    s.translating va kind reads k = .next (s.fatal 0x45 5 va) := by rw [State.translating, h]; rfl
theorem translating_ends {r : Nat} (h : s.xlate va kind = .ends r) (reads : Bool) (k : Target → Res) :
    s.translating va kind reads k = .next (s.fatal (0x40 + r) r va) := by rw [State.translating, h]; rfl
theorem translating_poisoned {t : Target} (h : s.xlate va kind = .found t true) (k : Target → Res) :
    s.translating va kind true k = .next (s.fatal 0x46 6 va) := by rw [State.translating, h]; rfl

/-- A translation that no entry gives goes by what has been answered about it (R332): a miss, a reason, or a page to wait for. -/
theorem translating_noEntry (h : s.xlate va kind = s.answerTo va.toNat kind) (reads : Bool) (k : Target → Res) :
    (s.noteOf va.toNat kind = none → s.translating va kind reads k = .next (s.miss va.toNat kind))
    ∧ (∀ m r, s.noteOf va.toNat kind = some (m, .ends r) → s.translating va kind reads k = .next (s.fatal (0x40 + r) r va))
    ∧ ∀ m hd p w, s.noteOf va.toNat kind = some (m, .absent hd p w) →
        s.translating va kind reads k = .next { s with core := { s.core with wait := some ⟨.page m hd p w, .nop⟩ } } := by
  refine ⟨fun hn => ?_, fun m r hn => translating_ends (h.trans (answerTo_ends hn)) reads k, fun m hd p w hn => ?_⟩
  · rw [State.translating, h, answerTo_none hn]
  · have hheld : s.core.hold = s.core := if_pos (held_of_noteOf hn)
    rw [State.translating, h, answerTo_absent hn]
    simp only [State.pageAbsent, State.onCore, hheld]

end

/-! ## Misses (R332) -/

theorem miss_waitsAtIssue {s : State} (h : 8 ≤ (s.missesOf s.focus).length) (va : Nat) (kind : Access) : s.miss va kind = s :=
  if_pos h

/-- The miss message of the executing core for an address (R332). -/
def State.missFor (s : State) (va : Nat) (kind : Access) : Miss :=
  ⟨s.focus, s.lciOf s.focus, s.core.missId.toNat, s.ctx, va / 4096 * 4096, kind⟩

theorem miss_sends {s : State} (h : (s.missesOf s.focus).length < 8) (va : Nat) (kind : Access) : s.miss va kind
    = (s.sendMiss (s.missFor va kind)).1.onCore fun c => { c.hold with
        missId := c.missId + 1
        wait := some ⟨.miss s.core.missId.toNat (s.missFor va kind) (s.sendMiss (s.missFor va kind)).2, .nop⟩ } :=
  if_neg (Nat.not_le.2 h)

theorem sendMiss_room {s : State} {m : Miss} (h : (s.transQ (CoreId.queue m.core)).queue.length < 64) :
    s.sendMiss m = (s.setTransQ (CoreId.queue m.core) { s.transQ (CoreId.queue m.core) with
      queue := (s.transQ (CoreId.queue m.core)).queue ++ [m] }, true) := if_pos h
theorem sendMiss_full {s : State} {m : Miss} (h : 64 ≤ (s.transQ (CoreId.queue m.core)).queue.length) :
    s.sendMiss m = (s, false) := if_neg (Nat.not_lt.2 h)

/-! ## Stores -/

/-- A global store that reaches its target and finds room is one entry of the store buffer (R95, R113). -/
theorem storeGlobal_reaches {s : State} {va : DWord} {t : Target} {bs : List Byte} (ht : s.Reaches va .write false t)
    (hroom : s.room 1 = .ok) (rel : Option Scope) (k : State → Res) : s.storeGlobal va bs rel k
      = k (s.buffered [⟨.store t bs (List.range bs.length), rel, s.who, s.ctx⟩]) := by
  unfold State.storeGlobal
  rw [translatingPlace_reaches ht fun t => s.withEntries [s.entry (.store t bs (List.range bs.length)) rel] k,
    withEntries_ok (by exact hroom)]
  rfl

/-- Settles O12: a store that reaches its target is its store-buffer entry, and the outcomes of a load and of a store before that are
those of their address and of its translation. -/
theorem globalStores : Obligations.GlobalStores := by
  unfold Obligations.GlobalStores
  constructor
  · intro s k a b i sc t ea n entry halign ht hroom
    have hpc (es : List Entry) : (s.buffered es).core.pc = s.core.pc := by
      unfold State.buffered
      split <;> rfl
    have haddr : ∀ k' : Res, s.globalAddress ea (stBytes k) k' = k' := globalAddress_ok ht.1 (by rw [stBytes_eq]; exact halign)
    have hentry (rel : Option Scope) : (⟨.store t (bytesOf (stBytes k) (s.rs b).toNat)
        (List.range (bytesOf (stBytes k) (s.rs b).toNat).length), rel, s.who, s.ctx⟩ : Entry) = entry rel := by
      rw [bytesOf_length, bytesOf_eq, stBytes_eq]
    constructor
    · refine (haddr _).trans ((storeGlobal_reaches ht hroom none _).trans ?_)
      rw [hentry, done_eq, hpc]
      rfl
    · refine (haddr _).trans ((storeGlobal_reaches ht hroom _ _).trans ?_)
      rw [hentry, done_eq, clamped_eq, ← hpc [entry (some (s.clamp sc).1)]]
      rfl
  · intro s l k d a b i ea noted outcome
    have hld (h1 : ea.toNat < 2 ^ 48) (h2 : ea.toNat % loadWidth l = 0) : ∃ g : Target → Res,
        exec (.ldg l false d a i) s = s.translating ea .read true g := by
      exact ⟨_, globalAddress_ok h1 (by rw [ldBytes_eq]; exact h2) _⟩
    have hst (h1 : ea.toNat < 2 ^ 48) (h2 : ea.toNat % storeWidth k = 0) : ∃ g : Target → Res,
        exec (.stg k a b i) s = s.translating ea .write false g :=
      ⟨_, globalAddress_ok h1 (by rw [stBytes_eq]; exact h2) _⟩
    have hldBad (h : 2 ^ 48 ≤ ea.toNat ∨ ea.toNat % loadWidth l ≠ 0) : exec (.ldg l false d a i) s = .next (s.fatal 0x45 5 ea) :=
      globalAddress_bad (by rw [ldBytes_eq]; exact h) _
    have hstBad (h : 2 ^ 48 ≤ ea.toNat ∨ ea.toNat % storeWidth k ≠ 0) : exec (.stg k a b i) s = .next (s.fatal 0x45 5 ea) :=
      globalAddress_bad (by rw [stBytes_eq]; exact h) _
    refine ⟨hldBad, hstBad, fun h48 hv => ⟨fun hl => ⟨fun ha => ?_, fun ha => ?_⟩, ?_⟩, ?_⟩
    · obtain ⟨g, hg⟩ := hld h48 ha
      rw [hg]
      exact translating_noEntry (xlate_noEntry h48 hv hl .read) true g
    · obtain ⟨g, hg⟩ := hst h48 ha
      rw [hg]
      exact translating_noEntry (xlate_noEntry h48 hv hl .write) false g
    · intro e hl there
      refine ⟨fun hr => ⟨?_, ?_⟩, fun hr hno ha => ?_, fun hr hok hpm ha => ?_, fun hr hno hsh ha => ?_⟩
      · by_cases ha : ea.toNat % loadWidth l = 0
        · obtain ⟨g, hg⟩ := hld h48 ha
          rw [hg, translating_bad (xlate_unreachable h48 hv hl hr .read)]
        · exact hldBad (.inr ha)
      · by_cases ha : ea.toNat % storeWidth k = 0
        · obtain ⟨g, hg⟩ := hst h48 ha
          rw [hg, translating_bad (xlate_unreachable h48 hv hl hr .write)]
        · exact hstBad (.inr ha)
      · obtain ⟨g, hg⟩ := hld h48 ha
        rw [hg, translating_ends (xlate_denied (kind := .read) h48 hv hl hr hno (.inr rfl))]
      · obtain ⟨g, hg⟩ := hld h48 ha
        rw [hg, translating_poisoned (hpm ▸ xlate_allowed (kind := .read) h48 hv hl hr hok)]
      · obtain ⟨g, hg⟩ := hst h48 ha
        rw [hg, translating_ends (xlate_denied (kind := .write) h48 hv hl hr hno (.inl hsh))]
    · intro va kind q m waits
      refine ⟨fun h => miss_waitsAtIssue h va kind, fun h => ⟨fun hq => ?_, fun hq => ?_⟩⟩
      · rw [miss_sends h, sendMiss_room (by exact hq)]
        rfl
      · rw [miss_sends h, sendMiss_full (by exact hq)]
        rfl

end Sys2Proof.Machine
end

section
/-!
SUPPORT. Global loads: the open stores of the core that a filled invariant line leaves out (R34; obligation O10).
-/

namespace Sys2Proof.Machine

/-- A core in boot mode with a store of the byte 1 to device address 0 in its store buffer. -/
def storingBoot : State :=
  { State.reset with core := { State.reset.core with
      run := .boot
      openB := [⟨.store ⟨.dev 0, 0, 0⟩ [1] [0], none, ⟨.work 0, none, 0⟩, 0⟩] } }

theorem storingBoot_reaches : storingBoot.Reaches 1 .read true ⟨.dev 1, 0, 0⟩ :=
  ⟨by decide, trivial, .inr ⟨rfl, by decide, rfl, .inl rfl⟩⟩

/-- A load of the byte after the buffered one brings what memory holds. -/
theorem storingBoot_brings : storingBoot.Brings 1 1 storingBoot [0] :=
  ⟨⟨.dev 1, 0, 0⟩, [0], storingBoot_reaches, by rfl, by rfl⟩

/-- The core's loads of the line see its own store (R26). -/
theorem storingBoot_line : storingBoot.devRead true ⟨.dev 1, 0, 0⟩ 0 128 = .ok (1 :: List.replicate 127 0) := by decide +kernel

/-- An invariant load that no cached line serves fills its line with what memory and the ordering point hold, without the core's
own buffered stores (R26, R34). -/
theorem exec_ldg_invariant_fills {s v : State} {d a : SReg} {i : Word} {l : LdW} {t : Target} {pa : Nat} {bs : List Byte}
    (halign : (s.rs a + i.signExtend 64).toNat % ldBytes l = 0) (ht : s.Reaches (s.rs a + i.signExtend 64) .read true t)
    (hplace : t.place = .dev pa) (hpa : pa < hbmEnd) (hline : s.invLine pa = none)
    (hbrings : s.Brings (ldBytes l) (s.rs a + i.signExtend 64) v bs) :
    exec (.ldg l true d a i) s = .next ((v.fillInv t pa).afterS d (ldExt l bs) 8) := by
  refine (globalAddress_ok ht.1 halign _).trans ((translating_reaches ht _).trans ?_)
  simp only [hplace, hline, if_neg (Nat.not_le.2 hpa)]
  exact loadGlobal_brings hbrings _

/-- Refutes O10: the line that an invariant load fills is said to be what an acquire of the same core reads there, and so to hold the
core's own buffered stores; the model, with R26, keeps those out of the cache that the cluster shares. A core in boot mode whose store
buffer holds a store of 1 to address 0 loads the byte at 1 as invariant: its cluster's cache takes a line of zeros. -/
theorem not_globalLoads : ¬ Obligations.GlobalLoads := by
  unfold Obligations.GlobalLoads
  rintro ⟨-, hinv⟩
  obtain ⟨-, hfill⟩ := hinv storingBoot .z8 1 0 1 ⟨.dev 1, 0, 0⟩ 1 rfl storingBoot_reaches rfl (by decide)
  obtain ⟨u, hu, -, hfresh, -⟩ := hfill storingBoot [0] 0 _ (.inl rfl) storingBoot_brings rfl storingBoot_line
  rw [exec_ldg_invariant_fills (by rfl) storingBoot_reaches rfl (by decide) rfl storingBoot_brings] at hu
  obtain rfl := Host.Outcome.next.inj hu
  exact absurd hfresh (by decide)

end Sys2Proof.Machine
end

section
/-!
SUPPORT. Returning atomics: their region, where they are performed, and the values of the scalar atomics (R98, R242 to R247; obligation O16).
-/

namespace Sys2Proof.Machine

/-! ## A returning atomic once its region is its own (R98, R242, R244, R245) -/

/-- A returning atomic closes the open region and follows as a region of its own. -/
theorem amoIssue_goes {s : State} {i : Instr} {c : AmoCall} {va : DWord} (hc : s.amoCall i = some c) (h48 : va.toNat < 2 ^ 48)
    (halign : va.toNat % c.n = 0) (hrep : s.core.rep = none) : s.amoIssue i va = s.closeRegion.amoGo i c va := by
  have hcommit : ¬ (!s.core.canCommit) = true := by rw [Core.canCommit, hrep]; decide
  unfold State.amoIssue
  rw [hc]
  exact (globalAddress_ok h48 halign _).trans (if_neg hcommit)

section
variable {s : State} {i : Instr} {c : AmoCall} {va : DWord} {t : Target} (ht : s.Reaches va .readWrite true t)
include ht

theorem amoGo_host {ha : Nat} (hp : t.place = .host ha) : s.amoGo i c va = .next (s.fatal 0x44 4 0) := by
  unfold State.amoGo
  rw [translating_reaches ht, checkPlace_taken ht.2.1, hp]
  rfl

variable (hcommitted : s.core.committed = [])
  (hrel : ordReleases c.ord = true → s.performed s.focus (s.clampOrd c.ord c.scope).1 = true)

omit ht in
include hcommitted hrel in
/-- Nothing is left to drain, and what a release orders is performed. -/
theorem amo_notHeld : ¬ (s.core.committed ≠ []
    ∨ ((if ordReleases c.ord then some (s.clampOrd c.ord c.scope).1 else none).map fun x => s.performed s.focus x) = some false) := by
  rintro (h | h)
  · exact h hcommitted
  · split at h
    · rename_i hr
      rw [Option.map_some, hrel hr] at h
      exact absurd h (by decide)
    · exact absurd h (by simp)

include hcommitted hrel

/-- In HBM it joins its die's ordering point and the core waits for the old value. -/
theorem amoGo_hbm {pa : Nat} (hp : t.place = .dev pa) (hpa : pa < hbmEnd) (hroom : (s.orderAt s.focus.die).length < 512) :
    s.amoGo i c va = .next ((s.joinOrder s.focus.die ⟨pa, c.kind, t.cmp, s.who,
      if ordReleases c.ord then some (s.clampOrd c.ord c.scope).1 else none, .core s.focus⟩).onCore fun k =>
        { k with wait := some ⟨.atomic, i⟩ }) := by
  unfold State.amoGo
  rw [translating_reaches ht, checkPlace_taken ht.2.1, hp]
  simp only [if_neg (amo_notHeld hcommitted hrel), Place.addr, if_neg (Nat.not_le.2 hpa), State.intoOrder,
    if_neg (Nat.not_le.2 hroom)]

/-- At a control register it acts at once. -/
theorem amoGo_control {pa : Nat} (hp : t.place = .dev pa) (hpa : hbmEnd ≤ pa) : s.amoGo i c va
    = .next (((c.kind.scalar (natOf (s.ctlBytes pa c.n))).elim s fun v =>
        s.ctlStore (ctlWriter s.focus).1 (ctlWriter s.focus).2 pa (bytesOf c.n v) 2).amoDone c true (natOf (s.ctlBytes pa c.n))) := by
  unfold State.amoGo
  rw [translating_reaches ht, checkPlace_taken ht.2.1, hp]
  simp only [if_neg (amo_notHeld hcommitted hrel), Place.addr]
  refine (if_pos hpa).trans ?_
  cases c.kind.scalar (natOf (s.ctlBytes pa c.n)) <;> rfl

/-- To another device its request leaves and the core waits for the answer. -/
theorem amoGo_leaves {e pa q : Nat} {m : PageMode} (hp : t.place = .peer e pa m)
    (hq : (s.trySend s.focus.key t.ctx e s.who (.core s.focus) (c.kind.request pa ⟨m.code, t.cmp, t.ctx⟩)).2 = some q) :
    s.amoGo i c va = .next ((s.trySend s.focus.key t.ctx e s.who (.core s.focus)
      (c.kind.request pa ⟨m.code, t.cmp, t.ctx⟩)).1.onCore fun k =>
        { k with wait := some ⟨.fabric (flowKey s.focus.key e) q t.place 0 va, i⟩ }) := by
  unfold State.amoGo
  rw [translating_reaches ht, checkPlace_taken ht.2.1, hp]
  simp only [if_neg (amo_notHeld hcommitted hrel)]
  split <;> simp_all

/-- It waits where the request may not leave. -/
theorem amoGo_waits {e pa : Nat} {m : PageMode} (hp : t.place = .peer e pa m)
    (hq : (s.trySend s.focus.key t.ctx e s.who (.core s.focus) (c.kind.request pa ⟨m.code, t.cmp, t.ctx⟩)).2 = none) :
    s.amoGo i c va = .next (s.trySend s.focus.key t.ctx e s.who (.core s.focus)
      (c.kind.request pa ⟨m.code, t.cmp, t.ctx⟩)).1 := by
  unfold State.amoGo
  rw [translating_reaches ht, checkPlace_taken ht.2.1, hp]
  simp only [if_neg (amo_notHeld hcommitted hrel)]
  split <;> simp_all

end

/-! ## The end of one (R33, R98, R244, R245) -/

theorem ordAcquires_iff (o : Ord) : ordAcquires o = true ↔ o = .acquire ∨ o = .acqRel := by cases o <;> decide

theorem oldValue_eq (n old : Nat) :
    oldValue n old = if n = 4 then (BitVec.ofNat 32 old).signExtend 64 else BitVec.ofNat 64 old := by
  rw [oldValue, sextLow, dw, BitVec.setWidth_ofNat_of_le (by decide)]

/-! ## What a scalar atomic makes of the value at its address (Table 09.3) -/

theorem signedN_eq (n x : Nat) : signedN n x = (x : Int).bmod (2 ^ (8 * n)) := by
  exact_mod_cast BitVec.toInt_ofNat' x

/-- Equal signed values of patterns of one width are equal patterns. -/
theorem eq_of_bmod_eq {m x y : Nat} (hx : x < m) (hy : y < m) (h : (x : Int).bmod m = (y : Int).bmod m) : x = y := by
  have hmod := congrArg (· % (m : Int)) h
  simp only [Int.bmod_emod] at hmod
  rw [Int.emod_eq_of_lt (by omega) (by omega), Int.emod_eq_of_lt (by omega) (by omega)] at hmod
  exact_mod_cast hmod

section
variable (n : Nat) {old v : Nat}

theorem amoNew_min : amoNew .min n old v
    = if (v : Int).bmod (2 ^ (8 * n)) < (old : Int).bmod (2 ^ (8 * n)) then v else old := by
  rw [amoNew, signedN_eq, signedN_eq]
  split
  · rw [if_neg (by omega)]
  · rw [if_pos (by omega)]

theorem amoNew_max (hold : old < 2 ^ (8 * n)) (hv : v < 2 ^ (8 * n)) : amoNew .max n old v
    = if (old : Int).bmod (2 ^ (8 * n)) < (v : Int).bmod (2 ^ (8 * n)) then v else old := by
  rw [amoNew, signedN_eq, signedN_eq]
  rcases lt_trichotomy ((old : Int).bmod (2 ^ (8 * n))) ((v : Int).bmod (2 ^ (8 * n))) with h | h | h
  · rw [if_pos h.le, if_pos h]
  · have heq : old = v := eq_of_bmod_eq hold hv (by exact_mod_cast h)
    rw [heq, ite_self, ite_self]
  · rw [if_neg (not_le.2 h), if_neg (not_lt.2 h.le)]

/-- The bounded addition writes the sum where it stays within its bound (R247). -/
theorem bndNew_eq (b : Nat) : bndNew n old v b =
    let m := 2 ^ (8 * n)
    let sg (x : Nat) : Int := (x : Int).bmod m
    if (0 ≤ sg v ∧ sg old + sg v ≤ sg b) ∨ (sg v < 0 ∧ sg b ≤ sg old + sg v) then some ((old + v) % m) else none := by
  have hsum : (((old : Int).bmod (2 ^ (8 * n)) + (v : Int).bmod (2 ^ (8 * n))) % 2 ^ (8 * n)).toNat = (old + v) % 2 ^ (8 * n) := by
    have h : ((old : Int).bmod (2 ^ (8 * n)) + (v : Int).bmod (2 ^ (8 * n))) % (2 ^ (8 * n) : Nat) = ((old + v) % 2 ^ (8 * n) : Nat) := by
      rw [Int.add_emod, Int.bmod_emod, Int.bmod_emod, ← Int.add_emod]
      norm_cast
    rw [show (2 ^ (8 * n) : Int) = (2 ^ (8 * n) : Nat) by norm_cast]
    omega
  unfold bndNew
  simp only [signedN_eq, hsum]

end

/-- Settles O16: the issue of the three returning atomics by the place of their target, their end, and what each makes of the value
at its address. -/
theorem returningAtomics : Obligations.ReturningAtomics := by
  unfold Obligations.ReturningAtomics
  refine ⟨?hbm, ⟨?beyond, ?ends⟩, ?values⟩
  case hbm =>
    intro s op o w sc d a b c t pa va n u at' halign ht hp hpa hrep hcommitted hroom hrel
    have hgo (i : Instr) (k : PortKind) (hc : s.amoCall i = some ⟨k, n, o, sc, d⟩) (he : exec i s = s.amoIssue i va) :
        exec i s = at' k i :=
      he.trans ((amoIssue_goes hc ht.1 halign hrep).trans (amoGo_hbm ht hcommitted hrel hp hpa hroom))
    exact ⟨fun hd => hgo _ _ rfl (if_neg hd), hgo _ _ rfl rfl, hgo _ _ rfl rfl⟩
  case beyond =>
    intro s op o w sc d a b c t va n u run halign ht hrep
    have hrun (i : Instr) (k : PortKind) (hc : s.amoCall i = some ⟨k, n, o, sc, d⟩) (he : exec i s = s.amoIssue i va) :
        run i k k.request := by
      have hgo := he.trans (amoIssue_goes hc ht.1 halign hrep)
      refine ⟨fun ha hp => hgo.trans (amoGo_host ht hp), fun hcommitted hrel => ⟨fun e pa m hp => ⟨fun q hq => ?_, fun hq => ?_⟩,
        fun pa hp hpa => ?_⟩⟩
      · exact hgo.trans (amoGo_leaves ht hcommitted hrel hp hq)
      · exact hgo.trans (amoGo_waits ht hcommitted hrel hp hq)
      · exact hgo.trans ((amoGo_control ht hcommitted hrel hp hpa).trans (by rw [natOf_eq]))
    exact ⟨fun hd => hrun (.amo op o w sc d a b) _ rfl (if_neg hd), hrun (.cas o w sc d a b c) _ rfl rfl,
      hrun (.amobnd o w sc d a b c) _ rfl rfl⟩
  case ends =>
    intro s k n old o sc d here cl s1 s2 v u
    unfold State.amoDone
    simp only [ordAcquires_iff, oldValue_eq]
    rfl
  case values =>
    intro n old y z hn hold m v b sg
    have hv : v < m := Nat.mod_lt _ (by positivity)
    refine ⟨rfl, rfl, rfl, rfl, rfl, rfl, congrArg some (amoNew_min n), congrArg some (amoNew_max n hold hv), rfl, rfl, bndNew_eq n b⟩

end Sys2Proof.Machine
end

section
/-!
SUPPORT. Clasps: CLINIT, arrivals, waits, at home and elsewhere (R139 to R144, R164; obligation O17).
-/

namespace Sys2Proof.Machine

/-- A core with the clasp word of target 1, count 0 and bit 16, of the field that no member of the word has, set at address 0. -/
def claspCore : Core := (Core.reset [] (.work 0)).store 0 (bytesOf 8 0x100010000)

/-- The arrival that reaches its target clears the count and moves the generation, and leaves bits 16 to 31 as they were. -/
theorem claspCore_arrive : (claspCore.arrive 0).1.load8 0 = 0x1000100010000 := by decide +kernel

/-- Refutes O17, in its clause of the arrival that reaches the target: where bits 16 to 31 of the count word are not zero they stay, as
in the clause of the other arrivals, and the statement has them zero. -/
theorem not_clasps : ¬ Obligations.Clasps := by
  unfold Obligations.Clasps
  rintro ⟨-, harrive, -⟩
  obtain ⟨-, -, hlast, -⟩ := harrive claspCore 0 rfl (by decide)
  obtain ⟨hword, -⟩ := hlast (by decide +kernel)
  rw [claspCore_arrive] at hword
  exact absurd hword (by decide +kernel)

end Sys2Proof.Machine
end

section
/-!
SUPPORT. The Bezel operations at issue, and MSTAT (R206 to R223; obligation O25).
-/

namespace Sys2Proof.Machine

/-! ## The checks and the queue of a Bezel operation (R208, R212) -/

/-- Ranges that are aligned and the code's own let the operation go on. -/
theorem localRanges_ok {s : State} {rs : List (DWord × Nat × Nat)} (h : ∀ r ∈ rs, la r.1 % r.2.1 = 0 ∧ s.mayReach (la r.1) r.2.2 = true)
    (k : Res) : s.localRanges rs k = k := by
  have haligned : rs.find? (fun r => decide (la r.1 % r.2.1 ≠ 0)) = none :=
    List.find?_eq_none.2 fun r hr => by simp [(h r hr).1]
  have hown : rs.find? (fun r => !s.mayReach (la r.1) r.2.2) = none :=
    List.find?_eq_none.2 fun r hr => by simp [(h r hr).2]
  unfold State.localRanges
  rw [haligned, hown]

/-- One range aligned to 512 and the code's own. -/
theorem localRanges_one {s : State} {x : DWord} {n : Nat} (h : la x % 512 = 0 ∧ s.mayReach (la x) n = true) (k : Res) :
    s.localRanges [(x, 512, n)] k = k := localRanges_ok (List.forall_mem_singleton.2 h) k

/-- The operation of a kind that the executing core puts into its queue. -/
def State.bezelOpOf (s : State) (kind : BezelKind) (sc : Scope) (aq rl : Bool) (beads : List Nat) : BezelOp :=
  ⟨s.core.bzSeq, kind, (if aq || rl then s.clamp sc else (sc, false)).1, aq, rl, s.who, beads,
    s.core.committed.length + s.core.openB.length, true, false, s.core.mem⟩

/-- The queue of a position has taken the operation, and the sequence number has moved on. -/
def State.bezelEntered (s : State) (pos : Nat) (o : BezelOp) : State :=
  let v := s.modBezelQueue pos (· ++ [o])
  { v with core := { v.core with bzSeq := v.core.bzSeq + 1 } }

section
variable {s : State} {pos : Nat} (hf : s.focus = .work pos)
include hf

theorem bezelOps_work : s.bezelOps = s.bezelQueue pos := by rw [State.bezelOps, hf]

theorem octet?_work : s.octet? = some (posOctet pos) := by rw [State.octet?, hf]

/-- With room in the queue an operation enters it, a scope clamped only where AQ or RL uses it (R33). -/
theorem bezelIssue_ok (hroom : (s.bezelQueue pos).length < 8) (kind : BezelKind) (sc : Scope) (aq rl : Bool)
    (rs : List (DWord × Nat × Nat)) : s.bezelIssue kind sc aq rl rs =
      .next (((s.bezelEntered pos (s.bezelOpOf kind sc aq rl (rs.flatMap fun r => beadsOf (la r.1) r.2.2))).flagged
        (if (if aq || rl then s.clamp sc else (sc, false)).2 then flagSC else 0)).atPc (laFrom s.core.pc 8)) := by
  unfold State.bezelIssue
  rw [hf]
  exact (if_neg (Nat.not_le.2 hroom)).trans (done_eq _ 8)

end

/-- A core that gives a tile a type reads it back (R212). -/
theorem trackedInt_track (s : State) {t : Nat} (ht : t < 16) (isInt : Bool) : (s.track t isInt).trackedInt t = isInt := by
  simp [State.trackedInt, State.track, State.onCore, ht]

theorem tileFree_none {s : State} {t : Nat} (h : s.tileWriter t = none) (name : Acc) (k : Res) : s.tileFree t name k = k := by
  rw [State.tileFree, h]

theorem tileFree_some {s : State} {t : Nat} {o : BezelOp} (h : s.tileWriter t = some o) (name : Acc) (k : Res) :
    s.tileFree t name k = s.recoverable 1 (o.seq.toNat + 2 ^ 16 * name.toNat) 0 0 s.core.pc := by
  rw [State.tileFree, h]

/-! ## Each operation, once its names are mapped -/

section
variable {s : State} {f : Fmt} {sc : Scope} {d : Acc} {a : SReg} {aq rl : Bool} {t : Nat}

theorem exec_bld {k : BankName} {b : Nat} (hb : s.bankOf k.toNat = some b) (hw : (bwm s.core.bzmap).testBit b = true)
    (ho : la (s.rs a) % 512 = 0 ∧ s.mayReach (la (s.rs a)) 8192 = true) :
    exec (.bld sc f a k aq rl) s = s.bezelIssue (.bld f (la (s.rs a)) b) sc aq rl [(s.rs a, 512, 8192)] := by
  refine (localRanges_one ho _).trans ?_
  rw [hb]
  exact if_pos hw

theorem exec_mma {k : BankName} {nb : BitVec 4} {banks : List Nat} (ht : s.tileOf d = some t)
    (hb : (List.range (nb.toNat + 1)).mapM (fun i => s.bankOf (k.toNat + i)) = some banks)
    (ho : la (s.rs a) % 512 = 0 ∧ s.mayReach (la (s.rs a)) (8192 * (nb.toNat + 1)) = true) (htype : s.trackedInt t = !f.isFloat) :
    exec (.mma sc f d a k nb aq rl) s
      = s.bezelIssue (.mma f t (la (s.rs a)) banks) sc aq rl [(s.rs a, 512, 8192 * (nb.toNat + 1))] := by
  refine (localRanges_one ho _).trans ?_
  simp only [ht, hb]
  exact if_neg (by simp [htype])

theorem exec_mzero (ht : s.tileOf d = some t) (hroom : s.bezelOps.length < 8) : exec (.mzero sc f d aq rl) s
    = (s.track t (!f.isFloat)).bezelIssue (.mzero (!f.isFloat) t) sc aq rl [] := by
  show execMzero sc f d aq rl s = _
  rw [execMzero, ht]
  exact if_neg (Nat.not_le.2 hroom)

theorem exec_mrest (ht : s.tileOf d = some t) (hroom : s.bezelOps.length < 8)
    (ho : la (s.rs a) % 512 = 0 ∧ s.mayReach (la (s.rs a)) 24576 = true) : exec (.mrest sc f d a aq rl) s
    = (s.track t (!f.isFloat)).bezelIssue (.mrest (!f.isFloat) t (la (s.rs a))) sc aq rl [(s.rs a, 512, 24576)] := by
  refine (localRanges_one ho _).trans ?_
  rw [ht]
  exact if_neg (Nat.not_le.2 hroom)

theorem exec_msave (ht : s.tileOf d = some t) (ho : la (s.rs a) % 512 = 0 ∧ s.mayReach (la (s.rs a)) 24576 = true) :
    exec (.msave sc d a aq rl) s
      = s.tileFree t d (s.bezelIssue (.msave t (la (s.rs a))) sc aq rl [(s.rs a, 512, 24576)]) := by
  refine (localRanges_one ho _).trans ?_
  rw [ht]

end

/-- The local ranges of an MDRAIN: its output, its scales and its counts (R219). -/
def State.drainRanges (s : State) (fd : MdrainF) : List (DWord × Nat × Nat) :=
  [(s.rs fd.a, 512, if fd.fmt = .bf16 then 8192 else 16384)] ++ (if fd.sc then [(s.rs fd.b, 8, 256)] else [])
    ++ (if fd.cn then [(s.rs fd.c, 512, 8192)] else [])

theorem exec_mdrain {s : State} {fd : MdrainF} {t : Nat} (ht : s.tileOf fd.d = some t)
    (ho : ∀ r ∈ s.drainRanges fd, la r.1 % r.2.1 = 0 ∧ s.mayReach (la r.1) r.2.2 = true) :
    exec (.mdrain fd) s = s.tileFree t fd.d (s.bezelIssue (.mdrain fd.fmt t (la (s.rs fd.a))
        (if fd.sc then some (la (s.rs fd.b)) else none) (if fd.cn then some (la (s.rs fd.c)) else none)
        (rndMode fd.rnd s.core.regs.rm) fd.cl fd.nm) fd.scope fd.aq fd.rl (s.drainRanges fd)) := by
  refine (localRanges_ok ho _).trans ?_
  rw [ht]
  rfl

/-! ## MSTAT (R223, Table 07.6) -/

/-- The oldest writer of a tile, or the number that stands there while nothing writes it. -/
def State.oldestWriter (s : State) (t : Nat) : Nat :=
  match s.tileWriter t with
  | some o => o.seq.toNat
  | none => Config.freeChoice s.tick % 65536

/-- The oldest operation of a position, or the number that stands there while its queue is empty. -/
def State.oldestQueued (s : State) (pos : Nat) : Nat :=
  match s.bezelQueue pos with
  | o :: _ => o.seq.toNat
  | [] => Config.freeChoice s.tick % 65536

theorem statTile_eq (s : State) (oct t : Nat) :
    let x := (s.bezel oct).tile t
    s.statTile oct t = dw (2 ^ 32 * (x.elems.filter fun e => e.2.2 != 0).length
      + 2 ^ 16 * s.oldestWriter t + 2 ^ 8 * x.cond.toNat + (if x.isInt then 2 else 0) + (if s.tileWriter t = none then 0 else 1)) := by
  intro x
  have htype : (if x.isInt then 2 else 0) = 2 * x.isInt.toNat := by cases x.isInt <;> rfl
  have hbusy : (if s.tileWriter t = none then 0 else 1) = (s.tileWriter t).isSome.toNat := by cases s.tileWriter t <;> rfl
  rw [htype, hbusy]
  rfl

theorem oldestWriter_lt (s : State) (t : Nat) : s.oldestWriter t < 2 ^ 16 := by
  unfold State.oldestWriter
  split
  · exact BitVec.isLt _
  · exact Nat.mod_lt _ (by decide)

theorem oldestQueued_lt (s : State) (pos : Nat) : s.oldestQueued pos < 2 ^ 16 := by
  unfold State.oldestQueued
  split
  · exact BitVec.isLt _
  · exact Nat.mod_lt _ (by decide)

section
variable {s : State} {pos : Nat} (hf : s.focus = .work pos)
include hf

theorem exec_mstat_tile {d : Acc} {t : Nat} (ht : s.tileOf d = some t) (dst : SReg) :
    exec (.mstat .tile dst d) s = .next (s.afterS dst (s.statTile (posOctet pos) t) 8) := by
  show execMstat .tile dst d s = _
  unfold execMstat
  simp only [octet?_work hf, ht]
  exact done_eq _ 8

theorem exec_mstat_seq (dst : SReg) (d : Acc) : exec (.mstat .seq dst d) s = .next (s.afterS dst (dw (2 ^ 32 * (s.bezelQueue pos).length
    + 2 ^ 16 * s.oldestQueued pos + s.core.bzSeq.toNat)) 8) := by
  have hword : s.statSeq = dw (2 ^ 32 * (s.bezelQueue pos).length + 2 ^ 16 * s.oldestQueued pos + s.core.bzSeq.toNat) := by
    unfold State.statSeq State.oldestQueued
    rw [bezelOps_work hf] <;> rfl
  rw [← hword]
  exact done_eq _ 8

theorem exec_mstat_err (dst : SReg) (d : Acc) : exec (.mstat .err dst d) s = .next (s.afterS dst
    (dw (2 ^ 32 * (s.bezel (posOctet pos)).uncorr + (s.bezel (posOctet pos)).corr)) 8) := by
  show execMstat .err dst d s = _
  unfold execMstat
  simp only [octet?_work hf]
  exact done_eq _ 8

end

/-- Settles O25: each operation is its checks and then one entry of the core's queue. -/
theorem bezelOperations : Obligations.BezelOperations := by
  unfold Obligations.BezelOperations
  intro s pos f fd sc d k nb a dst aq rl t b hf hroom p queued own
  have hops : s.bezelOps.length < 8 := by rwa [bezelOps_work hf]
  have hone {kind : BezelKind} {n : Nat} (sc : Scope) (aq rl : Bool) :
      s.bezelIssue kind sc aq rl [(s.rs a, 512, n)] = queued s kind sc aq rl (beadsOf p n) := by
    refine (bezelIssue_ok hf hroom kind sc aq rl _).trans ?_
    rw [List.flatMap_singleton]
    rfl
  refine ⟨?bld, ?mma, ?typed, ?msave, ?mdrain, ?tile, ?seq, exec_mstat_err hf dst d⟩
  case bld => exact fun hb hw ho => (exec_bld hb hw ho).trans (hone sc aq rl)
  case mma => exact fun banks ht hb ho htype => (exec_mma ht hb ho htype).trans (hone sc aq rl)
  case typed =>
    intro ht h16 u
    have hu : u = s.track t (!f.isFloat) := rfl
    refine ⟨trackedInt_track s h16 _, ?_, fun ho => ?_⟩
    · exact (exec_mzero ht hops).trans (bezelIssue_ok (s := u) hf hroom _ sc aq rl [])
    · refine (exec_mrest ht hops ho).trans ((bezelIssue_ok (s := u) hf hroom _ sc aq rl _).trans ?_)
      rw [List.flatMap_singleton]
      rfl
  case msave =>
    intro ht ho
    exact ⟨fun hw => (exec_msave ht ho).trans ((tileFree_none hw d _).trans (hone sc aq rl)),
      fun o hw => (exec_msave ht ho).trans (tileFree_some hw d _)⟩
  case mdrain =>
    intro rs ho ht
    exact ⟨fun hw => (exec_mdrain ht ho).trans ((tileFree_none hw fd.d _).trans (bezelIssue_ok hf hroom _ _ _ _ _)),
      fun o hw => (exec_mdrain ht ho).trans (tileFree_some hw fd.d _)⟩
  case tile =>
    intro ht x
    refine ⟨s.oldestWriter t, ?_, oldestWriter_lt s t, fun o ho => ?_⟩
    · rw [exec_mstat_tile hf ht, statTile_eq]
    · rw [State.oldestWriter, ho]
  case seq =>
    refine ⟨s.oldestQueued pos, exec_mstat_seq hf dst d, oldestQueued_lt s pos, fun o rest ho => ?_⟩
    rw [State.oldestQueued, ho]

end Sys2Proof.Machine
end

section
/-!
SUPPORT. CPY, CPY2 and SEND at issue (R147 to R165; obligation O28).
-/

namespace Sys2Proof.Machine

/-! ## The checks of a copy command (R117, R158) -/

theorem bad_false {r : Run} (h8 : r.ga.toNat % 8 = 0) (hend : r.ga.toNat + r.n ≤ 2 ^ 48) (hn : r.n ≠ 0) : r.bad = false := by
  unfold Run.bad
  exact decide_eq_false (by omega)

section
variable {s : State} {runs : List Run} {locals : List (Nat × Nat)} {ts : List Target} {kind : Access}

/-- Ranges in place, the code's own and with every page translated let the command go on with its page parts. -/
theorem copyChecks_ok (hruns : ∀ r ∈ runs, r.bad = false) (hlocals : ∀ r ∈ locals, s.mayReach r.1 r.2 = true)
    (hts : List.Forall₂ (fun r t => s.Reaches r.ga kind (kind == .read) t) (runs.flatMap Run.parts) ts)
    (k : List (Run × Target) → Res) :
    s.copyChecks kind runs locals k = k ((runs.flatMap Run.parts).zip ts) := by
  have hbad : runs.find? (·.bad) = none := List.find?_eq_none.2 fun r hr => by simp [hruns r hr]
  have hown : locals.find? (fun r => !s.mayReach r.1 r.2) = none := List.find?_eq_none.2 fun r hr => by simp [hlocals r hr]
  unfold State.copyChecks
  rw [hbad, hown]
  exact translatingEach_reaches (List.forall₂_map_left_iff.2 hts) _

/-- One run of a command and its local range. -/
theorem copyChecks_one {r : Run} {a n : Nat} (hr : r.bad = false) (ho : s.mayReach a n = true)
    (hts : List.Forall₂ (fun r t => s.Reaches r.ga kind (kind == .read) t) r.parts ts) (k : List (Run × Target) → Res) :
    s.copyChecks kind [r] [(a, n)] k = k (r.parts.zip ts) := by
  have hparts : [r].flatMap Run.parts = r.parts := List.flatMap_singleton ..
  rw [copyChecks_ok (List.forall_mem_singleton.2 hr) (List.forall_mem_singleton.2 ho) (by rwa [hparts]), hparts]

end

/-! ## A command enters its queue (R147) -/

theorem copyNow_ok {s : State} (hroom : s.core.transferQ.length < 16) (c : CopyCmd) (cl : Bool) (n : Nat) :
    s.copyNow c cl n = .next (({ s with core := { s.core with transferQ := s.core.transferQ ++ [c] } }.flagged
      (if cl then flagSC else 0)).atPc (laFrom s.core.pc n)) :=
  (if_neg (Nat.not_le.2 hroom)).trans (done_eq _ n)

theorem copyLater_ok {s : State} (hroom : s.room 1 = .ok) (c : CopyCmd) (cl : Bool) (n : Nat) :
    s.copyLater c cl n = .next (((s.buffered [⟨.copy c, none, s.who, s.ctx⟩]).flagged (if cl then flagSC else 0)).atPc
      (laFrom s.core.pc n)) := by
  unfold State.copyLater
  rw [withEntries_ok (by exact hroom), done_eq, clamped_eq, ← buffered_pc s]
  rfl

/-! ## The rows of a CPY2 (R161) -/

theorem toNat_extract (lo n : Nat) (x : DWord) : (x.extractLsb' lo n).toNat = bitsAt lo n x := by
  rw [BitVec.extractLsb'_toNat, Nat.shiftRight_eq_div_pow, bitsAt]

/-- A row of a CPY2: its distance from the first one, and the bytes of it in bounds. -/
theorem cpy2Rows_row {s : State} {f : Cpy2F} {i : Nat} {r : Run × Nat} (h : (s.cpy2Rows f)[i]? = some r) :
    r.2 = 8 * (f.rwdM1.toNat + 1) ∧ r.1.ga = s.rs f.b + BitVec.ofNat 64 i * f.gs.signExtend 64
    ∧ r.1.la = (la (s.rs f.a) + i * f.ls.toNat) % 2 ^ 18
    ∧ r.1.n = if f.bnd = false then r.2 else if ((s.rs f.d).extractLsb' 32 32).toNat ≤ i then 0
        else Nat.min r.2 (((s.rs f.d).extractLsb' 0 32).toNat * f.fmt.width) := by
  unfold State.cpy2Rows at h
  rw [List.getElem?_map] at h
  obtain ⟨j, hj, rfl⟩ := Option.map_eq_some_iff.1 h
  obtain ⟨hlt, hij⟩ := List.getElem?_eq_some_iff.1 hj
  rw [List.getElem_range] at hij
  subst hij
  refine ⟨rfl, rfl, rfl, ?_⟩
  simp only [toNat_extract]
  cases f.bnd with
  | false => rfl
  | true => simp only [Bool.not_true, Bool.false_eq_true, if_false, Bool.true_eq_false, ← not_lt, ite_not]

/-! ## CPY (R157, R158) -/

section
variable {s : State} {f : CpyF} {ts : List Target} (ha : la (s.rs f.a) % 8 = 0)
  (ho : s.mayReach (la (s.rs f.a)) (8 * (f.nwm1.toNat + 1)) = true)
include ha ho

theorem exec_cpy_gl (hdir : f.dir = .gl)
    (hr : (s.rs f.b + f.disp.signExtend 64).toNat % 8 = 0 ∧ (s.rs f.b + f.disp.signExtend 64).toNat + 8 * (f.nwm1.toNat + 1) ≤ 2 ^ 48)
    (hts : List.Forall₂ (fun r t => s.Reaches r.ga .read true t)
      (Run.parts ⟨s.rs f.b + f.disp.signExtend 64, la (s.rs f.a), 8 * (f.nwm1.toNat + 1)⟩) ts) :
    exec (.cpy f) s = s.copyNow (s.copyCmd (.gl
      (segsOf ((Run.parts ⟨s.rs f.b + f.disp.signExtend 64, la (s.rs f.a), 8 * (f.nwm1.toNat + 1)⟩).zip ts))
      (if f.tf then [(la (s.rs f.a), 8 * (f.nwm1.toNat + 1))] else []) f.inv) (s.clampFlags f.aq f.rl f.scope).1 f.aq f.rl false
      [(la (s.rs f.a), 8 * (f.nwm1.toNat + 1))]) (s.clampFlags f.aq f.rl f.scope).2 12 := by
  refine (if_neg (not_not.2 ha)).trans ?_
  rw [hdir]
  exact copyChecks_one (bad_false hr.1 hr.2 (Nat.mul_ne_zero (by decide) (Nat.succ_ne_zero _))) ho hts _

theorem exec_cpy_lg (hdir : f.dir = .lg)
    (hr : (s.rs f.b + f.disp.signExtend 64).toNat % 8 = 0 ∧ (s.rs f.b + f.disp.signExtend 64).toNat + 8 * (f.nwm1.toNat + 1) ≤ 2 ^ 48)
    (hts : List.Forall₂ (fun r t => s.Reaches r.ga .write false t)
      (Run.parts ⟨s.rs f.b + f.disp.signExtend 64, la (s.rs f.a), 8 * (f.nwm1.toNat + 1)⟩) ts) :
    exec (.cpy f) s = s.copyLater (s.copyCmd (.lg
      (segsOf ((Run.parts ⟨s.rs f.b + f.disp.signExtend 64, la (s.rs f.a), 8 * (f.nwm1.toNat + 1)⟩).zip ts)))
      (s.clampFlags f.aq f.rl f.scope).1 f.aq f.rl false
      [(la (s.rs f.a), 8 * (f.nwm1.toNat + 1))]) (s.clampFlags f.aq f.rl f.scope).2 12 := by
  refine (if_neg (not_not.2 ha)).trans ?_
  rw [hdir]
  exact copyChecks_one (bad_false hr.1 hr.2 (Nat.mul_ne_zero (by decide) (Nat.succ_ne_zero _))) ho hts _

theorem exec_cpy_lr (hdir : f.dir = .lr) (hd : la (s.rs f.d) % 8 = 0) (hname : s.nameCore s.focus (s.rs f.b) ≠ .refused)
    (hself : s.nameCore s.focus (s.rs f.b) = .self → s.mayReach (la (s.rs f.d)) (8 * (f.nwm1.toNat + 1)) = true) :
    exec (.cpy f) s = s.copyLater (s.copyCmd
      (.lr (s.rs f.b).toNat (la (s.rs f.d)) (la (s.rs f.a)) (8 * (f.nwm1.toNat + 1)) f.tf [])
      (s.clampFlags f.aq f.rl f.scope).1 f.aq f.rl false ((la (s.rs f.a), 8 * (f.nwm1.toNat + 1)) ::
        if s.nameCore s.focus (s.rs f.b) = .self then [(la (s.rs f.d), 8 * (f.nwm1.toNat + 1))] else []))
      (s.clampFlags f.aq f.rl f.scope).2 12 := by
  refine (if_neg (not_not.2 ha)).trans ?_
  rw [hdir]
  have hown : ¬ (s.nameCore s.focus (s.rs f.b) = .self ∧ (!s.mayReach (la (s.rs f.d)) (8 * (f.nwm1.toNat + 1))) = true) :=
    fun ⟨h1, h2⟩ => by rw [hself h1] at h2; exact absurd h2 (by decide)
  exact (if_neg (not_not.2 hd)).trans ((if_neg (by rw [ho]; decide)).trans ((if_neg hown).trans (if_neg hname)))

theorem exec_cpy_ll (hdir : f.dir = .ll) (hb : la (s.rs f.b) % 8 = 0)
    (hown : s.mayReach (la (s.rs f.b)) (8 * (f.nwm1.toNat + 1)) = true) :
    exec (.cpy f) s = s.copyNow (s.copyCmd (.ll (la (s.rs f.b)) (la (s.rs f.a)) (8 * (f.nwm1.toNat + 1)) f.tf [])
      (s.clampFlags f.aq f.rl f.scope).1 false false false
      [(la (s.rs f.a), 8 * (f.nwm1.toNat + 1)), (la (s.rs f.b), 8 * (f.nwm1.toNat + 1))]) false 12 := by
  refine (if_neg (not_not.2 ha)).trans ?_
  rw [hdir]
  exact (if_neg (not_not.2 hb)).trans ((if_neg (by rw [ho]; decide)).trans (if_neg (by rw [hown]; decide)))

end

/-! ## SEND (R162 to R165) -/

/-- The command of a SEND of the firing of actor x. -/
def State.sendCmd (s : State) (f : SendF) (x : ActorId) (last : Bool) : TileCmd :=
  let p := (s.actor x).outPort f.k.toNat
  let size := 64 * 2 ^ p.dsize.toNat
  ⟨.send (la (s.rs f.a)) f.k.toNat (if f.len = 0 then size else f.len.toNat) size p.name p.dport.toNat, .queued,
    (s.clampFlags f.aq f.rl f.scope).1, f.aq, f.rl, s.who, s.ctx, last⟩

/-- A SEND has begun: its bead is in transit and SENT has risen. -/
def State.sendBegun (s : State) (x : ActorId) (k bead sl : Nat) : State :=
  { s with core := s.core.setBead bead (.transit sl) }.modActor x fun r =>
    r.setOut k { r.outPort k with sent := (r.outPort k).sent + 1 }

/-- A SEND of a firing that meets no fault goes on with its command (R163). -/
theorem sendFaults_ok {s : State} {f : SendF} {x : ActorId} (hx : s.core.actor? = some x) (ha : la (s.rs f.a) % 512 = 0)
    (ho : s.mayReach (la (s.rs f.a)) 512 = true) (hring : (s.actor x).ringBead (beadOf (la (s.rs f.a))) = false)
    (hen : ((s.actor x).outPort f.k.toNat).en = true)
    (hlen : (if f.len = 0 then 64 * 2 ^ ((s.actor x).outPort f.k.toNat).dsize.toNat else f.len.toNat)
      ≤ 64 * 2 ^ ((s.actor x).outPort f.k.toNat).dsize.toNat)
    (hrate : ((s.actor x).outPort f.k.toNat).sent ≠ ((s.actor x).outPort f.k.toNat).ratem1.toNat + 1) (last : Bool) (k : TileCmd → Res) :
    s.sendFaults f last k = k (s.sendCmd f x last) := by
  unfold State.sendFaults
  rw [hx]
  refine (if_neg (not_not.2 ha)).trans ((if_neg (by rw [ho]; decide)).trans ((if_neg ?_).trans (if_neg ?_)))
  · exact fun h => absurd (hring.symm.trans h) (by decide)
  · rintro (h | h | h)
    · exact absurd (hen.symm.trans h) (by decide)
    · exact absurd h (Nat.not_lt.2 hlen)
    · exact hrate h

theorem beginSend_firing {s u : State} {x : ActorId} {sl : Nat} (hrun : u.core.run = .firing sl) (hx : (u.core.slotAt sl).actor = some x)
    (f : SendF) (last : Bool) :
    u.beginSend (s.sendCmd f x last) = u.sendBegun x f.k.toNat (beadOf (la (s.rs f.a))) sl := by
  have hslot : u.core.slot? = some sl := by rw [Core.slot?, hrun]
  unfold State.beginSend State.sendCmd
  simp only [actor?_of_firing hrun hx, State.onCore, hslot, Option.getD_some]
  rfl

/-- What a commit of the open region leaves of its core. -/
theorem closeRegion_focus (s : State) : s.closeRegion.focus = s.focus := by
  unfold State.closeRegion State.commit
  rw [modCore_focus]
  split <;> rfl
theorem closeRegion_run (s : State) : s.closeRegion.core.run = s.core.run := by
  unfold State.closeRegion State.commit
  rw [modCore_focus]
  split <;> rfl
theorem closeRegion_slots (s : State) : s.closeRegion.core.slots = s.core.slots := by
  unfold State.closeRegion State.commit
  rw [modCore_focus]
  split <;> rfl

theorem buffered_run (s : State) (es : List Entry) : (s.buffered es).core.run = s.core.run := by
  unfold State.buffered
  split <;> rfl
theorem buffered_slots (s : State) (es : List Entry) : (s.buffered es).core.slots = s.core.slots := by
  unfold State.buffered
  split <;> rfl

section
variable {s : State} {f : SendF} {x : ActorId} {sl : Nat} (hrun : s.core.run = .firing sl) (hx : (s.core.slotAt sl).actor = some x)
  (hfaults : ∀ last k, s.sendFaults f last k = k (s.sendCmd f x last))
include hfaults

theorem exec_send_busy (hb : s.beadBusy s.focus (beadOf (la (s.rs f.a))) = true) : exec (.send f) s = .next s := by
  show execSend f s = _
  unfold execSend State.sendChecks
  exact (hfaults false _).trans (if_pos hb)

theorem exec_sendLast_busy (hlast : s.lastSend = .none) (hrep : s.core.rep = none)
    (hb : s.closeRegion.beadBusy s.focus (beadOf (la (s.rs f.a))) = true) : exec (.sendLast f) s = .next s.closeRegion := by
  have hcommit : ¬ (!s.core.canCommit) = true := by rw [Core.canCommit, hrep]; decide
  show execSendLast f s = _
  unfold execSendLast
  rw [hlast]
  exact (hfaults true _).trans ((if_neg hcommit).trans (if_pos (by rw [closeRegion_focus]; exact hb)))

include hrun hx

theorem exec_send_free (hb : s.beadBusy s.focus (beadOf (la (s.rs f.a))) = false) (hroom : s.room 1 = .ok) :
    exec (.send f) s = .next ((((s.buffered [⟨.send (s.sendCmd f x false), none, s.who, s.ctx⟩]).sendBegun x f.k.toNat
      (beadOf (la (s.rs f.a))) sl).flagged (if (s.clampFlags f.aq f.rl f.scope).2 then flagSC else 0)).atPc (laFrom s.core.pc 12)) := by
  show execSend f s = _
  unfold execSend State.sendChecks
  refine (hfaults false _).trans ((if_neg (by rw [hb]; decide)).trans ?_)
  beta_reduce
  rw [withEntries_ok (by exact hroom), beginSend_firing ((buffered_run s _).trans hrun)
    (by rw [Core.slotAt, buffered_slots]; exact hx), done_eq, clamped_eq, ← buffered_pc s]
  rfl

theorem exec_sendLast_free (hlast : s.lastSend = .none) (hrep : s.core.rep = none)
    (hb : s.closeRegion.beadBusy s.focus (beadOf (la (s.rs f.a))) = false) :
    exec (.sendLast f) s = .next ((s.closeRegion.sendBegun x f.k.toNat (beadOf (la (s.rs f.a))) sl).onCore fun k =>
      { k with committed := k.committed ++ [s.closeRegion.entry (.send (s.sendCmd f x true)) none] }) := by
  have hcommit : ¬ (!s.core.canCommit) = true := by rw [Core.canCommit, hrep]; decide
  show execSendLast f s = _
  unfold execSendLast
  rw [hlast]
  refine (hfaults true _).trans ((if_neg hcommit).trans ((if_neg ?_).trans ?_))
  · rw [closeRegion_focus, hb]
    decide
  · rw [beginSend_firing ((closeRegion_run s).trans hrun) (by rw [Core.slotAt, closeRegion_slots]; exact hx)]

end

/-- Settles O28: the checks of a command pass, and it enters its queue; a SEND passes its faults and begins. -/
theorem copyAndSendAtIssue : Obligations.CopyAndSendAtIssue := by
  unfold Obligations.CopyAndSendAtIssue
  refine ⟨?copy, ?send⟩
  case copy =>
    intro s f h ts n a b d parts flags sc cmd now later beads inRange rows used bits
    refine ⟨fun ha ho => ⟨fun hr => ⟨?gl, ?lg⟩, ?lr, ?ll⟩, ⟨?_, fun i r => cpy2Rows_row⟩, ?cpy2⟩
    case gl =>
      intro hdir hts hroom
      refine (exec_cpy_gl ha ho hdir hr hts).trans ((copyNow_ok hroom _ _ 12).trans ?_)
      simp only [State.copyCmd, List.flatMap_singleton]
      rfl
    case lg =>
      intro hdir hts hroom
      refine (exec_cpy_lg ha ho hdir hr hts).trans ((copyLater_ok hroom _ _ 12).trans ?_)
      simp only [State.copyCmd, List.flatMap_singleton]
      rfl
    case lr =>
      intro hdir hd hname hself hroom
      refine (exec_cpy_lr ha ho hdir hd hname hself).trans ((copyLater_ok hroom _ _ 12).trans ?_)
      simp only [State.copyCmd, List.flatMap_cons, apply_ite (List.flatMap _), List.flatMap_nil, List.append_nil]
      rfl
    case ll =>
      intro hdir hb hown hroom
      refine (exec_cpy_ll ha ho hdir hb hown).trans ((copyNow_ok hroom _ _ 12).trans ?_)
      simp only [State.copyCmd, List.flatMap_cons, List.flatMap_nil, List.append_nil]
      rfl
    case cpy2 =>
      intro ha hused sc parts
      have hbad : ∀ r ∈ used, r.bad = false := fun r hr =>
        bad_false (hused r hr).1 (hused r hr).2 (by simpa using (List.mem_filter.1 hr).2)
      refine ⟨fun hlg hown hts hroom => ?_, fun hlg hown hts hroom => ?_⟩
      · refine (if_neg (not_not.2 ha)).trans ((if_pos hlg).trans ((copyChecks_ok hbad ?_ hts _).trans
          ((copyLater_ok hroom _ _ 16).trans ?_)))
        · exact List.forall_mem_map.2 hown
        · simp only [State.copyCmd, List.flatMap_map]
          rfl
      · refine (if_neg (not_not.2 ha)).trans ((if_neg (by rw [hlg]; decide)).trans ((copyChecks_ok hbad ?_ hts _).trans
          ((copyNow_ok hroom _ _ 16).trans ?_)))
        · exact List.forall_mem_map.2 hown
        · simp only [State.copyCmd, List.flatMap_map]
          rfl
    · exact (List.length_map ..).trans List.length_range
  case send =>
    intro s f x sl a p size len sc cmd sent hrun hx ha ho hring hen hlen hrate
    have hfaults := sendFaults_ok (actor?_of_firing hrun hx) ha ho hring hen hlen hrate
    refine ⟨exec_send_free hrun hx hfaults, exec_send_busy hfaults, exec_sendLast_busy hfaults,
      fun hlast hrep hb => ⟨_, exec_sendLast_free hrun hx hfaults hlast hrep hb, rfl, _, rfl, rfl, rfl⟩, fun hlast => ?_, fun hlast => ?_⟩
    · show execSendLast f s = _
      rw [execSendLast, hlast]
    · show execSendLast f s = _
      rw [execSendLast, hlast]
      rfl

end Sys2Proof.Machine
end

section
/-!
SUPPORT. The events of the transfer and tile queues (R147 to R163; obligation O29).
-/

namespace Sys2Proof.Machine

/-! ## The transfer queue starts and completes (R35, R147, R158) -/

section
variable {s : State} {id : CoreId} {i : Nat} {x : CopyCmd} (hx : (s.coreAt id).transferQ[i]? = some x)
include hx

/-- The next command starts, with its source read where it reads it at its start. -/
theorem exec_copyCommandStart (hnext : s.transferNext id = some i) : exec (.copyCommandStart id .transfer) s
    = .next (let u := s.setCore id { s.coreAt id with transferQ := (s.coreAt id).transferQ.set i { x with
        kind := if x.readsAtStart then x.kind.readSource (s.coreAt id) x.cpy2 else x.kind, started := true } }
      if x.aq then u.podAcquire id x.scope else u) := by
  show execCopyCommandStart id .transfer s = _
  unfold execCopyCommandStart
  simp only [hnext, hx]
  rfl

variable (hstarted : x.started = true) (hasked : x.asked = none)
include hstarted hasked

/-- A started GL that has all its bytes sets its tags and leaves. -/
theorem exec_glComplete {segs : List Seg} {tags : List (Nat × Nat)} {inv : Bool} {u : State} (hk : x.kind = .gl segs tags inv)
    (hrun : s.glRun id x.ctx inv x.firstSkips (segBytes segs + segs.length + 1) segs = .more u []) :
    exec (.copyCommandComplete id .transfer i) s = .next ((u.modCore id fun c => c.setRanges tags).dropTransfer id i) := by
  show execCopyCommandComplete id .transfer i s = _
  unfold execCopyCommandComplete
  simp only [hx]
  refine (if_neg (by simp [hstarted, hasked])).trans ?_
  simp only [hk, hrun]

/-- A started LG whose bytes have gone leaves once its release is ready. -/
theorem exec_lgComplete {segs : List Seg} {u : State} (hk : x.kind = .lg segs)
    (hrun : s.lgRun id x (segs.length + 1) segs = (u, [])) (hrel : x.rl = true → u.performedBy id true x.scope = true) :
    exec (.copyCommandComplete id .transfer i) s = .next (u.dropTransfer id i) := by
  have hready : True ∧ ((!x.rl) = true ∨ u.performedBy id true x.scope = true) := by
    refine ⟨trivial, ?_⟩
    cases hrl : x.rl with
    | false => exact .inl rfl
    | true => exact .inr (hrel hrl)
  show execCopyCommandComplete id .transfer i s = _
  unfold execCopyCommandComplete
  simp only [hx]
  refine (if_neg (by simp [hstarted, hasked])).trans ?_
  simp only [hk, hrun]
  exact if_pos hready

/-- A started LR writes at another core where that core's windows admit it, and otherwise its issuer ends. -/
theorem exec_lrComplete {core ra a n : Nat} {tf : Bool} {bs : List Byte} {t : CoreId} (hk : x.kind = .lr core ra a n tf bs)
    (hcore : core ≠ s.lciOf id) (ht : s.coreOfLci core = some t) (hne : t ≠ id) :
    exec (.copyCommandComplete id .transfer i) s = .next (if s.admits t permW (s.lciOf id) x.ctx ra n then
      (s.dropTransfer id i).modCore t fun k => (k.store ra bs).setRanges (if tf then [(ra, n)] else [])
      else (s.dropTransfer id i).killIssuer x.who 4) := by
  show execCopyCommandComplete id .transfer i s = _
  unfold execCopyCommandComplete
  simp only [hx]
  refine (if_neg (by simp [hstarted, hasked])).trans ?_
  simp only [hk, if_neg (show ¬ (core = s.lciOf id ∧ id.regions = true) from fun h => hcore h.1), ht, hne, false_or]
  split <;> rfl

/-- A started LL writes the bytes that it read and leaves. -/
theorem exec_llComplete {b a n : Nat} {tf : Bool} {bs : List Byte} (hk : x.kind = .ll b a n tf bs) :
    exec (.copyCommandComplete id .transfer i) s = .next ((s.modCore id fun k =>
      (k.store b bs).setRanges (if tf then [(b, n)] else [])).dropTransfer id i) := by
  show execCopyCommandComplete id .transfer i s = _
  unfold execCopyCommandComplete
  simp only [hx]
  refine (if_neg (by simp [hstarted, hasked])).trans ?_
  simp only [hk]

end

/-! ## What a GL of one line brings (R158) -/

/-- A read by an engine whose bytes nothing pending touches, unpoisoned and uncoded. -/
theorem engineRead_quiet {s : State} {die pa n : Nat} (hn : n ≤ 128 - pa % 128) (hpa : pa < hbmEnd) (horder : s.orderAt die = [])
    (hport : (s.port (portOf pa)).queue = []) (hpoison : s.ram.poisoned pa = false) (hcode : s.ram.code (pa / 1024) = 0)
    (skip : Bool) (cmp : BitVec 2) :
    s.engineRead die skip cmp pa n = .ok ((List.range n).map fun j => Sparse.get 0 s.ram.bytes (pa + j)) := by
  have hsrcs : (List.range n).map (fun i => s.engineSrc die skip (pa + i)) = (List.range n).map fun _ => .memory := by
    refine List.map_congr_left fun i hi => ?_
    have hi := List.mem_range.1 hi
    unfold State.engineSrc
    rw [horder, portOf_of_block (show (pa + i) / 1024 = pa / 1024 by omega), port_line_empty hport]
    cases skip <;> rfl
  have hwait : ((List.range n).map fun _ => ByteSrc.memory).contains .wait = false := by simp
  unfold State.engineRead
  simp only [if_neg (Nat.not_le.2 hpa), hsrcs, hwait, hpoison, Bool.and_false, Bool.false_eq_true, if_false,
    ram_read_uncoded hcode, map_byte_zipIdx]
  congr 1
  apply List.map_congr_left
  intro i hi
  simp [ByteSrc.byte, List.mem_range.1 hi]

/-- A GL whose one segment has its bytes at hand writes them and is at its end. -/
theorem glRun_one {s : State} {id : CoreId} {ctx a n : Nat} {inv skip : Bool} {t : Target} {bs : List Byte}
    (hread : s.glBytes id ctx inv skip t n = .ok bs) (hlen : bs.length = n) (hn : n ≠ 0) (fuel : Nat) :
    s.glRun id ctx inv skip (fuel + 3) [.mem a t n] = .more ((s.meetRemote id t).modCore id fun c => c.store a bs) [] := by
  have hrest : Seg.rest a t n bs.length = .mem (laAdd a n) { t with place := t.place.plus n } 0 := by
    rw [Seg.rest, hlen, Nat.sub_self]
  rw [State.glRun, if_neg hn, hread]
  dsimp only
  rw [hrest, State.glRun, if_pos rfl, State.glRun]

/-! ## Reservations (R153, R156, R163) -/

section
variable {s : State} {id : CoreId} {i : Nat} {t : TileCmd} {a k n size dport : Nat} {name : DWord}
  (ht : (s.coreAt id).tileQ[i]? = some t) (hk : t.kind = .send a k n size name dport)

section
variable (hi : (s.coreAt id).tileQ.findIdx? (fun t => t.phase == .asking) = some i)
include hi ht hk

/-- The request of a core's first asking SEND, by what its destination is. -/
theorem exec_reservationRequest : exec (.reservationRequest id) s = match s.destOf name dport with
    | .gone r => .next (s.discardSend id i r)
    | .wait => .next s
    | .away d =>
      if !s.peerUp d then .next (s.discardSend id i 10)
      else if t.rl && !s.performed id t.scope then .next s
      else (match s.trySend id.key t.ctx d t.who (.tile id) (.tile name dport ((s.coreAt id).tileBytes a n size)) with
        | (s1, some q) => .next (s1.setTile id i { t with phase := .remote (flowKey id.key d) q })
        | (s1, none) => .next s1)
    | .here x =>
      let p := (s.actor x).inPort dport
      if 0 < p.freeCount then
        .next ((s.modActor x fun r => r.setIn dport (r.inPort dport).reserve).setTile id i
          { t with phase := .granted (s.actor x).core x dport p.next })
      else if p.asks.length < 16 then
        .next ((s.modActor x fun r => r.setIn dport { r.inPort dport with asks := (r.inPort dport).asks ++ [.core id] }).setTile
          id i { t with phase := .waiting x dport })
      else .next (s.setTile id i { t with phase := .returned }) := by
  show execReservationRequest id s = _
  unfold execReservationRequest
  simp only [hi, ht, hk] <;> rfl

end

/-! ## The end of a SEND -/

/-- Landing a bead leaves the scratchpad, and gives a bead in transit back to its slot. -/
theorem landBead_mem (c : Core) (b : Nat) : (c.landBead b).mem = c.mem := by
  unfold Core.landBead
  split <;> rfl
theorem landBead_tileQ (c : Core) (b : Nat) : (c.landBead b).tileQ = c.tileQ := by
  unfold Core.landBead
  split <;> rfl
theorem landBead_bead {c : Core} {b sl : Nat} (h : c.bead b = .transit sl) : (c.landBead b).bead b = .owned sl := by
  have hx : ¬ 512 * b < c.xbound.toNat := fun hlt => by
    rw [Core.bead, if_pos hlt] at h
    exact Bead.noConfusion h
  rw [Core.bead, if_neg hx] at h
  unfold Core.landBead
  simp only [h, Core.bead, if_neg hx, Sparse.get_set_self]

/-- A change of a core that leaves its scratchpad leaves that of the running core. -/
theorem modCore_mem (s : State) (id : CoreId) {f : Core → Core} (h : ∀ c, (f c).mem = c.mem) :
    (s.modCore id f).core.mem = s.core.mem := by
  by_cases hid : id = s.focus
  · subst hid
    rw [modCore_focus]
    exact h s.core
  · rw [State.modCore, State.setCore, if_neg hid]

include ht hk

/-- A SEND that is complete gives its bead back, and leaves its queue unless its sender waits for it (R163, R165). -/
theorem endTile_send : s.endTile id i = s.modCore id fun c => { c.landBead (beadOf a) with
    tileQ := if t.last && (s.alive t.who).isSome then c.tileQ.set i { t with phase := .done } else c.tileQ.eraseIdx i } := by
  unfold State.endTile
  rw [ht]
  simp only [hk]
  rfl

/-- A SEND that is discarded tells its sender (R156). -/
theorem discardSend_actor {x : ActorId} (hx : t.who.actor = some x) (r : Nat) : s.discardSend id i r =
    (s.endTile id i).onActs fun m => { m with
      mail := m.mail ++ [.exit (s.nameWith x t.who.gen) name r 0 none false id.key .core] } := by
  have hname : s.issuerName t.who = some (s.nameWith x t.who.gen) := by rw [State.issuerName, hx]; rfl
  unfold State.discardSend
  rw [ht]
  simp only [hk, hname]

theorem discardSend_none (hx : t.who.actor = none) (r : Nat) : s.discardSend id i r = s.endTile id i := by
  have hname : s.issuerName t.who = none := by rw [State.issuerName, hx]; rfl
  unfold State.discardSend
  rw [ht]
  simp only [hk, hname]

/-- What the end of a discarded SEND is to its core: that of every SEND. -/
theorem discardSend_coreAt (r : Nat) (other : CoreId) : (s.discardSend id i r).coreAt other = (s.endTile id i).coreAt other := by
  cases hx : t.who.actor with
  | none => rw [discardSend_none ht hk hx]
  | some x => rw [discardSend_actor ht hk hx]; rfl
theorem discardSend_core (r : Nat) : (s.discardSend id i r).core = (s.endTile id i).core := by
  cases hx : t.who.actor with
  | none => rw [discardSend_none ht hk hx]
  | some x => rw [discardSend_actor ht hk hx]; rfl

end

/-- Settles O29: each event of the two queues in the case that its premises name. -/
theorem copyEvents : Obligations.CopyEvents := by
  unfold Obligations.CopyEvents
  refine ⟨?transfer, ?line, ?tile⟩
  case transfer =>
    intro s id i x c acq
    refine ⟨fun hx => ⟨fun hnext kind hkind => ?start, fun hstarted hasked => ⟨?gl, ?lg, ?lr, ?ll⟩⟩, rfl, ?lrDrain, ?lgDrain, ?tileStart⟩
    case start =>
      have hread : (if x.readsAtStart then x.kind.readSource (s.coreAt id) x.cpy2 else x.kind) = kind := by
        revert hkind
        unfold CopyCmd.readsAtStart
        cases hk : x.kind <;> cases x.aq <;> exact fun h => h.symm
      exact (exec_copyCommandStart hx hnext).trans (by rw [hread])
    case gl => exact fun segs tags inv u hk hrun => exec_glComplete hx hstarted hasked hk hrun
    case lg => exact fun segs u hk hrun hrel => exec_lgComplete hx hstarted hasked hk hrun hrel
    case lr =>
      intro core ra a n tf bs t hk hcore ht u
      exact ⟨fun hne hadmit => (exec_lrComplete hx hstarted hasked hk hcore ht hne).trans (by rw [if_pos hadmit]; rfl),
        fun hne hno => (exec_lrComplete hx hstarted hasked hk hcore ht hne).trans (by rw [hno]; rfl)⟩
    case ll => exact fun b a n tf bs hk => exec_llComplete hx hstarted hasked hk
    case lrDrain =>
      intro t ra a n tf bs haq hk
      rw [CopyCmd.readsAtStart, haq, hk]
      exact ⟨rfl, rfl⟩
    case lgDrain =>
      intro segs haq hk
      rw [CopyCmd.readsAtStart, haq, hk]
      exact ⟨rfl, rfl⟩
    case tileStart =>
      intro y hy hnext hkind
      show execCopyCommandStart id .tile s = _
      unfold execCopyCommandStart
      simp only [hnext, show (s.coreAt id).tileQ[i]? = some y from hy]
      cases hk : y.kind with
      | send la k len size name dport => rfl
      | mcast la k bytes serial => exact absurd hk (hkind la k bytes serial)
  case line =>
    intro s id a pa n ctx skip t ht hpos hline hend horder hport hpoison hcode
    obtain ⟨m, rfl⟩ := Nat.exists_eq_succ_of_ne_zero hpos.ne'
    have hlen : (memRead s.ram.bytes pa (m + 1)).length = m + 1 := by rw [memRead_eq, List.length_map, List.length_range]
    have hread : s.glBytes id ctx false skip t (m + 1) = .ok (memRead s.ram.bytes pa (m + 1)) := by
      unfold State.glBytes
      simp only [ht, if_neg (show ¬ hbmEnd ≤ pa by omega), Nat.min_eq_left hline, memRead_eq]
      exact engineRead_quiet hline (show pa < hbmEnd by omega) horder hport hpoison hcode skip t.cmp
    have hmeet : s.meetRemote id t = s := by rw [State.meetRemote, ht]
    refine ⟨s.modCore id fun c => c.store a (memRead s.ram.bytes pa (m + 1)), ?_, ?_, fun j hj => ?_, fun q hq => ?_⟩
    · exact (glRun_one hread hlen (Nat.succ_ne_zero m) m).trans (by rw [hmeet])
    · rw [coreAt_modCore]
      rfl
    · rw [coreAt_modCore]
      refine (padWrite_get_in _ a _ (hlen.symm ▸ hj) (by omega)).trans ?_
      simp [memRead_eq, hj]
    · rw [coreAt_modCore]
      exact padWrite_get_out _ a _ fun j hj => hq j (by rwa [hlen] at hj)
  case tile =>
    intro s id i t a k n size dport name c bytes put ht hk
    refine ⟨fun hi => ?request, fun r => ?discard, rfl, fun home x port j hnext hphase hpend => ?publish⟩
    case request =>
      have hrequest := exec_reservationRequest ht hk hi
      refine ⟨fun x hd => ⟨fun hfree => ?_, fun hfull hasks => ?_, fun hfull hasks => ?_⟩, fun r hd => ?_, fun hd => ?_,
        fun d u q hd hup hrel hsend => ?_⟩
      · rw [hrequest, hd]
        exact if_pos hfree
      · rw [hrequest, hd]
        exact (if_neg (by omega)).trans (if_pos hasks)
      · rw [hrequest, hd]
        exact (if_neg (by omega)).trans (if_neg (by omega))
      · rw [hrequest, hd]
      · rw [hrequest, hd]
      · rw [hrequest, hd]
        refine (if_neg (by rw [hup]; decide)).trans ((if_neg ?_).trans ?_)
        · cases hrl : t.rl with
          | false => exact Bool.false_ne_true
          | true => rw [hrel hrl]; decide
        · rw [show (s.coreAt id).tileBytes a n size = bytes from rfl, hsend]
          rfl
    case discard =>
      intro u
      have hcore : (u.coreAt id) = { (s.coreAt id).landBead (beadOf a) with
          tileQ := if t.last && (s.alive t.who).isSome then c.tileQ.set i { t with phase := .done } else c.tileQ.eraseIdx i } := by
        rw [discardSend_coreAt ht hk, endTile_send ht hk, coreAt_modCore]
      refine ⟨?_, fun sl hsl => ?_, fun h => ?_, fun hlast halive => ?_, fun x hx => ?_, fun hx => ?_⟩
      · rw [discardSend_core ht hk, endTile_send ht hk]
        exact modCore_mem s id fun c => landBead_mem c _
      · rw [hcore]
        exact landBead_bead hsl
      · rw [hcore]
        refine if_neg ?_
        rcases h with h | h <;> simp [h]
      · rw [hcore]
        exact if_pos (by simp [hlast, Option.isSome_iff_ne_none.2 halive])
      · rw [show u = _ from discardSend_actor ht hk hx r, endTile_send ht hk]
        simp [State.onActs]
      · rw [show u = _ from discardSend_none ht hk hx r, endTile_send ht hk, modCore_acts]
    case publish =>
      show execSlotPublication id s = _
      unfold execSlotPublication
      simp only [hnext, show (s.coreAt id).tileQ[i]? = some t from ht, hk, hphase]
      exact if_pos hpend

end Sys2Proof.Machine
end

section
/-!
SUPPORT. GETC: the value of every register by its number (R81 to R83; obligation O35).
-/

namespace Sys2Proof.Machine

/-- GETC of a number that the core has a register for, and that is not CYC's. -/
theorem exec_getc_reads {s : State} {num : BitVec 12} {v : DWord} (hp : num.toNat < 0x100 ∨ s.priv ≠ 0) (h5 : num.toNat ≠ 5)
    (h : s.readCr num.toNat = some v) (d : SReg) : exec (.getc d num) s = .next (s.afterS d v 8) := by
  have hnot : ¬ num = 5 := fun e => h5 (by rw [e]; rfl)
  show execGetc d num s = _
  unfold execGetc
  simp only [if_neg (show ¬ (0x100 ≤ num.toNat ∧ s.priv = 0) by omega), if_neg hnot, h]
  rfl

/-- GETC of a number that the core has no register for (R83). -/
theorem exec_getc_illegal {s : State} {num : BitVec 12} (hp : num.toNat < 0x100 ∨ s.priv ≠ 0) (h5 : num.toNat ≠ 5)
    (h : s.readCr num.toNat = none) (d : SReg) : exec (.getc d num) s = .next (s.fatal 0x42 2 0) := by
  have hnot : ¬ num = 5 := fun e => h5 (by rw [e]; rfl)
  show execGetc d num s = _
  unfold execGetc
  simp only [if_neg (show ¬ (0x100 ≤ num.toNat ∧ s.priv = 0) by omega), if_neg hnot, h]
  rfl

/-- CYC goes on by at least a cycle, and is then read (R19). -/
theorem exec_getc_cyc (s : State) (d : SReg) : ∃ k, k < 2 ^ 16 ∧ let later := s.core.cyc + 1 + k
    exec (.getc d 5) s = .next ({ s with core := { s.core with cyc := later } }.afterS d later 8) := by
  refine ⟨Config.freeWord s.tick % 65536, ?_, rfl⟩
  show (Config.freeWord s.tick % 65536).toNat < 65536
  rw [BitVec.toNat_umod]
  exact Nat.mod_lt _ (by decide)

theorem exec_getc_unprivileged {s : State} {num : BitVec 12} (hn : 0x100 ≤ num.toNat) (hp : s.priv = 0) (d : SReg) :
    exec (.getc d num) s = .next (s.fatal 0x30 2 0) := if_pos ⟨hn, hp⟩

/-- TSW by its fields (Table 03.3). -/
theorem tswWord_eq (t : Tsw) : t.word = dw ((if t.apb then 2 ^ 0 else 0) + (if t.it then 2 ^ 1 else 0) + (if t.sf then 2 ^ 2 else 0)
    + (if t.rp then 2 ^ 3 else 0) + 2 ^ 4 * t.priv.toNat + 2 ^ 8 * t.cpri.toNat + (if t.ov then 2 ^ 10 else 0)
    + 2 ^ 11 * t.ovp.toNat) := by
  have hbit (b : Bool) (n : Nat) : (if b then 2 ^ n else 0) = 2 ^ n * b.toNat := by cases b <;> simp
  rw [Tsw.word]
  simp only [hbit]
  congr 1
  omega

/-- MISSB with no miss message (R334). -/
theorem exec_getcMissb_empty {s : State} {k : Nat} (hf : s.focus = .transl k) (hp : s.priv ≠ 0) (hq : (s.transQ k).queue = [])
    (d : SReg) : exec (.getcMissb d) s = .next (s.afterS d 0 8) := by
  show execGetcMissb d s = _
  unfold execGetcMissb
  simp only [if_neg hp, hf, hq]
  rfl

/-- MISSB takes the oldest miss message and latches its first word (R334). -/
theorem exec_getcMissb_takes {s : State} {k : Nat} {m : Miss} {rest : List Miss} (hf : s.focus = .transl k) (hp : s.priv ≠ 0)
    (hq : (s.transQ k).queue = m :: rest) (d : SReg) : exec (.getcMissb d) s
      = .next ((s.setTransQ k ⟨rest, (s.transQ k).taken ++ [m], missaWord m⟩).afterS d (missbWord m) 8) := by
  show execGetcMissb d s = _
  unfold execGetcMissb
  simp only [if_neg hp, hf, hq]
  rfl

/-- A strand entry of a work core's router, read by its number (Table 04.5). -/
theorem readCr_strandAt {s : State} {p : Nat} (hf : s.focus = .work p) (k : BitVec 4) :
    s.readCr (0x110 + k.toNat) = some (s.strandAt (.router p) k.toNat) := by
  have hcore : s.coreAt (.work p) = s.core := by rw [← hf, coreAt_focus]
  have hk := k.isLt
  generalize k.toNat = n at hk ⊢
  interval_cases n <;> simp [State.readCr, State.strandAt, hf, hcore]

/-- Settles O35, number by number. -/
theorem readingControlRegisters : Obligations.ReadingControlRegisters := by
  unfold Obligations.ReadingControlRegisters
  intro s d num v c x bit low reads
  refine ⟨?low, exec_getc_cyc s d, fun hn hp => ⟨exec_getc_unprivileged hn hp d, if_pos hp⟩, fun hp => ⟨?work, ?transl, ?service⟩,
    ?unassigned⟩
  case low =>
    have hnum : ∀ r ∈ low, r.1 < 0x100 ∧ r.1 ≠ 5 := by simp [low]
    have hread : ∀ r ∈ low, s.readCr r.1 = some r.2 := by
      simp only [low, List.forall_mem_cons]
      refine ⟨congrArg some (tswWord_eq c.tsw), ?_⟩
      and_intros
      iterate 32 · rfl
      exact fun r hr => absurd hr List.not_mem_nil
    intro r hr hn
    obtain ⟨hlt, h5⟩ := hnum r hr
    have hv := hread r hr
    rw [hn] at hlt h5 hv
    exact exec_getc_reads (.inl hlt) h5 hv d
  case work =>
    intro p hf
    have hread {n : BitVec 12} {v : DWord} (h5 : n.toNat ≠ 5) (h : s.readCr n.toNat = some v) : reads n v :=
      exec_getc_reads (.inr hp) h5 h d
    refine ⟨hread (by decide) ?_, hread (by decide) ?_, hread (by decide) ?_, hread (by decide) ?_, fun k => ?_⟩
    iterate 4 simp [State.readCr, hf]; try rfl
    have hnum : (0x110 + k.zeroExtend 12 : BitVec 12).toNat = 0x110 + k.toNat := by bv_omega
    exact hread (by omega) (by rw [hnum, readCr_strandAt hf])
  case transl =>
    intro k hf
    refine ⟨exec_getc_reads (.inr hp) (by decide) ?_ d, exec_getc_reads (.inr hp) (by decide) ?_ d, 
      fun hq => exec_getcMissb_empty hf hp hq d, fun m rest hq => exec_getcMissb_takes hf hp hq d⟩
    iterate 2 simp [State.readCr, hf]
  case service =>
    intro p hf
    refine ⟨exec_getc_reads (.inr hp) (by decide) ?_ d, exec_getc_reads (.inr hp) (by decide) ?_ d,
      exec_getc_reads (.inr hp) (by decide) ?_ d, exec_getc_reads (.inr hp) (by decide) ?_ d⟩
    iterate 4 simp [State.readCr, hf]
  case unassigned =>
    intro hn
    simp only [List.mem_cons, List.not_mem_nil, or_false] at hn
    refine exec_getc_illegal (.inl (by omega)) (by omega) ?_ d
    rcases hn with hn | hn | hn | hn | hn <;> rw [hn] <;> cases hf : s.focus <;> simp [State.readCr, hf]

end Sys2Proof.Machine
end

section
/-!
SUPPORT. The state that reset leaves (obligation O53).
-/

namespace Sys2Proof.Machine

/-- Every core after reset is a reset core of a device with no position fused off. -/
theorem coreAt_reset (id : CoreId) : State.reset.coreAt id = Core.reset [] id := by
  unfold State.coreAt
  split
  · rename_i h
    rw [h]
    rfl
  · rfl

theorem ctxLive_reset_zero : State.reset.ctxLive 0 = true := by decide

/-- No context but the root monitor's has a control block after reset. -/
theorem ctxLive_reset {x : Nat} (hx : 0 < x) : State.reset.ctxLive x = false := by
  have hccb : Sparse.get [] State.reset.ctxs.ccb x = [] := if_neg (by omega)
  have hword : State.reset.ccbWord x 0 = 0 := by rw [State.ccbWord, hccb]; rfl
  rw [State.ctxLive, State.ctxState, hword]
  rfl

/-- Settles O53: the reset core's own values, and the empty tables of the reset device. -/
theorem resetState : Obligations.ResetState := by
  unfold Obligations.ResetState
  refine ⟨fun id => ?_, rfl, rfl, rfl, rfl, rfl, rfl, rfl, fun x => ctxLive_reset, ctxLive_reset_zero, fun _ => rfl,
    fun _ => rfl, fun _ => rfl⟩
  rw [coreAt_reset]
  refine ⟨rfl, rfl, rfl, rfl, rfl, rfl, rfl, rfl, rfl, rfl, rfl, rfl, rfl, rfl, rfl, rfl, rfl, rfl, ?_, ?_, ?_⟩
  · rintro p rfl
    rfl
  · rintro p rfl
    rfl
  · rintro rfl
    rfl

end Sys2Proof.Machine
end

section
/-!
SUPPORT. The decoder inverts the encoder (R60 to R71; obligation O52): the fields of a packed word, the words of each shape, and the
codes of the field kinds.
-/

namespace Sys2Proof

/-! ### Fields of words -/

/-- A field of a word is the same digits of the number it is made of. -/
theorem fld_w32 {n lo : Nat} (h : lo + n ≤ 32) {N : Nat} {x : BitVec n} (hx : N / 2 ^ lo % 2 ^ n = x.toNat) : fld n lo (w32 N) = x := by
  refine BitVec.eq_of_getLsbD_eq fun i hi => ?_
  have hbit : N.testBit (lo + i) = x.getLsbD i := by
    rw [← BitVec.testBit_toNat, ← hx, Nat.testBit_mod_two_pow, Nat.testBit_div_two_pow, decide_eq_true hi, Bool.true_and, Nat.add_comm]
  have hlt : lo + i < 32 := by omega
  rw [fld, w32, BitVec.getLsbD_ofNat, Nat.testBit_div_two_pow, BitVec.testBit_toNat, BitVec.getLsbD_ofNat, Nat.add_comm i lo, hbit]
  simp [hi, hlt]

/-- A bit of a word is the same digit of the number it is made of. -/
theorem bit_w32 {i : Nat} (h : i < 32) {N : Nat} {b : Bool} (hb : N / 2 ^ i % 2 = b.toNat) : bit i (w32 N) = b := by
  have : fld 1 i (w32 N) = BitVec.ofBool b := fld_w32 (by omega) (by rw [BitVec.toNat_ofBool, ← hb, pow_one])
  have hbit := congrArg (BitVec.getLsbD · 0) this
  simp only [fld, BitVec.getLsbD_ofNat, Nat.testBit_div_two_pow, BitVec.testBit_toNat] at hbit
  simpa [bit] using hbit

/-- Word 0 keeps each of its fields (R61). -/
theorem unpack_pack (h : Head) : Head.unpack h.pack = h := by
  obtain ⟨f, g, b, a, d, op, p, len⟩ := h
  have hf := f.isLt; have hg := g.isLt; have hb := b.isLt; have ha := a.isLt
  have hd := d.isLt; have ho := op.isLt; have hl := len.isLt; have hp := Bool.toNat_lt p
  simp only [Head.unpack, Head.pack, Head.mk.injEq]
  refine ⟨fld_w32 (by omega) ?_, fld_w32 (by omega) ?_, fld_w32 (by omega) ?_, fld_w32 (by omega) ?_, fld_w32 (by omega) ?_,
    fld_w32 (by omega) ?_, bit_w32 (by omega) ?_, fld_w32 (by omega) ?_⟩ <;> omega

theorem fld_word5 (c : BitVec 5) : fld 5 0 (word5 c) = c := fld_w32 (by omega) (by have := c.isLt; omega)

/-! ### Field codes -/

theorem Fmt.ofCode_code (x : Fmt) : Fmt.ofCode x.code = some x := by cases x <;> rfl
theorem Rnd.ofCode_code (x : Rnd) : Rnd.ofCode x.code = some x := by cases x <;> rfl
theorem Cond.ofCode_code (x : Cond) : Cond.ofCode x.code = some x := by cases x <;> rfl
theorem Scope.ofCode_code (x : Scope) : Scope.ofCode x.code = some x := by cases x <;> rfl
theorem LdW.ofCode_code (x : LdW) : LdW.ofCode x.code = some x := by cases x <;> rfl
theorem StW.ofCode_code (x : StW) : StW.ofCode x.code = some x := by cases x <;> rfl
theorem ExtKind.ofCode_code (x : ExtKind) : ExtKind.ofCode x.code = some x := by cases x <;> rfl
theorem WaitSel.ofCode_code (x : WaitSel) : WaitSel.ofCode x.code = some x := by cases x <;> rfl
theorem AmoOp.ofCode_code (x : AmoOp) : AmoOp.ofCode x.code = some x := by cases x <;> rfl
theorem RedOp.ofCode_code (x : RedOp) : RedOp.ofCode x.code = some x := by cases x <;> rfl
theorem VCond.ofCode_code (x : VCond) : VCond.ofCode x.code = some x := by cases x <;> rfl
theorem SelKind.ofCode_code (x : SelKind) : SelKind.ofCode x.code = some x := by cases x <;> rfl
theorem CpyDir.ofCode_code (x : CpyDir) : CpyDir.ofCode x.code = some x := by cases x <;> rfl
theorem StatSel.ofCode_code (x : StatSel) : StatSel.ofCode x.code = some x := by cases x <;> rfl
theorem Ord.ofCode_code (x : Ord) : Ord.ofCode x.code = x := by cases x <;> rfl
theorem PageSize.ofCode_code (x : PageSize) : PageSize.ofCode x.code = x := by cases x <;> rfl

theorem lowP_pReg (p : PReg) : lowP (pReg p) = p := by
  simp [lowP, pReg, BitVec.setWidth_setWidth_of_le]
theorem lowK_kReg (k : BitVec 4) : lowK (kReg k) = k := by
  simp [lowK, kReg, BitVec.setWidth_setWidth_of_le]

theorem need_some {α β : Type} {o : Option α} {a : α} (h : o = some a) (k : α → Except DecodeError β) : need o k = k a := by
  rw [h]; rfl

/-! ### The shapes of an encoding -/

/-- The g field of a guarded instruction (R70). -/
def Guard.field : Guard → BitVec 3
  | .plain g => g
  | .pfx .. => 0
/-- P of a guarded instruction (R69). -/
def Guard.prefixed : Guard → Bool
  | .plain _ => false
  | .pfx .. => true
/-- The prefix word of a guarded instruction, where it has one (Table 02.9). -/
def Guard.words : Guard → List Word
  | .plain _ => []
  | .pfx ax d4 rnd z mask => [pfxWord ax d4 rnd z mask]

/-- LEN of an instruction of the words after word 0 (R64). -/
def lenOf (ws : List Word) : BitVec 2 := BitVec.ofNat 2 (ws.length - 1)

theorem mkG_eq (f : BitVec 3) (gd : Guard) (b a d : BitVec 5) (op : BitVec 8) (w : Word) :
    mkG f gd b a d op [w] = Head.pack ⟨f, gd.field, b, a, d, op, gd.prefixed, lenOf (w :: gd.words)⟩ :: w :: gd.words := by
  cases gd <;> rfl

/-- What the encoder wrote and the candidate names is what the words decode to. -/
theorem decode_of_candidate {i : Instr} {f g : BitVec 3} {b a d : BitVec 5} {op : BitVec 8} {p : Bool} {ws : List Word}
    (hi : encode i = Head.pack ⟨f, g, b, a, d, op, p, lenOf ws⟩ :: ws) (hlen : ws.length = 1 ∨ ws.length = 2 ∨ ws.length = 3)
    (hwf : i.wf = true) (hc : candidate ⟨f, g, b, a, d, op, p, lenOf ws⟩ ws = .ok i) : decode (encode i) = .ok i := by
  have hl3 : lenOf ws ≠ 3 := by rcases hlen with h | h | h <;> rw [lenOf, h] <;> decide
  have hrest : ws.length = (lenOf ws).toNat + 1 := by rcases hlen with h | h | h <;> rw [lenOf, h] <;> rfl
  rw [hi, decode, unpack_pack]
  simp only [if_neg hl3, ← hrest, hc, hwf, hi]
  simp

theorem decode_mk {i : Instr} {f g : BitVec 3} {b a d : BitVec 5} {op : BitVec 8} {w : Word} (hi : encode i = mk f g b a d op [w])
    (hwf : i.wf = true) (hc : candidate ⟨f, g, b, a, d, op, false, 0⟩ [w] = .ok i) : decode (encode i) = .ok i :=
  decode_of_candidate hi (.inl rfl) hwf hc

theorem decode_mk2 {i : Instr} {f g : BitVec 3} {b a d : BitVec 5} {op : BitVec 8} {w w' : Word}
    (hi : encode i = mk f g b a d op [w, w']) (hwf : i.wf = true) (hc : candidate ⟨f, g, b, a, d, op, false, 1⟩ [w, w'] = .ok i) :
    decode (encode i) = .ok i :=
  decode_of_candidate hi (.inr (.inl rfl)) hwf hc

theorem decode_mk3 {i : Instr} {f g : BitVec 3} {b a d : BitVec 5} {op : BitVec 8} {w w' w'' : Word}
    (hi : encode i = mk f g b a d op [w, w', w'']) (hwf : i.wf = true)
    (hc : candidate ⟨f, g, b, a, d, op, false, 2⟩ [w, w', w''] = .ok i) : decode (encode i) = .ok i :=
  decode_of_candidate hi (.inr (.inr rfl)) hwf hc

/-- The guard that the words of a guarded instruction hold (R69, R70). -/
theorem guarded_words {β : Type} (f : BitVec 3) (gd : Guard) (b a d : BitVec 5) (op : BitVec 8) (l : BitVec 2) (w : Word)
    (k : Guard → Word → Except DecodeError β) :
    guarded ⟨f, gd.field, b, a, d, op, gd.prefixed, l⟩ (w :: gd.words) k = k gd w := by
  cases gd with
  | plain g => rfl
  | pfx ax d4 rnd z mask =>
    have hm := mask.isLt; have hz := Bool.toNat_lt z; have hr := rnd.code.isLt; have hd := d4.isLt; have hx := Bool.toNat_lt ax
    have hrnd : fld 3 4 (pfxWord ax d4 rnd z mask) = rnd.code := fld_w32 (by omega) (by omega)
    have hax : bit 12 (pfxWord ax d4 rnd z mask) = ax := bit_w32 (by omega) (by omega)
    have hd4 : fld 5 7 (pfxWord ax d4 rnd z mask) = d4 := fld_w32 (by omega) (by omega)
    have hzz : bit 3 (pfxWord ax d4 rnd z mask) = z := bit_w32 (by omega) (by omega)
    have hmask : fld 3 0 (pfxWord ax d4 rnd z mask) = mask := fld_w32 (by omega) (by omega)
    show need (Rnd.ofCode (fld 3 4 (pfxWord ax d4 rnd z mask))) _ = _
    rw [hrnd, need_some (Rnd.ofCode_code rnd), hax, hd4, hzz, hmask]



theorem decode_mkG {i : Instr} {f : BitVec 3} {gd : Guard} {b a d : BitVec 5} {op : BitVec 8} {w : Word}
    (k : Guard → Word → Except DecodeError Instr) (hi : encode i = mkG f gd b a d op [w]) (hwf : i.wf = true)
    (hc : ∀ g p l ws, candidate ⟨f, g, b, a, d, op, p, l⟩ ws = guarded ⟨f, g, b, a, d, op, p, l⟩ ws k) (hk : k gd w = .ok i) :
    decode (encode i) = .ok i :=
  decode_of_candidate (hi.trans (mkG_eq ..)) (by cases gd <;> simp [Guard.words]) hwf
    ((hc ..).trans ((guarded_words ..).trans hk))

/-- A guarded form whose candidate is `form` of its format, guard and word 1. -/
theorem decode_form {i : Instr} {fmt : Fmt} {gd : Guard} {b a d : BitVec 5} {op : BitVec 8} {w : Word}
    (form : Fmt → Guard → Word → Instr) (hi : encode i = mkG fmt.code gd b a d op [w]) (hwf : i.wf = true)
    (hc : ∀ g p l ws, candidate ⟨fmt.code, g, b, a, d, op, p, l⟩ ws = guarded ⟨fmt.code, g, b, a, d, op, p, l⟩ ws
      fun gd w => need (Fmt.ofCode fmt.code) fun fmt => .ok (form fmt gd w))
    (hform : form fmt gd w = i) : decode (encode i) = .ok i :=
  decode_mkG _ hi hwf hc ((need_some fmt.ofCode_code _).trans (congrArg _ hform))


/-! ### Words of several fields -/

theorem joinWords_lo_hi (x : DWord) : joinWords (loWord x) (hiWord x) = x := by
  have hx := x.isLt
  refine BitVec.eq_of_toNat_eq ?_
  simp only [joinWords, loWord, hiWord, w32, BitVec.toNat_ofNat]
  omega

theorem rlOrd_release (rl : Bool) : (rlOrd rl == .release) = rl := by cases rl <;> rfl

/-- OPS and ORD of word 1 of an atomic (Table 09.1), with what a form adds above them. -/
theorem word3_fields (c : SReg) (op : AmoOp) (ord : Ord) (n : Nat) :
    word3 c op ord + w32 (2048 * n) = w32 (c.toNat + 32 * op.code.toNat + 512 * ord.code.toNat + 2048 * n)
    ∧ AmoOp.ofCode (fld 4 5 (word3 c op ord + w32 (2048 * n))) = some op
    ∧ Ord.ofCode (fld 2 9 (word3 c op ord + w32 (2048 * n))) = ord ∧ fld 5 0 (word3 c op ord + w32 (2048 * n)) = c := by
  have hword : word3 c op ord + w32 (2048 * n) = w32 (c.toNat + 32 * op.code.toNat + 512 * ord.code.toNat + 2048 * n) := by
    simp only [word3, w32, BitVec.ofNat_add]
  have hc := c.isLt; have ho := op.code.isLt; have hr := ord.code.isLt
  have hop : fld 4 5 (word3 c op ord + w32 (2048 * n)) = op.code := hword ▸ fld_w32 (by omega) (by omega)
  have hord : fld 2 9 (word3 c op ord + w32 (2048 * n)) = ord.code := hword ▸ fld_w32 (by omega) (by omega)
  exact ⟨hword, hop ▸ op.ofCode_code, hord ▸ ord.ofCode_code, hword ▸ fld_w32 (by omega) (by omega)⟩

theorem word3_plain_fields (c : SReg) (op : AmoOp) (ord : Ord) :
    AmoOp.ofCode (fld 4 5 (word3 c op ord)) = some op ∧ Ord.ofCode (fld 2 9 (word3 c op ord)) = ord ∧ fld 5 0 (word3 c op ord) = c := by
  obtain ⟨-, h⟩ := word3_fields c op ord 0
  rwa [Nat.mul_zero, show word3 c op ord + w32 0 = word3 c op ord from BitVec.add_zero _] at h

theorem redf_fields (op : AmoOp) (rl cnt : Bool) :
    AmoOp.ofCode (fld 4 5 (word3 0 op (rlOrd rl) + w32 (2048 * cnt.toNat))) = some op
    ∧ Ord.ofCode (fld 2 9 (word3 0 op (rlOrd rl) + w32 (2048 * cnt.toNat))) = rlOrd rl
    ∧ bit 11 (word3 0 op (rlOrd rl) + w32 (2048 * cnt.toNat)) = cnt := by
  obtain ⟨hword, hop, hord, -⟩ := word3_fields 0 op (rlOrd rl) cnt.toNat
  have ho := op.code.isLt; have hr := (rlOrd rl).code.isLt; have hn := Bool.toNat_lt cnt; have hz := (0 : SReg).isLt
  exact ⟨hop, hord, hword ▸ bit_w32 (by omega) (by omega)⟩

theorem vred_fields (op : AmoOp) (rl cnt : Bool) (sc : Scope) :
    AmoOp.ofCode (fld 4 5 (word3 0 op (rlOrd rl) + w32 (2048 * cnt.toNat + 4096 * sc.code.toNat))) = some op
    ∧ Ord.ofCode (fld 2 9 (word3 0 op (rlOrd rl) + w32 (2048 * cnt.toNat + 4096 * sc.code.toNat))) = rlOrd rl
    ∧ bit 11 (word3 0 op (rlOrd rl) + w32 (2048 * cnt.toNat + 4096 * sc.code.toNat)) = cnt
    ∧ Scope.ofCode (fld 3 12 (word3 0 op (rlOrd rl) + w32 (2048 * cnt.toNat + 4096 * sc.code.toNat))) = some sc := by
  obtain ⟨hword, hop, hord, -⟩ := word3_fields 0 op (rlOrd rl) (cnt.toNat + 2 * sc.code.toNat)
  rw [show 2048 * (cnt.toNat + 2 * sc.code.toNat) = 2048 * cnt.toNat + 4096 * sc.code.toNat by ring] at hword hop hord
  have ho := op.code.isLt; have hr := (rlOrd rl).code.isLt; have hn := Bool.toNat_lt cnt; have hz := (0 : SReg).isLt
  have hs := sc.code.isLt
  have hsc : fld 3 12 (word3 0 op (rlOrd rl) + w32 (2048 * cnt.toNat + 4096 * sc.code.toNat)) = sc.code :=
    hword ▸ fld_w32 (by omega) (by omega)
  exact ⟨hop, hord, hword ▸ bit_w32 (by omega) (by omega), by rw [hsc, sc.ofCode_code]⟩

/-- CPY's fields are read back from its words (Table 05.3). -/
theorem CpyF.ofFields_word (f : CpyF) (g : BitVec 3) (fc : BitVec 3) (op : BitVec 8) (p : Bool) (l : BitVec 2) :
    CpyF.ofFields ⟨fc, g, f.b, f.a, f.d, op, p, l⟩ f.dir f.scope f.word f.disp = f := by
  obtain ⟨dir, scope, b, a, d, nwm1, aq, rl, dec, tf, inv, disp⟩ := f
  have hn := nwm1.isLt; have h1 := Bool.toNat_lt aq; have h2 := Bool.toNat_lt rl; have h3 := Bool.toNat_lt dec
  have h4 := Bool.toNat_lt tf; have h5 := Bool.toNat_lt inv
  simp only [CpyF.ofFields, CpyF.word, CpyF.mk.injEq, true_and, and_true]
  refine ⟨fld_w32 (by omega) ?_, bit_w32 (by omega) ?_, bit_w32 (by omega) ?_, bit_w32 (by omega) ?_, bit_w32 (by omega) ?_,
    bit_w32 (by omega) ?_⟩ <;> omega

/-- CPY2's fields are read back from its words (Table 05.5). -/
theorem Cpy2F.ofFields_word (f : Cpy2F) (g : BitVec 3) (fc : BitVec 3) (op : BitVec 8) (p : Bool) (l : BitVec 2) :
    Cpy2F.ofFields ⟨fc, g, f.b, f.a, f.d, op, p, l⟩ f.fmt f.scope f.word f.gs (w32 f.ls.toNat) = f := by
  obtain ⟨fmt, scope, b, a, d, rows, rwd, lg, aq, rl, dec, tf, inv, bnd, gs, ls⟩ := f
  have hr := rows.isLt; have hw := rwd.isLt; have hl := ls.isLt; have h0 := Bool.toNat_lt lg; have h1 := Bool.toNat_lt aq
  have h2 := Bool.toNat_lt rl; have h3 := Bool.toNat_lt dec; have h4 := Bool.toNat_lt tf; have h5 := Bool.toNat_lt inv
  have h6 := Bool.toNat_lt bnd
  simp only [Cpy2F.ofFields, Cpy2F.word, Cpy2F.mk.injEq, true_and]
  refine ⟨fld_w32 (by omega) ?_, fld_w32 (by omega) ?_, bit_w32 (by omega) ?_, bit_w32 (by omega) ?_, bit_w32 (by omega) ?_,
    bit_w32 (by omega) ?_, bit_w32 (by omega) ?_, bit_w32 (by omega) ?_, bit_w32 (by omega) ?_, fld_w32 (by omega) ?_⟩ <;> omega

/-- SEND's fields and LAST are read back from its words (R162). -/
theorem SendF.ofFields_word (f : SendF) (last : Bool) (g fc : BitVec 3) (b d : BitVec 5) (op : BitVec 8) (p : Bool) (l : BitVec 2) :
    SendF.ofFields ⟨fc, g, b, f.a, d, op, p, l⟩ f.scope (f.word last) f.len = f ∧ bit 2 (f.word last) = last := by
  obtain ⟨scope, a, k, rl, aq, len⟩ := f
  have hk := k.isLt; have h0 := Bool.toNat_lt last; have h1 := Bool.toNat_lt rl; have h2 := Bool.toNat_lt aq
  simp only [SendF.ofFields, SendF.word, SendF.mk.injEq, true_and, and_true]
  refine ⟨⟨fld_w32 (by omega) ?_, bit_w32 (by omega) ?_, bit_w32 (by omega) ?_⟩, bit_w32 (by omega) ?_⟩ <;> omega

/-- SPAWN's fields are read back from its words (Table 10.2). -/
theorem SpawnF.ofFields_word (f : SpawnF) (g fc : BitVec 3) (op : BitVec 8) (p : Bool) (l : BitVec 2) :
    SpawnF.ofFields ⟨fc, g, f.b, f.a, f.d, op, p, l⟩ f.word f.tag = f := by
  obtain ⟨d, a, b, k, c, lk, mn, all, tag⟩ := f
  have hk := k.isLt; have hc := c.isLt; have h0 := Bool.toNat_lt lk; have h1 := Bool.toNat_lt mn; have h2 := Bool.toNat_lt all
  simp only [SpawnF.ofFields, SpawnF.word, SpawnF.mk.injEq, true_and, and_true]
  refine ⟨fld_w32 (by omega) ?_, fld_w32 (by omega) ?_, bit_w32 (by omega) ?_, bit_w32 (by omega) ?_, bit_w32 (by omega) ?_⟩ <;> omega

/-- MDRAIN's fields are read back from its words (Table 07.5). -/
theorem MdrainF.ofFields_word (f : MdrainF) (g fc : BitVec 3) (op : BitVec 8) (p : Bool) (l : BitVec 2) :
    Rnd.ofCode (fld 3 9 f.word) = some f.rnd
    ∧ MdrainF.ofFields ⟨fc, g, f.b, f.a, kReg f.d, op, p, l⟩ f.fmt f.scope f.rnd f.word = f := by
  obtain ⟨fmt, scope, d, a, b, c, rnd, cn, cl, sc, nm, aq, rl⟩ := f
  have hc := c.isLt; have hr := rnd.code.isLt; have h0 := Bool.toNat_lt cn; have h1 := Bool.toNat_lt cl
  have h2 := Bool.toNat_lt sc; have h3 := Bool.toNat_lt nm; have h4 := Bool.toNat_lt aq; have h5 := Bool.toNat_lt rl
  have hrnd : fld 3 9 (MdrainF.word ⟨fmt, scope, d, a, b, c, rnd, cn, cl, sc, nm, aq, rl⟩) = rnd.code :=
    fld_w32 (by omega) (by dsimp only [MdrainF.word]; omega)
  refine ⟨hrnd ▸ rnd.ofCode_code, ?_⟩
  simp only [MdrainF.ofFields, MdrainF.word, MdrainF.mk.injEq, true_and, lowK_kReg]
  refine ⟨fld_w32 (by omega) ?_, bit_w32 (by omega) ?_, bit_w32 (by omega) ?_, bit_w32 (by omega) ?_, bit_w32 (by omega) ?_,
    bit_w32 (by omega) ?_, bit_w32 (by omega) ?_⟩ <;> omega

/-- Word 1 of a gather or scatter (Table 06.5). -/
theorem gather_fields (loc : Bool) (sh : BitVec 5) :
    bit 10 (w32 (32 * sh.toNat + 1024 * loc.toNat)) = loc ∧ fld 5 5 (w32 (32 * sh.toNat + 1024 * loc.toNat)) = sh := by
  have hs := sh.isLt; have hl := Bool.toNat_lt loc
  exact ⟨bit_w32 (by omega) (by omega), fld_w32 (by omega) (by omega)⟩

/-! ### The round trip -/

/-- AQ and RL of a Bezel operation. -/
theorem order_bits (aq rl : Bool) :
    bit 16 (w32 (65536 * aq.toNat + 131072 * rl.toNat)) = aq ∧ bit 17 (w32 (65536 * aq.toNat + 131072 * rl.toNat)) = rl := by
  have ha := Bool.toNat_lt aq; have hr := Bool.toNat_lt rl
  exact ⟨bit_w32 (by omega) (by omega), bit_w32 (by omega) (by omega)⟩

theorem bit5_flag (x : Bool) : bit 5 (w32 (32 * x.toNat)) = x := bit_w32 (by omega) (by have := Bool.toNat_lt x; omega)

/-- The source of VBCAST is read back from its register and word 1 (Table 06.3). -/
theorem bcast_fields (src : BcastSrc) :
    (if bit 5 src.word then BcastSrc.elem src.reg (fld 7 6 src.word) else .scalar src.reg) = src := by
  cases src with
  | scalar a => with_unfolding_all rfl
  | elem a k =>
    have hk := k.isLt
    have h1 : bit 5 (BcastSrc.elem a k).word = true := bit_w32 (by omega) (by rw [Bool.toNat_true]; omega)
    have h2 : fld 7 6 (BcastSrc.elem a k).word = k := fld_w32 (by omega) (by omega)
    rw [h1, h2]
    rfl

/-- Every well-formed instruction that has an encoding is what its words decode to: the candidate of its opcode reads each field
from where the encoder wrote it. -/
theorem decode_encode {i : Instr} (hwf : i.wf = true) (hne : encode i ≠ []) : decode (encode i) = .ok i := by
  cases i with
  | add w d a b | sub w d a b | mul w d a b | mulh w d a b | mulhn w d a b | div w d a b | divn w d a b | rem w d a b | remn w d a b
  | and w d a b | or w d a b | xor w d a b | andn w d a b | shl w d a b | shr w d a b | sar w d a b | min w d a b | max w d a b
  | minn w d a b | maxn w d a b => exact decode_mk rfl hwf (by cases w <;> with_unfolding_all rfl)
  | addImm w d a imm | subImm w d a imm | mulImm w d a imm | mulhImm w d a imm | mulhnImm w d a imm | divImm w d a imm
  | divnImm w d a imm | remImm w d a imm | remnImm w d a imm | andImm w d a imm | orImm w d a imm | xorImm w d a imm
  | andnImm w d a imm | shlImm w d a imm | shrImm w d a imm | sarImm w d a imm | minImm w d a imm | maxImm w d a imm
  | minnImm w d a imm | maxnImm w d a imm => exact decode_mk rfl hwf (by cases w <;> with_unfolding_all rfl)
  | cmp w cond _ _ _ | cmpImm w cond _ _ _ | br w cond _ _ _ =>
    refine decode_mk rfl hwf (Eq.trans (need_some cond.ofCode_code _) ?_)
    cases w <;> with_unfolding_all rfl
  | bri w cond _ _ _ =>
    refine decode_mk2 rfl hwf (Eq.trans (need_some cond.ofCode_code _) ?_)
    cases w <;> with_unfolding_all rfl
  | clz w _ _ | ctz w _ _ | popc w _ _ => exact decode_mk rfl hwf (by cases w <;> with_unfolding_all rfl)
  | sel d a b c => exact decode_mk rfl hwf (congrArg (fun c => Except.ok (Instr.sel d a b c)) (fld_word5 c))
  | steRem a b c =>
    refine decode_mk rfl hwf (Eq.trans (b := .ok (.steRem a b (fld 5 0 (word5 c)))) (by with_unfolding_all rfl) ?_)
    rw [fld_word5]
  | signalMsg sc a b c =>
    refine decode_mk rfl hwf (Eq.trans (need_some sc.ofCode_code _)
      (Eq.trans (b := .ok (.signalMsg sc a b (fld 5 0 (word5 c)))) (by with_unfolding_all rfl) ?_))
    rw [fld_word5]
  | clwait sc a b c =>
    exact decode_mk rfl hwf (Eq.trans (need_some sc.ofCode_code _) (congrArg (fun c => Except.ok (Instr.clwait sc a b c)) (fld_word5 c)))
  | ctxset a b c => exact decode_mk rfl hwf (congrArg (fun c => Except.ok (Instr.ctxset a b c)) (fld_word5 c))
  | capcall a b c => exact decode_mk rfl hwf (congrArg (fun c => Except.ok (Instr.capcall a b c)) (fld_word5 c))
  | bfx sgn pos lenM1 d a =>
    have hp := pos.isLt; have hl := lenM1.isLt; have hs := Bool.toNat_lt sgn
    have h1 : bit 17 (w32 (32 * pos.toNat + 2048 * lenM1.toNat + 131072 * sgn.toNat)) = sgn := bit_w32 (by omega) (by omega)
    have h2 : fld 6 5 (w32 (32 * pos.toNat + 2048 * lenM1.toNat + 131072 * sgn.toNat)) = pos := fld_w32 (by omega) (by omega)
    have h3 : fld 6 11 (w32 (32 * pos.toNat + 2048 * lenM1.toNat + 131072 * sgn.toNat)) = lenM1 := fld_w32 (by omega) (by omega)
    refine decode_mk rfl hwf (Eq.trans (b := .ok (.bfx (bit 17 _) (fld 6 5 _) (fld 6 11 _) d a)) rfl ?_)
    rw [h1, h2, h3]
  | bfi pos lenM1 d a =>
    have hp := pos.isLt; have hl := lenM1.isLt
    have h1 : fld 6 5 (w32 (32 * pos.toNat + 2048 * lenM1.toNat)) = pos := fld_w32 (by omega) (by omega)
    have h2 : fld 6 11 (w32 (32 * pos.toNat + 2048 * lenM1.toNat)) = lenM1 := fld_w32 (by omega) (by omega)
    refine decode_mk rfl hwf (Eq.trans (b := .ok (.bfi (fld 6 5 _) (fld 6 11 _) d a)) rfl ?_)
    rw [h1, h2]
  | rep nM1 sd sa sb sc count =>
    have hn := nM1.isLt; have hs := sc.isLt; have hc := count.isLt
    have h1 : BitVec.ofNat 4 ((fld 3 0 (w32 nM1.toNat)).toNat + 8 * (fld 3 3 (w32 nM1.toNat)).toNat) = nM1 := by
      refine BitVec.eq_of_toNat_eq ?_
      simp only [fld, w32, BitVec.toNat_ofNat]
      omega
    have h2 : fld 5 0 (w32 (sc.toNat + 65536 * count.toNat)) = sc := fld_w32 (by omega) (by omega)
    have h3 : fld 16 16 (w32 (sc.toNat + 65536 * count.toNat)) = count := fld_w32 (by omega) (by omega)
    refine decode_mk rfl hwf (Eq.trans
      (b := .ok (.rep (BitVec.ofNat 4 ((fld 3 0 _).toNat + 8 * (fld 3 3 _).toNat)) sd sa sb (fld 5 0 _) (fld 16 16 _))) rfl ?_)
    rw [h1, h2, h3]
  | li d lit => exact decode_mk2 rfl hwf (congrArg (fun x => Except.ok (Instr.li d x)) (joinWords_lo_hi lit))
  | addpc | jal | jmp | region | trapi | jr | jalr | endF | eret | nop | clinit | nrecv | poisonclr | exit | kill | link | unlink
  | monitor | unmon | migrate | supcfgPolicy | supcfgAdd | supcfgRemove | supcfgLaunch | restartChild | restartJob
  | ctxrevoke | ctxdone | locketStart | locketStat | locketStop | self | selfStable | selfTx | tlbinvCtx | getcMissb
  | vexp2 | vlog2 | vrcp | vrsq | ste => exact decode_mk rfl hwf (by with_unfolding_all rfl)
  | regionVec smask vmask => exact decode_mk2 rfl hwf rfl
  | padWord => rfl
  | ext k _ _ | waitc k _ | ldl k _ _ _ | stl k _ _ _ | stg k _ _ _ | fence k => exact decode_mk rfl hwf (need_some k.ofCode_code _)
  | arrive sc _ _ _ | arrivew sc _ _ _ | nsend sc _ _ _ | nsendRaw sc _ _ | signalExit sc _ _ =>
    exact decode_mk rfl hwf (Eq.trans (need_some sc.ofCode_code _) (by with_unfolding_all rfl))
  | vshr fmt | vsar fmt | vadds fmt | vsubs fmt | vvoid fmt | vlq fmt => exact decode_mk rfl hwf (need_some fmt.ofCode_code _)
  | ldg k inv _ _ _ =>
    refine decode_mk rfl hwf (Eq.trans (need_some k.ofCode_code _) ?_)
    cases inv <;> with_unfolding_all rfl
  | ldaq k sc _ _ _ | strl k sc _ _ _ =>
    exact decode_mk rfl hwf (Eq.trans (need_some k.ofCode_code _) (need_some sc.ofCode_code _))
  | vldl fmt gd d a imm => exact decode_form (fun f g w => .vldl f g d a w) rfl hwf (fun _ _ _ _ => rfl) rfl
  | vstl fmt gd d a imm => exact decode_form (fun f g w => .vstl f g d a w) rfl hwf (fun _ _ _ _ => rfl) rfl
  | vldg fmt gd d a imm => exact decode_form (fun f g w => .vldg f g d a w) rfl hwf (fun _ _ _ _ => rfl) rfl
  | vstg fmt gd d a imm => exact decode_form (fun f g w => .vstg f g d a w) rfl hwf (fun _ _ _ _ => rfl) rfl
  | vlds fmt gd d a b imm => exact decode_form (fun f g w => .vlds f g d a b w) rfl hwf (fun _ _ _ _ => rfl) rfl
  | vsts fmt gd d a b imm => exact decode_form (fun f g w => .vsts f g d a b w) rfl hwf (fun _ _ _ _ => rfl) rfl
  | vgath fmt gd loc sh d a b =>
    refine decode_form (fun f g w => .vgath f g (bit 10 w) (fld 5 5 w) d a b) rfl hwf (fun _ _ _ _ => rfl) ?_
    obtain ⟨hl, hs⟩ := gather_fields loc sh
    rw [hl, hs]
  | vscat fmt gd loc sh d a b =>
    refine decode_form (fun f g w => .vscat f g (bit 10 w) (fld 5 5 w) d a b) rfl hwf (fun _ _ _ _ => rfl) ?_
    obtain ⟨hl, hs⟩ := gather_fields loc sh
    rw [hl, hs]
  | ldf tgt _ _ _ | ldfp tgt _ _ _ | tagr tgt _ _ _ => exact decode_mk rfl hwf (by cases tgt <;> with_unfolding_all rfl)
  | tagw full tgt _ _ => exact decode_mk rfl hwf (by cases full <;> cases tgt <;> with_unfolding_all rfl)
  | amo op ord w sc d a b =>
    obtain ⟨hop, hord, -⟩ := word3_plain_fields 0 op ord
    refine decode_mk rfl hwf (Eq.trans (need_some hop _) (Eq.trans (need_some sc.ofCode_code _) ?_))
    rw [hord]
    cases w <;> with_unfolding_all rfl
  | cas ord w sc d a b c | amobnd ord w sc d a b c =>
    obtain ⟨hop, hord, hc⟩ := word3_plain_fields c .add ord
    refine decode_mk rfl hwf (Eq.trans (need_some hop _) (Eq.trans (need_some sc.ofCode_code _) ?_))
    rw [hord, hc]
    cases w <;> with_unfolding_all rfl
  | red op rl w sc a b =>
    obtain ⟨hop, hord, -⟩ := word3_plain_fields 0 op (rlOrd rl)
    refine decode_mk rfl hwf (Eq.trans (need_some hop _) (Eq.trans (need_some sc.ofCode_code _) ?_))
    beta_reduce
    rw [hord, rlOrd_release]
    cases w <;> with_unfolding_all rfl
  | redf op cnt rl sc fmt a b =>
    obtain ⟨hop, hord, hcnt⟩ := redf_fields op rl cnt
    refine decode_mk rfl hwf (Eq.trans (need_some hop _) (Eq.trans (need_some sc.ofCode_code _) (Eq.trans (need_some fmt.ofCode_code _) ?_)))
    rw [hord, rlOrd_release, hcnt]
  | vred op cnt rl sc fmt gd a b =>
    obtain ⟨hop, hord, hcnt, hsc⟩ := vred_fields op rl cnt sc
    refine decode_mkG (fun gd w1 => need (AmoOp.ofCode (fld 4 5 w1)) fun op => need (Scope.ofCode (fld 3 12 w1)) fun sc =>
      need (Fmt.ofCode fmt.code) fun fmt => .ok (.vred op (bit 11 w1) (Ord.ofCode (fld 2 9 w1) == .release) sc fmt gd a b))
      rfl hwf (fun _ _ _ _ => rfl) ?_
    refine Eq.trans (need_some hop _) (Eq.trans (need_some hsc _) (Eq.trans (need_some fmt.ofCode_code _) ?_))
    rw [hord, rlOrd_release, hcnt]
  | vadd fmt gd d a b => exact decode_form (fun f g _ => .vadd f g d a b) rfl hwf (fun _ _ _ _ => rfl) rfl
  | vsub fmt gd d a b => exact decode_form (fun f g _ => .vsub f g d a b) rfl hwf (fun _ _ _ _ => rfl) rfl
  | vmul fmt gd d a b => exact decode_form (fun f g _ => .vmul f g d a b) rfl hwf (fun _ _ _ _ => rfl) rfl
  | vmin fmt gd d a b => exact decode_form (fun f g _ => .vmin f g d a b) rfl hwf (fun _ _ _ _ => rfl) rfl
  | vmax fmt gd d a b => exact decode_form (fun f g _ => .vmax f g d a b) rfl hwf (fun _ _ _ _ => rfl) rfl
  | vdiv fmt gd d a b => exact decode_form (fun f g _ => .vdiv f g d a b) rfl hwf (fun _ _ _ _ => rfl) rfl
  | vand fmt gd d a b => exact decode_form (fun f g _ => .vand f g d a b) rfl hwf (fun _ _ _ _ => rfl) rfl
  | vor fmt gd d a b => exact decode_form (fun f g _ => .vor f g d a b) rfl hwf (fun _ _ _ _ => rfl) rfl
  | vxor fmt gd d a b => exact decode_form (fun f g _ => .vxor f g d a b) rfl hwf (fun _ _ _ _ => rfl) rfl
  | vshl fmt gd d a b => exact decode_form (fun f g _ => .vshl f g d a b) rfl hwf (fun _ _ _ _ => rfl) rfl
  | vfma fmt gd d a b c => exact decode_form (fun f g w => .vfma f g d a b (fld 5 0 w)) rfl hwf (fun _ _ _ _ => rfl) (congrArg _ (fld_word5 c))
  | vfms fmt gd d a b c => exact decode_form (fun f g w => .vfms f g d a b (fld 5 0 w)) rfl hwf (fun _ _ _ _ => rfl) (congrArg _ (fld_word5 c))
  | vsqrt fmt gd d a => exact decode_form (fun f g _ => .vsqrt f g d a) rfl hwf (fun _ _ _ _ => rfl) rfl
  | vmag fmt gd d a => exact decode_form (fun f g _ => .vmag f g d a) rfl hwf (fun _ _ _ _ => rfl) rfl
  | vneg fmt gd d a => exact decode_form (fun f g _ => .vneg f g d a) rfl hwf (fun _ _ _ _ => rfl) rfl
  | vcvt dst src rnd part g d a =>
    have h1 := src.code.isLt; have h2 := rnd.code.isLt; have h3 := part.isLt
    have hs : fld 3 5 (w32 (32 * src.code.toNat + 256 * rnd.code.toNat + 2048 * part.toNat)) = src.code := fld_w32 (by omega) (by omega)
    have hr : fld 3 8 (w32 (32 * src.code.toNat + 256 * rnd.code.toNat + 2048 * part.toNat)) = rnd.code := fld_w32 (by omega) (by omega)
    have hp : fld 2 11 (w32 (32 * src.code.toNat + 256 * rnd.code.toNat + 2048 * part.toNat)) = part := fld_w32 (by omega) (by omega)
    refine decode_mk rfl hwf (Eq.trans (need_some dst.ofCode_code _) (Eq.trans (need_some (hs ▸ src.ofCode_code) _)
      (Eq.trans (need_some (hr ▸ rnd.ofCode_code) _) ?_)))
    rw [hp]
  | vcmp fmt cond g d a b =>
    have hk := cond.code.isLt
    have hc : fld 3 5 (w32 (32 * cond.code.toNat)) = cond.code := fld_w32 (by omega) (by omega)
    refine decode_mk rfl hwf (Eq.trans (need_some fmt.ofCode_code _) (Eq.trans (need_some (hc ▸ cond.ofCode_code) _) ?_))
    rw [lowP_pReg]
  | vsel fmt k g d a b c =>
    have h1 := c.isLt; have h2 := k.code.isLt
    have hk : fld 3 5 (w32 (c.toNat + 32 * k.code.toNat)) = k.code := fld_w32 (by omega) (by omega)
    have hc : fld 3 0 (w32 (c.toNat + 32 * k.code.toNat)) = c := fld_w32 (by omega) (by omega)
    refine decode_mk rfl hwf (Eq.trans (need_some fmt.ofCode_code _) (Eq.trans (need_some (hk ▸ k.ofCode_code) _) ?_))
    rw [hc]
  | vsca fmt sv rnd g d a b =>
    have h1 := Bool.toNat_lt sv; have h2 := rnd.code.isLt
    have hs : bit 5 (w32 (32 * sv.toNat + 64 * rnd.code.toNat)) = sv := bit_w32 (by omega) (by omega)
    have hr : fld 3 6 (w32 (32 * sv.toNat + 64 * rnd.code.toNat)) = rnd.code := fld_w32 (by omega) (by omega)
    refine decode_mk rfl hwf (Eq.trans (need_some fmt.ofCode_code _) (Eq.trans (need_some (hr ▸ rnd.ofCode_code) _) ?_))
    rw [hs]
  | vpres fmt g d a =>
    refine decode_mk rfl hwf (Eq.trans (need_some fmt.ofCode_code _) ?_)
    rw [lowP_pReg]
  | vmov fmt gd d a => exact decode_form (fun f g _ => .vmov f g d a) rfl hwf (fun _ _ _ _ => rfl) rfl
  | vbcast fmt gd d src =>
    refine decode_form (fun f g w => .vbcast f g d (if bit 5 w then .elem src.reg (fld 7 6 w) else .scalar src.reg)) rfl hwf
      (fun _ _ _ _ => rfl) ?_
    rw [bcast_fields]
  | vextr fmt gd d a b => exact decode_form (fun f g _ => .vextr f g d a b) rfl hwf (fun _ _ _ _ => rfl) rfl
  | vins fmt gd d a b => exact decode_form (fun f g _ => .vins f g d a b) rfl hwf (fun _ _ _ _ => rfl) rfl
  | vperm fmt gd d a b => exact decode_form (fun f g _ => .vperm f g d a b) rfl hwf (fun _ _ _ _ => rfl) rfl
  | vslide fmt gd x d a b =>
    exact decode_form (fun f g w => .vslide f g (bit 5 w) d a b) rfl hwf (fun _ _ _ _ => rfl) (by rw [bit5_flag])
  | vzip fmt gd x d a b =>
    exact decode_form (fun f g w => .vzip f g (bit 5 w) d a b) rfl hwf (fun _ _ _ _ => rfl) (by rw [bit5_flag])
  | vunzip fmt gd x d a b =>
    exact decode_form (fun f g w => .vunzip f g (bit 5 w) d a b) rfl hwf (fun _ _ _ _ => rfl) (by rw [bit5_flag])
  | vcompr fmt gd d a => exact decode_form (fun f g _ => .vcompr f g d a) rfl hwf (fun _ _ _ _ => rfl) rfl
  | vexpq4 gd part d a =>
    exact decode_mkG (fun g w => .ok (.vexpq4 g (bit 5 w) d a)) rfl hwf (fun _ _ _ _ => rfl) (by rw [bit5_flag])
  | qtld gd a => exact decode_mkG (fun g _ => .ok (.qtld g a)) rfl hwf (fun _ _ _ _ => rfl) rfl
  | vreduce fmt gd op d a =>
    have ho := op.code.isLt
    have hop : fld 3 5 (w32 (32 * op.code.toNat)) = op.code := fld_w32 (by omega) (by omega)
    refine decode_mkG (fun gd w1 => need (Fmt.ofCode fmt.code) fun fmt => need (RedOp.ofCode (fld 3 5 w1)) fun op =>
      .ok (.vreduce fmt gd op d a)) rfl hwf (fun _ _ _ _ => rfl) ?_
    exact Eq.trans (need_some fmt.ofCode_code _) (need_some (hop.symm ▸ op.ofCode_code) _)
  | vscan fmt gd op ex d a =>
    have ho := op.code.isLt; have he := Bool.toNat_lt ex
    have hop : fld 3 5 (w32 (32 * op.code.toNat + 256 * ex.toNat)) = op.code := fld_w32 (by omega) (by omega)
    have hex : bit 8 (w32 (32 * op.code.toNat + 256 * ex.toNat)) = ex := bit_w32 (by omega) (by omega)
    refine decode_mkG (fun gd w1 => need (Fmt.ofCode fmt.code) fun fmt => need (RedOp.ofCode (fld 3 5 w1)) fun op =>
      .ok (.vscan fmt gd op (bit 8 w1) d a)) rfl hwf (fun _ _ _ _ => rfl) ?_
    refine Eq.trans (need_some fmt.ofCode_code _) (Eq.trans (need_some (hop.symm ▸ op.ofCode_code) _) ?_)
    rw [hex]
  | vcount fmt gd d a => exact decode_form (fun f g _ => .vcount f g d a) rfl hwf (fun _ _ _ _ => rfl) rfl
  | whilelt fmt gd d a b =>
    exact decode_form (fun f g _ => .whilelt f g (lowP (pReg d)) a b) rfl hwf (fun _ _ _ _ => rfl) (by rw [lowP_pReg])
  | pand d a b =>
    refine decode_mk rfl hwf (Eq.trans (b := .ok (.pand (lowP (pReg d)) (lowP (pReg a)) (lowP (pReg b)))) rfl ?_)
    rw [lowP_pReg, lowP_pReg, lowP_pReg]
  | por d a b =>
    refine decode_mk rfl hwf (Eq.trans (b := .ok (.por (lowP (pReg d)) (lowP (pReg a)) (lowP (pReg b)))) rfl ?_)
    rw [lowP_pReg, lowP_pReg, lowP_pReg]
  | pnot d a =>
    refine decode_mk rfl hwf (Eq.trans (b := .ok (.pnot (lowP (pReg d)) (lowP (pReg a)))) rfl ?_)
    rw [lowP_pReg, lowP_pReg]
  | pcnt fmt _ _ | pfirst fmt _ _ =>
    refine decode_mk rfl hwf (Eq.trans (need_some fmt.ofCode_code _) ?_)
    rw [lowP_pReg]
  | pset fmt d k =>
    have hk := k.isLt
    have hf : fld 9 5 (w32 (32 * k.toNat)) = k := fld_w32 (by omega) (by omega)
    refine decode_mk rfl hwf (Eq.trans (need_some fmt.ofCode_code _) ?_)
    rw [lowP_pReg, hf]
  | nred fmt g a b k =>
    refine decode_mk rfl hwf (Eq.trans (need_some fmt.ofCode_code _) ?_)
    rw [lowK_kReg]
  | mcast a k =>
    refine decode_mk rfl hwf (Eq.trans (b := .ok (.mcast a (lowK (kReg k)))) rfl ?_)
    rw [lowK_kReg]
  | bld sc fmt a k aq rl =>
    have hk := k.isLt; have h1 := Bool.toNat_lt aq; have h2 := Bool.toNat_lt rl
    have hf : fld 4 0 (w32 (k.toNat + 65536 * aq.toNat + 131072 * rl.toNat)) = k := fld_w32 (by omega) (by omega)
    have ha : bit 16 (w32 (k.toNat + 65536 * aq.toNat + 131072 * rl.toNat)) = aq := bit_w32 (by omega) (by omega)
    have hr : bit 17 (w32 (k.toNat + 65536 * aq.toNat + 131072 * rl.toNat)) = rl := bit_w32 (by omega) (by omega)
    refine decode_mk rfl hwf (Eq.trans (need_some fmt.ofCode_code _) (Eq.trans (need_some sc.ofCode_code _) ?_))
    rw [hf, ha, hr]
  | mma sc fmt d a k nb aq rl =>
    have hk := k.isLt; have hn := nb.isLt; have h1 := Bool.toNat_lt aq; have h2 := Bool.toNat_lt rl
    have hf : fld 4 0 (w32 (k.toNat + 32 * nb.toNat + 65536 * aq.toNat + 131072 * rl.toNat)) = k := fld_w32 (by omega) (by omega)
    have hb : fld 4 5 (w32 (k.toNat + 32 * nb.toNat + 65536 * aq.toNat + 131072 * rl.toNat)) = nb := fld_w32 (by omega) (by omega)
    have ha : bit 16 (w32 (k.toNat + 32 * nb.toNat + 65536 * aq.toNat + 131072 * rl.toNat)) = aq := bit_w32 (by omega) (by omega)
    have hr : bit 17 (w32 (k.toNat + 32 * nb.toNat + 65536 * aq.toNat + 131072 * rl.toNat)) = rl := bit_w32 (by omega) (by omega)
    refine decode_mk rfl hwf (Eq.trans (need_some fmt.ofCode_code _) (Eq.trans (need_some sc.ofCode_code _) ?_))
    rw [lowK_kReg, hf, hb, ha, hr]
  | mzero sc fmt d aq rl | mrest sc fmt d a aq rl =>
    obtain ⟨ha, hr⟩ := order_bits aq rl
    refine decode_mk rfl hwf (Eq.trans (need_some fmt.ofCode_code _) (Eq.trans (need_some sc.ofCode_code _) ?_))
    rw [lowK_kReg, ha, hr]
  | msave sc d a aq rl =>
    obtain ⟨ha, hr⟩ := order_bits aq rl
    refine decode_mk rfl hwf (Eq.trans (need_some sc.ofCode_code _) ?_)
    rw [lowK_kReg, ha, hr]
  | mdrain f =>
    obtain ⟨hrnd, hf⟩ := f.ofFields_word f.scope.code f.fmt.code 0xC3 false 0
    refine decode_mk rfl hwf (Eq.trans (need_some f.fmt.ofCode_code _) (Eq.trans (need_some f.scope.ofCode_code _)
      (Eq.trans (need_some hrnd _) ?_)))
    rw [hf]
  | mstat ks d c =>
    have hk := c.isLt
    have hc : fld 4 0 (w32 c.toNat) = c := fld_w32 (by omega) (by omega)
    refine decode_mk rfl hwf (Eq.trans (need_some ks.ofCode_code _) ?_)
    rw [hc]
  | cpy f =>
    refine decode_mk2 rfl hwf (Eq.trans (need_some f.dir.ofCode_code _) (Eq.trans (need_some f.scope.ofCode_code _) ?_))
    rw [f.ofFields_word]
  | cpy2 f =>
    refine decode_mk3 rfl hwf (Eq.trans (need_some f.fmt.ofCode_code _) (Eq.trans (need_some f.scope.ofCode_code _) ?_))
    beta_reduce
    rw [f.ofFields_word]
  | send f =>
    obtain ⟨hf, hl⟩ := f.ofFields_word false f.scope.code 0 0 0 0xCA false 1
    refine decode_mk2 rfl hwf (Eq.trans (need_some f.scope.ofCode_code _) ?_)
    rw [hl, hf]
    rfl
  | sendLast f =>
    obtain ⟨hf, hl⟩ := f.ofFields_word true f.scope.code 0 0 0 0xCA false 1
    refine decode_mk2 rfl hwf (Eq.trans (need_some f.scope.ofCode_code _) ?_)
    rw [hl, hf]
    rfl
  | spawn f => exact decode_mk2 rfl hwf (congrArg (fun f => Except.ok (Instr.spawn f)) (f.ofFields_word 0 0 0xE0 false 1))
  | timer k a b =>
    refine decode_mk rfl hwf (Eq.trans (b := .ok (.timer (bit 5 _) a b)) (by with_unfolding_all rfl) ?_)
    rw [bit5_flag]
  | timerKill k a b =>
    refine decode_mk rfl hwf (Eq.trans (b := .ok (.timerKill (bit 5 _) a b)) (by with_unfolding_all rfl) ?_)
    rw [bit5_flag]
  | portcfg k a b =>
    have hk := k.isLt
    exact decode_mk rfl hwf (congrArg (fun k => Except.ok (Instr.portcfg k a b)) (fld_w32 (by omega) (by omega)))
  | consume k a =>
    have hk := k.isLt
    exact decode_mk rfl hwf (congrArg (fun k => Except.ok (Instr.consume k a)) (fld_w32 (by omega) (by omega)))
  | ctxnew d a ovr num rq =>
    have hn := num.isLt; have hq := Bool.toNat_lt rq
    have h1 : fld 12 0 (w32 (num.toNat + 4096 * rq.toNat)) = num := fld_w32 (by omega) (by omega)
    have h2 : bit 12 (w32 (num.toNat + 4096 * rq.toNat)) = rq := bit_w32 (by omega) (by omega)
    refine decode_mk3 rfl hwf (Eq.trans (b := .ok (.ctxnew d a ovr (fld 12 0 _) (bit 12 _))) rfl ?_)
    rw [h1, h2]
  | ctxstat d a k =>
    have hk := k.isLt
    exact decode_mk rfl hwf (congrArg (fun k => Except.ok (Instr.ctxstat d a k)) (fld_w32 (by omega) (by omega)))
  | tlbw d a b c rsp =>
    have hc := c.isLt; have hr := Bool.toNat_lt rsp
    have h1 : fld 5 0 (w32 (c.toNat + 32 * rsp.toNat)) = c := fld_w32 (by omega) (by omega)
    have h2 : bit 5 (w32 (c.toNat + 32 * rsp.toNat)) = rsp := bit_w32 (by omega) (by omega)
    refine decode_mk3 rfl hwf (Eq.trans (b := .ok (.tlbw d a b (fld 5 0 _) (bit 5 _))) rfl ?_)
    rw [h1, h2]
  | tlbinvPage a b sz =>
    have hs := sz.code.isLt
    have h1 : fld 2 0 (w32 sz.code.toNat) = sz.code := fld_w32 (by omega) (by omega)
    refine decode_mk rfl hwf (Eq.trans (b := .ok (.tlbinvPage a b (PageSize.ofCode (fld 2 0 _)))) (by with_unfolding_all rfl) ?_)
    rw [h1, PageSize.ofCode_code]
  | tlbprobe e1 d a b => exact decode_mk rfl hwf (by cases e1 <;> with_unfolding_all rfl)
  | getc d num =>
    have hn := num.isLt
    have hnum : fld 12 0 (w32 num.toNat) = num := fld_w32 (by omega) (by omega)
    have hmiss : w32 num.toNat ≠ 0x12B := fun h => by
      have h12b : fld 12 0 0x12B = num := h ▸ hnum
      subst h12b
      exact absurd hwf (show ¬ (fld 12 0 0x12B != 0x12B) = true by decide)
    refine decode_mk rfl hwf (Eq.trans (congrArg Except.ok (if_neg hmiss)) ?_)
    rw [hnum]
  | setc num a =>
    have hn := num.isLt
    have hnum : fld 12 0 (w32 num.toNat) = num := fld_w32 (by omega) (by omega)
    refine decode_mk rfl hwf (Eq.trans (b := .ok (.setc (fld 12 0 _) a)) (by with_unfolding_all rfl) ?_)
    rw [hnum]
  | setcImm num imm =>
    have hn := num.isLt; have hi := imm.isLt
    have hnum : fld 12 0 (w32 (num.toNat + 4096 * imm.toNat)) = num := fld_w32 (by omega) (by omega)
    have himm : fld 20 12 (w32 (num.toNat + 4096 * imm.toNat)) = imm := fld_w32 (by omega) (by omega)
    refine decode_mk rfl hwf (Eq.trans (b := .ok (.setcImm (fld 12 0 _) (fld 20 12 _))) (by with_unfolding_all rfl) ?_)
    rw [hnum, himm]
  | _ => exact absurd rfl hne

/-- Words that decode are the words of a well-formed instruction: the last two tests of the decoder. -/
theorem encode_decode {ws : List Word} {i : Instr} (h : decode ws = .ok i) : i.wf = true ∧ encode i = ws := by
  unfold decode at h
  split at h
  · cases h
  next w0 rest =>
    dsimp only at h
    split_ifs at h with hlen hpad hrest hcount
    · cases h
      exact ⟨rfl, by rw [hpad, hrest]; rfl⟩
    · split at h
      · cases h
      next j hj =>
        split_ifs at h with hwf henc
        cases h
        exact ⟨by simpa using hwf, henc⟩

/-- Settles O52: the candidate reads back every field that the encoder wrote, and the decoder admits no other words. -/
theorem decodeOfEncode : Obligations.DecodeOfEncode :=
  ⟨fun _ => decode_encode, fun _ _ => encode_decode⟩

end Sys2Proof
end

section
/-!
SUPPORT. The decoder on words (R60 to R72): words written out from the spec, the pad word, and what a core finds at its pc
(obligations O5, O51 and O54).
-/

namespace Sys2Proof

/-- Settles O51: each list of words is decoded as it stands. -/
theorem specWordsDecode : Obligations.SpecWordsDecode :=
  ⟨rfl, rfl, rfl, rfl, rfl, rfl, rfl, rfl, rfl, rfl, rfl, rfl, ⟨_, rfl⟩, ⟨_, rfl⟩, ⟨_, rfl⟩⟩

/-- LEN tells the number of words (R61, R64). -/
theorem wordCount_of_decode {ws : List Word} {i : Instr} (h : decode ws = .ok i) : wordCount (ws.headD 0) = ws.length := by
  unfold decode at h
  split at h
  · cases h
  next w0 rest =>
    dsimp only at h
    split_ifs at h with hlen hpad hrest hcount
    · rw [hrest, wordCount, List.headD_cons, if_pos hlen]
      rfl
    · rw [List.headD_cons, wordCount, if_neg hlen, List.length_cons, not_not.1 hcount]

/-- The first word is in the first four bytes. -/
theorem bytesWords_take_four (l : List Byte) : (bytesWords (l.take 4)).headD 0 = (bytesWords l).headD 0 := by
  match l with
  | [] | [_] | [_, _] | [_, _, _] => rfl
  | _ :: _ :: _ :: _ :: _ => rfl

theorem take_range_map {α : Type} (f : Nat → α) {m n : Nat} (h : m ≤ n) : ((List.range n).map f).take m = (List.range m).map f := by
  rw [← List.map_take, List.take_range, Nat.min_eq_left h]

end Sys2Proof

namespace Sys2Proof.Machine

/-! ### The pad word (R62) -/

/-- Words whose LEN is 11 decode only as the pad word. -/
theorem decode_len_three {w : Word} (hw : w.toNat % 4 = 3) (ws : List Word) :
    decode (w :: ws) = if w = 3 then (if ws = [] then .ok .padWord else .error .badLength) else .error .badPad := by
  have hlen : (Head.unpack w).len = 3 := by
    refine BitVec.eq_of_toNat_eq ?_
    simp only [Head.unpack, fld, BitVec.toNat_ofNat, pow_zero, Nat.div_one]
    exact hw
  rw [decode]
  simp only [hlen, if_true]

theorem decode_badPad {w : Word} (hw : w.toNat % 4 = 3) (hne : w ≠ 3) (ws : List Word) : decode (w :: ws) = .error .badPad := by
  rw [decode_len_three hw, if_neg hne]

theorem wordCount_len_three {w : Word} (hw : w.toNat % 4 = 3) : wordCount w = 1 := by
  refine if_pos (BitVec.eq_of_toNat_eq ?_)
  simp only [Head.unpack, fld, BitVec.toNat_ofNat, pow_zero, Nat.div_one]
  exact hw

/-- Four bytes spell their word, least significant first (R4). -/
theorem bytesWords_byteAt (w : Word) : bytesWords ((List.range 4).map (byteAt w.toNat)) = [w] := by
  have hw := w.isLt
  have hbyte (v i : Nat) : (byteAt v i).toNat = v / 256 ^ i % 256 := BitVec.toNat_ofNat ..
  have hjoin {m n : Nat} (x : BitVec m) (y : BitVec n) : (x ++ y).toNat = 2 ^ n * x.toNat + y.toNat := by
    rw [BitVec.toNat_append, ← Nat.shiftLeft_add_eq_or_of_lt y.isLt, Nat.shiftLeft_eq, Nat.mul_comm]
  show [byteAt w.toNat 3 ++ byteAt w.toNat 2 ++ byteAt w.toNat 1 ++ byteAt w.toNat 0] = [w]
  refine congrArg (· :: []) (BitVec.eq_of_toNat_eq ?_)
  simp only [hjoin, hbyte]
  omega

/-! ### Fetching (R60 to R63, R87, R333) -/

/-- What a core finds at a pc that is aligned and below the end of its code, where the words fit into the 32-byte block. -/
theorem fetchNow_of {s : State} (hal : s.core.pc.toNat % 4 = 0) (hend : s.core.pc.toNat < s.codeEnd.toNat) {n : Nat}
    (hn : wordCount ((bytesWords ((List.range 4).map fun j => s.pad (s.core.pc.toNat + j))).headD 0) = n)
    (hblock : s.core.pc.toNat % 32 + 4 * n ≤ 32) {r : Except DecodeError Instr}
    (hdec : decode (bytesWords ((List.range (4 * n)).map fun j => s.pad (s.core.pc.toNat + j))) = r) :
    (∀ i, r = .ok i → s.fetchNow = .instr i) ∧ ∀ e, r = .error e → s.fetchNow = .illegal := by
  have hload (n : Nat) : ({ s.core with xbound := s.codeEnd } : Core).load s.core.pc.toNat n
      = (List.range n).map fun j => s.pad (s.core.pc.toNat + j) := load_eq s _ n
  have hfits : ¬ s.core.pc.toNat % 32 + 4 * n > 32 := by omega
  unfold State.fetchNow Core.fetch
  simp only [hal, not_true, ne_eq, if_false, not_le.2 hend, hload, hn, hfits, hdec]
  exact ⟨fun i h => by rw [h], fun e h => by rw [h]⟩

/-- The code of a core ends at XBOUND, at 64 KiB on a translation core, and nowhere on a core of the hub (R87, R333). -/
theorem lt_codeEnd {s : State} (hal : s.core.pc.toNat % 4 = 0) (hx : s.focus.regions = true → s.core.pc.toNat < s.core.xbound.toNat)
    (ht : ∀ d, s.focus = .transl d → s.core.pc.toNat < 2 ^ 16) : s.core.pc.toNat < s.codeEnd.toNat := by
  have hlt := s.core.pc.isLt
  cases hf : s.focus with
  | work p => simpa [State.codeEnd, hf] using hx (by rw [hf]; rfl)
  | transl d => simpa [State.codeEnd, hf] using ht d hf
  | service p => simp [State.codeEnd, hf]; omega
  | root => simp [State.codeEnd, hf]; omega

/-- The bytes of an instruction at the pc are what is fetched. -/
theorem fetchNow_instr {s : State} {i : Instr} (hal : s.core.pc.toNat % 4 = 0) (hend : s.core.pc.toNat < s.codeEnd.toNat)
    (hblock : s.core.pc.toNat % 32 + i.size ≤ 32)
    (hdec : decode (bytesWords ((List.range i.size).map fun j => s.pad (s.core.pc.toNat + j))) = .ok i) : s.fetchNow = .instr i := by
  obtain ⟨-, henc⟩ := encode_decode hdec
  have hcount := wordCount_of_decode hdec
  rw [← henc] at hcount
  have hsize : 4 ≤ i.size := by
    rcases hz : encode i with _ | ⟨w, ws⟩
    · rw [hz] at henc
      rw [← henc] at hdec
      cases hdec
    · rw [Instr.size, hz, List.length_cons]
      omega
  have hn : 4 * wordCount ((bytesWords ((List.range 4).map fun j => s.pad (s.core.pc.toNat + j))).headD 0) = i.size := by
    rw [← take_range_map _ hsize, bytesWords_take_four, ← henc, hcount, Instr.size]
  refine (fetchNow_of hal hend rfl (by omega) ?_).1 i rfl
  rw [hn, hdec]

/-- A core whose pc holds an instruction it executes runs it. -/
theorem runCore_instr {s : State} {i : Instr} (hf : s.fetchNow = .instr i) (hx : s.executes i = true) (hr : s.core.afterRep i = false) :
    s.runCore = settled s.core.pc (exec i s) := by
  rw [State.runCore, hf]
  simp [hx, hr]

/-- Settles O54: the only unit that can move fetches, and what it fetches is the decoded instruction. -/
theorem aStepRunsTheDecodedInstruction : Obligations.AStepRunsTheDecodedInstruction := by
  unfold Obligations.AStepRunsTheDecodedInstruction
  intro s id i u pc left hpow hmov hal hx ht hblock hdec hexec hrep
  have hrun : u.runCore = settled u.core.pc (exec i u) :=
    runCore_instr (fetchNow_instr hal (lt_codeEnd hal hx ht) hblock hdec) hexec hrep
  have hstep : step s = stepped (settled u.core.pc (exec i u)) := by
    rw [step, if_pos hpow, hmov, ← hrun]
    rfl
  refine ⟨fun t h => ?_, fun f h => ?_, fun r h => ?_⟩ <;> rw [hstep, h]
  · show Host.Outcome.next _ = _
    simp only [left, State.settle, tickStride]
    split <;> rfl
  · rfl
  · rfl

/-- Settles O5: LEN = 11 decodes as the pad word alone, and a fetch of another such word is illegal. -/
theorem padWord : Obligations.PadWord := by
  unfold Obligations.PadWord
  refine ⟨fun w hw => ⟨?_, fun hne ws => ⟨_, decode_badPad hw hne ws⟩⟩, fun s => ?_, fun s w hw hne hreg hal hx hbytes => ?_⟩
  · rw [decode_len_three hw]
    by_cases h : w = 3 <;> simp [h]
  · show Host.Outcome.next (s.setPc (afterPad s.core.pc)) = _
    rw [afterPad, show s.core.pc.toNat / 32 * 32 + 32 = 32 * (s.core.pc.toNat / 32 + 1) by omega]
    rfl
  · have hend := lt_codeEnd hal (fun _ => hx) (fun d hd => by rw [hd] at hreg; cases hreg)
    have hword : (List.range 4).map (fun j => s.pad (s.core.pc.toNat + j)) = (List.range 4).map (byteAt w.toNat) :=
      List.map_congr_left fun j hj => hbytes j (List.mem_range.1 hj)
    have hfetch : s.fetchNow = .illegal := by
      refine (fetchNow_of hal hend (n := 1) ?_ (by omega) ?_).2 .badPad rfl
      · rw [hword, bytesWords_byteAt, List.headD_cons, wordCount_len_three hw]
      · rw [Nat.mul_one, hword, bytesWords_byteAt, decode_badPad hw hne]
    rw [State.runCore, hfetch]
    rfl

end Sys2Proof.Machine
end

section
/-!
SUPPORT. The scalar registers and the integer members that have one form or no number (R66, R104, R105; obligation O2).
-/

namespace Sys2Proof.Machine

theorem Regs.getS_setS_self (g : Regs) {r : SReg} (h : r ≠ 0) (x : DWord) : (g.setS r x).getS r = x := by
  simp only [Regs.getS, Regs.setS, if_neg h, Vector.getElem_set_self]

theorem Regs.getS_setS_ne (g : Regs) {r q : SReg} (h : q ≠ r) (x : DWord) : (g.setS r x).getS q = g.getS q := by
  have hne : r.toNat ≠ q.toNat := fun e => h (BitVec.eq_of_toNat_eq e.symm)
  unfold Regs.setS
  split
  · rfl
  · simp [Regs.getS, Vector.getElem_set_ne, hne]

/-- Leading zeros: how many of the n bits are above the topmost 1 (Table 03.11). -/
theorem clzOp_spec {n x : Nat} (hx : x < 2 ^ n) :
    clzOp n x ≤ n ∧ x < 2 ^ (n - clzOp n x) ∧ (clzOp n x < n → 2 ^ (n - clzOp n x - 1) ≤ x) := by
  unfold clzOp
  split
  next h => simp [h]
  next h =>
    have hlog : Nat.log2 x < n := (Nat.log2_lt h).2 hx
    have hk : n - (n - 1 - Nat.log2 x) = Nat.log2 x + 1 := by omega
    rw [hk]
    exact ⟨by omega, Nat.lt_log2_self, fun _ => Nat.log2_self_le h⟩

/-- A number whose low k bits are all 0. -/
theorem mod_two_pow_eq_zero {x k : Nat} (h : ∀ i, i < k → x.testBit i = false) : x % 2 ^ k = 0 := by
  refine Nat.eq_of_testBit_eq fun i => ?_
  rw [Nat.testBit_mod_two_pow, Nat.zero_testBit]
  by_cases hi : i < k
  · rw [h i hi, Bool.and_false]
  · rw [decide_eq_false hi, Bool.false_and]

/-- Trailing zeros: how many of the n bits are below the lowest 1 (Table 03.11). -/
theorem ctzOp_spec (n x : Nat) : ctzOp n x ≤ n ∧ x % 2 ^ ctzOp n x = 0 ∧ (ctzOp n x < n → x.testBit (ctzOp n x) = true) := by
  unfold ctzOp
  cases hf : (List.range n).find? fun i => x.testBit i with
  | none =>
    rw [List.find?_range_eq_none] at hf
    exact ⟨le_rfl, mod_two_pow_eq_zero fun i hi => by simpa using hf i hi, fun h => absurd h (lt_irrefl n)⟩
  | some k =>
    rw [List.find?_range_eq_some] at hf
    obtain ⟨hk, hmem, hlow⟩ := hf
    exact ⟨(List.mem_range.1 hmem).le, mod_two_pow_eq_zero fun i hi => by simpa using hlow i hi, fun _ => hk⟩

/-- The bits that BFX takes, extended as the form says (R105). -/
theorem bfxOp_eq {pos len : Nat} (hle : len ≤ 64) (x : DWord) :
    bfxOp false pos len x = (x.extractLsb' pos len).zeroExtend 64 ∧ bfxOp true pos len x = (x.extractLsb' pos len).signExtend 64 := by
  have hf : (x.extractLsb' pos len).toNat = x.toNat / 2 ^ pos % 2 ^ len := by
    rw [BitVec.extractLsb'_toNat, Nat.shiftRight_eq_div_pow]
  have hlt : x.toNat / 2 ^ pos % 2 ^ len < 2 ^ 64 := (Nat.mod_lt _ (by positivity)).trans_le (Nat.pow_le_pow_right (by omega) hle)
  have hzero : dw (x.toNat / 2 ^ pos % 2 ^ len) = (x.extractLsb' pos len).zeroExtend 64 :=
    BitVec.eq_of_toNat_eq (by rw [BitVec.toNat_setWidth, hf]; rfl)
  refine ⟨hzero, ?_⟩
  have hmsb : (x.extractLsb' pos len).msb = (x.toNat / 2 ^ pos % 2 ^ len).testBit (len - 1) := by
    rw [BitVec.msb_eq_getLsbD_last, ← BitVec.testBit_toNat, hf]
  unfold bfxOp
  simp only [Bool.true_and]
  rw [← hmsb]
  cases hm : (x.extractLsb' pos len).msb with
  | false => rw [if_neg Bool.false_ne_true, BitVec.signExtend_eq_setWidth_of_msb_false hm]; exact hzero
  | true =>
    rw [if_pos rfl, ← BitVec.ofInt_toInt (x := (x.extractLsb' pos len).signExtend 64), BitVec.toInt_signExtend_of_le hle,
      BitVec.toInt_eq_msb_cond, if_pos hm, hf]
    push_cast
    rfl

/-- The bits of BFI: those of the field from x, the others as they were (R105). -/
theorem getLsbD_bfiOp (pos len : Nat) (old x : DWord) {j : Nat} (hj : j < 64) :
    (bfiOp pos len old x).getLsbD j = if pos ≤ j ∧ j < pos + len then x.getLsbD (j - pos) else old.getLsbD j := by
  have hmask : (dw (fieldMask pos len)).getLsbD j = decide (pos ≤ j ∧ j < pos + len) := by
    rw [dw, BitVec.getLsbD_ofNat, fieldMask, Nat.mul_comm, Nat.testBit_two_pow_mul, Nat.testBit_two_pow_sub_one]
    simp only [hj, decide_true, Bool.true_and, ge_iff_le, ← Bool.decide_and, decide_eq_decide]
    omega
  unfold bfiOp
  simp only [BitVec.getLsbD_or, BitVec.getLsbD_and, BitVec.getLsbD_not, BitVec.getLsbD_shiftLeft, hmask]
  by_cases h : pos ≤ j ∧ j < pos + len
  · simp [h, hj]
  · simp [h, hj]

/-- Settles O2: each result is its operation's value, by the lemma of the operation where it is not the definition itself. -/
theorem scalarRegistersAndFieldOperations : Obligations.ScalarRegistersAndFieldOperations := by
  unfold Obligations.ScalarRegistersAndFieldOperations
  refine ⟨fun s r q x => ⟨?_, ?_, ?_, ?_⟩, fun s w d a b c i cnd lit pos lenM1 => ?_⟩
  · rfl
  · rfl
  · exact fun h => s.core.regs.getS_setS_self h x
  · exact fun h => s.core.regs.getS_setS_ne h x
  · intro n x put
    have hcmp (y : DWord) : (condTrue cnd w (s.rs a) y → cmpOp cnd w (s.rs a) y = 1)
        ∧ (¬condTrue cnd w (s.rs a) y → cmpOp cnd w (s.rs a) y = 0) :=
      ⟨fun h => if_pos ((condHolds_eq ..).2 h), fun h => if_neg (by rw [condHolds_eq]; exact h)⟩
    have hx : x < 2 ^ n := Nat.mod_lt _ (by positivity)
    have hn : readN w (s.rs a) = x := readN_nat w (s.rs a)
    refine ⟨fun h => ?_, fun h => ?_, fun h => ?_, fun h => ?_, rfl, ?_, ?_, ?_, rfl, rfl, rfl, rfl, rfl, rfl, fun hf => ⟨?_, ?_, ?_⟩, rfl, ?_⟩
    · exact congrArg put ((hcmp _).1 h)
    · exact congrArg put ((hcmp _).2 h)
    · exact congrArg put ((hcmp _).1 h)
    · exact congrArg put ((hcmp _).2 h)
    · obtain ⟨h1, h2, h3⟩ := clzOp_spec hx
      exact ⟨_, h1, h2, h3, congrArg put ((narrow_eq ..).trans (by rw [hn]))⟩
    · obtain ⟨h1, h2, h3⟩ := ctzOp_spec n x
      exact ⟨_, h1, h2, h3, congrArg put ((narrow_eq ..).trans (by rw [hn]))⟩
    · exact congrArg put ((narrow_eq ..).trans (by rw [hn]; rfl))
    · exact congrArg put (bfxOp_eq (by omega) _).1
    · exact congrArg put (bfxOp_eq (by omega) _).2
    · refine ⟨_, rfl, fun j hj => ?_⟩
      rw [getLsbD_bfiOp _ _ _ _ hj]
      exact if_congr (by omega) rfl rfl
    · refine congrArg put (congrArg (BitVec.setWidth 64) (BitVec.eq_of_toNat_eq ?_))
      simp only [laFrom, BitVec.toNat_add, BitVec.toNat_setWidth, BitVec.toNat_ofInt, BitVec.toInt_eq_toNat_cond]
      split <;> omega

end Sys2Proof.Machine
end

section
/-!
SUPPORT. Rounding (R53): the stand-in a rounding computes with, the finite patterns on either side of it, and the neighbour that a
mode names, for a real value known only by its place among the half units (obligations O20 and O22).
-/

namespace Sys2Proof.Machine

/-! ### Signed reals -/

/-- A magnitude with a sign. -/
noncomputable def withSign (neg : Bool) (v : ℝ) : ℝ := if neg then -v else v

/-- The magnitude of an exact value. -/
noncomputable def Exact.mag (x : Exact) : ℝ := x.num / x.den

theorem Exact.cast_rat (x : Exact) : (x.rat : ℝ) = withSign x.neg x.mag := by
  unfold Exact.rat withSign Exact.mag
  split <;> push_cast <;> ring

theorem Exact.mag_nonneg (x : Exact) : 0 ≤ x.mag := by unfold Exact.mag; positivity

theorem Exact.mag_pos {x : Exact} (hn : 0 < x.num) (hd : 0 < x.den) : 0 < x.mag := by unfold Exact.mag; positivity

/-! ### The neighbour of a value -/

/-- A real value V is at y as a mode says, with respect to another candidate z: y is no further in the direction of the mode, and a
tie is resolved by it. -/
def Nearest (rm : RMode) (V y z : ℝ) (even : Prop) : Prop :=
  (rm = .rdn → y ≤ V ∧ (z ≤ V → z ≤ y)) ∧ (rm = .rup → V ≤ y ∧ (V ≤ z → y ≤ z))
  ∧ (rm = .rtz → |y| ≤ |V| ∧ (|z| ≤ |V| → |z| ≤ |y|))
  ∧ (rm = .rne ∨ rm = .rna → |y - V| ≤ |z - V|)
  ∧ (rm = .rne → |y - V| = |z - V| → z ≠ y → even)
  ∧ (rm = .rna → |y - V| = |z - V| → |z| ≤ |y|)

/-- The mode of the mirrored value. -/
def RMode.mirror : RMode → RMode
  | .rdn => .rup
  | .rup => .rdn
  | m => m

theorem Nearest.mirror {rm : RMode} {V y z : ℝ} {even : Prop} (h : Nearest rm.mirror V y z even) : Nearest rm (-V) (-y) (-z) even := by
  have hd (a b : ℝ) : |(-a) - (-b)| = |a - b| := by rw [← abs_neg]; congr 1; ring
  unfold Nearest at h ⊢
  simp only [hd, abs_neg, neg_le_neg_iff, ne_eq, neg_inj]
  cases rm <;> simpa [RMode.mirror] using h

theorem roundsUp_mirror (rm : RMode) (n r b : Nat) : roundsUp rm true n r b = roundsUp rm.mirror false n r b := by
  cases rm <;> rfl

section
variable {rm : RMode} {N u v z : ℝ} {even : Prop} (hN : 0 ≤ N) (hv : N ≤ v) (hvu : v < N + u) (hz : |z| ≤ N ∨ N + u ≤ |z|)
include hN hv hvu hz

/-- A candidate is at most N or at least N + u, and so on the one or the other side of a v between them. -/
theorem apart_of_gap : z ≤ N ∧ |z - v| = v - z ∨ N + u ≤ z ∧ |z - v| = z - v := by
  rcases hz with h | h
  · have hzN := (le_abs_self z).trans h
    exact .inl ⟨hzN, by rw [abs_sub_comm, abs_of_nonneg (by linarith)]⟩
  · rcases abs_cases z with ⟨e, -⟩ | ⟨e, hneg⟩
    · exact .inr ⟨e ▸ h, abs_of_nonneg (by linarith)⟩
    · exact .inl ⟨by linarith, by rw [abs_sub_comm, abs_of_nonneg (by linarith)]⟩

/-- With no candidate strictly between N and N + u, N is the neighbour of a v between them where the mode does not go up. -/
theorem nearest_lower (hup : rm = .rup → v = N) (hhalf : rm = .rne ∨ rm = .rna → v ≤ N + u / 2)
    (htie : rm = .rne → v = N + u / 2 → even) (haway : rm = .rna → v ≠ N + u / 2) : Nearest rm v N z even := by
  have hNv : |N - v| = v - N := by rw [abs_sub_comm, abs_of_nonneg (by linarith)]
  have habsN : |N| = N := abs_of_nonneg hN
  have habsv : |v| = v := abs_of_nonneg (hN.trans hv)
  have hfar := apart_of_gap hN hv hvu hz
  refine ⟨fun _ => ⟨hv, fun h => ?_⟩, fun h => ?_, fun _ => ?_, fun h => ?_, fun h he hne => ?_, fun h he => ?_⟩
  · rcases hfar with ⟨h', _⟩ | ⟨h', _⟩ <;> linarith
  · rw [hup h]
    exact ⟨le_rfl, id⟩
  · rw [habsN, habsv]
    exact ⟨hv, fun h => hz.resolve_right (by linarith)⟩
  · rw [hNv]
    rcases hfar with ⟨_, e⟩ | ⟨_, e⟩ <;> rw [e] <;> linarith [hhalf h]
  · rw [hNv] at he
    rcases hfar with ⟨_, e⟩ | ⟨_, e⟩ <;> rw [e] at he
    · exact absurd (by linarith) hne
    · exact htie h (by linarith [hhalf (.inl h)])
  · rw [hNv] at he
    rcases hfar with ⟨_, e⟩ | ⟨_, e⟩ <;> rw [e] at he
    · rw [show z = N by linarith]
    · exact absurd (by linarith [hhalf (.inr h)]) (haway h)

/-- Likewise N + u is, where the mode goes up. -/
theorem nearest_upper (hdn : rm ≠ .rdn) (hzero : rm ≠ .rtz) (hup : rm = .rup → N < v) (hhalf : rm = .rne ∨ rm = .rna → N + u / 2 ≤ v)
    (htie : rm = .rne → v = N + u / 2 → even) : Nearest rm v (N + u) z even := by
  have hNv : |N + u - v| = N + u - v := abs_of_nonneg (by linarith)
  have hfar := apart_of_gap hN hv hvu hz
  refine ⟨fun h => absurd h hdn, fun h => ⟨hvu.le, fun h' => ?_⟩, fun h => absurd h hzero, fun h => ?_, fun h he hne => ?_, fun h he => ?_⟩
  · rcases hfar with ⟨_, _⟩ | ⟨_, _⟩ <;> linarith [hup h]
  · rw [hNv]
    rcases hfar with ⟨_, e⟩ | ⟨_, e⟩ <;> rw [e] <;> linarith [hhalf h]
  · rw [hNv] at he
    rcases hfar with ⟨_, e⟩ | ⟨_, e⟩ <;> rw [e] at he
    · exact htie h (by linarith [hhalf (.inl h)])
    · exact absurd (by linarith) hne
  · rw [hNv] at he
    rcases hfar with ⟨_, e⟩ | ⟨_, e⟩ <;> rw [e] at he
    · have hzN : z = N := by linarith [hhalf (.inr h)]
      rw [hzN, abs_of_nonneg hN, abs_of_nonneg (by linarith)]
      linarith
    · rw [show z = N + u by linarith]

/-- What `roundsUp` picks of N and N + u is the neighbour that the mode names: r of b says where v stands, at N, below, at or above
the half. -/
theorem nearest_roundsUp {n r b : Nat} (h0 : r = 0 ↔ v = N) (h1 : b < 2 * r ↔ N + u / 2 < v) (h2 : 2 * r = b ↔ v = N + u / 2)
    (heven : (if roundsUp rm false n r b then n + 1 else n) % 2 = 0 → even) :
    Nearest rm v (if roundsUp rm false n r b then N + u else N) z even := by
  have h3 : b ≤ 2 * r ↔ N + u / 2 ≤ v := by
    rw [le_iff_lt_or_eq, h1, eq_comm, h2, le_iff_lt_or_eq, eq_comm (a := N + u / 2)]
  cases hpick : roundsUp rm false n r b with
  | false =>
    rw [hpick, if_neg Bool.false_ne_true] at heven
    refine nearest_lower hN hv hvu hz ?_ ?_ ?_ ?_
    · rintro rfl
      exact h0.1 (by simpa [roundsUp] using hpick)
    · rintro (rfl | rfl)
      · exact not_lt.1 fun h => by simp [roundsUp, h1.2 h] at hpick
      · exact not_lt.1 fun h => by simp [roundsUp, h3.2 h.le] at hpick
    · rintro rfl htie
      refine heven ?_
      have := Nat.mod_two_eq_zero_or_one n
      simp [roundsUp, h2.2 htie] at hpick
      omega
    · rintro rfl htie
      simp [roundsUp, h2.2 htie] at hpick
  | true =>
    rw [hpick, if_pos rfl] at heven
    refine nearest_upper hN hv hvu hz ?_ ?_ ?_ ?_ ?_
    · rintro rfl
      simp [roundsUp] at hpick
    · rintro rfl
      simp [roundsUp] at hpick
    · rintro rfl
      refine lt_of_le_of_ne hv fun h => ?_
      simp [roundsUp, h0.2 h.symm] at hpick
    · rintro (rfl | rfl)
      · simp only [roundsUp, Bool.or_eq_true, Bool.and_eq_true, decide_eq_true_eq] at hpick
        rcases hpick with h | ⟨h, -⟩
        · exact (h1.1 h).le
        · exact (h2.1 h).ge
      · exact h3.1 (by simpa [roundsUp] using hpick)
    · rintro rfl htie
      have hodd : n % 2 = 1 := by simpa [roundsUp, h2.2 htie] using hpick
      exact heven (by omega)

end

end Sys2Proof.Machine
end

section
/-!
SUPPORT. The finite patterns of the floating formats and the rounding to them (R38, R40, R53; obligations O20 and O22).
-/

namespace Sys2Proof.Machine

/-! ### The value of a pattern -/

theorem scaled_mag (neg : Bool) (m e b : Nat) : (scaled neg m e b).mag = m * (2 : ℝ) ^ ((e : ℤ) - b) := by
  unfold scaled Exact.mag
  split
  next h =>
    rw [zpow_sub₀ two_ne_zero, zpow_natCast, zpow_natCast]
    push_cast
    rw [div_one, ← Nat.sub_add_cancel h, Nat.add_sub_cancel, pow_add]
    field_simp
  next h =>
    push_cast
    rw [← zpow_natCast, Nat.cast_sub (by omega), div_eq_mul_inv, ← zpow_neg, neg_sub]

theorem scaled_neg (neg : Bool) (m e b : Nat) : (scaled neg m e b).neg = neg := by
  unfold scaled; split <;> rfl

theorem scaled_den_pos (neg : Bool) (m e b : Nat) : 0 < (scaled neg m e b).den := by
  unfold scaled; split <;> simp

theorem fval_den_pos {f : Fmt} {x : Elem} {p : Exact} (h : fval f x = .fin p) : 0 < p.den := by
  unfold fval at h
  dsimp only at h
  split_ifs at h <;> simp only [FVal.fin.injEq] at h <;> exact h ▸ scaled_den_pos ..

/-- A finite pattern stands for an integer below 2^(m + 1) in units of 2^(E - 127 - m) for an exponent field E of 1 to 254. -/
theorem fval_fin_mag {f : Fmt} {q : Nat} {z : Exact} (h : fval f q = .fin z) :
    ∃ M E : Nat, M < 2 ^ (fracBits f + 1) ∧ 1 ≤ E ∧ z.mag = M * (2 : ℝ) ^ ((E : ℤ) - (127 + fracBits f : ℕ)) := by
  have hfr : q % 2 ^ fracBits f < 2 ^ fracBits f := Nat.mod_lt _ (by positivity)
  have hdouble : 2 ^ (fracBits f + 1) = 2 * 2 ^ fracBits f := pow_succ' 2 _
  unfold fval at h
  dsimp only at h
  split_ifs at h with h255 hzero h0 <;> cases h
  · exact ⟨_, 1, hfr.trans (by omega), le_rfl, scaled_mag ..⟩
  · exact ⟨_, _, (Nat.add_lt_add_left hfr _).trans_eq (by omega), Nat.one_le_iff_ne_zero.2 h0, scaled_mag ..⟩

/-- The sign bit of a floating format is above its fraction and its eight exponent bits. -/
theorem signBit_eq {f : Fmt} (hf : f.isFloat = true) : 2 ^ (fmtBits f - 1) = 256 * 2 ^ fracBits f := by
  cases f <;> first | rfl | cases hf

/-- The bits of the sign. -/
def signPat (f : Fmt) (neg : Bool) : Nat := if neg then 2 ^ (fmtBits f - 1) else 0

/-- A pattern with an exponent field below 255 is finite: its fields are its value. -/
theorem fval_signPat_add {f : Fmt} (hf : f.isFloat = true) (neg : Bool) {pat : Nat} (hp : pat < 255 * 2 ^ fracBits f) :
    fval f (signPat f neg + pat) = .fin (if pat / 2 ^ fracBits f = 0 then scaled neg (pat % 2 ^ fracBits f) 1 (127 + fracBits f)
      else scaled neg (2 ^ fracBits f + pat % 2 ^ fracBits f) (pat / 2 ^ fracBits f) (127 + fracBits f)) := by
  have hm : 0 < 2 ^ fracBits f := by positivity
  have hexp : pat / 2 ^ fracBits f < 255 := (Nat.div_lt_iff_lt_mul hm).2 hp
  have hneg : decide (2 ^ (fmtBits f - 1) ≤ signPat f neg + pat) = neg := by
    rw [signPat, signBit_eq hf]
    cases neg
    · rw [if_neg Bool.false_ne_true]
      exact decide_eq_false (by omega)
    · rw [if_pos rfl]
      exact decide_eq_true (by omega)
  have hlow : (signPat f neg + pat) % 2 ^ fracBits f = pat % 2 ^ fracBits f := by
    rw [signPat, signBit_eq hf]
    split <;> simp [Nat.add_comm]
  have hhigh : (signPat f neg + pat) / 2 ^ fracBits f % 256 = pat / 2 ^ fracBits f := by
    rw [signPat, signBit_eq hf]
    split
    · rw [Nat.add_comm, Nat.add_mul_div_right _ _ hm, Nat.add_mod_right, Nat.mod_eq_of_lt (by omega)]
    · rw [Nat.zero_add, Nat.mod_eq_of_lt (by omega)]
  unfold fval
  simp only [hneg, hlow, hhigh, if_neg (show pat / 2 ^ fracBits f ≠ 255 by omega)]
  split <;> rfl

/-- The pattern of n units of 2^(e - m), where n is below 2^m only for the least exponent. -/
def unitPat (f : Fmt) (e : Int) (n : Nat) : Nat :=
  if n < 2 ^ fracBits f then n else n - 2 ^ fracBits f + (e + 127).toNat * 2 ^ fracBits f

theorem fval_unitPat {f : Fmt} (hf : f.isFloat = true) (neg : Bool) {e : Int} {n : Nat} (he : -126 ≤ e)
    (hn : n ≤ 2 ^ (fracBits f + 1)) (hlow : n < 2 ^ fracBits f → e = -126) (hp : unitPat f e n < 255 * 2 ^ fracBits f) :
    ∃ y, fval f (signPat f neg + unitPat f e n) = .fin y ∧ y.neg = neg ∧ y.mag = n * (2 : ℝ) ^ (e - fracBits f) := by
  have hm : 0 < 2 ^ fracBits f := by positivity
  refine ⟨_, fval_signPat_add hf neg hp, by split <;> exact scaled_neg .., ?_⟩
  unfold unitPat at hp ⊢
  rw [pow_succ] at hn
  split
  next hlt =>
    rw [Nat.div_eq_of_lt hlt, if_pos rfl, Nat.mod_eq_of_lt hlt, scaled_mag, hlow hlt]
    congr 2
    push_cast
    ring
  next hge =>
    have hE : ((e + 127).toNat : ℤ) = e + 127 := Int.toNat_of_nonneg (by omega)
    rcases Nat.lt_or_ge n (2 * 2 ^ fracBits f) with hlt | hge2
    · have hr : n - 2 ^ fracBits f < 2 ^ fracBits f := by omega
      rw [Nat.add_mul_div_right _ _ hm, Nat.div_eq_of_lt hr, Nat.zero_add, if_neg (by omega), Nat.add_mul_mod_self_right,
        Nat.mod_eq_of_lt hr, scaled_mag, hE, Nat.add_sub_cancel' (by omega)]
      congr 2
      push_cast
      ring
    · have hn2 : n = 2 * 2 ^ fracBits f := by omega
      have hpat : n - 2 ^ fracBits f + (e + 127).toNat * 2 ^ fracBits f = ((e + 127).toNat + 1) * 2 ^ fracBits f := by
        rw [hn2, Nat.add_mul]; omega
      rw [hpat, Nat.mul_div_cancel _ hm, if_neg (by omega), Nat.mul_mod_left, Nat.add_zero, scaled_mag, hn2]
      push_cast
      rw [hE, show e + 127 + 1 - (127 + (fracBits f : ℤ)) = e - fracBits f + 1 by ring, zpow_add_one₀ two_ne_zero]
      ring

/-- No finite value is strictly between n and n + 1 units of 2^(e - m), where n is below 2^m only for the least exponent. -/
theorem fval_gap {f : Fmt} {q : Elem} {z : Exact} (hz : fval f q = .fin z) {e : Int} {n : Nat} (hlow : n < 2 ^ fracBits f → e = -126) :
    z.mag ≤ n * (2 : ℝ) ^ (e - fracBits f) ∨ n * (2 : ℝ) ^ (e - fracBits f) + (2 : ℝ) ^ (e - fracBits f) ≤ z.mag := by
  obtain ⟨M, E, hM, hE, hmag⟩ := fval_fin_mag hz
  have hu : (0 : ℝ) < 2 ^ (e - fracBits f) := by positivity
  rcases le_or_gt e ((E : ℤ) - 127) with hle | hgt
  · -- the value is a whole number of the units
    obtain ⟨k, hk⟩ := Int.le.dest hle
    have hwhole : z.mag = (M * 2 ^ k : ℕ) * (2 : ℝ) ^ (e - fracBits f) := by
      rw [hmag]
      push_cast
      rw [show (E : ℤ) - (127 + (fracBits f : ℤ)) = k + (e - fracBits f) by omega, zpow_add₀ two_ne_zero, zpow_natCast]
      ring
    rw [hwhole]
    rcases Nat.lt_or_ge n (M * 2 ^ k) with h | h
    · right
      have : ((n : ℝ) + 1) ≤ (M * 2 ^ k : ℕ) := by exact_mod_cast h
      nlinarith
    · left
      exact mul_le_mul_of_nonneg_right (by exact_mod_cast h) hu.le
  · -- the value is below 2^m units
    left
    have hn : 2 ^ fracBits f ≤ n := not_lt.1 fun h => by have := hlow h; omega
    have hexp : (2 : ℝ) ^ ((E : ℤ) - (127 + fracBits f : ℕ)) ≤ 2 ^ (e - fracBits f - 1) :=
      zpow_le_zpow_right₀ one_le_two (by push_cast; omega)
    have hMn : (M : ℝ) ≤ 2 * n := by exact_mod_cast (by rw [pow_succ'] at hM; omega : M ≤ 2 * n)
    rw [hmag]
    calc (M : ℝ) * 2 ^ ((E : ℤ) - (127 + fracBits f : ℕ)) ≤ 2 * n * 2 ^ (e - fracBits f - 1) :=
          mul_le_mul hMn hexp (by positivity) (by positivity)
      _ = n * 2 ^ (e - fracBits f) := by rw [zpow_sub_one₀ two_ne_zero]; ring

/-! ### The exponent of a quotient -/

theorem floorLog2_spec {num den : Nat} (hn : 0 < num) (hd : 0 < den) :
    (2 : ℝ) ^ floorLog2 num den ≤ num / den ∧ (num : ℝ) / den < 2 ^ (floorLog2 num den + 1) := by
  have hd' : (0 : ℝ) < den := by exact_mod_cast hd
  have hnlo : (2 : ℝ) ^ (Nat.log2 num : ℤ) ≤ num := by exact_mod_cast Nat.log2_self_le hn.ne'
  have hnhi : (num : ℝ) < 2 ^ ((Nat.log2 num : ℤ) + 1) := by exact_mod_cast Nat.lt_log2_self (n := num)
  have hdlo : (2 : ℝ) ^ (Nat.log2 den : ℤ) ≤ den := by exact_mod_cast Nat.log2_self_le hd.ne'
  have hdhi : (den : ℝ) < 2 ^ ((Nat.log2 den : ℤ) + 1) := by exact_mod_cast Nat.lt_log2_self (n := den)
  set l : ℤ := (Nat.log2 num : ℤ) - Nat.log2 den with hl
  -- l is the logarithm or one more
  have hhigh : (num : ℝ) / den < 2 ^ (l + 1) := by
    rw [div_lt_iff₀ hd']
    refine hnhi.trans_le (le_trans (le_of_eq ?_) (mul_le_mul_of_nonneg_left hdlo (by positivity)))
    rw [← zpow_add₀ two_ne_zero]
    congr 1
    omega
  have hlow : (2 : ℝ) ^ (l - 1) ≤ num / den := by
    rw [le_div_iff₀ hd']
    refine le_trans (mul_le_mul_of_nonneg_left hdhi.le (by positivity)) (le_trans (le_of_eq ?_) hnlo)
    rw [← zpow_add₀ two_ne_zero]
    congr 1
    omega
  have hge : (if 0 ≤ l then decide (den * 2 ^ l.toNat ≤ num) else decide (den ≤ num * 2 ^ (-l).toNat)) = true ↔ (2 : ℝ) ^ l ≤ num / den := by
    rw [le_div_iff₀ hd']
    split
    next h =>
      obtain ⟨k, hk⟩ := Int.eq_ofNat_of_zero_le h
      rw [hk, Int.toNat_natCast, zpow_natCast, decide_eq_true_eq, mul_comm]
      exact_mod_cast Iff.rfl
    next h =>
      obtain ⟨k, hk⟩ := Int.eq_ofNat_of_zero_le (show 0 ≤ -l by omega)
      rw [show l = -(k : ℤ) by omega, neg_neg, Int.toNat_natCast, zpow_neg, zpow_natCast, decide_eq_true_eq,
        inv_mul_le_iff₀ (by positivity), mul_comm]
      exact_mod_cast Iff.rfl
  have hval : floorLog2 num den = if (2 : ℝ) ^ l ≤ num / den then l else l - 1 := if_congr hge rfl rfl
  rw [hval]
  split
  next h => exact ⟨h, hhigh⟩
  next h => exact ⟨hlow, by rw [sub_add_cancel]; exact not_le.1 h⟩

/-! ### Rounding to a floating format -/

/-- The exponent of the units that a value is rounded to. -/
def roundExp (f : Fmt) (x : Exact) : ℤ := max (floorLog2 x.num x.den) (-126) - fracBits f

/-- The stand-in x is where a real value v is among the half units of 2^q: it is at or below, and at or above, the same of them. -/
def Stands (q : ℤ) (x : Exact) (v : ℝ) : Prop :=
  ∀ k : Nat, ((k : ℝ) * 2 ^ q / 2 ≤ v ↔ k * 2 ^ q / 2 ≤ x.mag) ∧ (v ≤ k * 2 ^ q / 2 ↔ x.mag ≤ k * 2 ^ q / 2)

theorem Stands.self (q : ℤ) (x : Exact) : Stands q x x.mag := fun _ => ⟨Iff.rfl, Iff.rfl⟩

/-- The units of a positive value and what is left of it, as the numerator and denominator that `roundF` divides. -/
theorem scaled_quotient {x : Exact} (hd : 0 < x.den) (q : ℤ) :
    let a := if 0 ≤ q then x.num else x.num * 2 ^ (-q).toNat
    let b := if 0 ≤ q then x.den * 2 ^ q.toNat else x.den
    0 < b ∧ x.mag = (a / b : ℝ) * 2 ^ q := by
  intro a b
  have hd' : (x.den : ℝ) ≠ 0 := by exact_mod_cast hd.ne'
  rcases le_or_gt 0 q with h | h
  · obtain ⟨k, rfl⟩ := Int.eq_ofNat_of_zero_le h
    simp only [a, b, if_pos h, Int.toNat_natCast, zpow_natCast]
    refine ⟨by positivity, ?_⟩
    push_cast
    rw [Exact.mag]
    field_simp
  · obtain ⟨k, hk⟩ := Int.eq_ofNat_of_zero_le (show 0 ≤ -q by omega)
    obtain rfl : q = -(k : ℤ) := by omega
    simp only [a, b, if_neg (not_le.2 h), neg_neg, Int.toNat_natCast, zpow_neg, zpow_natCast]
    refine ⟨hd, ?_⟩
    push_cast
    rw [Exact.mag]
    field_simp

/-- The remainder of a quotient says where its value stands in its unit. -/
theorem quotient_place {a b : Nat} (hb : 0 < b) (u : ℝ) (hu : 0 < u) :
    let n : ℝ := (a / b : ℕ)
    let v : ℝ := (a / b : ℝ) * u
    n * u ≤ v ∧ v < n * u + u ∧ (a % b = 0 ↔ v = n * u) ∧ (b < 2 * (a % b) ↔ n * u + u / 2 < v) ∧ (2 * (a % b) = b ↔ v = n * u + u / 2) := by
  intro n v
  have hb' : (0 : ℝ) < b := by exact_mod_cast hb
  have ha : (a : ℝ) = b * ((a / b : ℕ) : ℝ) + (a % b : ℕ) := by exact_mod_cast (Nat.div_add_mod a b).symm
  have hv : v = n * u + (a % b : ℕ) / b * u := by
    simp only [v, n]
    rw [ha]
    field_simp
  have hlt : ((a % b : ℕ) : ℝ) / b < 1 := (div_lt_one hb').2 (by exact_mod_cast Nat.mod_lt a hb)
  have hnonneg : (0 : ℝ) ≤ (a % b : ℕ) / b := by positivity
  have hzero : a % b = 0 ↔ ((a % b : ℕ) : ℝ) / b = 0 := by rw [div_eq_zero_iff, Nat.cast_eq_zero]; simp [hb'.ne']
  have hhalf : b < 2 * (a % b) ↔ 1 / 2 < ((a % b : ℕ) : ℝ) / b := by
    rw [lt_div_iff₀ hb', ← Nat.cast_lt (α := ℝ)]; push_cast; constructor <;> intro h <;> linarith
  have htie : 2 * (a % b) = b ↔ ((a % b : ℕ) : ℝ) / b = 1 / 2 := by
    rw [div_eq_iff hb'.ne', ← Nat.cast_inj (R := ℝ)]; push_cast; constructor <;> intro h <;> linarith
  rw [hzero, hhalf, htie, hv]
  generalize ((a % b : ℕ) : ℝ) / b = t at hlt hnonneg
  refine ⟨by nlinarith, by nlinarith, ⟨fun h => by rw [h]; ring, fun h => ?_⟩, ⟨fun h => by nlinarith, fun h => ?_⟩,
    ⟨fun h => by rw [h]; ring, fun h => ?_⟩⟩
  · exact (mul_eq_zero.1 (by linarith : t * u = 0)).resolve_right hu.ne'
  · exact lt_of_mul_lt_mul_right (by linarith) hu.le
  · exact mul_right_cancel₀ hu.ne' (by linarith)

theorem Stands.place {q : ℤ} {x : Exact} {v : ℝ} (h : Stands q x v) (n : Nat) :
    (n * 2 ^ q ≤ v ↔ n * 2 ^ q ≤ x.mag) ∧ (v < n * 2 ^ q + 2 ^ q ↔ x.mag < n * 2 ^ q + 2 ^ q) ∧ (v = n * 2 ^ q ↔ x.mag = n * 2 ^ q)
    ∧ (n * 2 ^ q + 2 ^ q / 2 < v ↔ n * 2 ^ q + 2 ^ q / 2 < x.mag) ∧ (v = n * 2 ^ q + 2 ^ q / 2 ↔ x.mag = n * 2 ^ q + 2 ^ q / 2) := by
  have h0 := h (2 * n)
  have h1 := h (2 * n + 1)
  have h2 := h (2 * n + 2)
  push_cast at h0 h1 h2
  rw [show (2 * (n : ℝ)) * 2 ^ q / 2 = n * 2 ^ q by ring] at h0
  rw [show (2 * (n : ℝ) + 1) * 2 ^ q / 2 = n * 2 ^ q + 2 ^ q / 2 by ring] at h1
  rw [show (2 * (n : ℝ) + 2) * 2 ^ q / 2 = n * 2 ^ q + 2 ^ q by ring] at h2
  refine ⟨h0.1, by rw [← not_le, ← not_le, h2.1], ?_, by rw [← not_le, ← not_le, h1.2], ?_⟩
  · rw [le_antisymm_iff, le_antisymm_iff, h0.1, h0.2]
  · rw [le_antisymm_iff, le_antisymm_iff, h1.1, h1.2]

theorem unitPat_mod_two {f : Fmt} (hf : f.isFloat = true) (neg : Bool) (e : ℤ) (n : Nat) :
    (signPat f neg + unitPat f e n) % 2 = n % 2 := by
  have hm : 2 ^ fracBits f % 2 = 0 := by cases f <;> rfl
  have hk : (e + 127).toNat * 2 ^ fracBits f % 2 = 0 := by rw [Nat.mul_mod, hm, Nat.mul_zero]
  have hs : signPat f neg % 2 = 0 := by rw [signPat, signBit_eq hf]; split <;> omega
  unfold unitPat
  split <;> omega

/-- The parts of a rounding that does not overflow: n units, r of b left over, and the pattern of the units picked. -/
theorem roundF_parts {f : Fmt} {rm : RMode} {x : Exact} (hn : 0 < x.num) (hov : (roundF f rm x).2.getLsbD 1 = false) :
    ∃ a b : Nat, a = (if 0 ≤ roundExp f x then x.num else x.num * 2 ^ (-roundExp f x).toNat)
      ∧ b = (if 0 ≤ roundExp f x then x.den * 2 ^ (roundExp f x).toNat else x.den)
      ∧ let n' := if roundsUp rm x.neg (a / b) (a % b) b then a / b + 1 else a / b
        unitPat f (max (floorLog2 x.num x.den) (-126)) n' < 255 * 2 ^ fracBits f
        ∧ roundF f rm x = (signPat f x.neg + unitPat f (max (floorLog2 x.num x.den) (-126)) n', flagIf (a % b != 0) flagNX) := by
  refine ⟨_, _, rfl, rfl, ?_⟩
  intro n'
  obtain ⟨p, hround⟩ : ∃ p, roundF f rm x = if 255 * 2 ^ fracBits f ≤ unitPat f (max (floorLog2 x.num x.den) (-126)) n'
      then (p, flagOF ||| flagNX)
      else (signPat f x.neg + unitPat f (max (floorLog2 x.num x.den) (-126)) n', flagIf _ flagNX) := ⟨_, if_neg hn.ne'⟩
  have hfit : ¬ 255 * 2 ^ fracBits f ≤ unitPat f (max (floorLog2 x.num x.den) (-126)) n' := by
    intro h
    rw [hround, if_pos h] at hov
    exact absurd hov (show ¬ (flagOF ||| flagNX).getLsbD 1 = false by decide)
  exact ⟨not_le.1 hfit, hround.trans (if_neg hfit)⟩

/-- A value has at most m + 1 bits of the units it is rounded to, and no fewer but with the least exponent. -/
theorem units_bounds {f : Fmt} {x : Exact} (hd : 0 < x.den) (hn : 0 < x.num) {n : Nat} (hlo : n * (2 : ℝ) ^ roundExp f x ≤ x.mag)
    (hhi : x.mag < n * (2 : ℝ) ^ roundExp f x + 2 ^ roundExp f x) :
    n < 2 ^ (fracBits f + 1) ∧ (n < 2 ^ fracBits f → max (floorLog2 x.num x.den) (-126) = -126) := by
  obtain ⟨hlog, hlog'⟩ := floorLog2_spec hn hd
  have hupos : (0 : ℝ) < 2 ^ roundExp f x := by positivity
  have hpow : (2 : ℝ) ^ max (floorLog2 x.num x.den) (-126) = 2 ^ fracBits f * 2 ^ roundExp f x := by
    rw [roundExp, ← zpow_natCast, ← zpow_add₀ two_ne_zero]; congr 1; ring
  refine ⟨?_, fun hlt => ?_⟩
  · have : (n : ℝ) * 2 ^ roundExp f x < 2 ^ (fracBits f + 1) * 2 ^ roundExp f x := by
      calc (n : ℝ) * 2 ^ roundExp f x ≤ x.mag := hlo
        _ < 2 ^ (floorLog2 x.num x.den + 1) := hlog'
        _ ≤ 2 ^ (max (floorLog2 x.num x.den) (-126) + 1) := zpow_le_zpow_right₀ one_le_two (by omega)
        _ = 2 ^ (fracBits f + 1) * 2 ^ roundExp f x := by rw [zpow_add_one₀ two_ne_zero, hpow]; ring
    exact_mod_cast lt_of_mul_lt_mul_right this hupos.le
  · by_contra hne
    have : (2 : ℝ) ^ fracBits f * 2 ^ roundExp f x < (n + 1) * 2 ^ roundExp f x := by
      calc (2 : ℝ) ^ fracBits f * 2 ^ roundExp f x = 2 ^ floorLog2 x.num x.den := by rw [← hpow]; congr 1; omega
        _ ≤ x.mag := hlog
        _ < (n + 1) * 2 ^ roundExp f x := by linarith
    have : 2 ^ fracBits f < n + 1 := by exact_mod_cast lt_of_mul_lt_mul_right this hupos.le
    omega

theorem roundsUp_zero (rm : RMode) (neg : Bool) (n : Nat) {b : Nat} (hb : 0 < b) : roundsUp rm neg n 0 b = false := by
  cases rm <;> simp [roundsUp, hb.ne, hb.ne']

/-- A value between N and N + u is the one that is picked only where it is N and nothing is left over. -/
theorem picked_eq_iff {rm : RMode} {neg : Bool} {n r b : Nat} {N u v : ℝ} (hb : 0 < b) (hhi : v < N + u) (h0 : r = 0 ↔ v = N) :
    (if roundsUp rm neg n r b then N + u else N) = v ↔ r = 0 := by
  constructor
  · intro h
    by_contra hr
    split at h
    · exact hhi.ne' h
    · exact hr (h0.2 h.symm)
  · rintro rfl
    rw [roundsUp_zero rm neg n hb, if_neg Bool.false_ne_true, h0.1 rfl]

/-- Rounding to a floating format, where it does not overflow, gives the neighbour that the mode names of every real value that the
rounded one stands for (R53), with its sign, and raises inexact where that value changes. -/
theorem roundF_nearest {f : Fmt} {rm : RMode} {x : Exact} (hf : f.isFloat = true) (hd : 0 < x.den) (hn : 0 < x.num) {v : ℝ}
    (hv : Stands (roundExp f x) x v) (hov : (roundF f rm x).2.getLsbD 1 = false) :
    ∃ y, fval f (roundF f rm x).1 = .fin y ∧ y.neg = x.neg ∧ (roundF f rm x).2 = (if y.mag = v then 0 else flagNX)
      ∧ ∀ q z, fval f q = .fin z →
        Nearest rm (withSign x.neg v) (withSign x.neg y.mag) (z.rat : ℝ) ((roundF f rm x).1 % 2 = 0) := by
  obtain ⟨a, b, ha, hb, hpat, hround⟩ := roundF_parts hn hov
  obtain ⟨hb0, hmag⟩ := scaled_quotient hd (roundExp f x)
  rw [← ha, ← hb] at hmag
  rw [← hb] at hb0
  obtain ⟨hxlo, hxhi, h0, h1, h2⟩ := quotient_place (a := a) hb0 ((2 : ℝ) ^ roundExp f x) (by positivity)
  rw [← hmag] at hxlo hxhi h0 h1 h2
  obtain ⟨hnlt, hlow⟩ := units_bounds hd hn hxlo hxhi
  -- v stands where the rounded value does
  obtain ⟨e0, e1, e2, e3, e4⟩ := hv.place (a / b)
  have hlo := e0.2 hxlo
  have hhi := e1.2 hxhi
  rw [← e2] at h0
  rw [← e3] at h1
  rw [← e4] at h2
  obtain ⟨y, hy, hyneg, hymag⟩ := fval_unitPat hf x.neg (le_max_right _ _) (by split <;> omega)
    (fun h => hlow (by split at h <;> omega)) hpat
  have hpick : y.mag = if roundsUp rm x.neg (a / b) (a % b) b
      then (a / b : ℕ) * (2 : ℝ) ^ roundExp f x + 2 ^ roundExp f x else (a / b : ℕ) * (2 : ℝ) ^ roundExp f x := by
    rw [hymag, roundExp]; split <;> push_cast <;> ring
  refine ⟨y, hround ▸ hy, hyneg, ?_, fun q z hz => ?_⟩
  · rw [hround, hpick]
    refine (if_congr ?_ rfl rfl).trans (ite_not _ _ _)
    rw [picked_eq_iff hb0 hhi h0, bne_iff_ne]
  · have habs : |(z.rat : ℝ)| = z.mag := by
      rw [z.cast_rat, withSign]
      split
      · rw [abs_neg, abs_of_nonneg z.mag_nonneg]
      · rw [abs_of_nonneg z.mag_nonneg]
    have hgap := habs ▸ fval_gap hz hlow
    have hparity : ((roundF f rm x).1 % 2 = 0) = ((if roundsUp rm x.neg (a / b) (a % b) b then a / b + 1 else a / b) % 2 = 0) := by
      rw [hround]
      exact congrArg (· = 0) (unitPat_mod_two hf ..)
    rw [hparity, hpick]
    cases x.neg with
    | false => exact nearest_roundsUp (by positivity) hlo hhi hgap h0 h1 h2 id
    | true =>
      have hmirror := nearest_roundsUp (rm := rm.mirror) (n := a / b) (z := -z.rat) (by positivity) hlo hhi (by rwa [abs_neg]) h0 h1 h2 id
      have h := hmirror.mirror
      rw [neg_neg, ← roundsUp_mirror] at h
      exact h

/-- Settles O20: a rounded value stands for itself. -/
theorem roundingPicksTheNeighbour : Obligations.RoundingPicksTheNeighbour := by
  unfold Obligations.RoundingPicksTheNeighbour
  intro f rm x hf hd hn r hov
  obtain ⟨y, hy, hneg, hflag, hnear⟩ := roundF_nearest hf hd hn (Stands.self _ x) hov
  have hcast : (x.rat : ℝ) = withSign x.neg x.mag ∧ (y.rat : ℝ) = withSign x.neg y.mag := ⟨x.cast_rat, hneg ▸ y.cast_rat⟩
  have hsame : y.rat = x.rat ↔ y.mag = x.mag := by
    rw [← Rat.cast_inj (α := ℝ), hcast.1, hcast.2, withSign, withSign]
    split <;> simp
  refine ⟨y, hy, hneg, ?_, ?_, fun q z hz _ => ?_⟩
  · rw [ne_eq, hsame, hflag]
    split <;> simp_all [flagNX]
  · rw [hsame, hflag]
    split <;> simp_all [flagNX]
  · have h := hnear q z hz
    rw [← hcast.1, ← hcast.2] at h
    unfold Nearest at h
    exact_mod_cast h

end Sys2Proof.Machine
end

section
/-!
SUPPORT. The elements of the vector members: absent inputs, integers and floating values (R43, R48, R180, R181; obligation O19).
-/

namespace Sys2Proof.Machine

/-! ### Present and absent inputs (R48) -/

theorem present_of_ne {f : Fmt} {x : Elem} (h : x ≠ absentOf f) : present f x = true := bne_iff_ne.2 h

theorem present_absent (f : Fmt) : present f (absentOf f) = false := bne_self_eq_false _

section
variable {f : Fmt} {x y : Elem} (hx : x ≠ absentOf f)
include hx

theorem other1_present (g : Elem → Elem × FlagSet) : other1 f g x = g x := if_pos (present_of_ne hx)

theorem other2_present (hy : y ≠ absentOf f) (g : Elem → Elem → Elem × FlagSet) : other2 f g x y = g x y := by
  rw [other2, present_of_ne hx, present_of_ne hy]; rfl

theorem combining_present (hy : y ≠ absentOf f) (one : Elem → Elem × FlagSet) (g : Elem → Elem → Elem × FlagSet) :
    combining f one g x y = g x y := by
  rw [combining, present_of_ne hx, present_of_ne hy]

theorem combining_lone (one : Elem → Elem × FlagSet) (g : Elem → Elem → Elem × FlagSet) :
    combining f one g x (absentOf f) = one x ∧ combining f one g (absentOf f) x = one x := by
  rw [combining, combining, present_of_ne hx, present_absent]; exact ⟨rfl, rfl⟩

end

theorem combining_none (f : Fmt) (one : Elem → Elem × FlagSet) (g : Elem → Elem → Elem × FlagSet) :
    combining f one g (absentOf f) (absentOf f) = (absentOf f, flagAP) := by
  rw [combining, present_absent]

theorem other1_absent (f : Fmt) (g : Elem → Elem × FlagSet) : other1 f g (absentOf f) = (absentOf f, 0) := by
  rw [other1, present_absent]; rfl

theorem other2_absent (f : Fmt) (g : Elem → Elem → Elem × FlagSet) (x : Elem) :
    other2 f g x (absentOf f) = (absentOf f, 0) ∧ other2 f g (absentOf f) x = (absentOf f, 0) := by
  rw [other2, other2, present_absent, Bool.and_false, Bool.false_and]; exact ⟨rfl, rfl⟩

/-- What a combining member delivers of a lone input (R48). -/
theorem passE_eq (f : Fmt) (x : Elem) :
    passE f x = if isNaN f x then (defaultNaN f, if (fval f x).snan then flagNV else 0) else (x, 0) := by
  unfold passE isNaN
  cases f.isFloat with
  | false => rfl
  | true => cases fval f x <;> rfl

/-! ### Integers (R43) -/

theorem fmtBits_pos (f : Fmt) : 0 < fmtBits f := by cases f <;> decide

/-- The model's reading of a pattern is its two's complement value. -/
theorem intVal_eq {f : Fmt} {x : Nat} (hx : x < 2 ^ fmtBits f) : intVal f x = signedAt (fmtBits f) x := by
  have hp : 2 ^ fmtBits f = 2 * 2 ^ (fmtBits f - 1) := by rw [← pow_succ', Nat.sub_add_cancel (fmtBits_pos f)]
  have hmod : (x : ℤ) % (2 ^ fmtBits f : ℕ) = x := Int.emod_eq_of_lt (by omega) (by exact_mod_cast hx)
  have hcast : (2 : ℤ) ^ fmtBits f = (2 ^ fmtBits f : ℕ) := by push_cast; rfl
  rw [intVal, signedAt, Int.bmod_def, hmod, hcast]
  generalize 2 ^ (fmtBits f - 1) = h at *
  generalize 2 ^ fmtBits f = m at *
  exact if_congr (show x < h ↔ (x : ℤ) < (m + 1) / 2 by omega) rfl rfl

theorem patternOf_signedAt {n x : Nat} (hx : x < 2 ^ n) : patternOf n (signedAt n x) = x := by
  rw [patternOf, signedAt, show (2 : ℤ) ^ n = (2 ^ n : ℕ) by push_cast; rfl, Int.bmod_emod, Int.emod_eq_of_lt (by omega) (by exact_mod_cast hx)]
  rfl

theorem patternOf_natCast {n x : Nat} (hx : x < 2 ^ n) : patternOf n (x : ℤ) = x := by
  rw [patternOf, Int.emod_eq_of_lt (by omega) (by exact_mod_cast hx)]
  rfl

theorem isFloat_of_isInt {f : Fmt} (hf : f.isInt = true) : f.isFloat = false := by
  cases f <;> first | rfl | cases hf

/-- The lesser and the greater of two integers. -/
theorem minMaxE_int {f : Fmt} (hf : f.isInt = true) {x y : Nat} (hx : x < 2 ^ fmtBits f) (hy : y < 2 ^ fmtBits f) :
    minMaxE f false x y = (patternOf (fmtBits f) (min (signedAt (fmtBits f) x) (signedAt (fmtBits f) y)), 0)
    ∧ minMaxE f true x y = (patternOf (fmtBits f) (max (signedAt (fmtBits f) x) (signedAt (fmtBits f) y)), 0) := by
  have hfl := isFloat_of_isInt hf
  have hmm (mx : Bool) : minMaxE f mx x y
      = (if decide (signedAt (fmtBits f) x < signedAt (fmtBits f) y) != mx then x else y, 0) := by
    simp only [minMaxE, isNaN, ltE, hfl, Bool.false_and, Bool.or_false, Bool.false_eq_true, if_false, intVal_eq hx, intVal_eq hy]
  rw [hmm, hmm]
  by_cases h : signedAt (fmtBits f) x < signedAt (fmtBits f) y
  · rw [min_eq_left h.le, max_eq_right h.le, patternOf_signedAt hx, patternOf_signedAt hy, decide_eq_true h]
    exact ⟨rfl, rfl⟩
  · rw [min_eq_right (not_lt.1 h), max_eq_left (not_lt.1 h), patternOf_signedAt hx, patternOf_signedAt hy, decide_eq_false h]
    exact ⟨rfl, rfl⟩

/-- A logical operation on integers: the result is its own pattern, but the absent code (R43). -/
theorem logicE_eq {f : Fmt} (op : Nat → Nat → Nat) {x y : Nat} (h : op x y < 2 ^ fmtBits f) :
    logicE f op x y = if op x y = absentOf f then (patternOf (fmtBits f) (-(2 ^ (fmtBits f - 1) - 1)), flagSA) else (op x y, 0) := by
  rw [logicE, wrapI, show intPat f (op x y : ℤ) = op x y from patternOf_natCast h]
  rfl

/-! ### Floating values (R181) -/

theorem Exact.cast_top (x : Exact) : (x.top : ℚ) = if x.neg then -(x.num : ℚ) else x.num := by
  unfold Exact.top; split <;> push_cast <;> rfl

theorem Exact.rat_eq_top (x : Exact) : x.rat = x.top / x.den := by rw [Exact.rat, Exact.cast_top]

theorem Exact.top_of_int (s : ℤ) (d : Nat) : Exact.top ⟨decide (s < 0), s.natAbs, d⟩ = s := by
  by_cases h : s < 0
  · rw [Exact.top, decide_eq_true h, if_pos rfl]; dsimp only; omega
  · rw [Exact.top, decide_eq_false h, if_neg Bool.false_ne_true]; dsimp only; omega

theorem Exact.add_spec (rm : RMode) {x y : Exact} (hx : 0 < x.den) (hy : 0 < y.den) :
    (x.add rm y).rat = x.rat + y.rat ∧ 0 < (x.add rm y).den := by
  have hx' : (x.den : ℚ) ≠ 0 := by exact_mod_cast hx.ne'
  have hy' : (y.den : ℚ) ≠ 0 := by exact_mod_cast hy.ne'
  have hsum : x.rat + y.rat = (x.top * y.den + y.top * x.den : ℤ) / (x.den * y.den) := by
    rw [x.rat_eq_top, y.rat_eq_top]; push_cast; field_simp
  unfold Exact.add
  dsimp only
  split
  next h =>
    rw [hsum, h]
    split <;> simp [Exact.rat]
  next h =>
    refine ⟨?_, Nat.mul_pos hx hy⟩
    rw [hsum, Exact.rat_eq_top, Exact.top_of_int]
    push_cast
    rfl

theorem Exact.negate_rat (x : Exact) : x.negate.rat = -x.rat := by
  unfold Exact.rat Exact.negate
  cases x.neg <;> simp [neg_div]

theorem Exact.mul_rat (x y : Exact) : (x.mul y).rat = x.rat * y.rat := by
  unfold Exact.rat Exact.mul
  cases x.neg <;> cases y.neg <;> simp <;> ring

theorem Exact.div_rat {x y : Exact} (hy : 0 < y.num) : (x.div y).rat = x.rat / y.rat := by
  unfold Exact.rat Exact.div
  cases x.neg <;> cases y.neg <;> simp <;> field_simp

/-- Flipping the top bit is adding it modulo the width. -/
theorem xor_topBit {k x : Nat} (hx : x < 2 ^ (k + 1)) : x ^^^ 2 ^ k = (x + 2 ^ k) % 2 ^ (k + 1) := by
  obtain ⟨q, r, hq, hr, rfl⟩ : ∃ q r, q < 2 ∧ r < 2 ^ k ∧ x = 2 ^ k * q + r :=
    ⟨x / 2 ^ k, x % 2 ^ k, (Nat.div_lt_iff_lt_mul (by positivity)).2 (by rw [pow_succ] at hx; omega), Nat.mod_lt _ (by positivity),
      (Nat.div_add_mod ..).symm⟩
  have hsum : (2 ^ k * q + r + 2 ^ k) % 2 ^ (k + 1) = 2 ^ k * (1 - q) + r := by
    rw [pow_succ]
    rcases (by omega : q = 0 ∨ q = 1) with rfl | rfl
    · rw [Nat.mod_eq_of_lt (by omega)]; omega
    · rw [show 2 ^ k * 1 + r + 2 ^ k = r + 2 ^ k * 2 by omega, Nat.add_mod_right, Nat.mod_eq_of_lt (by omega)]; omega
  rw [hsum]
  refine Nat.eq_of_testBit_eq fun i => ?_
  rw [Nat.testBit_xor, Nat.testBit_two_pow_mul_add _ hr, Nat.testBit_two_pow_mul_add _ hr, Nat.testBit_two_pow]
  by_cases hi : i < k
  · rw [if_pos hi, if_pos hi, decide_eq_false (by omega), Bool.xor_false]
  · obtain ⟨j, rfl⟩ := Nat.exists_eq_add_of_le (not_lt.1 hi)
    rw [if_neg hi, if_neg hi, Nat.add_sub_cancel_left]
    rcases (by omega : q = 0 ∨ q = 1) with rfl | rfl <;> cases j <;> simp [Nat.testBit_succ]

/-- Flipping the sign bit is adding it modulo the width. -/
theorem xor_signBit {f : Fmt} {x : Nat} (hx : x < 2 ^ fmtBits f) :
    Nat.xor x (2 ^ (fmtBits f - 1)) = (x + 2 ^ (fmtBits f - 1)) % 2 ^ fmtBits f := by
  obtain ⟨k, hk⟩ : ∃ k, fmtBits f = k + 1 := ⟨fmtBits f - 1, (Nat.sub_add_cancel (fmtBits_pos f)).symm⟩
  rw [hk] at hx ⊢
  exact xor_topBit hx

/-- Settles O19: each member on present inputs is its operation, and on absent ones what its class says. -/
theorem elementValues : Obligations.ElementValues := by
  unfold Obligations.ElementValues
  refine ⟨fun f rm x y hf hx hy hxa hya => ?_, fun f rm x y sub mx => ?_, fun f rm x y z p q r hf hxa hya hza hx hy => ?_⟩
  · intro n u v top wrapped clamped
    have hfl := isFloat_of_isInt hf
    have hu : intVal f x = u := intVal_eq hx
    have hv : intVal f y = v := intVal_eq hy
    have hmm := minMaxE_int hf hx hy
    refine ⟨?_, ?_, ?_, ?_, ?_, ?_, ?_, ?_, ?_, ?_, ?_, ?_, ?_, ?_, ?_⟩
    · rw [vaddE, combining_present hxa hya, hfl, hu, hv]; rfl
    · rw [vsubE, other2_present hxa hya, hfl, hu, hv]; rfl
    · rw [vmulE, other2_present hxa hya, hfl, hu, hv]; rfl
    · rw [vshlE, other2_present hxa hya, hu]; rfl
    · rw [vaddsE, combining_present hxa hya, hu, hv]; rfl
    · rw [vsubsE, other2_present hxa hya, hu, hv]; rfl
    · rw [vminmaxE, combining_present hxa hya]; exact hmm.1
    · rw [vminmaxE, combining_present hxa hya]; exact hmm.2
    · rw [vmagE, other1_present hxa, hfl, hu, Int.natCast_natAbs]; rfl
    · rw [vnegE, other1_present hxa, hfl, hu]; rfl
    · rw [vshrE, other2_present hxa hya]
    · rw [vsarE, other2_present hxa hya, hu, Int.fdiv_eq_ediv_of_nonneg _ (by positivity)]; rfl
    · rw [vlogicE, combining_present hxa hya]
      exact logicE_eq _ (Nat.and_lt_two_pow _ hy)
    · rw [vlogicE, combining_present hxa hya]
      exact logicE_eq _ (Nat.or_lt_two_pow hx hy)
    · rw [vlogicE, combining_present hxa hya]
      exact logicE_eq _ (Nat.xor_lt_two_pow hx hy)
  · intro e passed
    have hpass : passE f x = passed := passE_eq f x
    have hprod (sub : Bool) (hx : x ≠ e) (hy : y ≠ e) : vfmaE f rm sub x y e = productE f rm sub (mulV (fval f x) (fval f y)) := by
      rw [vfmaE, present_of_ne hx, present_of_ne hy, present_absent]; rfl
    have hnoprod (z : Nat) : vfmaE f rm sub e y z = (if present f z then passE f z else (e, flagAP))
        ∧ vfmaE f rm sub y e z = (if present f z then passE f z else (e, flagAP)) := by
      rw [vfmaE, vfmaE, present_absent, Bool.false_and, Bool.and_false]
      cases present f z <;> exact ⟨rfl, rfl⟩
    refine ⟨fun hx => ?_, combining_none .., combining_none .., combining_none .., fun o => combining_none .., ?_, ?_, (other2_absent ..).1,
      (other2_absent ..).2, (other2_absent ..).1, (other2_absent ..).2, other1_absent .., other1_absent .., (other2_absent ..).1,
      (other2_absent ..).1, (other2_absent ..).1, (other2_absent ..).1, (other2_absent ..).2, fun z => ?_, ?_,
      fun p q hx hy hp hq => ?_, fun dst => ?_, fun cond => ?_⟩
    · have hlone := combining_lone hx
      rw [← hpass]
      refine ⟨(hlone ..).1, (hlone ..).2, (hlone ..).1, (hlone ..).2, (hlone ..).1, (hlone ..).2, fun o => hlone .., fun _ => ?_⟩
      rw [(hnoprod x).1, (hnoprod x).2, present_of_ne hx]
      exact ⟨rfl, rfl⟩
    · rw [(hnoprod e).1, present_absent]; rfl
    · rw [(hnoprod e).2, present_absent]; rfl
    · rw [scaleE, present_absent]; rfl
    · rw [scaleE, show present .f32 0xFFFFFFFF = false from rfl, Bool.and_false]; rfl
    · rw [hprod false hx hy, hprod true hx hy, hp, hq]
      exact ⟨rfl, rfl⟩
    · rw [convE, present_absent]; rfl
    · rw [cmpE, cmpE, present_absent, Bool.and_false, Bool.false_and]
      exact ⟨rfl, rfl⟩
  · intro nan
    have hadd : vaddE f rm x y = addV f rm (fval f x) (fval f y) := by rw [vaddE, combining_present hxa hya, if_pos hf]
    have hmul : vmulE f rm x y = mulRound f rm (fval f x) (fval f y) := by rw [vmulE, other2_present hxa hya, if_pos hf]
    have hdiv : other2 f (fun x y => divV f rm (fval f x) (fval f y)) x y = divV f rm (fval f x) (fval f y) := other2_present hxa hya _
    refine ⟨fun hp hq => ?_, fun hp hq => ?_, fun hp hq h0 => ?_⟩
    · have hpd := fval_den_pos hp
      have hqd := fval_den_pos hq
      refine ⟨⟨p.add rm q, ?_⟩, ⟨p.add rm q.negate, ?_⟩, ⟨p.mul q, p.mul_rat q, Nat.mul_pos hpd hqd, rfl, ?_⟩, fun h0 => ?_, fun h0 => ?_,
        fun hr => ?_, ?_, ?_⟩
      · obtain ⟨hrat, hden⟩ := Exact.add_spec rm hpd hqd
        exact ⟨hrat, hden, by rw [hadd, hp, hq]; rfl⟩
      · obtain ⟨hrat, hden⟩ := Exact.add_spec rm (y := q.negate) hpd hqd
        refine ⟨by rw [hrat, q.negate_rat, sub_eq_add_neg], hden, ?_⟩
        rw [vsubE, other2_present hxa hya, if_pos hf, hp, hq]
        rfl
      · rw [hmul, hp, hq]; rfl
      · have hq0 := Nat.pos_of_ne_zero h0
        refine ⟨p.div q, Exact.div_rat hq0, Nat.mul_pos hpd hq0, rfl, ?_⟩
        rw [hdiv, hp, hq]
        exact if_neg h0
      · rw [hdiv, hp, hq]
        exact if_pos h0
      · have hrd := fval_den_pos hr
        have hfma (sub : Bool) : vfmaE f rm sub x y z = roundF f rm ((if sub then (p.mul q).negate else p.mul q).add rm r) := by
          rw [vfmaE, present_of_ne hxa, present_of_ne hya, present_of_ne hza, hp, hq, hr]
          cases sub <;> rfl
        obtain ⟨hrat, hden⟩ := Exact.add_spec rm (x := p.mul q) (Nat.mul_pos hpd hqd) hrd
        obtain ⟨hrat', hden'⟩ := Exact.add_spec rm (x := (p.mul q).negate) (Nat.mul_pos hpd hqd) hrd
        refine ⟨⟨_, by rw [hrat, p.mul_rat], hden, hfma false⟩, ⟨_, ?_, hden', hfma true⟩⟩
        rw [hrat', Exact.negate_rat, p.mul_rat]
        ring
      · rw [vmagE, other1_present hxa, if_pos hf, hp]
      · rw [vnegE, other1_present hxa, if_pos hf, hp]
        exact congrArg (·, _) (xor_signBit hx)
    · have hinf : divV f rm (.inf true) (.inf false) = nan ∧ addV f rm (.inf true) (.inf false) = nan := ⟨rfl, rfl⟩
      rw [hadd, hdiv, hp, hq]
      exact ⟨hinf.2, hinf.1⟩
    · have hprod : mulV (fval f x) (fval f y) = none := by rw [hp, hq]; exact if_pos h0
      refine ⟨by rw [hmul, mulRound, hprod]; rfl, fun w => ?_⟩
      rw [vfmaE, present_of_ne hxa, present_of_ne hya, hprod]
      cases present f w <;> rfl

end Sys2Proof.Machine
end

-- ==== Lanes of a vector register ====
section
/-!
SUPPORT. What stands in a vector register written from elements, the flags of several elements, and a register read
after a write.
-/

namespace Sys2Proof.Machine

/-- Digit i of packed elements is element i. -/
theorem packLanes_digit (n : Nat) (xs : List Nat) (i : Nat) :
    packLanes n xs / 2 ^ (n * i) % 2 ^ n = xs.getD i 0 % 2 ^ n := by
  induction xs generalizing i with
  | nil => simp [packLanes]
  | cons x xs ih =>
    cases i with
    | zero => simp [packLanes, Nat.add_mul_mod_self_left]
    | succ i =>
      have hx : x % 2 ^ n < 2 ^ n := Nat.mod_lt _ (by positivity)
      rw [packLanes, Nat.mul_succ, Nat.add_comm (n * i), pow_add, ← Nat.div_div_eq_div_mul,
        Nat.add_mul_div_left _ _ (by positivity), Nat.div_eq_of_lt hx, Nat.zero_add, ih]
      rfl

theorem packLanes_lt (n : Nat) (xs : List Nat) : packLanes n xs < 2 ^ (n * xs.length) := by
  induction xs with
  | nil => simp [packLanes]
  | cons x xs ih =>
    have hx : x % 2 ^ n < 2 ^ n := Nat.mod_lt _ (by positivity)
    calc packLanes n (x :: xs) < 2 ^ n + 2 ^ n * packLanes n xs := Nat.add_lt_add_right hx _
      _ = 2 ^ n * (packLanes n xs + 1) := by ring
      _ ≤ 2 ^ n * 2 ^ (n * xs.length) := Nat.mul_le_mul_left _ ih
      _ = 2 ^ (n * (x :: xs).length) := by rw [← pow_add, List.length_cons, Nat.mul_succ, Nat.add_comm]

theorem packLanes_lt_of_le {n m : Nat} {xs : List Nat} (h : n * xs.length ≤ m) : packLanes n xs < 2 ^ m :=
  (packLanes_lt n xs).trans_le (Nat.pow_le_pow_right two_pos h)

/-- The elements of a format fill a vector register (R171). -/
theorem fmtBits_mul_lanes (f : Fmt) : fmtBits f * f.lanes = 1024 := by cases f <;> rfl

theorem lanes_pos (f : Fmt) : 0 < f.lanes := by cases f <;> decide

/-- A lane of a register written from elements. -/
theorem lane_ofLanes (f : Fmt) {xs : List Nat} (h : xs.length ≤ f.lanes) (i : Nat) :
    lane f (ofLanes f xs) i = xs.getD i 0 % 2 ^ fmtBits f := by
  have hlen : fmtBits f * xs.length ≤ 1024 := (Nat.mul_le_mul_left _ h).trans_eq (fmtBits_mul_lanes f)
  have hlt := packLanes_lt_of_le hlen
  rw [lane, ofLanes, BitVec.toNat_ofNat, Nat.mod_eq_of_lt hlt, packLanes_digit]

theorem getD_map_range {α : Type} (g : Nat → α) (n i : Nat) (z : α) :
    ((List.range n).map g).getD i z = if i < n then g i else z := by
  split <;> simp [List.getD_eq_getElem?_getD, *]

/-- A lane of a register written from a function of the lane's number. -/
theorem lane_ofLanes_range (f : Fmt) (g : Nat → Nat) {i : Nat} (hi : i < f.lanes) :
    lane f (ofLanes f ((List.range f.lanes).map g)) i = g i % 2 ^ fmtBits f := by
  rw [lane_ofLanes f (by simp), getD_map_range, if_pos hi]

theorem lane_lt (f : Fmt) (v : VWord) (i : Nat) : lane f v i < 2 ^ fmtBits f := Nat.mod_lt _ (by positivity)

theorem getLsbD_foldl_or (fs : List FlagSet) (a : FlagSet) (j : Nat) :
    (fs.foldl (· ||| ·) a).getLsbD j = true ↔ a.getLsbD j = true ∨ ∃ g ∈ fs, g.getLsbD j = true := by
  induction fs generalizing a with
  | nil => simp
  | cons g fs ih => rw [List.foldl_cons, ih]; simp [or_assoc]

/-- A flag of several elements is a flag of one of them. -/
theorem getLsbD_flagOr (fs : List FlagSet) (j : Nat) :
    (flagOr fs).getLsbD j = true ↔ ∃ g ∈ fs, g.getLsbD j = true := by
  rw [flagOr, getLsbD_foldl_or]; simp

@[simp] theorem Regs.getV_setV_self (g : Regs) (r : VReg) (x : VWord) : (g.setV r x).getV r = x := by
  simp [Regs.getV, Regs.setV]

theorem Regs.getV_setV_ne (g : Regs) {r q : VReg} (h : q ≠ r) (x : VWord) : (g.setV r x).getV q = g.getV q := by
  have : r.toNat ≠ q.toNat := fun e => h (BitVec.eq_of_toNat_eq e.symm)
  simp [Regs.getV, Regs.setV, this]

/-- With AX clear or no active element absent, the examination of R175 passes. -/
theorem absentTrap_pass (s : State) {gd : Guard} {first : Option Nat} (h : gd.ax = true → first = none) (k : Res) :
    s.absentTrap gd first k = k := by
  unfold State.absentTrap
  cases hax : gd.ax with
  | false => rfl
  | true => rw [h hax]

theorem not_present_iff (f : Fmt) (x : Nat) : present f x = false ↔ x = absentOf f := by
  rw [present, bne_eq_false_iff_eq]

theorem absentIndex_one_eq_none {f : Fmt} {p : PWord} {v : VWord}
    (h : ∀ i, i < f.lanes → active f p i = true → lane f v i ≠ absentOf f) : absentIndex f p [v] = none := by
  refine List.find?_eq_none.2 fun i hi hbad => ?_
  simp only [List.any_cons, List.any_nil, Bool.or_false, Bool.and_eq_true, Bool.not_eq_true',
    not_present_iff] at hbad
  exact h i (List.mem_range.1 hi) hbad.1 hbad.2

end Sys2Proof.Machine
end

-- ==== Reductions and scans ====
section
/-!
SUPPORT. The tree of R55 by its nodes, the blocks of R56, and O23.
-/

namespace Sys2Proof.Machine

variable (f : Fmt) (op : RedOp) (rm : RMode)

/-- The leaves one level up the tree. -/
def pairLeaf (leaf : Nat → Contrib) (i : Nat) : Contrib := combine f op rm (leaf (2 * i)) (leaf (2 * i + 1))

theorem pairUp_range (leaf : Nat → Contrib) (n : Nat) :
    pairUp f op rm ((List.range (2 * n)).map leaf) = (List.range n).map (pairLeaf f op rm leaf) := by
  induction n generalizing leaf with
  | zero => rfl
  | succ n ih =>
    have hsplit : (List.range (2 * (n + 1))).map leaf
        = leaf 0 :: leaf 1 :: (List.range (2 * n)).map fun i => leaf (i + 2) := by
      rw [Nat.mul_succ, List.range_succ_eq_map, List.range_succ_eq_map]
      simp [Function.comp_def]
    rw [hsplit, pairUp, ih, List.range_succ_eq_map]
    simp only [List.map_cons, List.map_map]
    rfl

/-- A node over the leaves is the node one level lower over the pairs. -/
theorem treeNode_pairLeaf (leaf : Nat → Contrib) (k i : Nat) :
    treeNode f op rm (pairLeaf f op rm leaf) k i = treeNode f op rm leaf (k + 1) i := by
  induction k generalizing i with
  | zero => rfl
  | succ k ih => rw [treeNode, ih, ih]; rfl

theorem treeReduce_range (leaf : Nat → Contrib) (k : Nat) :
    treeReduce f op rm k ((List.range (2 ^ k)).map leaf) = treeNode f op rm leaf k 0 := by
  induction k generalizing leaf with
  | zero => rfl
  | succ k ih => rw [treeReduce, pow_succ', pairUp_range, ih, treeNode_pairLeaf]

theorem treeLevels_range (leaf : Nat → Contrib) {k a : Nat} (ha : a ≤ k) :
    (treeLevels f op rm k ((List.range (2 ^ k)).map leaf)).getD a []
      = (List.range (2 ^ (k - a))).map (treeNode f op rm leaf a) := by
  induction k generalizing leaf a with
  | zero => obtain rfl := Nat.le_zero.1 ha; rfl
  | succ k ih =>
    cases a with
    | zero => rfl
    | succ a =>
      rw [treeLevels, pow_succ', pairUp_range, List.getD_cons_succ, ih _ (Nat.le_of_succ_le_succ ha),
        Nat.add_sub_add_right]
      exact List.map_congr_left fun i _ => treeNode_pairLeaf f op rm leaf a i

theorem pow_log2_lanes : 2 ^ Nat.log2 f.lanes = f.lanes := by cases f <;> decide +kernel

/-- The blocks of R56, for every length a scan has: one for each bit of the length. -/
theorem scanBlocks_eq : ∀ n < 129, scanBlocks 7 n 0
    = ((List.range 8).reverse.filter fun a => n.testBit a).map fun a => (a, 2 * (n / 2 ^ (a + 1))) := by
  decide +kernel

/-- The block of a bit of the length ends where the length does at the latest. -/
theorem block_index_lt {n a L : Nat} (hn : n ≤ 2 ^ L) (hbit : n.testBit a = true) :
    a ≤ L ∧ 2 * (n / 2 ^ (a + 1)) < 2 ^ (L - a) := by
  have hodd : n / 2 ^ a % 2 = 1 := by
    rw [Nat.testBit_eq_decide_div_mod_eq] at hbit; exact of_decide_eq_true hbit
  have hge : 2 ^ a ≤ n := Nat.ge_two_pow_of_testBit hbit
  have ha : a ≤ L := (Nat.pow_le_pow_iff_right (by decide)).1 (hge.trans hn)
  refine ⟨ha, ?_⟩
  have hdiv : n / 2 ^ a ≤ 2 ^ (L - a) := by
    rw [Nat.div_le_iff_le_mul_add_pred (by positivity), ← pow_add, Nat.add_sub_cancel' ha]; omega
  rw [pow_succ, ← Nat.div_div_eq_div_mul]
  omega

theorem scanLane_range (leaf : Nat → Contrib) {i : Nat} (hi : i < f.lanes) :
    scanLane f op rm (treeLevels f op rm (Nat.log2 f.lanes) ((List.range f.lanes).map leaf)) i
      = scanNode f op rm leaf i := by
  have hl : f.lanes ≤ 128 := by cases f <;> decide
  rw [scanLane, scanNode, scanBlocks_eq _ (by omega), List.map_map]
  congr 1
  refine List.map_congr_left fun a ha => ?_
  obtain ⟨hle, hlt⟩ := block_index_lt ((Nat.succ_le_of_lt hi).trans_eq (pow_log2_lanes f).symm) (List.mem_filter.1 ha).2
  show List.getD (List.getD _ a []) _ _ = _
  conv_lhs => rw [← pow_log2_lanes f, pow_log2_lanes f]
  rw [show (List.range f.lanes) = List.range (2 ^ Nat.log2 f.lanes) by rw [pow_log2_lanes], treeLevels_range f op rm leaf hle,
    getD_map_range, if_pos hlt]

/-- A lane's contribution to a reduction or scan: none of an inactive or absent lane (R188). -/
def laneLeaf (p : PWord) (v : VWord) (i : Nat) : Contrib :=
  if active f p i && present f (lane f v i) then ⟨some (lane f v i), 1, 0⟩ else ⟨none, 0, 0⟩

theorem contribs_eq (p : PWord) (v : VWord) : contribs f p v = (List.range f.lanes).map (laneLeaf f p v) := by
  refine List.map_congr_left fun i _ => ?_
  unfold laneLeaf contribOf
  cases active f p i <;> cases present f (lane f v i) <;> rfl

theorem contribOut_fst (c : Contrib) : (contribOut f c).1 = c.val.getD (absentOf f) := by
  unfold contribOut; cases c.val <;> rfl

/-- A result without contributors raises absent-produced. -/
theorem contribOut_flag {c : Contrib} (h : c.val = none) : (contribOut f c).2.getLsbD 4 = true := by
  rw [contribOut, h]; simp [flagAP]

theorem countElem_fst (n : Nat) : (countElem f n).1 = Nat.min n (2 ^ fmtBits f - 1) := by
  unfold countElem
  split
  · exact (Nat.min_eq_left (by omega)).symm
  · exact (Nat.min_eq_right (by omega)).symm

theorem countElem_fst_mod (n : Nat) : (countElem f n).1 % 2 ^ fmtBits f = Nat.min n (2 ^ fmtBits f - 1) := by
  have hpos : 0 < 2 ^ fmtBits f := by positivity
  rw [countElem_fst]
  exact Nat.mod_eq_of_lt ((Nat.min_le_right _ _).trans_lt (Nat.sub_lt hpos one_pos))

/-- What a scan leaves in lane i: the blocks up to it, or those before it where the scan is exclusive (R193). -/
def scanAt (ex : Bool) (leaf : Nat → Contrib) (i : Nat) : Contrib :=
  if ex then (if i = 0 then ⟨none, 0, 0⟩ else scanNode f op rm leaf (i - 1)) else scanNode f op rm leaf i

/-- The contributions a scan's lanes deliver are those of the blocks. -/
theorem vscan_contribs (ex : Bool) (p : PWord) (v : VWord) :
    ((List.range f.lanes).map fun i =>
      if ex then (if i = 0 then (⟨none, 0, 0⟩ : Contrib)
        else scanLane f op rm (treeLevels f op rm (Nat.log2 f.lanes) (contribs f p v)) (i - 1))
      else scanLane f op rm (treeLevels f op rm (Nat.log2 f.lanes) (contribs f p v)) i)
    = (List.range f.lanes).map (scanAt f op rm ex (laneLeaf f p v)) := by
  refine List.map_congr_left fun i hi => ?_
  have hlt : i < f.lanes := List.mem_range.1 hi
  rw [contribs_eq, scanLane_range f op rm _ hlt, scanLane_range f op rm _ (by omega : i - 1 < f.lanes)]
  rfl

theorem vreduceV_eq (p : PWord) (v : VWord) :
    let c := treeNode f op rm (laneLeaf f p v) (Nat.log2 f.lanes) 0
    vreduceV f op rm p v
      = (ofLanes f [(contribOut f c).1], ofLanes f [(countElem f c.count).1], (contribOut f c).2, (countElem f c.count).2) := by
  have h := treeReduce_range f op rm (laneLeaf f p v) (Nat.log2 f.lanes)
  rw [pow_log2_lanes, ← contribs_eq] at h
  simp only [vreduceV, h]

theorem vscanV_eq (ex : Bool) (p : PWord) (v : VWord) :
    let cs := (List.range f.lanes).map (scanAt f op rm ex (laneLeaf f p v))
    vscanV f op ex rm p v
      = (ofLanes f ((cs.map (contribOut f)).map (·.1)), ofLanes f ((cs.map fun c => countElem f c.count).map (·.1)),
        flagOr ((cs.map (contribOut f)).map (·.2)), flagOr ((cs.map fun c => countElem f c.count).map (·.2))) := by
  simp only [vscanV, vscan_contribs]

/-- A lane of a register that holds one element. -/
theorem lane_ofLanes_one (x : Nat) (i : Nat) :
    lane f (ofLanes f [x]) i = if i = 0 then x % 2 ^ fmtBits f else 0 := by
  have h1 : [x].length ≤ f.lanes := lanes_pos f
  rw [lane_ofLanes f h1]
  cases i <;> simp

/-- What a reduction or scan does with its result `r`, its counts and its flags, where the examination of R175 passes:
t has the result in v[d], the counts in D4 where it is not 0, the flags, the PC moved, and nothing else changed. -/
structure State.Counted (s t : State) (gd : Guard) (d : VReg) (r : VWord × VWord × FlagSet × FlagSet) : Prop where
  frame : t = { s with core := { s.core with regs := t.core.regs, pc := laFrom s.core.pc gd.len } }
  regs : t.core.regs = { s.core.regs with v := t.core.regs.v, flags := t.core.regs.flags }
  others : ∀ q, q ≠ d → (q ≠ gd.d4 ∨ gd.d4 = 0) → t.rv q = s.rv q
  result : t.rv d = r.1
  counts : gd.d4 ≠ 0 → t.rv gd.d4 = r.2.1
  flags : ∀ j : Nat, r.2.2.1.getLsbD j = true → t.core.regs.flags.getLsbD j = true

theorem vecCounted_next {s : State} {gd : Guard} {d a : VReg}
    (hax : gd.ax = true → ∀ i, i < f.lanes → active f (s.guard gd) i = true → lane f (s.rv a) i ≠ absentOf f)
    (hd4 : gd.d4 = 0 ∨ gd.d4 ≠ d) (r : VWord × VWord × FlagSet × FlagSet) :
    ∃ t, s.vecCounted f gd d a r = .next t ∧ s.Counted t gd d r := by
  rw [State.vecCounted, absentTrap_pass s fun h => absentIndex_one_eq_none (hax h)]
  dsimp only
  by_cases h0 : gd.d4 = 0
  · rw [if_pos h0, done_eq]
    refine ⟨_, rfl, ⟨rfl, rfl, fun q hq _ => Regs.getV_setV_ne _ hq _, Regs.getV_setV_self _ _ _, fun h => absurd h0 h,
      fun j hj => ?_⟩⟩
    show (s.core.regs.flags ||| r.2.2.1).getLsbD j = true
    rw [BitVec.getLsbD_or, hj, Bool.or_true]
  · have hne : d ≠ gd.d4 := fun e => hd4.elim h0 fun h => h e.symm
    rw [if_neg h0, done_eq]
    refine ⟨_, rfl, ⟨rfl, rfl, fun q hq h4 => ?_, ?_, fun _ => Regs.getV_setV_self _ _ _, fun j hj => ?_⟩⟩
    · exact (Regs.getV_setV_ne _ (h4.resolve_right h0) _).trans (Regs.getV_setV_ne _ hq _)
    · exact (Regs.getV_setV_ne _ hne _).trans (Regs.getV_setV_self _ _ _)
    · show (s.core.regs.flags ||| r.2.2.1 ||| r.2.2.2).getLsbD j = true
      rw [BitVec.getLsbD_or, BitVec.getLsbD_or, hj, Bool.or_true, Bool.true_or]

/-- A node on two present values is the element operation of the same name, the integer ADD the clamped one. -/
theorem nodeE_present {x y : Nat} (hx : x ≠ absentOf f) (hy : y ≠ absentOf f) :
    nodeE f op rm x y = match op with
      | .add => if f.isFloat then vaddE f rm x y else vaddsE f x y
      | .min => vminmaxE f false x y
      | .max => vminmaxE f true x y
      | .and => vlogicE f Nat.land x y
      | .or => vlogicE f Nat.lor x y
      | .xor => vlogicE f Nat.xor x y := by
  cases op with
  | add =>
    rw [vaddE, vaddsE, combining_present hx hy, combining_present hx hy]
    cases h : f.isFloat <;> simp [nodeE, h]
  | min => exact (combining_present hx hy _ _).symm
  | max => exact (combining_present hx hy _ _).symm
  | and => exact (combining_present hx hy _ _).symm
  | or => exact (combining_present hx hy _ _).symm
  | xor => exact (combining_present hx hy _ _).symm

end Sys2Proof.Machine

namespace Sys2Proof

open Machine

/-- Settles O23: the levels of the model's tree are the nodes of R55, its blocks the bits of the lane's number. -/
theorem reductionAndScanTrees : Obligations.ReductionAndScanTrees := by
  refine ⟨fun s f gd op ex d a hax hd4 => ⟨?_, ?_⟩, fun f op rm x y m n g h => ⟨rfl, ?_, ?_, fun hx hy => ?_⟩⟩
  · obtain ⟨t, ht, hc⟩ := vecCounted_next f hax hd4 (vreduceV f op s.core.regs.rm (s.guard gd) (s.rv a))
    rw [vreduceV_eq] at hc
    refine ⟨t, ht, ⟨hc.frame, hc.regs, hc.others⟩, fun i _ => ?_, fun h4 i _ => ?_, fun hnone => hc.flags 4 (contribOut_flag f hnone)⟩
    · rw [hc.result, lane_ofLanes_one, contribOut_fst]; rfl
    · rw [hc.counts h4, lane_ofLanes_one, countElem_fst_mod]; rfl
  · obtain ⟨t, ht, hc⟩ := vecCounted_next f hax hd4 (vscanV f op ex s.core.regs.rm (s.guard gd) (s.rv a))
    rw [vscanV_eq] at hc
    simp only [List.map_map] at hc
    refine ⟨t, ht, ⟨hc.frame, hc.regs, hc.others⟩, fun i hi => ?_, fun h4 i hi => ?_, fun ⟨i, hi, hnone⟩ => hc.flags 4 ?_⟩
    · rw [hc.result, lane_ofLanes_range f _ hi, Function.comp_apply, Function.comp_apply, contribOut_fst]; rfl
    · rw [hc.counts h4, lane_ofLanes_range f _ hi, Function.comp_apply, Function.comp_apply, countElem_fst_mod]; rfl
    · exact (getLsbD_flagOr _ _).2 ⟨_, List.mem_map.2 ⟨i, List.mem_range.2 hi, rfl⟩, contribOut_flag f hnone⟩
  · simp only [combine, passE_eq]
  · simp only [combine, passE_eq]
  · exact congrArg (fun e : Elem × FlagSet => (⟨some e.1, m + n, g ||| h ||| e.2⟩ : Contrib)) (nodeE_present f op rm hx hy)

end Sys2Proof
end

-- ==== Deaths of supervisors ====
section
/-!
SUPPORT. O8 fails: its clause on a supervisor's one child asks nothing of the supervisor's open region, whose discard (R97, R100) releases
the child entries that its uncommitted SUPCFG operations reserved. Where such an operation names an entry that is in use, the entry goes
before the supervisor's children are read (R316), and the child lives on.
-/

namespace Sys2Proof.Machine

/-- Actor 5 of context 1, the supervisor. -/
def bossId : ActorId := ⟨1, 5⟩
/-- Actor 6 of context 1, its child. -/
def childId : ActorId := ⟨1, 6⟩

/-- A supervisor record whose one child is `childId`, in entry 0. -/
def oneChild : SuperRec := ⟨true, [], [(childWord 0 0, mkName 0 1 6 2), (childWord 0 1, 32)], []⟩

/-- The supervisor runs a firing in slot 3 of core 0, its child is resident in slot 4, and the open region holds a SUPCFG that adds a child in
entry 0, which is in use. -/
def bossRunning : State :=
  { State.reset with
    core := { State.reset.core with
      run := .firing 3
      slots := [(3, ⟨.running, some bossId, none⟩)]
      openB := [⟨.actor (.supcfg 1 0 0 []), none, ⟨.work 0, some bossId, 7⟩, 1⟩] }
    acts := { State.reset.acts with
      tab := [(bossId.key, { ActorRec.free with st := .resident, gen := 7, slot := 3 }),
        (childId.key, { ActorRec.free with st := .resident, gen := 2, slot := 4 })]
      supers := [(bossId.key, oneChild)] } }

/-- The child of the supervisor that dies there stays resident. -/
theorem bossRunning_kill_child : ((bossRunning.kill bossId 1).actor childId).st = .resident := by decide +kernel

end Sys2Proof.Machine

namespace Sys2Proof

open Machine

/-- Refutes O8: the supervisor of `bossRunning` dies, and its one child, resident here, does not leave. -/
theorem not_recoverableTrapsAndTheirReturn : ¬ Obligations.RecoverableTrapsAndTheirReturn := by
  rintro ⟨-, -, hends⟩
  obtain ⟨-, hkeeper, -⟩ := hends bossRunning 0 1 0 (by decide)
  obtain ⟨-, ⟨hleaving, -, -⟩, -⟩ := hkeeper bossId 0 (oneChild.child 0) childId
    (by decide +kernel) (by decide +kernel) (by decide +kernel) (by decide +kernel)
    (by decide) (by decide +kernel) (by decide +kernel) (by decide +kernel) (by decide +kernel)
  rw [bossRunning_kill_child] at hleaving
  exact absurd hleaving (by decide)

end Sys2Proof
end

-- ==== Messages, strands and the packets of boot mode ====
section
/-!
SUPPORT. The mesh operations at issue, the events of messages, strands and multicast, the packets of boot mode, and O24.
-/

namespace Sys2Proof.Machine

/-- An instruction of eight bytes whose one entry finds room. -/
theorem withEntries_done {s : State} (k : EntryKind) (rel : Option Scope) (h : s.room 1 = .ok) :
    s.withEntries [s.entry k rel] (fun t => t.done 8)
      = .next ((s.buffered [⟨k, rel, s.who, s.ctx⟩]).atPc (laFrom s.core.pc 8)) := by
  rw [withEntries_ok h, done_eq, buffered_pc]; rfl

/-! ## Mesh operations at issue -/

section
variable {s : State} {pos : Nat}

/-- The strand entry of a work core is its router's. -/
theorem ownStrand_work (h : s.focus = .work pos) (k : Nat) : s.ownStrand k = s.strandAt (.router pos) k := by
  rw [State.ownStrand, h]

theorem strandMine_iff (h : s.focus = .work pos) (k : Nat) :
    s.strandMine k = true ↔ strandEn (s.strandAt (.router pos) k) = true ∧ strandCtx (s.strandAt (.router pos) k) = s.ctx := by
  rw [State.strandMine, ownStrand_work h, Bool.and_eq_true, decide_eq_true_eq]

/-- The lanes an NRED contributes: those active and present (R134). -/
theorem nredLanes_eq (f : Fmt) (p : PWord) (v : VWord) :
    ((List.range f.lanes).map fun i => if active f p i ∧ present f (lane f v i) then some (lane f v i) else none)
      = (List.range f.lanes).map fun i =>
          if active f p i = true ∧ lane f v i ≠ absentOf f then some (lane f v i) else none := by
  simp only [present, bne_iff_ne]

theorem isLogic_float {f : Fmt} {op : RedOp} (h : f.isFloat = true → op = .add ∨ op = .min ∨ op = .max) :
    (isLogic op && f.isFloat) = false := by
  cases hf : f.isFloat with
  | false => exact Bool.and_false _
  | true => obtain rfl | rfl | rfl := h hf <;> rfl

theorem exec_nred (hw : s.focus = .work pos) {f : Fmt} {op : RedOp} {k : BitVec 4} {b : SReg}
    (hmine : s.strandMine k.toNat = true) (hop : strandOpOf (strandOp (s.strandAt (.router pos) k.toNat)) = some op)
    (hf : strandFmtOf (strandFmt (s.strandAt (.router pos) k.toNat)) = some f)
    (hlogic : f.isFloat = true → op = .add ∨ op = .min ∨ op = .max)
    (hup : strandUp (s.strandAt (.router pos) k.toNat) ≤ 5) (hal : la (s.rs b) % 512 = 0)
    (hown : s.mayReach (la (s.rs b)) 512 = true) (hroom : s.room 1 = .ok) (g : PReg) (a : VReg) :
    exec (.nred f g a b k) s = .next ((s.buffered [⟨.nred k.toNat (la (s.rs b)) f
      ((List.range f.lanes).map fun i =>
        if active f (s.rp g) i = true ∧ lane f (s.rv a) i ≠ absentOf f then some (lane f (s.rv a) i) else none)
      (s.core.slot?.getD 64), none, s.who, s.ctx⟩]).atPc (laFrom s.core.pc 8)) := by
  show execNred f g a b k s = _
  have hup' : ¬ 5 < strandUp (s.strandAt (.router pos) k.toNat) := by omega
  simp only [execNred, ownStrand_work hw, hop, hf, isLogic_float hlogic, bne_self_eq_false, hup', decide_false, Bool.or_false,
    Bool.false_eq_true, if_false, hal, ne_eq, not_true_eq_false, hown, Bool.not_true, hmine]
  rw [withEntries_done _ _ hroom, nredLanes_eq]

theorem exec_mcast {a : SReg} {k : BitVec 4} (hmine : s.strandMine k.toNat = true) (hal : la (s.rs a) % 512 = 0)
    (hown : s.mayReach (la (s.rs a)) 512 = true) (hroom : s.room 1 = .ok) :
    exec (.mcast a k) s = .next ((s.buffered [⟨.mcast ⟨.mcast (la (s.rs a)) k.toNat [] 0, .queued, .core, false, false, s.who,
      s.ctx, false⟩, none, s.who, s.ctx⟩]).atPc (laFrom s.core.pc 8)) := by
  show execMcast a k s = _
  simp only [execMcast, hal, ne_eq, not_true_eq_false, if_false, hown, Bool.not_true, Bool.false_eq_true, hmine]
  exact withEntries_done _ _ hroom

/-- A message to a core of the context's range enters the store buffer as a release (R33, R136). -/
theorem exec_nsend (hw : s.focus = .work pos) {sc : Scope} {a : SReg} {b : VReg} {tag : Word}
    (hlo : s.ctxCbase s.ctx ≤ (s.rs a).toNat) (hhi : (s.rs a).toNat < s.ctxCbase s.ctx + s.ctxClen s.ctx)
    (hroom : s.room 1 = .ok) :
    exec (.nsend sc a b tag) s = .next (((s.buffered [⟨.nsend (s.rs a).toNat
      ((List.range 64).map fun i => (s.rv b).extractLsb' (8 * i) 8) tag, some (s.clamp sc).1, s.who, s.ctx⟩]).atPc
        (laFrom s.core.pc 8)).flagged (if (s.clamp sc).2 then flagSC else 0)) := by
  show execNsend sc a b tag s = _
  have hreg : s.focus.regions = true := by rw [hw]; rfl
  have hok : ¬ (!s.focus.regions ∨ (s.rs a).toNat < s.ctxCbase s.ctx ∨ s.ctxCbase s.ctx + s.ctxClen s.ctx ≤ (s.rs a).toNat) := by
    simp only [hreg, Bool.not_true, Bool.false_eq_true, false_or]; omega
  unfold execNsend
  rw [if_neg hok, withEntries_ok hroom, done_eq, clamped_eq]
  show Host.Outcome.next (State.atPc _ (laFrom (s.buffered _).core.pc 8)) = _
  rw [buffered_pc]; rfl

theorem exec_nsend_refused {sc : Scope} {a : SReg} {b : VReg} {tag : Word}
    (h : (s.rs a).toNat < s.ctxCbase s.ctx ∨ s.ctxCbase s.ctx + s.ctxClen s.ctx ≤ (s.rs a).toNat) :
    exec (.nsend sc a b tag) s = .next (s.fatal 0x44 4 0) := if_pos (Or.inr h)

theorem exec_nsendRaw (sc : Scope) (a : SReg) (b : VReg) (hp : s.priv = 3) (hroom : s.room 1 = .ok) :
    exec (.nsendRaw sc a b) s
      = .next ((s.buffered [⟨.nsendRaw (s.rs a), none, s.who, s.ctx⟩]).atPc (laFrom s.core.pc 8)) :=
  (if_neg (by omega)).trans (withEntries_done _ _ hroom)

theorem exec_nsendRaw_privilege (sc : Scope) (a : SReg) (b : VReg) (hp : s.priv ≠ 3) :
    exec (.nsendRaw sc a b) s = .next (s.fatal 0x30 2 0) := by
  have hlt : s.priv < 4 := s.core.tsw.priv.isLt
  exact if_pos (by omega)

end

theorem valueOf_append (as bs : List Byte) : valueOf (as ++ bs) = valueOf as + 256 ^ as.length * valueOf bs := by
  induction as with
  | nil => simp [valueOf]
  | cons a as ih =>
    have h := ih
    simp only [valueOf] at h ⊢
    rw [List.cons_append, List.foldr_cons, h, List.foldr_cons, List.length_cons]; ring

theorem valueOf_bytesOf (n v : Nat) : valueOf (bytesOf n v) = v % 256 ^ n := by
  induction n generalizing v with
  | zero => simp [bytesOf, valueOf, Nat.mod_one]
  | succ n ih =>
    have h := ih (v / 256)
    simp only [valueOf] at h ⊢
    rw [bytesOf, List.foldr_cons, h, pow_succ', Nat.mod_mul, BitVec.toNat_ofNat]

/-- What NRECV delivers of a message of 64 bytes (R137). -/
theorem recvVec_eq {r : Received} (h : r.payload.length = 64) :
    recvVec r = BitVec.ofNat 1024 (valueOf r.payload + 2 ^ 512 * (r.src % 2 ^ 14) + 2 ^ 544 * r.tag.toNat) := by
  have htag := r.tag.isLt
  rw [recvVec, natOf_eq, valueOf_append, valueOf_append, List.length_append, h, bytesOf_length, valueOf_bytesOf,
    valueOf_bytesOf, Nat.mod_eq_of_lt (a := r.tag.toNat) (by omega), Nat.mod_eq_of_lt (a := r.src % 2 ^ 14) (by omega)]
  rw [show (256 : Nat) = 2 ^ 8 from rfl, ← pow_mul, ← pow_mul]

theorem exec_nrecv {s : State} {r : Received} (hr : received s.ctx s.core.taken s.core.recvq = some r)
    (hlen : r.payload.length = 64) (d : VReg) :
    exec (.nrecv d) s = .next { s.podAcquire s.focus r.scope with core := { (s.podAcquire s.focus r.scope).core with
      regs := (s.podAcquire s.focus r.scope).core.regs.setV d
        (BitVec.ofNat 1024 (valueOf r.payload + 2 ^ 512 * (r.src % 2 ^ 14) + 2 ^ 544 * r.tag.toNat))
      taken := (s.podAcquire s.focus r.scope).core.taken + 1
      pc := laFrom (s.podAcquire s.focus r.scope).core.pc 8 } } := by
  show execNrecv d s = _
  rw [execNrecv, hr]
  dsimp only
  rw [done_eq, recvVec_eq hlen]; rfl

theorem exec_nrecv_waits {s : State} (hr : received s.ctx s.core.taken s.core.recvq = none) (d : VReg) :
    exec (.nrecv d) s = .next s := by
  show execNrecv d s = _
  rw [execNrecv, hr]

end Sys2Proof.Machine
end

-- ==== Events of messages, strands and multicast ====
section
/-!
SUPPORT. What the events of R132 to R136 leave, and what a write of the scratchpad with its tags leaves.
-/

namespace Sys2Proof.Machine

/-! ## The scratchpad and its tags -/

/-- Two writes one after the other are one write. -/
theorem padWrite_append (m : Mem) (a : Nat) (xs ys : List Byte) :
    padWrite m a (xs ++ ys) = padWrite (padWrite m a xs) (a + xs.length) ys := by
  induction xs generalizing m a with
  | nil => rfl
  | cons x xs ih =>
    rw [List.cons_append, padWrite, ih, padWrite, List.length_cons, Nat.add_right_comm, Nat.add_assoc]

/-- The bytes written are read. -/
theorem padRead_padWrite (m : Mem) (a : Nat) (bs : List Byte) (h : bs.length ≤ 2 ^ 18) :
    padRead (padWrite m a bs) a bs.length = bs := by
  rw [padRead_eq]
  refine List.ext_getElem (by simp) fun j _ hj => ?_
  rw [List.getElem_map, List.getElem_range, padWrite_get_in m a bs hj h, List.getD_eq_getElem _ _ hj]

/-- A byte outside a write that does not wrap. -/
theorem padWrite_get_outside (m : Mem) {a : Nat} {bs : List Byte} (h : a + bs.length ≤ 2 ^ 18) {q : Nat}
    (hq : q < a ∨ a + bs.length ≤ q) : Sparse.get 0 (padWrite m a bs) q = Sparse.get 0 m q := by
  refine padWrite_get_out m a bs fun j hj => ?_
  rw [Nat.mod_eq_of_lt (by omega)]
  omega

/-- Setting tags changes the tags alone. -/
theorem setTags_eq (c : Core) (a : Nat) (b : Bool) (n : Nat) : c.setTags a b n = { c with tags := (c.setTags a b n).tags } := by
  induction n generalizing c a with
  | zero => rfl
  | succ n ih => rw [Core.setTags, ih]; rfl

theorem tags_setTag (c : Core) (a j : Nat) (b : Bool) :
    Sparse.get false (c.setTag a b).tags j = if j = a % 2 ^ 18 / 8 then b else Sparse.get false c.tags j :=
  Sparse.get_set _ _ _ _ _

/-- A tag that has the value stays so. -/
theorem tags_setTags_keep {c : Core} {b : Bool} {j : Nat} (h : Sparse.get false c.tags j = b) (a n : Nat) :
    Sparse.get false (c.setTags a b n).tags j = b := by
  induction n generalizing c a with
  | zero => exact h
  | succ n ih =>
    refine ih ?_ _
    rw [tags_setTag, h, ite_self]

/-- The tags set. -/
theorem tags_setTags (c : Core) (a : Nat) (b : Bool) {n i : Nat} (hi : i < n) :
    Sparse.get false (c.setTags a b n).tags ((a + 8 * i) % 2 ^ 18 / 8) = b := by
  induction n generalizing c a i with
  | zero => exact absurd hi (Nat.not_lt_zero i)
  | succ n ih =>
    cases i with
    | zero => exact tags_setTags_keep ((tags_setTag c a _ b).trans (if_pos rfl)) _ _
    | succ i =>
      have h := ih (c.setTag a b) (a + 8) (Nat.lt_of_succ_lt_succ hi)
      rwa [show a + 8 + 8 * i = a + 8 * (i + 1) by ring] at h

/-- Bytes written with their tags, and one more word with its tag: what a core receives (R134). -/
theorem store_setTags_store (c : Core) (a : Nat) (xs ys : List Byte) (n : Nat) :
    ((((c.store a xs).setTags a true n).store (a + xs.length) ys).setTag (a + xs.length) true)
      = { c with mem := padWrite c.mem a (xs ++ ys)
                 tags := (((c.store a xs).setTags a true n).setTag (a + xs.length) true).tags } := by
  have h := setTags_eq (c.store a xs) a true n
  generalize (c.store a xs).setTags a true n = c2 at h ⊢
  rw [padWrite_append, h]; rfl

/-! ## Events -/

section
variable {s : State} {id : CoreId}

theorem exec_nsendDelivery {m : Nat} {bs : List Byte} {tag : Word} {rel : Option Scope} {w : Issuer} {ctx : Nat} {rest : List Entry}
    {t : CoreId} (hc : (s.coreAt id).committed = ⟨.nsend m bs tag, rel, w, ctx⟩ :: rest)
    (hp : s.performed id (rel.getD .core) = true) (ht : s.coreOfLci m = some t) (hroom : (s.coreAt t).recvHeld < 16) :
    exec (.nsendDelivery id) s = .next ((s.popCommitted id).modCore t fun r =>
      { r with recvq := r.recvq ++ [⟨bs, s.lciOf id, tag, ctx, rel.getD .core⟩] }) := by
  show execNsendDelivery id s = _
  have hn : ¬ 16 ≤ (s.coreAt t).recvHeld := by omega
  simp only [execNsendDelivery, hc, hp, Bool.not_true, Bool.false_eq_true, if_false, ht, hn]

/-- A result at a member whose bead is still its own writes 264 bytes and their tags (R134). -/
theorem exec_strandResultWrite {k x : Nat} {v : StrandVal} {w : NredWait} {rest : List NredWait}
    (hin : (s.coreAt id).strandIn.find? (fun e => e.1 == k) = some (k, x, v))
    (hw : takeWait k x (s.coreAt id).nredWaits = some (w, rest)) (hslot : w.slot ≠ 64)
    (hbead : (s.coreAt id).bead (beadOf w.la) = .owned w.slot) (hact : ((s.coreAt id).slotAt w.slot).actor = w.actor)
    (hal : w.la % 512 = 0) (hla : w.la < 2 ^ 18) (hlen : (strandBytes w.fmt v).length = 256) :
    ∃ mem tags, exec (.strandResultWrite id k) s = .next (s.setCore id { s.coreAt id with
        mem := mem, tags := tags, nredWaits := rest, strandIn := (s.coreAt id).strandIn.eraseP fun e => e.1 == k })
      ∧ padRead mem w.la 264 = strandBytes w.fmt v ++ bytesOf 8 v.conds.toNat
      ∧ (∀ i, i < 33 → Sparse.get false tags (w.la / 8 + i) = true)
      ∧ (∀ q, q < w.la ∨ w.la + 264 ≤ q → Sparse.get 0 mem q = Sparse.get 0 (s.coreAt id).mem q) := by
  let c1 : Core := { s.coreAt id with nredWaits := rest, strandIn := (s.coreAt id).strandIn.eraseP fun e => e.1 == k }
  have hexec : exec (.strandResultWrite id k) s = .next (s.setCore id ((((c1.store w.la (strandBytes w.fmt v)).setTags w.la true 32).store
      (w.la + 256) (bytesOf 8 v.conds.toNat)).setTag (w.la + 256) true)) := by
    show execStrandResultWrite id k s = _
    simp only [execStrandResultWrite, hin, Option.bind_some, hw, Option.map_some, hslot, if_false, hbead, hact,
      decide_true, Bool.and_self, if_true]
    rfl
  have hall : (strandBytes w.fmt v ++ bytesOf 8 v.conds.toNat).length = 264 := by
    rw [List.length_append, hlen, bytesOf_length]
  have hcore := store_setTags_store c1 w.la (strandBytes w.fmt v) (bytesOf 8 v.conds.toNat) 32
  rw [hlen] at hcore
  rw [hcore] at hexec
  refine ⟨_, _, hexec, ?_, fun i hi => ?_, fun q hq => ?_⟩
  · have h := padRead_padWrite (s.coreAt id).mem w.la _ (hall.trans_le (by decide))
    rwa [hall] at h
  · rw [tags_setTag]
    split
    · rfl
    · have h := tags_setTags (c1.store w.la (strandBytes w.fmt v)) w.la true (n := 32) (i := i) (by omega)
      rwa [show (w.la + 8 * i) % 2 ^ 18 / 8 = w.la / 8 + i by omega] at h
  · exact padWrite_get_outside _ (by omega) (by rwa [hall])

/-- A multicast write that the member's windows admit lands, with its tags, and is acknowledged (R135). -/
theorem exec_mcastMemberWrite {m : McastIn} {rest : List McastIn} (hin : (s.coreAt id).mcastIn = m :: rest)
    (hboot : s.hub.boot = false) (hok : s.admits id permW (s.lciOf m.src) m.ctx m.la 512 = true) :
    exec (.mcastMemberWrite id) s = .next ((s.setCore id
      (({ s.coreAt id with mcastIn := rest }.store m.la m.bytes).setTags m.la true 64)).modCore m.src fun o =>
        { o with tileQ := ackMcast m.serial o.tileQ }) := by
  show execMcastMemberWrite id s = _
  simp only [execMcastMemberWrite, hin, hboot, Bool.false_and, Bool.false_or, hok, if_true, Bool.and_false,
    Bool.false_eq_true, if_false]

end

/-- A node with its contributions sends their combination on (R57, R132). -/
theorem exec_strandNodeCombine {s : State} {n : StrandNode} {k : Nat} {vs : List StrandVal} (hvs : s.roundReady n k = some vs) :
    let e := s.strandAt n k
    let v := strandCombine (strandOp e) (strandFmt e) vs
    let u := s.setRound n k (roundRest [] (s.roundAt n k))
    (∀ q port, u.strandParent n k = some (q, port) → exec (.strandNodeCombine n k) s = .next (u.contribute q k port v))
    ∧ (u.strandParent n k = none → strandUp e = 4 → u.fstrandOn k = true → exec (.strandNodeCombine n k) s
        = .next { u with fab := { u.fab with rounds := u.fab.rounds ++ [(k, u.thisDev, v)] } })
    ∧ (u.strandParent n k = none → strandUp e = 4 → u.fstrandOn k = false →
        exec (.strandNodeCombine n k) s = .next (u.strandDeliver n k v.result)) := by
  intro e v u
  have hexec : exec (.strandNodeCombine n k) s = execStrandNodeCombine n k s := rfl
  refine ⟨fun q port hp => ?_, fun hp hup hf => ?_, fun hp hup hf => ?_⟩
  · simp only [hexec, execStrandNodeCombine, hvs]
    rw [show (s.setRound n k (roundRest [] (s.roundAt n k))).strandParent n k = some (q, port) from hp]
  · simp only [hexec, execStrandNodeCombine, hvs]
    rw [show (s.setRound n k (roundRest [] (s.roundAt n k))).strandParent n k = none from hp]
    exact (if_neg (not_not.2 hup)).trans (if_pos hf)
  · simp only [hexec, execStrandNodeCombine, hvs]
    rw [show (s.setRound n k (roundRest [] (s.roundAt n k))).strandParent n k = none from hp]
    exact (if_neg (not_not.2 hup)).trans (if_neg (ne_true_of_eq_false hf))

/-- The contribution a drained NRED makes of a lane: none once its core has left (R133, R134). -/
def nredContrib (left : Bool) (l : Option Elem) : Contrib := if l = none ∨ left = true then ⟨none, 0, 0⟩ else ⟨l, 1, 0⟩

theorem nredContrib_eq (left : Bool) (l : Option Elem) :
    (if left then (⟨none, 0, 0⟩ : Contrib) else ⟨l, l.isSome.toNat, 0⟩) = nredContrib left l := by
  cases left <;> cases l <;> rfl

/-- An NRED that drains contributes its lanes at its router and awaits the result (R133, R134). -/
theorem drainNred_work (s : State) (pos : Nat) (w : Issuer) (x k p : Nat) (f : Fmt) (lanes : List (Option Elem)) (slot : Nat) :
    s.drainNred (.work pos) w x k p f lanes slot
      = (s.contribute (.router pos) k 4 ⟨strandOp (s.strandAt (.router pos) k),
          if f = .f32 then 0 else if f = .bf16 then 1 else if f = .i32 then 2 else 3,
          lanes.map (nredContrib (s.strandLeft (.router pos) k)), 0⟩).modCore (.work pos) fun c =>
            { c with nredWaits := c.nredWaits ++ [⟨k, p, f, slot, w.actor, x⟩] } := by
  simp only [State.drainNred, nredContrib_eq]

/-! ## Packets of boot mode -/

section
variable {s : State} {pos : Nat}

theorem core_ne_of_key_ne {a b : CoreId} (h : a.key ≠ b.key) : a ≠ b := fun e => h (congrArg _ e)

/-- A DISCOVER that gives a router its coordinates (R146): the state it leaves. -/
def State.discovered (s : State) (pos : Nat) (d : Discover) (x y : BitVec 5) : State :=
  ((s.onMesh fun m => { m with discovers := m.discovers.eraseP fun e => e.pos == pos }).modCore (.work pos) fun c =>
    { c with router := { c.router with cv := true, x := x, y := y } }).onMesh fun m => { m with
      discovers := m.discovers ++ ([0, 1, 2, 3].filterMap fun i =>
        if d.frm.map (·.1) = some i then none else (neighbour pos i).map fun q => (⟨q, some (opposite i, x, y), d.arg⟩ : Discover))
      acks := m.acks ++ [(posDie pos, d.arg + 8 * (32 * y.toNat + x.toNat),
        dw ((!s.mesh.fused.contains pos).toNat + 2 ^ 8 * x.toNat + 2 ^ 16 * y.toNat))] }

/-- The coordinates a DISCOVER carries to a router. -/
def Discover.coords (d : Discover) : BitVec 5 × BitVec 5 :=
  match d.frm with
  | none => (0, 0)
  | some (port, x, y) => stepFrom port x y

theorem exec_discover {d : Discover} (hd : s.mesh.discovers.find? (fun d => d.pos == pos) = some d) (hboot : s.hub.boot = true)
    (hcv : (s.coreAt (.work pos)).router.cv = false) :
    exec (.discover pos) s = .next (s.discovered pos d d.coords.1 d.coords.2) := by
  show execDiscover pos s = _
  simp only [execDiscover, hd, hcv, hboot, Bool.not_true, Bool.false_eq_true, or_self, if_false]
  rfl

/-- The acknowledgement of a die written at its core (0, 0) (R146). -/
theorem exec_discoverAck {die a : Nat} {w : DWord} (hf : s.mesh.acks.find?
      (fun e => e.1 == die && !(s.coreAt (.work (1024 * die))).tag e.2.1) = some (die, a, w)) :
    exec (.discoverAck die) s = .next ((s.onMesh fun m =>
        { m with acks := m.acks.eraseP fun e => e.1 == die && !(s.coreAt (.work (1024 * die))).tag e.2.1 }).setCore (.work (1024 * die))
      (((s.coreAt (.work (1024 * die))).store (a % 2 ^ 18 / 8 * 8) (bytesOf 8 w.toNat)).setTag a true)) := by
  show execDiscoverAck die s = _
  simp only [execDiscoverAck, hf]

/-- An ASSIGN that gives a functional router its local index, and the hub's count (R124, R146). -/
theorem exec_assign {die : Nat} {h : DWord} (hf : s.mesh.assigns.find? (fun h => bitsAt 14 4 h == die) = some h)
    (hboot : s.hub.boot = true) (hfuse : s.mesh.fused.contains (1024 * die + 32 * bitsAt 9 5 h + bitsAt 4 5 h) = false) :
    exec (.assign die) s = .next (((s.onMesh fun m =>
        { m with assigns := m.assigns.eraseP fun h => bitsAt 14 4 h == die }).modCore
      (.work (1024 * die + 32 * bitsAt 9 5 h + bitsAt 4 5 h)) fun c => { c with router :=
        { c.router with val := true, lidx := BitVec.ofNat 10 (bitsAt 32 10 h) } }).onHub fun b =>
          { b with dierpt := Sparse.set 0 b.dierpt die (Sparse.get 0 s.hub.dierpt die + BitVec.ofNat 48 (2 ^ 32)) }) := by
  show execAssign die s = _
  simp only [execAssign, hf, hfuse, hboot, Bool.not_true, Bool.false_eq_true, or_self, if_false]

end

end Sys2Proof.Machine
end

-- ==== Messages, strands and boot: O24 ====
section
/-!
SUPPORT. What the packets of boot mode leave, clause by clause, and O24.
-/

namespace Sys2Proof.Machine

section
variable {s : State} {pos : Nat} (d : Discover) (x y : BitVec 5)

/-- A DISCOVER changes its router, the packets and the acknowledgements. -/
theorem discovered_frame : s.discovered pos d x y = { s with
    core := (s.discovered pos d x y).core, others := (s.discovered pos d x y).others
    mesh := { s.mesh with discovers := (s.discovered pos d x y).mesh.discovers, acks := (s.discovered pos d x y).mesh.acks } } := by
  simp only [State.discovered, State.modCore, State.setCore]
  split <;> rfl

theorem coreAt_discovered : (s.discovered pos d x y).coreAt (.work pos) = { s.coreAt (.work pos) with
    router := { (s.coreAt (.work pos)).router with cv := true, x := x, y := y } } := by
  rw [State.discovered, onMesh_coreAt _ _ _ rfl, coreAt_modCore, onMesh_coreAt _ _ _ rfl]

theorem coreAt_discovered_ne {id : CoreId} (h : id.key ≠ (CoreId.work pos).key) :
    (s.discovered pos d x y).coreAt id = s.coreAt id := by
  rw [State.discovered, onMesh_coreAt _ _ _ rfl, coreAt_modCore_ne _ _ (core_ne_of_key_ne h) h, onMesh_coreAt _ _ _ rfl]

/-- Its acknowledgement carries the fuse and the coordinates (R146). -/
theorem acks_discovered : (s.discovered pos d x y).mesh.acks = s.mesh.acks ++ [(posDie pos, d.arg + 8 * (32 * y.toNat + x.toNat),
    dw ((if s.mesh.fused.contains pos then 0 else 1) + 2 ^ 8 * x.toNat + 2 ^ 16 * y.toNat))] := by
  simp only [State.discovered, onMesh_mesh, modCore_mesh]
  cases s.mesh.fused.contains pos <;> rfl

/-- It goes on to every neighbour but the one it came from. -/
theorem mem_discovers_discovered {i q : Nat} (hi : i < 4) (hq : neighbour pos i = some q) (hfrm : d.frm.map (·.1) ≠ some i) :
    (⟨q, some ((i + 2) % 4, x, y), d.arg⟩ : Discover) ∈ (s.discovered pos d x y).mesh.discovers := by
  simp only [State.discovered, onMesh_mesh, modCore_mesh]
  have hmem : i ∈ [0, 1, 2, 3] := by
    simp only [List.mem_cons, List.not_mem_nil, or_false]; omega
  refine List.mem_append_right _ (List.mem_filterMap.2 ⟨i, hmem, ?_⟩)
  rw [if_neg hfrm, hq]; rfl

end

/-- The words of an acknowledgement that is written leave the list. -/
theorem length_eraseP_of_find? {α : Type} {p : α → Bool} {xs : List α} {x : α} (h : xs.find? p = some x) :
    (xs.eraseP p).length + 1 = xs.length := by
  have hmem := List.mem_of_find?_eq_some h
  have hp := List.find?_some h
  rw [List.length_eraseP_of_mem hmem hp]
  have := List.length_pos_of_mem hmem
  omega

/-- A core and then the hub changed. -/
theorem modCore_onHub (u : State) (id : CoreId) (f : Core → Core) (g : Hub → Hub) :
    (u.modCore id f).onHub g
      = { u with core := (u.modCore id f).core, others := (u.modCore id f).others, hub := g u.hub } := by
  rw [State.onHub, modCore_hub]
  conv_lhs => rw [State.modCore, setCore_rest]
  rfl

/-- A word written with its tag. -/
theorem store_setTag_word (c : Core) {a : Nat} (w : DWord) (hal : a % 8 = 0) (hlt : a < 2 ^ 18) :
    ∃ mem tags, (c.store (a % 2 ^ 18 / 8 * 8) (bytesOf 8 w.toNat)).setTag a true = { c with mem := mem, tags := tags }
      ∧ padRead mem a 8 = bytesOf 8 w.toNat ∧ (∀ q, q < a ∨ a + 8 ≤ q → Sparse.get 0 mem q = Sparse.get 0 c.mem q)
      ∧ Sparse.get false tags (a / 8) = true ∧ ∀ j, j ≠ a / 8 → Sparse.get false tags j = Sparse.get false c.tags j := by
  have ha : a % 2 ^ 18 / 8 * 8 = a := by omega
  have htag : a % 2 ^ 18 / 8 = a / 8 := by omega
  have hlen : (bytesOf 8 w.toNat).length = 8 := bytesOf_length _ _
  rw [ha]
  refine ⟨_, _, rfl, ?_, fun q hq => ?_, ?_, fun j hj => ?_⟩
  · have h := padRead_padWrite c.mem a (bytesOf 8 w.toNat) (hlen.trans_le (by decide))
    rwa [hlen] at h
  · exact padWrite_get_outside _ (by omega) (by rwa [hlen])
  · rw [htag]; exact Sparse.get_set_self _ _ _ _
  · rw [htag]; exact Sparse.get_set_ne _ _ _ hj

end Sys2Proof.Machine

namespace Sys2Proof

open Machine

/-- Settles O24: each operation and event by the lemma that says what it leaves. -/
theorem meshMessagesStrandsAndBoot : Obligations.MeshMessagesStrandsAndBoot := by
  refine ⟨fun s pos f g a b d k sc tag hw => ?_, fun s id n k => ?_, fun s pos die => ?_⟩
  · have hmine := strandMine_iff hw k.toNat
    refine ⟨fun op hm hop hf hlogic hup hal hown hroom =>
        exec_nred hw (hmine.2 hm) hop hf hlogic hup hal hown hroom g a,
      fun hm hal hown hroom => exec_mcast (hmine.2 hm) hal hown hroom,
      fun hlo hhi hroom => exec_nsend hw hlo hhi hroom, fun h => exec_nsend_refused h,
      fun hp hroom => exec_nsendRaw sc a b hp hroom, fun hp => exec_nsendRaw_privilege sc a b hp,
      fun r hr hlen => exec_nrecv hr hlen d, fun hr => exec_nrecv_waits hr d⟩
  · refine ⟨fun m bs tag rel w ctx rest t hc hp ht hroom => exec_nsendDelivery hc hp ht hroom,
      fun vs hvs => exec_strandNodeCombine hvs, fun pos w x p f lanes slot => ?_,
      fun v x w rest hin hw hslot hbead hact hal hla hlen =>
        exec_strandResultWrite hin hw hslot hbead hact hal hla hlen,
      fun m rest hin hboot hok => exec_mcastMemberWrite hin hboot hok, rfl⟩
    refine ⟨lanes.map (nredContrib (s.strandLeft (.router pos) k)), List.length_map _, fun i l hl => ?_,
      drainNred_work s pos w x k p f lanes slot⟩
    rw [List.getElem?_map, hl]; rfl
  · refine ⟨fun p hp hboot hcv => ⟨_, exec_discover hp hboot hcv, fun id hid => coreAt_discovered_ne _ _ _ hid,
        discovered_frame _ _ _, _, _, coreAt_discovered _ _ _, fun h => ?_, fun u v h => ?_, fun u v h => ?_, fun u v h => ?_,
        fun u v h => ?_, acks_discovered _ _ _, fun i q hi hq hfrm => mem_discovers_discovered _ _ _ hi hq hfrm⟩,
      fun a w hf hal hlt => ?_, fun h hf hboot hfuse => ?_⟩
    · rw [Discover.coords, h]; exact ⟨rfl, rfl⟩
    · rw [Discover.coords, h]; exact ⟨rfl, rfl⟩
    · rw [Discover.coords, h]; exact ⟨rfl, rfl⟩
    · rw [Discover.coords, h]; exact ⟨rfl, rfl⟩
    · rw [Discover.coords, h]; exact ⟨rfl, rfl⟩
    · obtain ⟨mem, tags, hcore, hread, hout, htag, htags⟩ := store_setTag_word (s.coreAt (.work (1024 * die))) w hal hlt
      refine ⟨_, mem, tags, exec_discoverAck hf, ?_, ?_, ?_, hread, hout, htag, htags, fun id hid => ?_⟩
      · simp only [State.setCore]; split <;> rfl
      · rw [setCore_mesh]; exact length_eraseP_of_find? hf
      · rw [coreAt_setCore, hcore]
      · rw [coreAt_setCore_ne _ _ (core_ne_of_key_ne hid) hid, onMesh_coreAt _ _ _ rfl]
    · refine ⟨_, exec_assign hf hboot hfuse, ?_, ?_, ?_, fun e he => ?_, ?_, fun id hid => ?_⟩
      · rw [onHub_coreAt, coreAt_modCore, onMesh_coreAt _ _ _ rfl]
      · rw [modCore_onHub]; dsimp only [State.onMesh]
      · rw [modCore_onHub]; dsimp only; exact Sparse.get_set_self _ _ _ _
      · rw [modCore_onHub]; dsimp only; exact Sparse.get_set_ne _ _ _ he
      · rw [modCore_onHub]; dsimp only; exact length_eraseP_of_find? hf
      · rw [onHub_coreAt, coreAt_modCore_ne _ _ (core_ne_of_key_ne hid) hid, onMesh_coreAt _ _ _ rfl]

end Sys2Proof
end

-- ==== Lanes and predicates written ====
section
/-!
SUPPORT. The lanes, flags and predicate bits that the vector members of R182 to R187 leave (obligation O22).
-/

namespace Sys2Proof.Machine

/-! ### Lanes -/

/-- A register written from results with their flags: what it holds, lane by lane, and the flags gained (R173, R174). -/
theorem lanesWritten_of {s : State} {f : Fmt} {d : VReg} {on : Nat → Bool} {elem rs : Nat → Elem × FlagSet} (n : Nat)
    (h : ∀ k, k < f.lanes → rs k = if on k then elem k else (lane f (s.rv d) k, 0)) :
    ∃ t, ((s.wv d (ofLanes f (((List.range f.lanes).map rs).map (·.1)))).orFlags
        (flagOr (((List.range f.lanes).map rs).map (·.2)))).done n = .next t ∧ s.LanesWritten t f d on false elem n := by
  rw [done_eq, List.map_map, List.map_map]
  refine ⟨_, rfl, rfl, ?_, fun k hk => ?_, fun j => ?_⟩
  · show _ = ({ s.core.regs.setV d (Regs.getV (s.core.regs.setV d _) d) with flags := _ } : Regs)
    rw [Regs.getV_setV_self]; rfl
  · show lane f (Regs.getV (s.core.regs.setV d _) d) k = _
    rw [Regs.getV_setV_self, lane_ofLanes_range f _ hk, Function.comp_apply, h k hk]
    cases on k with
    | true => rfl
    | false => exact Nat.mod_eq_of_lt (lane_lt _ _ _)
  · show (s.core.regs.flags ||| flagOr _).getLsbD j = true ↔ _
    rw [BitVec.getLsbD_or, Bool.or_eq_true, getLsbD_flagOr]
    refine or_congr Iff.rfl ⟨?_, ?_⟩
    · rintro ⟨g, hg, hj⟩
      obtain ⟨k, hk, rfl⟩ := List.mem_map.1 hg
      have hlt := List.mem_range.1 hk
      rw [Function.comp_apply, h k hlt] at hj
      cases hon : on k with
      | true => rw [hon] at hj; exact ⟨k, hlt, hon, hj⟩
      | false => rw [hon] at hj; simp at hj
    · rintro ⟨k, hk, hon, hj⟩
      refine ⟨_, List.mem_map.2 ⟨k, List.mem_range.2 hk, rfl⟩, ?_⟩
      rw [Function.comp_apply, h k hk, hon]
      exact hj

/-- An elementwise member under a plain guard (R173, R174); AX is clear there, so the examination of R175 passes. -/
theorem vecWrite_plain (s : State) (f : Fmt) (g : PReg) (d : VReg) (bad : Option Nat) {e e' : Nat → Elem × FlagSet} (h : ∀ i, e i = e' i) :
    ∃ t, s.vecWrite f (.plain g) d bad e = .next t ∧ s.LanesWritten t f d (active f (s.rp g)) false e' 8 := by
  rw [State.vecWrite, absentTrap_pass s (gd := .plain g) (fun h => absurd h Bool.false_ne_true)]
  exact lanesWritten_of 8 fun k _ => by rw [h]; rfl

theorem other1_eq (f : Fmt) (e : Elem → Elem × FlagSet) (x : Elem) :
    other1 f e x = if x = absentOf f then (absentOf f, 0) else e x := by
  by_cases h : x = absentOf f
  · rw [if_pos h, h]; exact (if_neg (by rw [present_absent]; exact Bool.false_ne_true))
  · rw [if_neg h, other1_present h]

/-! ### Conversion (R183) -/

section
variable (s : State) (f src : Fmt) (r : Rnd) (part : BitVec 2) (g : PReg) (d a : VReg)

theorem width_mul_lanes (f : Fmt) : f.width * f.lanes = 128 := by cases f <;> rfl

/-- The wider format has the fewer lanes. -/
theorem width_le_iff {f src : Fmt} : f.width ≤ src.width ↔ src.lanes ≤ f.lanes := by cases f <;> cases src <;> decide

theorem vcvt_narrowing (hl : src.lanes ≤ f.lanes) : ∃ t, exec (.vcvt f src r part g d a) s = .next t ∧ s.LanesWritten t f d
    (fun j => active f (s.rp g) j && decide (part.toNat * src.lanes ≤ j ∧ j < part.toNat * src.lanes + src.lanes)) false
    (fun j => convE f src (rndMode r s.core.regs.rm) (lane src (s.rv a) (j - part.toNat * src.lanes))) 8 := by
  refine lanesWritten_of 8 fun j _ => ?_
  beta_reduce
  rw [if_pos (width_le_iff.2 hl)]
  by_cases h : part.toNat * src.lanes ≤ j ∧ j < part.toNat * src.lanes + src.lanes
  · rw [if_pos h, decide_eq_true h, Bool.and_true]
  · rw [if_neg h, decide_eq_false h, Bool.and_false]; rfl

theorem vcvt_widening (hl : f.lanes < src.lanes) : ∃ t, exec (.vcvt f src r part g d a) s = .next t ∧ s.LanesWritten t f d
    (active f (s.rp g)) false (fun j => convE f src (rndMode r s.core.regs.rm) (lane src (s.rv a) (part.toNat * f.lanes + j))) 8 := by
  refine lanesWritten_of 8 fun j _ => ?_
  beta_reduce
  rw [if_neg (fun h => absurd (width_le_iff.1 h) (not_le.2 hl))]

/-- With equally many lanes each element comes from its own lane. -/
theorem vcvt_same (hl : f.lanes = src.lanes) : ∃ t, exec (.vcvt f src r 0 g d a) s = .next t ∧ s.LanesWritten t f d
    (active f (s.rp g)) false (fun j => convE f src (rndMode r s.core.regs.rm) (lane src (s.rv a) j)) 8 := by
  refine lanesWritten_of 8 fun j hj => ?_
  have h0 : (0 : BitVec 2).toNat * src.lanes = 0 := Nat.zero_mul _
  beta_reduce
  rw [if_pos (width_le_iff.2 hl.ge), h0, if_pos (by omega), Nat.sub_zero]

end

/-! ### Predicates (R172, R173, R185, R187) -/

theorem getLsbD_ofBits (bs : List Bool) {j : Nat} (hj : j < 128) : (ofBits bs).getLsbD j = bs.getD j false := by
  have hdigit := packLanes_digit 1 (bs.map Bool.toNat) j
  rw [Nat.one_mul, pow_one] at hdigit
  rw [ofBits, BitVec.getLsbD_ofNat, decide_eq_true hj, Bool.true_and, Nat.testBit_eq_decide_div_mod_eq, hdigit,
    List.getD_eq_getElem?_getD, List.getD_eq_getElem?_getD, List.getElem?_map]
  cases bs[j]? with
  | none => rfl
  | some b => cases b <;> rfl

/-- A bit of a predicate written at element granularity. -/
theorem getLsbD_writePred (f : Fmt) (old : PWord) (e : Nat → Option Bool) {i q : Nat} (hi : i < f.lanes) (hq : q < f.width) :
    (writePred f old e).getLsbD (f.width * i + q) = (e i).getD (old.getLsbD (f.width * i + q)) := by
  have hlt : f.width * i + q < 128 := by
    calc f.width * i + q < f.width * (i + 1) := by rw [Nat.mul_succ]; omega
      _ ≤ f.width * f.lanes := Nat.mul_le_mul_left _ hi
      _ = 128 := width_mul_lanes f
  have hdiv : (f.width * i + q) / f.width = i := by
    rw [Nat.mul_add_div (by omega), Nat.div_eq_of_lt hq, Nat.add_zero]
  rw [writePred, getLsbD_ofBits _ hlt, getD_map_range, if_pos hlt, hdiv]

theorem Regs.getP_setP_self (g : Regs) {r : PReg} (h : r ≠ 0) (x : PWord) : (g.setP r x).getP r = x := by
  rw [Regs.getP, Regs.setP, if_neg h, if_neg h, Vector.getElem_set_self]

theorem Regs.getP_setP_ne (g : Regs) {r q : PReg} (h : q ≠ r) (x : PWord) : (g.setP r x).getP q = g.getP q := by
  have hne : r.toNat ≠ q.toNat := fun e => h (BitVec.eq_of_toNat_eq e.symm)
  unfold Regs.getP Regs.setP
  by_cases hr : r = 0
  · rw [if_pos hr]
  · rw [if_neg hr]
    by_cases hq : q = 0
    · rw [if_pos hq, if_pos hq]
    · rw [if_neg hq, if_neg hq]; exact Vector.getElem_set_ne r.isLt q.isLt hne

/-- Writing a predicate changes the predicates alone. -/
theorem Regs.setP_eq (g : Regs) (r : PReg) (x : PWord) : g.setP r x = { g with p := (g.setP r x).p } := by
  unfold Regs.setP; split <;> rfl

/-- The state after a predicate is written. -/
theorem wp_eq (s : State) (r : PReg) (x : PWord) :
    s.wp r x = { s with core := { s.core with regs := { s.core.regs with p := (s.core.regs.setP r x).p } } } :=
  congrArg (fun g => ({ s with core := { s.core with regs := g } } : State)) (Regs.setP_eq _ _ _)

/-- The bits of a predicate written at element granularity, in the register read back. -/
theorem getLsbD_getP_writePred {r : Regs} {f : Fmt} {pd : PReg} (old : PWord) (e : Nat → Option Bool) (h : pd ≠ 0) {i q : Nat}
    (hi : i < f.lanes) (hq : q < f.width) :
    ((r.setP pd (writePred f old e)).getP pd).getLsbD (f.width * i + q) = (e i).getD (old.getLsbD (f.width * i + q)) := by
  rw [Regs.getP_setP_self _ h, getLsbD_writePred f old e hi hq]

/-- VCMP: the predicate bits of active elements are the outcomes, the flags gained are theirs (R185). -/
theorem vcmp_leaves (s : State) (f : Fmt) (cnd : VCond) (g pd : PReg) (a b : VReg) :
    let c (i : Nat) : Bool × FlagSet := cmpE f cnd (lane f (s.rv a) i) (lane f (s.rv b) i)
    ∃ t, exec (.vcmp f cnd g pd a b) s = .next t
      ∧ t = { s with core := { s.core with
          regs := { s.core.regs with p := t.core.regs.p, flags := t.core.regs.flags }, pc := laFrom s.core.pc 8 } }
      ∧ (pd = 0 → t.core.regs.p = s.core.regs.p)
      ∧ (∀ q, q ≠ pd → t.rp q = s.rp q)
      ∧ (pd ≠ 0 → ∀ i, i < f.lanes → ∀ q, q < f.width → (t.rp pd).getLsbD (f.width * i + q) =
          if active f (s.rp g) i then (c i).1 else (s.rp pd).getLsbD (f.width * i + q))
      ∧ ∀ j : Nat, t.core.regs.flags.getLsbD j = true ↔ s.core.regs.flags.getLsbD j = true
        ∨ ∃ i, i < f.lanes ∧ active f (s.rp g) i = true ∧ (c i).2.getLsbD j = true := by
  intro c
  have hexec : exec (.vcmp f cnd g pd a b) s = .next { s with core := { s.core with
      regs := { s.core.regs with
        p := (s.core.regs.setP pd (writePred f (s.rp pd) fun i => if active f (s.rp g) i then some (c i).1 else none)).p
        flags := s.core.regs.flags ||| flagOr ((List.range f.lanes).map fun i => if active f (s.rp g) i then (c i).2 else 0) }
      pc := laFrom s.core.pc 8 } } := by
    show execVcmp f cnd g pd a b s = _
    rw [execVcmp]
    dsimp only
    rw [done_eq, wp_eq]; rfl
  refine ⟨_, hexec, rfl, fun h => ?_, fun q hq => Regs.getP_setP_ne _ hq _, fun h i hi q hq => ?_, fun j => ?_⟩
  · dsimp only
    rw [Regs.setP, if_pos h]
  · refine (getLsbD_getP_writePred (s.rp pd) _ h hi hq).trans ?_
    cases active f (s.rp g) i <;> rfl
  · show (s.core.regs.flags ||| flagOr _).getLsbD j = true ↔ _
    rw [BitVec.getLsbD_or, Bool.or_eq_true, getLsbD_flagOr]
    refine or_congr Iff.rfl ⟨?_, ?_⟩
    · rintro ⟨e, he, hj⟩
      obtain ⟨i, hi, rfl⟩ := List.mem_map.1 he
      cases hon : active f (s.rp g) i with
      | true => rw [hon] at hj; exact ⟨i, List.mem_range.1 hi, hon, hj⟩
      | false => rw [hon] at hj; simp at hj
    · rintro ⟨i, hi, hon, hj⟩
      refine ⟨_, List.mem_map.2 ⟨i, List.mem_range.2 hi, rfl⟩, ?_⟩
      rw [hon]; exact hj

/-- VPRES: the predicate bits of active elements say whether they are present (R187). -/
theorem vpres_leaves (s : State) (f : Fmt) (g pd : PReg) (a : VReg) :
    ∃ t, exec (.vpres f g pd a) s = .next t
      ∧ t = { s with core := { s.core with regs := { s.core.regs with p := t.core.regs.p }, pc := laFrom s.core.pc 8 } }
      ∧ (∀ q, q ≠ pd → t.rp q = s.rp q)
      ∧ (pd ≠ 0 → ∀ i, i < f.lanes → ∀ q, q < f.width → (t.rp pd).getLsbD (f.width * i + q) =
          if active f (s.rp g) i then decide (lane f (s.rv a) i ≠ absentOf f) else (s.rp pd).getLsbD (f.width * i + q)) := by
  have hexec : exec (.vpres f g pd a) s = .next { s with core := { s.core with
      regs := { s.core.regs with p := (s.core.regs.setP pd (writePred f (s.rp pd) fun i =>
        if active f (s.rp g) i then some (present f (lane f (s.rv a) i)) else none)).p }
      pc := laFrom s.core.pc 8 } } := by
    show execVpres f g pd a s = _
    rw [execVpres, done_eq, wp_eq]; rfl
  refine ⟨_, hexec, rfl, fun q hq => Regs.getP_setP_ne _ hq _, fun h i hi q hq => ?_⟩
  refine (getLsbD_getP_writePred (s.rp pd) _ h hi hq).trans ?_
  cases active f (s.rp g) i with
  | false => rfl
  | true => exact (Bool.decide_coe _).symm.trans (decide_eq_decide.2 bne_iff_ne)

end Sys2Proof.Machine
end

-- ==== Conversions to integers ====
section
/-!
SUPPORT. The integer that a mode makes of a value (R53, R54; obligation O22): it is the nearest of the integers as `Nearest` says it,
and that is what `RoundsToInt` asks.
-/

namespace Sys2Proof.Machine

/-- A value half away from an integer is half way to the next one, or to the one before. -/
theorem half_cases {x : ℚ} {i : ℤ} (h : |x - i| = 1 / 2) :
    x = i + 1 / 2 ∧ |i - x| = |i + 1 - x| ∨ x = i - 1 / 2 ∧ |i - x| = |i - 1 - x| := by
  rw [abs_sub_comm (i : ℚ) x, h]
  rcases abs_cases (x - i) with ⟨e, _⟩ | ⟨e, _⟩
  · exact .inl ⟨by linarith, by rw [abs_of_nonneg] <;> linarith⟩
  · exact .inr ⟨by linarith, by rw [abs_of_nonpos] <;> linarith⟩

/-- An integer to which no other is to be preferred, on the value's side of zero, is the one the mode makes of the value. -/
theorem roundsToInt_of_nearest {rm : RMode} {x : ℚ} {i : ℤ} (hsign : 0 ≤ i * x)
    (h : ∀ z : ℤ, Nearest rm (x : ℝ) (i : ℝ) (z : ℝ) (i % 2 = 0)) : RoundsToInt rm x i := by
  -- the same over the rationals
  have hq (z : ℤ) : Nearest rm (x : ℝ) ((i : ℚ) : ℝ) ((z : ℚ) : ℝ) (i % 2 = 0) := by push_cast; exact h z
  have hnext := hq (i + 1)
  have hprev := hq (i - 1)
  have hout := hq (|i| + 1)
  unfold Nearest at hnext hprev hout
  norm_cast at hnext hprev hout
  push_cast at hnext hprev hout
  obtain ⟨hdn, hup, -, hnear, heven, haway⟩ := hnext
  obtain ⟨-, hup', -, hnear', heven', haway'⟩ := hprev
  obtain ⟨-, -, hzero, -, -, -⟩ := hout
  refine ⟨fun hm => ⟨(hdn hm).1, ?_⟩, fun hm => ⟨(hup hm).1, ?_⟩, fun hm => ⟨(hzero hm).1, ?_, hsign⟩, fun hm => ?_, fun hm htie => ?_,
    fun hm htie => ?_⟩
  · by_contra hc
    linarith [(hdn hm).2 (not_lt.1 hc)]
  · by_contra hc
    linarith [(hup' hm).2 (by linarith)]
  · by_contra hc
    have habs : |(|(i : ℚ)| + 1)| = |(i : ℚ)| + 1 := abs_of_nonneg (by positivity)
    have hle := (hzero hm).2 (habs.trans_le (not_lt.1 hc))
    rw [abs_of_nonneg (a := |i| + 1) (by positivity)] at hle
    omega
  · have h1 := hnear hm
    have h2 := hnear' hm
    rcases abs_cases ((i : ℚ) - x) with ⟨e, _⟩ | ⟨e, _⟩ <;> rcases abs_cases ((i : ℚ) + 1 - x) with ⟨e1, _⟩ | ⟨e1, _⟩ <;>
      rcases abs_cases ((i : ℚ) - 1 - x) with ⟨e2, _⟩ | ⟨e2, _⟩ <;> rw [abs_sub_comm] <;> linarith
  · rcases half_cases htie with ⟨-, e⟩ | ⟨-, e⟩
    · exact heven hm e (by omega)
    · exact heven' hm e (by omega)
  · rcases half_cases htie with ⟨hx, e⟩ | ⟨hx, e⟩
    · have hle := haway hm e
      rw [Int.abs_eq_natAbs, Int.abs_eq_natAbs] at hle
      have hi : (i : ℚ) ≤ -1 := by exact_mod_cast (by omega : i ≤ -1)
      rw [hx, abs_of_nonpos (by linarith), abs_of_nonpos (by linarith)]; linarith
    · have hle := haway' hm e
      rw [Int.abs_eq_natAbs, Int.abs_eq_natAbs] at hle
      have hi : (1 : ℚ) ≤ i := by exact_mod_cast (by omega : 1 ≤ i)
      rw [hx, abs_of_nonneg (by linarith), abs_of_nonneg (by linarith)]; linarith

/-- An integer magnitude is at most another, or at least the next. -/
theorem intCast_abs_gap (n : Nat) (z : ℤ) : |(z : ℝ)| ≤ n ∨ (n : ℝ) + 1 ≤ |(z : ℝ)| := by
  rcases le_or_gt |z| (n : ℤ) with h | h
  · exact .inl (by exact_mod_cast h)
  · exact .inr (by exact_mod_cast h)

/-- The magnitude of the integer made of an exact value. -/
def intMag (rm : RMode) (x : Exact) : Nat :=
  if roundsUp rm x.neg (x.num / x.den) (x.num % x.den) x.den then x.num / x.den + 1 else x.num / x.den

theorem roundInt_cast (rm : RMode) (x : Exact) : ((roundInt rm x).1 : ℝ) = withSign x.neg (intMag rm x) := by
  show ((if x.neg then -(intMag rm x : ℤ) else (intMag rm x : ℤ) : ℤ) : ℝ) = _
  unfold withSign
  split <;> push_cast <;> rfl

theorem intMag_cast (rm : RMode) (x : Exact) : (intMag rm x : ℝ)
    = if roundsUp rm x.neg (x.num / x.den) (x.num % x.den) x.den then ((x.num / x.den : ℕ) : ℝ) + 1 else ((x.num / x.den : ℕ) : ℝ) := by
  unfold intMag; split <;> push_cast <;> rfl

section
variable (rm : RMode) {x : Exact} (hd : 0 < x.den)
include hd

/-- The quotient and the remainder place the magnitude between two integers. -/
theorem mag_place : ((x.num / x.den : ℕ) : ℝ) ≤ x.mag ∧ x.mag < (x.num / x.den : ℕ) + 1 ∧ (x.num % x.den = 0 ↔ x.mag = (x.num / x.den : ℕ))
    ∧ (x.den < 2 * (x.num % x.den) ↔ ((x.num / x.den : ℕ) : ℝ) + 1 / 2 < x.mag)
    ∧ (2 * (x.num % x.den) = x.den ↔ x.mag = ((x.num / x.den : ℕ) : ℝ) + 1 / 2) := by
  have h := quotient_place (a := x.num) hd 1 one_pos
  simp only [mul_one] at h
  exact h

theorem roundInt_nearest (z : ℤ) :
    Nearest rm (x.rat : ℝ) ((roundInt rm x).1 : ℝ) (z : ℝ) ((roundInt rm x).1 % 2 = 0) := by
  obtain ⟨hlo, hhi, h0, h1, h2⟩ := mag_place hd
  have hpos : (0 : ℝ) ≤ (x.num / x.den : ℕ) := Nat.cast_nonneg _
  have hparity : ((roundInt rm x).1 % 2 = 0) = (intMag rm x % 2 = 0) := by
    show ((if x.neg then -(intMag rm x : ℤ) else (intMag rm x : ℤ)) % 2 = 0) = _
    split <;> exact propext (by omega)
  rw [hparity, roundInt_cast, x.cast_rat, intMag_cast, intMag]
  cases x.neg with
  | false => exact nearest_roundsUp hpos hlo hhi (intCast_abs_gap _ z) h0 h1 h2 id
  | true =>
    have hgap := intCast_abs_gap (x.num / x.den) (-z)
    rw [Int.cast_neg] at hgap
    have h := (nearest_roundsUp (rm := rm.mirror) (n := x.num / x.den) hpos hlo hhi hgap h0 h1 h2 id).mirror
    rw [neg_neg, ← roundsUp_mirror] at h
    exact h

theorem roundsToInt_roundInt : RoundsToInt rm x.rat (roundInt rm x).1 := by
  refine roundsToInt_of_nearest ?_ (roundInt_nearest rm hd)
  have hcast : (((roundInt rm x).1 * x.rat : ℚ) : ℝ) = intMag rm x * x.mag := by
    push_cast
    rw [roundInt_cast, x.cast_rat]
    unfold withSign
    split <;> ring
  have hpos : (0 : ℝ) ≤ ((roundInt rm x).1 * x.rat : ℚ) := hcast ▸ mul_nonneg (Nat.cast_nonneg _) x.mag_nonneg
  exact_mod_cast hpos

/-- The integer differs from the value exactly where a fraction was discarded. -/
theorem roundInt_inexact : (roundInt rm x).2 = true ↔ x.rat ≠ (roundInt rm x).1 := by
  obtain ⟨-, hhi, h0, -, -⟩ := mag_place hd
  have hsame : x.rat = (roundInt rm x).1 ↔ (intMag rm x : ℝ) = x.mag := by
    rw [← Rat.cast_inj (α := ℝ), Rat.cast_intCast, roundInt_cast, x.cast_rat, eq_comm]
    unfold withSign
    split <;> simp
  rw [ne_eq, hsame, intMag_cast, picked_eq_iff hd hhi h0]
  exact bne_iff_ne

/-- Rounding to an integer: the integer the mode makes, and inexact where it changed the value (R54). -/
theorem roundInt_spec : ∃ i g, RoundsToInt rm x.rat i ∧ ((x.rat ≠ i ∧ g = flagNX) ∨ (¬x.rat ≠ i ∧ g = 0))
    ∧ (roundInt rm x).1 = i ∧ flagIf (roundInt rm x).2 flagNX = g := by
  refine ⟨_, _, roundsToInt_roundInt rm hd, ?_, rfl, rfl⟩
  rw [← roundInt_inexact rm hd]
  cases (roundInt rm x).2 with
  | false => exact .inr ⟨Bool.false_ne_true, rfl⟩
  | true => exact .inl ⟨rfl, rfl⟩

end

end Sys2Proof.Machine
end

-- ==== Conversions to TS8 ====
section
/-!
SUPPORT. The representable values of TS8 on either side of a value, and the one a mode names (R44 to R46; obligation O22). A tie goes
to the larger magnitude under RNE as under RNA.
-/

namespace Sys2Proof.Machine

theorem tsMags_sorted : tsMags.Pairwise (· < ·) := List.pairwise_lt_range.filter _

theorem tsMags_ends : 0 ∈ tsMags ∧ 128 ∈ tsMags := by decide +kernel

/-- The canonical pattern of a representable value stands for it (R45). -/
theorem tsVal_tsPat : ∀ n ∈ tsMags, tsVal (tsPat n) = n ∧ tsVal (tsPat (-n)) = -n := by decide +kernel

/-- Every present pattern has a representable magnitude (R44). -/
theorem tsVal_mem : ∀ q < 255, (tsVal q).natAbs ∈ tsMags := by decide +kernel

/-- The last of the elements of a rising list that meet a condition is the greatest. -/
theorem le_of_getLast?_filter {xs : List Nat} (hs : xs.Pairwise (· < ·)) {p : Nat → Bool} {l : Nat}
    (h : (xs.filter p).getLast? = some l) : l ∈ xs ∧ p l = true ∧ ∀ n ∈ xs, p n = true → n ≤ l := by
  obtain ⟨ys, hys⟩ := List.getLast?_eq_some_iff.1 h
  have hl : l ∈ xs.filter p := by rw [hys]; simp
  refine ⟨List.mem_of_mem_filter hl, List.of_mem_filter hl, fun n hn hp => ?_⟩
  have hmem : n ∈ ys ++ [l] := hys ▸ List.mem_filter.2 ⟨hn, hp⟩
  have hsorted := hys ▸ hs.filter p
  rcases List.mem_append.1 hmem with h' | h'
  · exact (List.pairwise_append.1 hsorted |>.2.2 n h' l (List.mem_singleton_self l)).le
  · exact (List.mem_singleton.1 h').le

/-- The first of them is the least. -/
theorem le_of_find? {xs : List Nat} (hs : xs.Pairwise (· < ·)) {p : Nat → Bool} {l : Nat}
    (h : xs.find? p = some l) : l ∈ xs ∧ p l = true ∧ ∀ n ∈ xs, p n = true → l ≤ n := by
  obtain ⟨hp, as, bs, rfl, hno⟩ := List.find?_eq_some_iff_append.1 h
  refine ⟨by simp, hp, fun n hn hpn => ?_⟩
  rcases List.mem_append.1 hn with h' | h'
  · have hna := hno n h'
    rw [hpn] at hna
    exact absurd hna (by decide)
  · rcases List.mem_cons.1 h' with rfl | h''
    · exact le_rfl
    · exact ((List.pairwise_cons.1 (List.pairwise_append.1 hs).2.1).1 n h'').le

/-- The bracket of a magnitude of at most 128: representable, on either side, and nothing representable between. -/
theorem tsBracket_spec {num den : Nat} (h : num ≤ 128 * den) :
    (tsBracket num den).1 ∈ tsMags ∧ (tsBracket num den).2 ∈ tsMags ∧ (tsBracket num den).1 * den ≤ num
    ∧ num ≤ (tsBracket num den).2 * den
    ∧ (∀ n ∈ tsMags, n * den ≤ num → n ≤ (tsBracket num den).1) ∧ ∀ n ∈ tsMags, num ≤ n * den → (tsBracket num den).2 ≤ n := by
  obtain ⟨h0, h128⟩ := tsMags_ends
  have hlo : 0 ∈ tsMags.filter fun n => decide (n * den ≤ num) := List.mem_filter.2 ⟨h0, by simp⟩
  obtain ⟨lo, hlo'⟩ : ∃ lo, (tsMags.filter fun n => decide (n * den ≤ num)).getLast? = some lo :=
    Option.isSome_iff_exists.1 (List.getLast?_isSome.2 (List.ne_nil_of_mem hlo))
  obtain ⟨hi, hhi'⟩ : ∃ hi, tsMags.find? (fun n => decide (num ≤ n * den)) = some hi :=
    Option.isSome_iff_exists.1 (List.find?_isSome.2 ⟨128, h128, decide_eq_true h⟩)
  obtain ⟨hl1, hl2, hl3⟩ := le_of_getLast?_filter tsMags_sorted hlo'
  obtain ⟨hh1, hh2, hh3⟩ := le_of_find? tsMags_sorted hhi'
  unfold tsBracket
  rw [hlo', hhi']
  exact ⟨hl1, hh1, of_decide_eq_true hl2, of_decide_eq_true hh2, fun n hn hp => hl3 n hn (decide_eq_true hp),
    fun n hn hp => hh3 n hn (decide_eq_true hp)⟩

/-- TS8 resolves the ties of RNE as RNA does (R46). -/
def tsMode : RMode → RMode
  | .rne => .rna
  | m => m

/-- A value is the nearest to itself. -/
theorem Nearest.refl (rm : RMode) (V z : ℝ) (even : Prop) : Nearest rm V V z even := by
  refine ⟨fun _ => ⟨le_rfl, id⟩, fun _ => ⟨le_rfl, id⟩, fun _ => ⟨le_rfl, id⟩, fun _ => ?_, fun _ h hne => ?_, fun _ h => ?_⟩
  · rw [sub_self, abs_zero]; exact abs_nonneg _
  · rw [sub_self, abs_zero, eq_comm, abs_eq_zero, sub_eq_zero] at h
    exact absurd h hne
  · rw [sub_self, abs_zero, eq_comm, abs_eq_zero, sub_eq_zero] at h
    rw [h]

/-- Of two magnitudes with nothing between them a mode picks the nearest to a value strictly between. -/
theorem nearest_pick (rm : RMode) (neg : Bool) {num den lo hi : Nat} (hd : 0 < den) (hlo : lo * den < num) (hhi : num < hi * den)
    {z : ℝ} (hz : |z| ≤ lo ∨ (hi : ℝ) ≤ |z|) :
    Nearest rm (withSign neg (num / den))
      (withSign neg ((if roundsUp rm neg 0 (num - lo * den) ((hi - lo) * den) then hi else lo : ℕ) : ℝ)) z True := by
  have hd' : (0 : ℝ) < den := by exact_mod_cast hd
  have hlt : lo < hi := Nat.lt_of_mul_lt_mul_right (hlo.trans hhi)
  have hlo' : (lo : ℝ) * den < num := by exact_mod_cast hlo
  have hhi' : (num : ℝ) < hi * den := by exact_mod_cast hhi
  have hr : ((num - lo * den : ℕ) : ℝ) = num - lo * den := by push_cast [hlo.le]; ring
  have hb : (((hi - lo) * den : ℕ) : ℝ) = (hi - lo) * den := by push_cast [hlt.le]; ring
  have hN : (0 : ℝ) ≤ lo := Nat.cast_nonneg _
  have hv : (lo : ℝ) < num / den := (lt_div_iff₀ hd').2 hlo'
  have hvu : (num : ℝ) / den < lo + (hi - lo) := by rw [add_sub_cancel, div_lt_iff₀ hd']; exact hhi'
  have h0 : num - lo * den = 0 ↔ (num : ℝ) / den = lo := ⟨fun h => by omega, fun h => absurd h hv.ne'⟩
  have hmid : (lo : ℝ) + (hi - lo) / 2 = ((hi - lo) * den + 2 * (lo * den)) / 2 / den := by field_simp; ring
  have h1 : (hi - lo) * den < 2 * (num - lo * den) ↔ (lo : ℝ) + (hi - lo) / 2 < num / den := by
    rw [hmid, div_lt_div_iff_of_pos_right hd', ← Nat.cast_lt (α := ℝ), hb, Nat.cast_mul, hr]
    push_cast
    constructor <;> intro h <;> linarith
  have h2 : 2 * (num - lo * den) = (hi - lo) * den ↔ (num : ℝ) / den = lo + (hi - lo) / 2 := by
    rw [hmid, div_left_inj' hd'.ne', ← Nat.cast_inj (R := ℝ), hb, Nat.cast_mul, hr]
    push_cast
    constructor <;> intro h <;> linarith
  have hcast (c : Bool) : ((if c then hi else lo : ℕ) : ℝ) = if c then (lo : ℝ) + (hi - lo) else lo := by
    cases c
    · rfl
    · exact (add_sub_cancel _ _).symm
  rw [hcast]
  cases neg with
  | false => exact nearest_roundsUp hN hv.le hvu (by rwa [add_sub_cancel]) h0 h1 h2 fun _ => trivial
  | true =>
    have h := (nearest_roundsUp (rm := rm.mirror) (z := -z) (n := 0) (even := True) hN hv.le hvu
      (by rwa [abs_neg, add_sub_cancel]) h0 h1 h2 fun _ => trivial).mirror
    rw [neg_neg, ← roundsUp_mirror] at h
    exact h

end Sys2Proof.Machine
end

-- ==== The TS8 pattern of a value ====
section
/-!
SUPPORT. The pattern that conversion to TS8 gives of a finite value (R46; obligation O22).
-/

namespace Sys2Proof.Machine

/-- The integer of a magnitude with a sign. -/
def signedNat (neg : Bool) (n : Nat) : Int := if neg then -(n : Int) else n

theorem signedNat_cast (neg : Bool) (n : Nat) : ((signedNat neg n : ℤ) : ℝ) = withSign neg n := by
  cases neg
  · rfl
  · exact Int.cast_neg _

theorem tsVal_tsPat_signed {n : Nat} (h : n ∈ tsMags) (neg : Bool) : tsVal (tsPat (signedNat neg n)) = signedNat neg n := by
  cases neg with
  | false => exact (tsVal_tsPat n h).1
  | true => exact (tsVal_tsPat n h).2

/-- The magnitude that conversion to TS8 picks of the two that bracket the value. -/
def tsPick (rm : RMode) (x : Exact) : Nat :=
  let b := tsBracket x.num x.den
  match rm with
  | .rne | .rna => if b.2 * x.den - x.num ≤ x.num - b.1 * x.den then b.2 else b.1
  | .rtz => b.1
  | .rdn => if x.neg then b.2 else b.1
  | .rup => if x.neg then b.1 else b.2

section
variable (rm : RMode) {x : Exact}

/-- A pattern and its flags, said of the magnitude as an integer and as a number. -/
theorem tsResult_cast (x : Exact) (m : Nat) :
    (tsPat (if x.neg then -(m : Int) else m), flagIf false flagSA ||| flagIf ((m : Int) * x.den != x.num) flagNX)
      = (tsPat (signedNat x.neg m), flagIf (m * x.den != x.num) flagNX) := by
  have hne : ((m : Int) * x.den != x.num) = (m * x.den != x.num) := by
    rw [Bool.eq_iff_iff, bne_iff_ne, bne_iff_ne]; exact_mod_cast Iff.rfl
  rw [hne]
  exact congrArg (Prod.mk _) BitVec.zero_or

theorem toTS8_small (h : x.num ≤ 128 * x.den) :
    toTS8 rm x = (tsPat (signedNat x.neg (tsPick rm x)), flagIf (tsPick rm x * x.den != x.num) flagNX) := by
  have hbig : decide (128 * x.den < x.num) = false := decide_eq_false (not_lt.2 h)
  unfold toTS8
  simp only [hbig, Bool.false_eq_true, if_false]
  cases rm with
  | rtz => exact tsResult_cast x _
  | rne => dsimp only; rw [← Nat.cast_ite]; exact tsResult_cast x _
  | rna => dsimp only; rw [← Nat.cast_ite]; exact tsResult_cast x _
  | rdn => dsimp only; rw [← Nat.cast_ite]; exact tsResult_cast x _
  | rup => dsimp only; rw [← Nat.cast_ite]; exact tsResult_cast x _

/-- Above 128 the value is clamped. -/
theorem toTS8_big (h : 128 * x.den < x.num) : toTS8 rm x = (if x.neg then 0xEE else 0x66, flagSA) := by
  have hbig : decide (128 * x.den < x.num) = true := decide_eq_true h
  have hone : tsBracket 128 1 = (128, 128) := by decide +kernel
  have hpat : tsPat 128 = 0x66 ∧ tsPat (-128) = 0xEE := by decide +kernel
  unfold toTS8
  simp only [hbig, if_true, hone]
  cases hneg : x.neg <;> cases rm <;> simp [hpat, flagIf]

variable (hd : 0 < x.den) (h : x.num ≤ 128 * x.den)
include hd h

/-- It is one of the two, and where the value is representable it is the value. -/
theorem tsPick_spec : tsPick rm x ∈ tsMags ∧ (tsPick rm x * x.den = x.num ∨
    (tsBracket x.num x.den).1 * x.den < x.num ∧ x.num < (tsBracket x.num x.den).2 * x.den ∧
    tsPick rm x = if roundsUp (tsMode rm) x.neg 0 (x.num - (tsBracket x.num x.den).1 * x.den)
      (((tsBracket x.num x.den).2 - (tsBracket x.num x.den).1) * x.den) then (tsBracket x.num x.den).2 else (tsBracket x.num x.den).1) := by
  obtain ⟨hlmem, hhmem, hlo, hhi, hlmax, hhmin⟩ := tsBracket_spec h
  have hone : tsPick rm x = (tsBracket x.num x.den).1 ∨ tsPick rm x = (tsBracket x.num x.den).2 := by
    unfold tsPick
    cases rm with
    | rtz => exact .inl rfl
    | rne => exact (ite_eq_or_eq _ _ _).symm
    | rna => exact (ite_eq_or_eq _ _ _).symm
    | rdn => exact (ite_eq_or_eq _ _ _).symm
    | rup => exact ite_eq_or_eq _ _ _
  have hmem : tsPick rm x ∈ tsMags := by rcases hone with e | e <;> rw [e] <;> assumption
  refine ⟨hmem, ?_⟩
  rcases Nat.eq_or_lt_of_le hlo with e | hlt
  · -- representable: the bracket is one magnitude
    have hsame : (tsBracket x.num x.den).2 = (tsBracket x.num x.den).1 :=
      le_antisymm (hhmin _ hlmem e.ge) (Nat.le_of_mul_le_mul_right (hlo.trans hhi) hd)
    refine .inl ?_
    rcases hone with e' | e' <;> rw [e']
    · exact e
    · rw [hsame]; exact e
  · have hlt' : x.num < (tsBracket x.num x.den).2 * x.den := by
      refine lt_of_le_of_ne hhi fun e => ?_
      have := hlmax _ hhmem e.ge
      exact absurd (Nat.mul_le_mul_right x.den this) (by omega)
    refine .inr ⟨hlt, hlt', ?_⟩
    have hsub : ((tsBracket x.num x.den).2 - (tsBracket x.num x.den).1) * x.den
        = (tsBracket x.num x.den).2 * x.den - (tsBracket x.num x.den).1 * x.den := Nat.sub_mul _ _ _
    have hne : (x.num - (tsBracket x.num x.den).1 * x.den != 0) = true := bne_iff_ne.2 (by omega)
    rw [hsub]
    unfold tsPick
    cases rm
    case rtz => rfl
    case rdn => simp only [tsMode, roundsUp, hne, Bool.and_true]
    case rup => simp only [tsMode, roundsUp, hne, Bool.and_true]; cases x.neg <;> rfl
    all_goals
      simp only [tsMode, roundsUp, decide_eq_true_eq]
      exact if_congr (by omega) rfl rfl

/-- It is the nearest, as the mode says, of what is representable. -/
theorem tsPick_nearest {z : ℝ} {n : Nat} (hn : n ∈ tsMags) (hz : |z| = n) :
    Nearest (tsMode rm) (x.rat : ℝ) (withSign x.neg (tsPick rm x)) z True := by
  obtain ⟨-, -, -, -, hlmax, hhmin⟩ := tsBracket_spec h
  have hd' : (x.den : ℝ) ≠ 0 := by exact_mod_cast hd.ne'
  rw [x.cast_rat]
  rcases (tsPick_spec rm hd h).2 with e | ⟨hlo, hhi, e⟩
  · have hmag : x.mag = tsPick rm x := by
      rw [Exact.mag, div_eq_iff hd']; exact_mod_cast e.symm
    rw [hmag]
    exact Nearest.refl _ _ _ _
  · rw [e]
    refine nearest_pick _ _ hd hlo hhi ?_
    rw [hz]
    rcases le_total (n * x.den) x.num with h' | h'
    · exact .inl (by exact_mod_cast hlmax n hn h')
    · exact .inr (by exact_mod_cast hhmin n hn h')

omit h in
theorem tsPick_exact : tsPick rm x * x.den = x.num ↔ (signedNat x.neg (tsPick rm x) : ℚ) = x.rat := by
  have hd' : (x.den : ℝ) ≠ 0 := by exact_mod_cast hd.ne'
  rw [← Rat.cast_inj (α := ℝ), x.cast_rat, Rat.cast_intCast, signedNat_cast]
  have hmag : (tsPick rm x : ℝ) = x.mag ↔ tsPick rm x * x.den = x.num := by
    rw [Exact.mag, eq_div_iff hd']; exact_mod_cast Iff.rfl
  rw [← hmag]
  unfold withSign
  split
  · exact neg_inj.symm
  · exact Iff.rfl

end

/-- What the value of the pattern is to the value converted, in each mode (R46). -/
theorem toTS8_spec (rm : RMode) {p : Exact} (hd : 0 < p.den) (h : |p.rat| ≤ 128) :
    (((tsVal (toTS8 rm p).1 : ℚ) ≠ p.rat ∧ (toTS8 rm p).2 = flagNX) ∨ (¬(tsVal (toTS8 rm p).1 : ℚ) ≠ p.rat ∧ (toTS8 rm p).2 = 0))
    ∧ ∀ q, q < 255 →
      let t : Rat := tsVal q
      let u : Rat := tsVal (toTS8 rm p).1
      (rm = .rdn → u ≤ p.rat ∧ (t ≤ p.rat → t ≤ u)) ∧ (rm = .rup → p.rat ≤ u ∧ (p.rat ≤ t → u ≤ t))
      ∧ (rm = .rtz → |u| ≤ |p.rat| ∧ 0 ≤ u * p.rat ∧ (|t| ≤ |p.rat| → |t| ≤ |u|))
      ∧ (rm = .rne ∨ rm = .rna → |u - p.rat| ≤ |t - p.rat| ∧ (|u - p.rat| = |t - p.rat| → |t| ≤ |u|)) := by
  have hnum : p.num ≤ 128 * p.den := by
    have habs : ((|p.rat| : ℚ) : ℝ) = p.mag := by
      rw [Rat.cast_abs, p.cast_rat]
      unfold withSign
      split
      · rw [abs_neg, abs_of_nonneg p.mag_nonneg]
      · rw [abs_of_nonneg p.mag_nonneg]
    have hle : p.mag ≤ 128 := habs ▸ (by exact_mod_cast h)
    rw [Exact.mag, div_le_iff₀ (by exact_mod_cast hd)] at hle
    exact_mod_cast hle
  obtain ⟨hmem, -⟩ := tsPick_spec rm hd hnum
  rw [toTS8_small rm hnum]
  dsimp only
  rw [tsVal_tsPat_signed hmem]
  refine ⟨?_, fun q hq => ?_⟩
  · rw [ne_eq, ← tsPick_exact rm hd]
    by_cases e : tsPick rm p * p.den = p.num
    · exact .inr ⟨not_not.2 e, by rw [e, bne_self_eq_false]; rfl⟩
    · exact .inl ⟨e, by rw [bne_iff_ne.2 e]; rfl⟩
  · set t : ℚ := Int.cast (tsVal q) with ht
    set u : ℚ := Int.cast (signedNat p.neg (tsPick rm p)) with hu'
    have habs : |(t : ℝ)| = ((tsVal q).natAbs : ℕ) := by
      rw [Nat.cast_natAbs]; push_cast [ht]; rfl
    have hnear := tsPick_nearest rm hd hnum (tsVal_mem q hq) habs
    have hu : (u : ℝ) = withSign p.neg (tsPick rm p) := by rw [← signedNat_cast, hu', Rat.cast_intCast]
    rw [← hu] at hnear
    unfold Nearest at hnear
    norm_cast at hnear
    obtain ⟨hdn, hup, hzero, hhalf, -, haway⟩ := hnear
    have hsign : 0 ≤ u * p.rat := by
      have : (0 : ℝ) ≤ ((u * p.rat : ℚ) : ℝ) := by
        push_cast
        rw [hu, p.cast_rat]
        unfold withSign
        split
        · rw [neg_mul_neg]; exact mul_nonneg (Nat.cast_nonneg _) p.mag_nonneg
        · exact mul_nonneg (Nat.cast_nonneg _) p.mag_nonneg
      exact_mod_cast this
    refine ⟨?_, ?_, ?_, ?_⟩
    · rintro rfl; exact hdn rfl
    · rintro rfl; exact hup rfl
    · rintro rfl; exact ⟨(hzero rfl).1, hsign, (hzero rfl).2⟩
    · rintro (rfl | rfl) <;> exact ⟨hhalf (.inr rfl), haway rfl⟩

end Sys2Proof.Machine
end

-- ==== Conversions, comparisons and scaling of present elements ====
section
/-!
SUPPORT. The values of VCVT, VCMP and VSCA on present elements (R41, R46, R54, R183 to R185; obligation O22).
-/

namespace Sys2Proof.Machine

/-! ### Conversion -/

theorem Exact.ofInt_rat (i : ℤ) : (Exact.ofInt i).rat = i := by
  rw [Exact.rat_eq_top, Exact.ofInt, Exact.top_of_int, Nat.cast_one, div_one]

/-- The conversion of a present element is that of its value. -/
theorem convE_present {dst src : Fmt} {rm : RMode} {x : Nat} {v : FVal} (hx : x ≠ absentOf src) (hlt : x < 2 ^ fmtBits src)
    (hfl : src.isFloat = true → v = fval src x)
    (hint : src.isFloat = false → v = .fin ⟨decide (signedAt (fmtBits src) x < 0), (signedAt (fmtBits src) x).natAbs, 1⟩) :
    convE dst src rm x = convV dst rm v ∧ ∀ p, v = .fin p → 0 < p.den := by
  rw [convE, present_of_ne hx, if_pos rfl, elemVal]
  cases h : src.isFloat with
  | true => rw [hfl h]; exact ⟨rfl, fun p hp => fval_den_pos hp⟩
  | false =>
    rw [hint h, intVal_eq hlt]
    exact ⟨rfl, fun p hp => by cases hp; exact one_pos⟩

theorem convV_float {dst : Fmt} (h : dst.isFloat = true) (rm : RMode) (v : FVal) : convV dst rm v = roundV dst rm v := by
  match dst, h with
  | .f32, _ => rfl
  | .bf16, _ => rfl

theorem nanOut_eq (f : Fmt) (n : Bool) : nanOut f n = (defaultNaN f, if n then flagNV else 0) := by cases n <;> rfl

/-- A value made an integer, clamped with saturation, inexact where the mode changed it (R54). -/
theorem satI_roundInt (f : Fmt) (rm : RMode) {p : Exact} (hd : 0 < p.den) :
    ∃ i g, RoundsToInt rm p.rat i ∧ ((p.rat ≠ i ∧ g = flagNX) ∨ (¬p.rat ≠ i ∧ g = 0))
      ∧ ((satI f (roundInt rm p).1).1, (satI f (roundInt rm p).1).2 ||| flagIf (roundInt rm p).2 flagNX) = ((satI f i).1, (satI f i).2 ||| g) := by
  obtain ⟨i, g, hi, hg, rfl, rfl⟩ := roundInt_spec rm hd
  exact ⟨_, _, hi, hg, rfl⟩

theorem convV_int {dst : Fmt} (h : dst = .i32 ∨ dst = .i16 ∨ dst = .i8) (rm : RMode) :
    (∀ p : Exact, 0 < p.den → ∃ i g, RoundsToInt rm p.rat i ∧ ((p.rat ≠ i ∧ g = flagNX) ∨ (¬p.rat ≠ i ∧ g = 0))
      ∧ convV dst rm (.fin p) = ((satI dst i).1, (satI dst i).2 ||| g))
    ∧ (∀ n, convV dst rm (.inf n) = (intPat dst (if n then -intMax dst else intMax dst), flagNV ||| flagSA))
    ∧ ∀ n, convV dst rm (.nan n) = (0, flagNV) := by
  refine ⟨fun p hd => ?_, fun n => ?_, fun n => ?_⟩
  · obtain ⟨i, g, hi, hg, hr⟩ := satI_roundInt dst rm hd
    refine ⟨i, g, hi, hg, hr ▸ ?_⟩
    rcases h with rfl | rfl | rfl <;> rfl
  · rcases h with rfl | rfl | rfl <;> rfl
  · rcases h with rfl | rfl | rfl <;> rfl

theorem toTS8_clamps (rm : RMode) {p : Exact} (hd : 0 < p.den) :
    (128 < p.rat → toTS8 rm p = (0x66, flagSA)) ∧ (p.rat < -128 → toTS8 rm p = (0xEE, flagSA)) := by
  have hd' : (0 : ℚ) < p.den := by exact_mod_cast hd
  have hnum : (0 : ℚ) ≤ p.num := Nat.cast_nonneg _
  unfold Exact.rat
  cases hneg : p.neg with
  | false =>
    simp only [Bool.false_eq_true, if_false]
    refine ⟨fun h => ?_, fun h => ?_⟩
    · rw [toTS8_big rm (by rw [lt_div_iff₀ hd'] at h; exact_mod_cast h), hneg]; rfl
    · have : (0 : ℚ) ≤ p.num / p.den := by positivity
      linarith
  | true =>
    simp only [if_true, neg_div]
    refine ⟨fun h => ?_, fun h => ?_⟩
    · have : (0 : ℚ) ≤ p.num / p.den := by positivity
      linarith
    · rw [neg_lt_neg_iff, lt_div_iff₀ hd'] at h
      rw [toTS8_big rm (by exact_mod_cast h), hneg]; rfl

/-! ### Comparison -/

theorem Exact.lt_iff {x y : Exact} (hx : 0 < x.den) (hy : 0 < y.den) : x.lt y = true ↔ x.rat < y.rat := by
  have hx' : (0 : ℚ) < x.den := by exact_mod_cast hx
  have hy' : (0 : ℚ) < y.den := by exact_mod_cast hy
  rw [Exact.lt, decide_eq_true_eq, x.rat_eq_top, y.rat_eq_top, div_lt_div_iff₀ hx' hy']
  exact_mod_cast Iff.rfl

theorem Exact.eq_iff {x y : Exact} (hx : 0 < x.den) (hy : 0 < y.den) : x.eq y = true ↔ x.rat = y.rat := by
  have hx' : (x.den : ℚ) ≠ 0 := by exact_mod_cast hx.ne'
  have hy' : (y.den : ℚ) ≠ 0 := by exact_mod_cast hy.ne'
  rw [Exact.eq, decide_eq_true_eq, x.rat_eq_top, y.rat_eq_top, div_eq_div_iff hx' hy']
  exact_mod_cast Iff.rfl

/-- What a condition says of two ordered values (R185). -/
def condSays (cnd : VCond) (lt eq : Prop) : Prop :=
  match cnd with
  | .eq => eq
  | .ne => ¬eq
  | .lt => lt
  | .ge => ¬lt
  | .le => lt ∨ eq
  | .gt => ¬(lt ∨ eq)

section
variable {f : Fmt} {x y : Nat}

theorem not_eq_true_iff {b : Bool} {p : Prop} (h : b = true ↔ p) : (!b) = true ↔ ¬p := by
  rw [← h]; cases b <;> simp

/-- A comparison of present patterns that are ordered is what its condition says of them. -/
theorem cmpE_ordered (hx : x ≠ absentOf f) (hy : y ≠ absentOf f) (cnd : VCond) {lt eq : Prop}
    (hnx : isNaN f x = false) (hny : isNaN f y = false) (hlt : (ltE f x y).1 = true ↔ lt) (hgt : (ltE f y x).1 = true ↔ ¬(lt ∨ eq))
    (heq : eqE f x y = true ↔ eq) (hflag : (ltE f x y).2 = 0) :
    ((cmpE f cnd x y).1 = true ↔ condSays cnd lt eq) ∧ (cmpE f cnd x y).2 = 0 := by
  rw [cmpE, present_of_ne hx, present_of_ne hy, hnx, hny]
  refine ⟨?_, hflag⟩
  cases cnd with
  | eq => exact heq
  | ne => exact not_eq_true_iff heq
  | lt => exact hlt
  | ge => exact not_eq_true_iff hlt
  | le => exact (not_eq_true_iff hgt).trans not_not
  | gt => exact hgt

theorem isNaN_of_fval {v : FVal} (h : fval f x = v) (hv : ∀ n, v ≠ .nan n) : isNaN f x = false := by
  unfold isNaN
  rw [h]
  cases v with
  | nan n => exact absurd rfl (hv n)
  | inf n => exact Bool.and_false _
  | fin p => exact Bool.and_false _

/-- Integers compare as signed values. -/
theorem cmpE_int (hf : f.isFloat = false) (hx : x ≠ absentOf f) (hy : y ≠ absentOf f) (hxl : x < 2 ^ fmtBits f) (hyl : y < 2 ^ fmtBits f)
    (cnd : VCond) :
    ((cmpE f cnd x y).1 = true ↔ condSays cnd (signedAt (fmtBits f) x < signedAt (fmtBits f) y)
      (signedAt (fmtBits f) x = signedAt (fmtBits f) y)) ∧ (cmpE f cnd x y).2 = 0 := by
  have hn (z : Nat) : isNaN f z = false := by rw [isNaN, hf]; rfl
  have hl {a b : Nat} (ha : a < 2 ^ fmtBits f) (hb : b < 2 ^ fmtBits f) :
      ltE f a b = (decide (signedAt (fmtBits f) a < signedAt (fmtBits f) b), 0) := by
    rw [ltE, hf, intVal_eq ha, intVal_eq hb]; rfl
  refine cmpE_ordered hx hy cnd (hn x) (hn y) ?_ ?_ ?_ (by rw [hl hxl hyl])
  · rw [hl hxl hyl]; exact decide_eq_true_iff
  · rw [hl hyl hxl]
    exact decide_eq_true_iff.trans (by omega)
  · rw [eqE, hf]
    refine beq_iff_eq.trans ⟨fun h => by rw [h], fun h => ?_⟩
    rw [← patternOf_signedAt hxl, h, patternOf_signedAt hyl]

section
variable (hf : f.isFloat = true) (hx : x ≠ absentOf f) (hy : y ≠ absentOf f) (cnd : VCond)
include hf hx hy

theorem cmpE_fin {p q : Exact} (hp : fval f x = .fin p) (hq : fval f y = .fin q) :
    ((cmpE f cnd x y).1 = true ↔ condSays cnd (p.rat < q.rat) (p.rat = q.rat)) ∧ (cmpE f cnd x y).2 = 0 := by
  have hpd := fval_den_pos hp
  have hqd := fval_den_pos hq
  refine cmpE_ordered hx hy cnd (isNaN_of_fval hp (by simp)) (isNaN_of_fval hq (by simp)) ?_ ?_ ?_ ?_ <;>
    simp only [ltE, eqE, hf, if_true, hp, hq]
  · exact Exact.lt_iff hpd hqd
  · rw [Exact.lt_iff hqd hpd, not_or, not_lt, ← lt_iff_le_and_ne']
  · exact Exact.eq_iff hpd hqd
  · rfl

theorem cmpE_fin_inf {p : Exact} {b : Bool} (hp : fval f x = .fin p) (hq : fval f y = .inf b) :
    ((cmpE f cnd x y).1 = true ↔ condSays cnd (b = false) False) ∧ (cmpE f cnd x y).2 = 0 := by
  refine cmpE_ordered hx hy cnd (isNaN_of_fval hp (by simp)) (isNaN_of_fval hq (by simp)) ?_ ?_ ?_ ?_ <;>
    simp only [ltE, eqE, hf, if_true, hp, hq] <;> cases b <;> simp <;> rfl

theorem cmpE_inf_fin {a : Bool} {q : Exact} (hp : fval f x = .inf a) (hq : fval f y = .fin q) :
    ((cmpE f cnd x y).1 = true ↔ condSays cnd (a = true) False) ∧ (cmpE f cnd x y).2 = 0 := by
  refine cmpE_ordered hx hy cnd (isNaN_of_fval hp (by simp)) (isNaN_of_fval hq (by simp)) ?_ ?_ ?_ ?_ <;>
    simp only [ltE, eqE, hf, if_true, hp, hq] <;> cases a <;> simp <;> rfl

theorem cmpE_inf {a b : Bool} (hp : fval f x = .inf a) (hq : fval f y = .inf b) :
    ((cmpE f cnd x y).1 = true ↔ condSays cnd (a = true ∧ b = false) (a = b)) ∧ (cmpE f cnd x y).2 = 0 := by
  refine cmpE_ordered hx hy cnd (isNaN_of_fval hp (by simp)) (isNaN_of_fval hq (by simp)) ?_ ?_ ?_ ?_ <;>
    simp only [ltE, eqE, hf, if_true, hp, hq] <;> cases a <;> cases b <;> simp <;> rfl

/-- A NaN is unordered and unequal; a signalling one is invalid. -/
theorem cmpE_nan (h : isNaN f x = true ∨ isNaN f y = true) :
    cmpE f cnd x y = (decide (cnd = .ne), if (fval f x).snan || (fval f y).snan then flagNV else 0) := by
  have hlt : ltE f x y = (false, flagIf ((fval f x).snan || (fval f y).snan) flagNV)
      ∧ (ltE f y x).1 = false ∧ eqE f x y = false := by
    simp only [isNaN, hf, Bool.true_and] at h
    simp only [ltE, eqE, hf, if_true]
    cases hvx : fval f x <;> cases hvy : fval f y <;> simp_all
  obtain ⟨h1, h2, h3⟩ := hlt
  have hnan : (isNaN f x || isNaN f y) = true := Bool.or_eq_true _ _ ▸ h
  rw [cmpE, present_of_ne hx, present_of_ne hy, h1]
  refine Prod.ext ?_ rfl
  cases cnd <;> simp [hnan, h2, h3]

end

/-! ### Scaling -/

variable (rm : RMode) {s : Nat} (hx : x ≠ absentOf f) (hs : s ≠ absentOf .f32)
include hx hs

theorem scaleE_float (hf : f.isFloat = true) {p q : Exact} (hp : fval f x = .fin p) (hq : fval .f32 s = .fin q) :
    scaleE f rm x s = roundF f rm (p.mul q) := by
  rw [scaleE, present_of_ne hx, present_of_ne hs, hf, hp, hq]; rfl

theorem scaleE_int (hf : f.isFloat = false) (hxl : x < 2 ^ fmtBits f) :
    (∀ q, fval .f32 s = .fin q → ∃ i g, RoundsToInt rm (signedAt (fmtBits f) x * q.rat) i
      ∧ ((signedAt (fmtBits f) x * q.rat ≠ i ∧ g = flagNX) ∨ (signedAt (fmtBits f) x * q.rat = i ∧ g = 0))
      ∧ scaleE f rm x s = ((satI f i).1, (satI f i).2 ||| g))
    ∧ (∀ n, fval .f32 s = .nan n → scaleE f rm x s = (0, flagNV))
    ∧ ∀ n, fval .f32 s = .inf n → scaleE f rm x s = if signedAt (fmtBits f) x = 0 then (0, flagNV)
      else (intPat f (if (signedAt (fmtBits f) x < 0) ↔ n = true then intMax f else -intMax f), flagNV ||| flagSA) := by
  refine ⟨fun q hq => ?_, fun n hn => ?_, fun n hn => ?_⟩ <;>
    simp only [scaleE, present_of_ne hx, present_of_ne hs, hf, intVal_eq hxl, Bool.and_self, Bool.not_true, Bool.false_eq_true, if_false]
  · have hd : 0 < ((Exact.ofInt (signedAt (fmtBits f) x)).mul q).den := Nat.mul_pos one_pos (fval_den_pos hq)
    obtain ⟨i, g, hi, hg, hr⟩ := satI_roundInt f rm hd
    rw [Exact.mul_rat, Exact.ofInt_rat, not_not] at *
    exact ⟨i, g, hi, hg, by rw [hq]; exact hr⟩
  · rw [hn]
  · rw [hn]
    dsimp only
    by_cases h0 : signedAt (fmtBits f) x = 0
    · rw [if_pos h0, if_pos h0]
    · rw [if_neg h0, if_neg h0]
      by_cases hneg : signedAt (fmtBits f) x < 0 <;> cases n <;> simp [hneg]

end

end Sys2Proof.Machine
end

-- ==== Rounding of a real value between grid points ====
section
/-!
SUPPORT. A rounded stand-in is the rounded value it stands for, said by the rationals on either side of it (`RoundsCut`, R53). It stands
for every value that lies between the same points of a grid fine enough (obligation O22).
-/

namespace Sys2Proof.Machine

/-- The nearest to a real value, said by the rationals at or below it and those at or above it. -/
theorem Nearest.cut {rm : RMode} {V : ℝ} {y z : ℚ} {even : Prop} {below above : ℚ → Prop} (hbelow : ∀ q, below q ↔ (q : ℝ) ≤ V)
    (habove : ∀ q, above q ↔ V ≤ (q : ℝ)) (hsign : (0 ≤ V → 0 ≤ y) ∧ (V ≤ 0 → y ≤ 0)) (h : Nearest rm V (y : ℝ) (z : ℝ) even) :
    let m := (y + z) / 2
    let down := below y ∧ (below z → z ≤ y)
    let up := above y ∧ (above z → y ≤ z)
    (rm = .rdn → down) ∧ (rm = .rup → up) ∧ (rm = .rtz → (below 0 → down) ∧ (above 0 → up))
    ∧ (rm = .rne ∨ rm = .rna → (y < z → above m) ∧ (z < y → below m))
    ∧ (rm = .rne → z ≠ y → below m → above m → even) ∧ (rm = .rna → z ≠ y → below m → above m → |z| ≤ |y|) := by
  obtain ⟨hdn, hup, hzero, hhalf, heven, haway⟩ := h
  intro m down up
  have hm : (m : ℝ) = (y + z) / 2 := by push_cast [m]; ring
  simp only [down, up, hbelow, habove, hm]
  have htie : ((y : ℝ) + z) / 2 ≤ V → V ≤ (y + z) / 2 → |(y : ℝ) - V| = |(z : ℝ) - V| := fun h1 h2 => by
    rw [← abs_neg]; congr 1; linarith
  refine ⟨fun hr => ?_, fun hr => ?_, fun hr => ⟨fun h0 => ?_, fun h0 => ?_⟩, fun hr => ⟨fun hlt => ?_, fun hlt => ?_⟩,
    fun hr hne h1 h2 => heven hr (htie h1 h2) (by exact_mod_cast hne), fun hr _ h1 h2 => by exact_mod_cast haway hr (htie h1 h2)⟩
  · exact ⟨(hdn hr).1, fun h => by exact_mod_cast (hdn hr).2 h⟩
  · exact ⟨(hup hr).1, fun h => by exact_mod_cast (hup hr).2 h⟩
  · rw [Rat.cast_zero] at h0
    have hy : (0 : ℝ) ≤ y := by exact_mod_cast hsign.1 h0
    obtain ⟨h1, h2⟩ := hzero hr
    rw [abs_of_nonneg hy, abs_of_nonneg h0] at h1
    refine ⟨h1, fun h => ?_⟩
    rcases le_total (z : ℝ) 0 with hz | hz
    · exact_mod_cast hz.trans hy
    · rw [abs_of_nonneg hy, abs_of_nonneg h0, abs_of_nonneg hz] at h2
      exact_mod_cast h2 h
  · rw [Rat.cast_zero] at h0
    have hy : (y : ℝ) ≤ 0 := by exact_mod_cast hsign.2 h0
    obtain ⟨h1, h2⟩ := hzero hr
    rw [abs_of_nonpos hy, abs_of_nonpos h0, neg_le_neg_iff] at h1
    refine ⟨h1, fun h => ?_⟩
    rcases le_total 0 (z : ℝ) with hz | hz
    · exact_mod_cast hy.trans hz
    · rw [abs_of_nonpos hy, abs_of_nonpos h0, abs_of_nonpos hz, neg_le_neg_iff, neg_le_neg_iff] at h2
      exact_mod_cast h2 h
  · have hlt' : (y : ℝ) < z := by exact_mod_cast hlt
    rcases abs_cases ((y : ℝ) - V) with ⟨e, _⟩ | ⟨e, _⟩ <;> rcases abs_cases ((z : ℝ) - V) with ⟨e', _⟩ | ⟨e', _⟩ <;>
      linarith [hhalf hr]
  · have hlt' : (z : ℝ) < y := by exact_mod_cast hlt
    rcases abs_cases ((y : ℝ) - V) with ⟨e, _⟩ | ⟨e, _⟩ <;> rcases abs_cases ((z : ℝ) - V) with ⟨e', _⟩ | ⟨e', _⟩ <;>
      linarith [hhalf hr]

section
variable {f : Fmt} {rm : RMode} {x : Exact} {v : ℝ} {below above : ℚ → Prop}

/-- A value that something positive stands for is positive. -/
theorem Stands.pos {q : ℤ} (h : Stands q x v) (hd : 0 < x.den) (hn : 0 < x.num) : 0 < v := by
  have h0 := (h 0).2
  rw [Nat.cast_zero, zero_mul, zero_div] at h0
  exact not_le.1 fun hv => absurd (h0.1 hv) (not_le.2 (Exact.mag_pos hn hd))

/-- Where a stand-in stands for a magnitude, its rounding is the rounded value. -/
theorem roundsCut_of_stands (hf : f.isFloat = true) (hd : 0 < x.den) (hn : 0 < x.num) (hv : Stands (roundExp f x) x v)
    (hbelow : ∀ q : ℚ, below q ↔ (q : ℝ) ≤ withSign x.neg v) (habove : ∀ q : ℚ, above q ↔ withSign x.neg v ≤ (q : ℝ)) :
    RoundsCut f rm below above (roundF f rm x) := by
  intro hov
  obtain ⟨y, hy, hneg, -, hnear⟩ := roundF_nearest hf hd hn hv hov
  have hyrat : (y.rat : ℝ) = withSign x.neg y.mag := hneg ▸ y.cast_rat
  have hpos := hv.pos hd hn
  refine ⟨y, hy, fun q z hz _ => Nearest.cut hbelow habove ?_ (hyrat.symm ▸ hnear q z hz)⟩
  rw [← Rat.cast_nonneg (K := ℝ), ← Rat.cast_nonpos (K := ℝ), hyrat]
  unfold withSign
  cases x.neg with
  | false => exact ⟨fun _ => y.mag_nonneg, fun h => absurd h (not_le.2 hpos)⟩
  | true => exact ⟨fun h => absurd h (not_le.2 (neg_lt_zero.2 hpos)), fun _ => neg_nonpos.2 y.mag_nonneg⟩

/-- A zero rounds to a zero. -/
theorem roundF_zero (rm : RMode) (hf : f.isFloat = true) (hn : x.num = 0) :
    roundF f rm x = (signPat f x.neg, 0) ∧ ∃ y, fval f (signPat f x.neg) = .fin y ∧ y.rat = 0 := by
  have hpat := fval_signPat_add hf x.neg (pat := 0) (by positivity)
  rw [Nat.zero_div, if_pos rfl, Nat.zero_mod, Nat.add_zero] at hpat
  refine ⟨if_pos hn, _, hpat, ?_⟩
  rw [← Rat.cast_inj (α := ℝ), Exact.cast_rat, scaled_mag, Nat.cast_zero, zero_mul, Rat.cast_zero]
  unfold withSign
  split <;> simp

theorem roundsCut_zero (hf : f.isFloat = true) (hn : x.num = 0) (hbelow : ∀ q : ℚ, below q ↔ (q : ℝ) ≤ 0)
    (habove : ∀ q : ℚ, above q ↔ 0 ≤ (q : ℝ)) : RoundsCut f rm below above (roundF f rm x) := by
  intro _
  obtain ⟨hr, y, hy, hzero⟩ := roundF_zero (f := f) (x := x) rm hf hn
  rw [hr]
  refine ⟨y, hy, fun q z _ _ => Nearest.cut hbelow habove ?_ ?_⟩
  · rw [hzero]; exact ⟨fun _ => le_rfl, fun _ => le_rfl⟩
  · rw [hzero, Rat.cast_zero]; exact Nearest.refl _ _ _ _

/-! ### Grids -/

/-- Between the same two points of a grid of which the half units are points, one value stands for another. -/
theorem stands_of_grid {q γ : ℤ} (hγ : γ + 1 ≤ q) {m : ℕ} (hv : m * (2 : ℝ) ^ γ < v ∧ v < (m + 1) * 2 ^ γ)
    (hx : m * (2 : ℝ) ^ γ < x.mag ∧ x.mag < (m + 1) * 2 ^ γ) : Stands q x v := by
  intro k
  obtain ⟨c, hc⟩ := Int.le.dest hγ
  have hg : (0 : ℝ) < 2 ^ γ := by positivity
  have hpoint : (k : ℝ) * 2 ^ q / 2 = (k * 2 ^ c : ℕ) * 2 ^ γ := by
    rw [← hc, zpow_add₀ two_ne_zero, zpow_add₀ two_ne_zero, zpow_one, zpow_natCast]; push_cast; ring
  rw [hpoint]
  generalize k * 2 ^ c = j
  -- a point is at most m or at least m + 1
  have hplace {w : ℝ} (hw : m * (2 : ℝ) ^ γ < w ∧ w < (m + 1) * 2 ^ γ) :
      ((j : ℝ) * 2 ^ γ ≤ w ↔ j ≤ m) ∧ (w ≤ j * 2 ^ γ ↔ m < j) := by
    rcases Nat.lt_or_ge m j with h | h
    · have hj : ((m : ℝ) + 1) * 2 ^ γ ≤ j * 2 ^ γ := mul_le_mul_of_nonneg_right (by exact_mod_cast h) hg.le
      exact ⟨⟨fun h' => absurd (h'.trans_lt hw.2) (not_lt.2 hj), fun h' => by omega⟩, ⟨fun _ => h, fun _ => hw.2.le.trans hj⟩⟩
    · have hj : (j : ℝ) * 2 ^ γ ≤ m * 2 ^ γ := mul_le_mul_of_nonneg_right (by exact_mod_cast h) hg.le
      exact ⟨⟨fun _ => h, fun _ => hj.trans hw.1.le⟩, ⟨fun h' => absurd (hw.1.trans_le h') (not_lt.2 hj), fun h' => by omega⟩⟩
  rw [(hplace hv).1, (hplace hv).2, (hplace hx).1, (hplace hx).2]
  exact ⟨Iff.rfl, Iff.rfl⟩

/-- The unit of a value of at least 2^E. -/
theorem roundExp_ge (f : Fmt) (hd : 0 < x.den) (hn : 0 < x.num) {E : ℤ} (h : (2 : ℝ) ^ E ≤ x.mag) : E - fracBits f ≤ roundExp f x := by
  obtain ⟨-, hlt⟩ := floorLog2_spec hn hd
  have hE : E < floorLog2 x.num x.den + 1 := (zpow_lt_zpow_iff_right₀ one_lt_two).1 (h.trans_lt hlt)
  have := le_max_left (floorLog2 x.num x.den) (-126)
  rw [roundExp]
  omega

theorem roundExp_ge_min (f : Fmt) : -126 - (fracBits f : ℤ) ≤ roundExp f x := sub_le_sub_right (le_max_right _ _) _

end

end Sys2Proof.Machine
end

-- ==== Square roots and reciprocals ====
section
/-!
SUPPORT. √x and 1/√x rounded once (R53, R181, R182; obligation O22): the model's stand-in lies between the same points of a fine grid.
-/

namespace Sys2Proof.Machine

/-- The places `sqrtStand` brings a square to: at least 48 bits before its root is taken. -/
theorem sqrtStand_scale {num den : Nat} (hn : 0 < num) (k : Nat)
    (hk : k = if ((Nat.log2 num : Int) - Nat.log2 den) < 128 then ((130 - ((Nat.log2 num : Int) - Nat.log2 den)).toNat) / 2 else 1) :
    2 ^ 48 * den ≤ num * 4 ^ k := by
  have hexp : 48 + (Nat.log2 den + 1) ≤ Nat.log2 num + 2 * k := by split at hk <;> omega
  calc 2 ^ 48 * den ≤ 2 ^ 48 * 2 ^ (Nat.log2 den + 1) := Nat.mul_le_mul_left _ (Nat.lt_log2_self).le
    _ = 2 ^ (48 + (Nat.log2 den + 1)) := (pow_add ..).symm
    _ ≤ 2 ^ (Nat.log2 num + 2 * k) := Nat.pow_le_pow_right two_pos hexp
    _ = 2 ^ Nat.log2 num * 4 ^ k := by rw [pow_add, pow_mul, show 2 ^ 2 = 4 from rfl]
    _ ≤ num * 4 ^ k := Nat.mul_le_mul_right _ (Nat.log2_self_le hn.ne')

/-- The root of a quotient between the points of the grid that its floor names, and on the lower one only where it is exact. -/
theorem sqrt_place {num den k : Nat} (hd : 0 < den) :
    let s := Nat.sqrt (num * 4 ^ k / den)
    let g : ℝ := 2 ^ (-(k : ℤ))
    (s : ℝ) * g ≤ √(num / den) ∧ √(num / den) < (s + 1) * g ∧ (√(num / den : ℝ) = s * g ↔ s * s * den = num * 4 ^ k) := by
  intro s g
  have hd' : (0 : ℝ) < den := by exact_mod_cast hd
  have hg : (0 : ℝ) < g := by positivity
  have hg2 : g ^ 2 = 1 / 4 ^ k := by
    rw [show (4 : ℝ) = 2 ^ 2 by norm_num, ← pow_mul, show g = 1 / 2 ^ k by rw [one_div, ← zpow_natCast, ← zpow_neg], div_pow, one_pow,
      ← pow_mul, Nat.mul_comm]
  have h4 : (0 : ℝ) < 4 ^ k := by positivity
  have hlo : s * s * den ≤ num * 4 ^ k := (Nat.mul_le_mul_right _ (Nat.sqrt_le _)).trans (Nat.div_mul_le_self _ _)
  have hhi : num * 4 ^ k < (s + 1) * (s + 1) * den := (Nat.div_lt_iff_lt_mul hd).1 (Nat.lt_succ_sqrt _)
  have hs : (0 : ℝ) ≤ s * g := by positivity
  have hsq (w : ℝ) : (w * g) ^ 2 = w * w * den / (den * 4 ^ k) := by rw [mul_pow, hg2]; field_simp
  have hquot : (num : ℝ) / den = num * 4 ^ k / (den * 4 ^ k) := by field_simp
  refine ⟨Real.le_sqrt_of_sq_le ?_, ?_, ?_⟩
  · rw [hsq, hquot]
    exact div_le_div_of_nonneg_right (by exact_mod_cast hlo) (by positivity)
  · rw [Real.sqrt_lt' (by positivity), hsq, hquot]
    exact div_lt_div_of_pos_right (by exact_mod_cast hhi) (by positivity)
  · rw [Real.sqrt_eq_iff_eq_sq (by positivity) hs, hsq, hquot, div_left_inj' (by positivity)]
    exact_mod_cast eq_comm

theorem roundsCut_sqrtStand {f : Fmt} {rm : RMode} (hf : f.isFloat = true) {num den : Nat} (hn : 0 < num) (hd : 0 < den)
    {below above : ℚ → Prop} (hbelow : ∀ q : ℚ, below q ↔ (q : ℝ) ≤ √(num / den)) (habove : ∀ q : ℚ, above q ↔ √(num / den) ≤ (q : ℝ)) :
    RoundsCut f rm below above (roundF f rm (sqrtStand num den)) := by
  obtain ⟨k, hk⟩ : ∃ k, k = if ((Nat.log2 num : Int) - Nat.log2 den) < 128
    then ((130 - ((Nat.log2 num : Int) - Nat.log2 den)).toNat) / 2 else 1 := ⟨_, rfl⟩
  have hstand : sqrtStand num den = ⟨false, if Nat.sqrt (num * 4 ^ k / den) * Nat.sqrt (num * 4 ^ k / den) * den = num * 4 ^ k
      then 2 * Nat.sqrt (num * 4 ^ k / den) else 2 * Nat.sqrt (num * 4 ^ k / den) + 1, 2 ^ (k + 1)⟩ := by rw [hk]; rfl
  obtain ⟨hlo, hhi, hexact⟩ := sqrt_place (num := num) (k := k) hd
  have hbig : 2 ^ 24 ≤ Nat.sqrt (num * 4 ^ k / den) := by
    rw [Nat.le_sqrt, Nat.le_div_iff_mul_le hd]
    exact sqrtStand_scale hn k hk
  rw [hstand]
  generalize Nat.sqrt (num * 4 ^ k / den) = s at *
  have hfrac : (fracBits f : ℤ) ≤ 23 := by cases f <;> decide
  have hg : (0 : ℝ) < 2 ^ (-(k : ℤ)) := by positivity
  have hmag (t : ℕ) : (Exact.mag ⟨false, t, 2 ^ (k + 1)⟩) = t / 2 * 2 ^ (-(k : ℤ)) := by
    rw [Exact.mag, zpow_neg, zpow_natCast]; push_cast; rw [pow_succ]; field_simp
  have hden : 0 < 2 ^ (k + 1) := by positivity
  by_cases he : s * s * den = num * 4 ^ k
  · rw [if_pos he]
    have hv : √(num / den : ℝ) = Exact.mag ⟨false, 2 * s, 2 ^ (k + 1)⟩ := by rw [hmag, hexact.2 he]; push_cast; ring
    rw [hv] at hbelow habove
    exact roundsCut_of_stands hf hden (by show 0 < 2 * s; omega) (Stands.self _ _) hbelow habove
  · rw [if_neg he]
    have hnum : 0 < 2 * s + 1 := Nat.succ_pos _
    have hlo' : (s : ℝ) * 2 ^ (-(k : ℤ)) < √(num / den) := lt_of_le_of_ne hlo fun h => he (hexact.1 h.symm)
    have hx := hmag (2 * s + 1)
    have hE : (2 : ℝ) ^ ((24 : ℤ) - k) ≤ Exact.mag ⟨false, 2 * s + 1, 2 ^ (k + 1)⟩ := by
      rw [hx, sub_eq_add_neg, zpow_add₀ two_ne_zero]
      refine mul_le_mul_of_nonneg_right ?_ hg.le
      have hs : (2 : ℝ) ^ (24 : ℤ) ≤ s := by exact_mod_cast hbig
      push_cast
      linarith
    have hq := roundExp_ge f (x := ⟨false, 2 * s + 1, 2 ^ (k + 1)⟩) hden hnum hE
    refine roundsCut_of_stands hf hden hnum (stands_of_grid (γ := -(k : ℤ)) (m := s) (by omega) ⟨hlo', hhi⟩ ⟨?_, ?_⟩) hbelow habove
    · rw [hx]; refine mul_lt_mul_of_pos_right ?_ hg; push_cast; linarith
    · rw [hx]; refine mul_lt_mul_of_pos_right ?_ hg; push_cast; linarith

/-- A positive exact value. -/
theorem Exact.pos_of_rat_pos {p : Exact} (h : 0 < p.rat) :
    p.neg = false ∧ 0 < p.num ∧ (p.rat : ℝ) = p.num / p.den := by
  have hneg : p.neg = false := by
    by_contra hc
    have hR : (0 : ℝ) < p.rat := by exact_mod_cast h
    rw [p.cast_rat, withSign, if_pos (by simpa using hc)] at hR
    linarith [p.mag_nonneg]
  have hrat : (p.rat : ℝ) = p.num / p.den := by rw [p.cast_rat, hneg]; rfl
  refine ⟨hneg, Nat.pos_of_ne_zero fun h0 => ?_, hrat⟩
  rw [Exact.rat, hneg, h0] at h
  simp at h

section
variable {f : Fmt} (rm : RMode) {p : Exact} (hd : 0 < p.den) (h : 0 < p.rat)
include hd h

/-- √x is rounded once (R181). -/
theorem sqrtV_cut (hf : f.isFloat = true) :
    RoundsCut f rm (fun q => q ≤ 0 ∨ q ^ 2 ≤ p.rat) (fun q => 0 ≤ q ∧ p.rat ≤ q ^ 2) (sqrtV f rm (.fin p)) := by
  obtain ⟨hneg, hnum, hrat⟩ := p.pos_of_rat_pos h
  have hR : (0 : ℝ) ≤ p.rat := by exact_mod_cast h.le
  simp only [sqrtV, hneg, hnum.ne', if_false, Bool.false_eq_true]
  refine roundsCut_sqrtStand hf hnum hd (fun q => ?_) (fun q => ?_)
  · rw [← hrat]
    rcases le_or_gt q 0 with hq | hq
    · exact ⟨fun _ => le_trans (by exact_mod_cast hq) (Real.sqrt_nonneg _), fun _ => .inl hq⟩
    · rw [Real.le_sqrt' (by exact_mod_cast hq), or_iff_right (not_le.2 hq)]
      exact_mod_cast Iff.rfl
  · rw [← hrat, Real.sqrt_le_iff]
    exact_mod_cast Iff.rfl

/-- 1/√x is rounded once (R182). -/
theorem rsqV_cut :
    RoundsCut .bf16 rm (fun q => q ≤ 0 ∨ q ^ 2 * p.rat ≤ 1) (fun q => 0 ≤ q ∧ 1 ≤ q ^ 2 * p.rat) (rsqV rm (.fin p)) := by
  obtain ⟨hneg, hnum, hrat⟩ := p.pos_of_rat_pos h
  have hR : (0 : ℝ) < p.rat := by exact_mod_cast h
  have hinv : (p.den : ℝ) / p.num = 1 / p.rat := by rw [hrat, one_div_div]
  simp only [rsqV, hneg, hnum.ne', if_false, Bool.false_eq_true]
  refine roundsCut_sqrtStand rfl hd hnum (fun q => ?_) (fun q => ?_)
  · rw [hinv]
    rcases le_or_gt q 0 with hq | hq
    · exact ⟨fun _ => le_trans (by exact_mod_cast hq) (Real.sqrt_nonneg _), fun _ => .inl hq⟩
    · rw [Real.le_sqrt' (by exact_mod_cast hq), or_iff_right (not_le.2 hq), le_div_iff₀ hR]
      exact_mod_cast Iff.rfl
  · rw [hinv, Real.sqrt_le_iff, div_le_iff₀ hR]
    exact_mod_cast Iff.rfl

end

/-- 1/x is the exact reciprocal, rounded once (R182). -/
theorem rcpV_eq (rm : RMode) {p : Exact} (hd : 0 < p.den) (h : p.num ≠ 0) :
    ∃ e : Exact, e.rat * p.rat = 1 ∧ 0 < e.den ∧ rcpV rm (.fin p) = roundF .bf16 rm e := by
  refine ⟨⟨p.neg, p.den, p.num⟩, ?_, Nat.pos_of_ne_zero h, if_neg h⟩
  have hd' : (p.den : ℚ) ≠ 0 := by exact_mod_cast hd.ne'
  have hn' : (p.num : ℚ) ≠ 0 := by exact_mod_cast h
  unfold Exact.rat
  cases p.neg <;> simp <;> field_simp

end Sys2Proof.Machine
end

-- ==== Powers of two ====
section
/-!
SUPPORT. 2^x rounded once (R53, R182; obligation O22): the real power by its integer powers, the root that the model finds bit by bit, and
the two ranges where the result is known without it.
-/

namespace Sys2Proof.Machine

/-! ### The real power -/

/-- 2^x raised to a whole number that makes x whole. -/
theorem two_rpow_pow {x : ℝ} {n : ℕ} {a : ℤ} (h : x * n = a) : ((2 : ℝ) ^ x) ^ n = (2 : ℝ) ^ a := by
  rw [← Real.rpow_natCast, ← Real.rpow_mul zero_le_two, h, Real.rpow_intCast]

/-- The rationals at or below 2^x, and those at or above it, by whole powers. -/
theorem cut_two_rpow (x q : ℚ) :
    ((q ≤ 0 ∨ q ^ x.den ≤ (2 : ℚ) ^ x.num) ↔ (q : ℝ) ≤ (2 : ℝ) ^ (x : ℝ))
    ∧ ((0 ≤ q ∧ (2 : ℚ) ^ x.num ≤ q ^ x.den) ↔ (2 : ℝ) ^ (x : ℝ) ≤ (q : ℝ)) := by
  have hpos : (0 : ℝ) < 2 ^ (x : ℝ) := Real.rpow_pos_of_pos two_pos _
  have hpow : ((2 : ℝ) ^ (x : ℝ)) ^ x.den = (2 : ℝ) ^ x.num :=
    two_rpow_pow (by exact_mod_cast Rat.mul_den_eq_num x)
  have hiff (hq : 0 ≤ q) : (q ^ x.den ≤ (2 : ℚ) ^ x.num ↔ (q : ℝ) ≤ 2 ^ (x : ℝ))
      ∧ ((2 : ℚ) ^ x.num ≤ q ^ x.den ↔ (2 : ℝ) ^ (x : ℝ) ≤ q) := by
    have hq' : (0 : ℝ) ≤ q := by exact_mod_cast hq
    have hcast : (2 : ℝ) ^ x.num = ((2 : ℚ) ^ x.num : ℚ) := by push_cast; rfl
    rw [← pow_le_pow_iff_left₀ hq' hpos.le x.den_nz, ← pow_le_pow_iff_left₀ hpos.le hq' x.den_nz, hpow, hcast, ← Rat.cast_pow,
      Rat.cast_le, Rat.cast_le]
    exact ⟨Iff.rfl, Iff.rfl⟩
  constructor
  · rcases le_or_gt q 0 with hq | hq
    · exact ⟨fun _ => le_trans (by exact_mod_cast hq) hpos.le, fun _ => .inl hq⟩
    · rw [or_iff_right (not_le.2 hq), (hiff hq.le).1]
  · constructor
    · rintro ⟨hq, h⟩
      exact (hiff hq).2.1 h
    · intro h
      have hq : 0 ≤ q := by exact_mod_cast hpos.le.trans h
      exact ⟨hq, (hiff hq).2.2 h⟩

/-! ### The root found bit by bit -/

theorem rootFloor_spec (d bound : Nat) : ∀ n m, m ^ 2 ^ d ≤ bound → bound < (m + 2 ^ n) ^ 2 ^ d →
    rootFloor d bound n m ^ 2 ^ d ≤ bound ∧ bound < (rootFloor d bound n m + 1) ^ 2 ^ d := by
  intro n
  induction n with
  | zero => exact fun m hlo hhi => ⟨hlo, hhi⟩
  | succ n ih =>
    intro m hlo hhi
    rw [rootFloor]
    split
    next h => exact ih _ h (by rwa [Nat.add_assoc, ← Nat.two_mul, ← pow_succ'])
    next h => exact ih _ hlo (not_le.1 h)

/-- A power of two is a 2^d-th power only where 2^d divides its exponent. -/
theorem dvd_of_pow_eq_two_pow {m d e : Nat} (h : m ^ 2 ^ d = 2 ^ e) : 2 ^ d ∣ e := by
  obtain ⟨j, -, rfl⟩ := (Nat.dvd_prime_pow Nat.prime_two).1 (h ▸ dvd_pow_self m (by positivity : 2 ^ d ≠ 0))
  rw [← pow_mul] at h
  exact ⟨j, by rw [Nat.mul_comm]; exact (Nat.pow_right_injective le_rfl h).symm⟩

/-- The bits of 2^(a / 2^d) that the model takes: 13 of them, strictly below it where it is no whole power. -/
theorem rootFloor_exp2 {d r : Nat} (hr : r < 2 ^ d) (hr0 : r ≠ 0) :
    let m := rootFloor d (2 ^ (r + 12 * 2 ^ d)) 13 0
    2 ^ 12 ≤ m ∧ m ^ 2 ^ d < 2 ^ (r + 12 * 2 ^ d) ∧ 2 ^ (r + 12 * 2 ^ d) < (m + 1) ^ 2 ^ d := by
  intro m
  have hbits (k : Nat) : (2 ^ k) ^ 2 ^ d = 2 ^ (k * 2 ^ d) := (pow_mul ..).symm
  obtain ⟨hlo, hhi⟩ := rootFloor_spec d (2 ^ (r + 12 * 2 ^ d)) 13 0
    (by rw [zero_pow (by positivity)]; positivity)
    (by rw [Nat.zero_add, hbits]; exact Nat.pow_lt_pow_right one_lt_two (by omega))
  refine ⟨?_, lt_of_le_of_ne hlo fun h => ?_, hhi⟩
  · have h12 : (2 ^ 12) ^ 2 ^ d < (m + 1) ^ 2 ^ d :=
      lt_of_le_of_lt (by rw [hbits]; exact Nat.pow_le_pow_right two_pos (by omega)) hhi
    exact Nat.le_of_lt_succ (lt_of_pow_lt_pow_left₀ _ (Nat.zero_le _) h12)
  · have hdvd := dvd_of_pow_eq_two_pow h
    have hr' := (Nat.dvd_add_left (Dvd.intro_left 12 rfl)).1 hdvd
    exact absurd (Nat.le_of_dvd (Nat.pos_of_ne_zero hr0) hr') (not_le.2 hr)

/-! ### The stand-in of 2^(a / 2^d) -/

/-- The value of m in units of 2^(q - 13). -/
def exp2Units (m : Nat) (q : ℤ) : Exact :=
  if 13 ≤ q then ⟨false, m * 2 ^ (q - 13).toNat, 1⟩ else ⟨false, m, 2 ^ (13 - q).toNat⟩

theorem exp2Units_parts {m : Nat} (hm : 0 < m) (q : ℤ) :
    (exp2Units m q).neg = false ∧ 0 < (exp2Units m q).num ∧ 0 < (exp2Units m q).den ∧ (exp2Units m q).mag = m * (2 : ℝ) ^ (q - 13) := by
  unfold exp2Units
  split
  next h =>
    refine ⟨rfl, by positivity, one_pos, ?_⟩
    obtain ⟨k, hk⟩ := Int.eq_ofNat_of_zero_le (sub_nonneg.2 h)
    rw [hk, Exact.mag, zpow_natCast]
    push_cast
    rw [div_one]; rfl
  next h =>
    refine ⟨rfl, hm, by positivity, ?_⟩
    obtain ⟨k, hk⟩ := Int.eq_ofNat_of_zero_le (sub_nonneg.2 (not_le.1 h).le)
    rw [show q - 13 = -(k : ℤ) by omega, hk, Exact.mag, zpow_neg, zpow_natCast]
    push_cast
    rw [div_eq_mul_inv]; rfl

/-- An exponent is a multiple of 2^d and what is left of it. -/
theorem exp2_split (a : ℤ) (d : Nat) : ∃ (q : ℤ) (r : Nat), a = q * (2 ^ d : ℕ) + r ∧ r < 2 ^ d
    ∧ exp2Stand a d = exp2Units (if r = 0 then 2 * 2 ^ 12 else 2 * rootFloor d (2 ^ (r + 12 * 2 ^ d)) 13 0 + 1) q := by
  have hpos : (0 : ℤ) < 2 ^ d := by positivity
  have hr : ((a % 2 ^ d).toNat : ℤ) = a % 2 ^ d := Int.toNat_of_nonneg (Int.emod_nonneg a hpos.ne')
  refine ⟨a / 2 ^ d, (a % 2 ^ d).toNat, ?_, ?_, rfl⟩
  · rw [hr]; push_cast; linarith [Int.mul_ediv_add_emod a (2 ^ d)]
  · have := hr ▸ Int.emod_lt_of_pos a hpos
    exact_mod_cast this

/-- A number whose 2^d-th power is 2^(q 2^d + r), among the points of 2^(q - 12): where the root of 2^(r + 12 2^d) is among the integers. -/
theorem exp2_place {V : ℝ} {d r : Nat} {q : ℤ} (hV : V ^ 2 ^ d = (2 : ℝ) ^ (q * (2 ^ d : ℕ) + r)) (hVpos : 0 < V) (m : Nat) :
    (m ^ 2 ^ d < 2 ^ (r + 12 * 2 ^ d) → m * (2 : ℝ) ^ (q - 12) < V) ∧ (2 ^ (r + 12 * 2 ^ d) < m ^ 2 ^ d → V < m * (2 : ℝ) ^ (q - 12)) := by
  have hscale : (m * (2 : ℝ) ^ (q - 12)) ^ 2 ^ d = (m ^ 2 ^ d : ℕ) * (2 : ℝ) ^ ((q - 12) * (2 ^ d : ℕ)) := by
    rw [mul_pow, ← zpow_natCast ((2 : ℝ) ^ (q - 12)), ← zpow_mul]; push_cast; rfl
  have hunits : V ^ 2 ^ d = (2 ^ (r + 12 * 2 ^ d) : ℕ) * (2 : ℝ) ^ ((q - 12) * (2 ^ d : ℕ)) := by
    have hpow : ((2 ^ (r + 12 * 2 ^ d) : ℕ) : ℝ) = (2 : ℝ) ^ ((r + 12 * 2 ^ d : ℕ) : ℤ) := by rw [zpow_natCast]; push_cast; rfl
    rw [hV, hpow, ← zpow_add₀ two_ne_zero]
    congr 1; push_cast; ring
  have hrest : (0 : ℝ) < 2 ^ ((q - 12) * (2 ^ d : ℕ)) := by positivity
  refine ⟨fun h => ?_, fun h => ?_⟩
  · refine lt_of_pow_lt_pow_left₀ (2 ^ d) hVpos.le ?_
    rw [hscale, hunits]
    exact mul_lt_mul_of_pos_right (by exact_mod_cast h) hrest
  · refine lt_of_pow_lt_pow_left₀ (2 ^ d) (by positivity) ?_
    rw [hscale, hunits]
    exact mul_lt_mul_of_pos_right (by exact_mod_cast h) hrest

theorem stands_exp2Stand {V : ℝ} {a : ℤ} {d : Nat} (hV : V ^ 2 ^ d = (2 : ℝ) ^ a) (hVpos : 0 < V) :
    (exp2Stand a d).neg = false ∧ 0 < (exp2Stand a d).num ∧ 0 < (exp2Stand a d).den
    ∧ Stands (roundExp .bf16 (exp2Stand a d)) (exp2Stand a d) V := by
  obtain ⟨q, r, rfl, hr, hstand⟩ := exp2_split a d
  rw [hstand]
  by_cases h0 : r = 0
  · rw [if_pos h0]
    obtain ⟨hneg, hnum, hden, hmag⟩ := exp2Units_parts (m := 2 * 2 ^ 12) (by positivity) q
    refine ⟨hneg, hnum, hden, ?_⟩
    have hq : ((2 * 2 ^ 12 : ℕ) : ℝ) * 2 ^ (q - 13) = 2 ^ q := by
      rw [show ((2 * 2 ^ 12 : ℕ) : ℝ) = 2 ^ (13 : ℤ) by norm_num, ← zpow_add₀ two_ne_zero]; congr 1; ring
    have hexact : V = (exp2Units (2 * 2 ^ 12) q).mag := by
      rw [hmag, hq]
      refine (pow_left_inj₀ hVpos.le (by positivity) (by positivity : 2 ^ d ≠ 0)).1 ?_
      rw [hV, h0, ← zpow_natCast ((2 : ℝ) ^ q), ← zpow_mul]; congr 1; push_cast; ring
    exact hexact ▸ Stands.self _ _
  · rw [if_neg h0]
    obtain ⟨h12, hlo, hhi⟩ := rootFloor_exp2 hr h0
    generalize rootFloor d (2 ^ (r + 12 * 2 ^ d)) 13 0 = m at *
    obtain ⟨hneg, hnum, hden, hmag⟩ := exp2Units_parts (m := 2 * m + 1) (Nat.succ_pos _) q
    refine ⟨hneg, hnum, hden, ?_⟩
    have hu : (0 : ℝ) < 2 ^ (q - 12) := by positivity
    have hmag' : (exp2Units (2 * m + 1) q).mag = (m + 1 / 2) * 2 ^ (q - 12) := by
      rw [hmag, show q - 12 = (q - 13) + 1 by ring, zpow_add₀ two_ne_zero]; push_cast; ring
    have hE : (2 : ℝ) ^ q ≤ (exp2Units (2 * m + 1) q).mag := by
      have hm : (2 : ℝ) ^ (12 : ℤ) ≤ m := by exact_mod_cast h12
      rw [hmag', show (2 : ℝ) ^ q = 2 ^ (12 : ℤ) * 2 ^ (q - 12) by rw [← zpow_add₀ two_ne_zero]; congr 1; ring]
      exact mul_le_mul_of_nonneg_right (by linarith) hu.le
    have hexp : q - 7 ≤ roundExp .bf16 (exp2Units (2 * m + 1) q) := roundExp_ge .bf16 hden hnum hE
    have hplace := (exp2_place hV hVpos (m + 1)).2 hhi
    rw [Nat.cast_succ] at hplace
    refine stands_of_grid (γ := q - 12) (m := m) (by omega) ⟨(exp2_place hV hVpos m).1 hlo, hplace⟩ ⟨?_, ?_⟩
    · rw [hmag']; exact mul_lt_mul_of_pos_right (by linarith) hu
    · rw [hmag']; exact mul_lt_mul_of_pos_right (by linarith) hu

/-- The unit of a BF16 result is at least 2^k where the stand-in is at least 2^(k + 7), and never below 2^-133. -/
theorem le_roundExp_bf16 {x : Exact} {k : ℤ} (h : k ≤ -133 ∨ 0 < x.den ∧ 0 < x.num ∧ (2 : ℝ) ^ (k + 7) ≤ x.mag) : k ≤ roundExp .bf16 x := by
  rcases h with h | ⟨hd, hn, h⟩
  · exact h.trans (roundExp_ge_min .bf16)
  · have hge := roundExp_ge .bf16 hd hn h
    rw [show fracBits .bf16 = 7 from rfl] at hge
    omega

/-! ### The ranges where the result is known -/

/-- A stand-in with no sign for 2^x is its rounding, said by whole powers. -/
theorem roundsCut_exp2 (rm : RMode) {x : ℚ} {e : Exact} (hneg : e.neg = false) (hnum : 0 < e.num) (hden : 0 < e.den)
    (h : Stands (roundExp .bf16 e) e ((2 : ℝ) ^ (x : ℝ))) :
    RoundsCut .bf16 rm (fun q => q ≤ 0 ∨ q ^ x.den ≤ (2 : ℚ) ^ x.num) (fun q => 0 ≤ q ∧ (2 : ℚ) ^ x.num ≤ q ^ x.den) (roundF .bf16 rm e) := by
  refine roundsCut_of_stands rfl hden hnum h (fun y => ?_) (fun y => ?_)
  · rw [hneg]; exact (cut_two_rpow x y).1
  · rw [hneg]; exact (cut_two_rpow x y).2

/-- A small power is close to 1 on its exponent's side (Bernoulli). -/
theorem two_rpow_near_one {x : ℝ} (h0 : 0 < x) (h1 : x ≤ 1 / 512) :
    (1 < (2 : ℝ) ^ x ∧ (2 : ℝ) ^ x < 1 + 1 / 256) ∧ 1 - 1 / 512 < (2 : ℝ) ^ (-x) ∧ (2 : ℝ) ^ (-x) < 1 := by
  have hle : (2 : ℝ) ^ x ≤ 1 + x := by
    have h := rpow_one_add_le_one_add_mul_self (s := 1) (by norm_num) h0.le (by linarith)
    rw [mul_one] at h
    norm_num at h ⊢
    linarith
  have hgt : 1 < (2 : ℝ) ^ x := Real.one_lt_rpow one_lt_two h0
  refine ⟨⟨hgt, by linarith⟩, ?_, Real.rpow_lt_one_of_one_lt_of_neg one_lt_two (neg_lt_zero.2 h0)⟩
  rw [Real.rpow_neg zero_le_two, ← one_div, lt_div_iff₀ (by linarith)]
  nlinarith

/-- 2^x is rounded once (R182). -/
theorem exp2V_cut (rm : RMode) {p : Exact} {j : Nat} (hj : p.den = 2 ^ j) :
    RoundsCut .bf16 rm (fun q => q ≤ 0 ∨ q ^ p.rat.den ≤ (2 : ℚ) ^ p.rat.num) (fun q => 0 ≤ q ∧ (2 : ℚ) ^ p.rat.num ≤ q ^ p.rat.den)
      (exp2V rm (.fin p)) := by
  have hd : 0 < p.den := hj ▸ by positivity
  have hd' : (0 : ℝ) < p.den := by exact_mod_cast hd
  have hrat : (p.rat : ℝ) = withSign p.neg p.mag := p.cast_rat
  rw [exp2V]
  by_cases h0 : p.num = 0
  · rw [if_pos h0]
    refine roundsCut_exp2 rm rfl one_pos one_pos ?_
    have hx : p.rat = 0 := by rw [Exact.rat, h0]; simp
    have hone : (2 : ℝ) ^ ((p.rat : ℚ) : ℝ) = Exact.mag ⟨false, 1, 1⟩ := by rw [hx]; simp [Exact.mag]
    exact hone ▸ Stands.self _ _
  rw [if_neg h0]
  have hmagpos : 0 < p.mag := Exact.mag_pos (Nat.pos_of_ne_zero h0) hd
  by_cases hsmall : p.num * 2 ^ 9 ≤ p.den
  · rw [if_pos hsmall]
    have hle : p.mag ≤ 1 / 512 := by
      rw [Exact.mag, div_le_div_iff₀ hd' (by norm_num)]
      have : (p.num : ℝ) * 2 ^ 9 ≤ p.den := by exact_mod_cast hsmall
      linarith
    obtain ⟨hpos, hneg⟩ := two_rpow_near_one hmagpos hle
    cases hs : p.neg with
    | false =>
      rw [hs] at hrat
      show RoundsCut .bf16 rm _ _ (roundF .bf16 rm ⟨false, 2 ^ 20 + 1, 2 ^ 20⟩)
      refine roundsCut_exp2 rm rfl (by decide) (by decide) (stands_of_grid (γ := -8) (m := 256) ?_ ?_ ?_)
      · exact le_roundExp_bf16 (.inr ⟨by decide, by decide, by norm_num [Exact.mag]⟩)
      · rw [hrat]; norm_num [withSign]; norm_num at hpos; exact hpos
      · norm_num [Exact.mag]
    | true =>
      rw [hs] at hrat
      show RoundsCut .bf16 rm _ _ (roundF .bf16 rm ⟨false, 2 ^ 20 - 1, 2 ^ 20⟩)
      refine roundsCut_exp2 rm rfl (by decide) (by decide) (stands_of_grid (γ := -9) (m := 511) ?_ ?_ ?_)
      · exact le_roundExp_bf16 (.inr ⟨by decide, by decide, by norm_num [Exact.mag]⟩)
      · rw [hrat]; norm_num [withSign]; norm_num at hneg; exact hneg
      · norm_num [Exact.mag]
  rw [if_neg hsmall]
  by_cases hlarge : 200 * p.den ≤ p.num
  · rw [if_pos hlarge]
    have hge : 200 ≤ p.mag := by
      rw [Exact.mag, le_div_iff₀ hd']
      exact_mod_cast hlarge
    cases hs : p.neg with
    | false =>
      have hov : ∀ rm, (roundF .bf16 rm ⟨false, 2 ^ 200, 1⟩).2.getLsbD 1 = true := by
        intro rm; cases rm <;> decide +kernel
      exact fun h => absurd (hov rm) (ne_true_of_eq_false h)
    | true =>
      rw [hs] at hrat
      have hV : (2 : ℝ) ^ (p.rat : ℝ) ≤ 2 ^ (-200 : ℤ) := by
        rw [← Real.rpow_intCast]
        refine Real.rpow_le_rpow_of_exponent_le one_le_two ?_
        rw [hrat]; push_cast; simp only [withSign, if_true]; linarith
      show RoundsCut .bf16 rm _ _ (roundF .bf16 rm ⟨false, 1, 2 ^ 200⟩)
      refine roundsCut_exp2 rm rfl one_pos (by positivity) (stands_of_grid (γ := -134) (m := 0) (le_roundExp_bf16 (.inl le_rfl)) ?_ ?_)
      · refine ⟨by rw [Nat.cast_zero, zero_mul]; exact Real.rpow_pos_of_pos two_pos _, hV.trans_lt ?_⟩
        norm_num
      · norm_num [Exact.mag]
  · rw [if_neg hlarge]
    have hlog : Nat.log2 p.den = j := by rw [hj, Nat.log2_two_pow]
    have htop : (if p.neg then -(p.num : Int) else p.num) = p.top := rfl
    dsimp only
    rw [hlog, htop]
    have hV : ((2 : ℝ) ^ (p.rat : ℝ)) ^ 2 ^ j = (2 : ℝ) ^ p.top := by
      refine two_rpow_pow ?_
      have hx : p.rat * (2 ^ j : ℕ) = p.top := by
        rw [p.rat_eq_top, ← hj, div_mul_cancel₀]; exact_mod_cast hd.ne'
      exact_mod_cast hx
    obtain ⟨hneg, hnum, hden, hst⟩ := stands_exp2Stand hV (Real.rpow_pos_of_pos two_pos _)
    exact roundsCut_exp2 rm hneg hnum hden hst

end Sys2Proof.Machine
end

-- ==== Logarithms to the base two ====
section
/-!
SUPPORT. log₂ x rounded once (R53, R182; obligation O22): the logarithm of a BF16 value lies between the eighteenth binary places that the
integer logarithm of a large power names, and at least 1/256 from 0 where the value is no power of two.
-/

namespace Sys2Proof.Machine

/-! ### The real logarithm by whole powers -/

theorem logb_two_zpow (a : ℤ) : Real.logb 2 ((2 : ℝ) ^ a) = a := by
  rw [← Real.rpow_intCast, Real.logb_rpow two_pos (by norm_num)]

/-- A power of two at or below a power of P, and one above it, place its logarithm. -/
theorem zpow_le_pow_iff_logb {P : ℝ} (hP : 0 < P) (a : ℤ) (n : ℕ) :
    ((2 : ℝ) ^ a ≤ P ^ n ↔ a ≤ n * Real.logb 2 P) ∧ (P ^ n ≤ (2 : ℝ) ^ a ↔ n * Real.logb 2 P ≤ a) := by
  have ha : (0 : ℝ) < 2 ^ a := by positivity
  have hn : (0 : ℝ) < P ^ n := by positivity
  rw [← Real.logb_le_logb one_lt_two ha hn, ← Real.logb_le_logb one_lt_two hn ha, Real.logb_pow, logb_two_zpow]
  exact ⟨Iff.rfl, Iff.rfl⟩

/-- The rationals at or below log₂ P, and those at or above it. -/
theorem cut_logb {P : ℚ} (hP : 0 < P) (q : ℚ) :
    ((2 : ℚ) ^ q.num ≤ P ^ q.den ↔ (q : ℝ) ≤ Real.logb 2 P) ∧ (P ^ q.den ≤ (2 : ℚ) ^ q.num ↔ Real.logb 2 P ≤ (q : ℝ)) := by
  have hP' : (0 : ℝ) < P := by exact_mod_cast hP
  have hcast : ((2 : ℚ) ^ q.num : ℚ) = ((2 : ℝ) ^ q.num) := by push_cast; rfl
  have hden : (0 : ℝ) < q.den := by exact_mod_cast q.den_pos
  have hq : (q : ℝ) = q.num / q.den := by exact_mod_cast (Rat.num_div_den q).symm
  obtain ⟨h1, h2⟩ := zpow_le_pow_iff_logb hP' q.num q.den
  rw [← Rat.cast_le (K := ℝ), ← Rat.cast_le (K := ℝ), hcast, Rat.cast_pow, h1, h2, hq, div_le_iff₀ hden, le_div_iff₀ hden, mul_comm]
  exact ⟨Iff.rfl, Iff.rfl⟩

theorem roundsCut_log2 (rm : RMode) {P : ℚ} (hP : 0 < P) {e : Exact} {w : ℝ} (hden : 0 < e.den) (hnum : 0 < e.num)
    (h : Stands (roundExp .bf16 e) e w) (hw : withSign e.neg w = Real.logb 2 P) :
    RoundsCut .bf16 rm (fun q => (2 : Rat) ^ q.num ≤ P ^ q.den) (fun q => P ^ q.den ≤ (2 : Rat) ^ q.num) (roundF .bf16 rm e) :=
  roundsCut_of_stands rfl hden hnum h (fun q => by rw [hw]; exact (cut_logb hP q).1) (fun q => by rw [hw]; exact (cut_logb hP q).2)

/-! ### BF16 values -/

/-- A finite BF16 value: up to eight bits, shifted. -/
theorem fval_bf16_parts {x : Nat} {p : Exact} (h : fval .bf16 x = .fin p) :
    ∃ m i j : Nat, m < 256 ∧ (i = 0 ∨ 128 ≤ m) ∧ p.num = m * 2 ^ i ∧ p.den = 2 ^ j := by
  have hfr : x % 2 ^ 7 < 128 := Nat.mod_lt _ (by decide)
  have hscaled (neg : Bool) (m e : Nat) : ∃ i j, (i = 0 ∨ 134 ≤ e) ∧ (scaled neg m e 134).num = m * 2 ^ i ∧ (scaled neg m e 134).den = 2 ^ j := by
    unfold scaled
    split
    next he => exact ⟨e - 134, 0, .inr he, rfl, rfl⟩
    next => exact ⟨0, 134 - e, .inl rfl, (Nat.mul_one _).symm, rfl⟩
  unfold fval at h
  dsimp only at h
  split_ifs at h <;> cases h
  · obtain ⟨i, j, hi, hn, hd⟩ := hscaled (decide (2 ^ (fmtBits .bf16 - 1) ≤ x)) (x % 2 ^ 7) 1
    exact ⟨_, i, j, hfr.trans (by decide), .inl (hi.resolve_right (by decide)), hn, hd⟩
  · obtain ⟨i, j, hi, hn, hd⟩ := hscaled (decide (2 ^ (fmtBits .bf16 - 1) ≤ x)) (2 ^ 7 + x % 2 ^ 7) (x / 2 ^ 7 % 256)
    exact ⟨_, i, j, by omega, .inr (by omega), hn, hd⟩

/-- The significant bits that `log2V` takes of a numerator. -/
theorem log2_mantissa {num m i : Nat} (hm0 : 0 < m) (hm : m < 256) (hi : i = 0 ∨ 128 ≤ m) (hnum : num = m * 2 ^ i) :
    (if Nat.log2 num < 7 then num else num / 2 ^ (Nat.log2 num - 7)) = m
    ∧ ∀ j : ℤ, (if Nat.log2 num < 7 then -j else (Nat.log2 num : Int) - 7 - j) = i - j := by
  have hlog : (i = 0 ∧ Nat.log2 num < 7) ∨ Nat.log2 num = 7 + i := by
    have hn0 : num ≠ 0 := by rw [hnum]; positivity
    rcases lt_or_ge m 128 with hlt | hge
    · have hi0 := hi.resolve_right (by omega)
      exact .inl ⟨hi0, (Nat.log2_lt hn0).2 (by rw [hnum, hi0]; omega)⟩
    · refine .inr ((Nat.log2_eq_iff hn0).2 ?_)
      rw [hnum, pow_add, show 7 + i + 1 = 8 + i by ring, pow_add]
      exact ⟨Nat.mul_le_mul_right _ hge, Nat.mul_lt_mul_of_pos_right hm (by positivity)⟩
  rcases hlog with ⟨rfl, h⟩ | h
  · rw [if_pos h]
    refine ⟨by omega, fun j => ?_⟩
    rw [if_pos h]; simp
  · rw [h, if_neg (by omega), Nat.add_sub_cancel_left, hnum, Nat.mul_div_cancel _ (by positivity)]
    refine ⟨rfl, fun j => ?_⟩
    rw [if_neg (by omega)]
    push_cast
    ring

/-- A value of eight bits that is no power of two is far enough from 1. -/
theorem far_from_one {m : Nat} {e : ℤ} (hm0 : 0 < m) (hm : m < 256) (hpow : ∀ c : Nat, m ≠ 2 ^ c) :
    2 ≤ ((m : ℝ) * 2 ^ e) ^ 256 ∨ ((m : ℝ) * 2 ^ e) ^ 256 ≤ 1 / 2 := by
  have hm' : (1 : ℝ) ≤ m := by exact_mod_cast hm0
  have hbern {y : ℝ} (hy : 1 + 1 / 256 ≤ y) : 2 ≤ y ^ 256 := by
    calc (2 : ℝ) = 1 + (256 : ℕ) * (1 / 256) := by norm_num
      _ ≤ (1 + 1 / 256) ^ 256 := one_add_mul_le_pow (by norm_num) 256
      _ ≤ y ^ 256 := pow_le_pow_left₀ (by norm_num) hy 256
  rcases le_or_gt e 0 with he | he
  · obtain ⟨k, rfl⟩ : ∃ k : Nat, e = -(k : ℤ) := ⟨e.natAbs, by omega⟩
    have hk : (0 : ℝ) < 2 ^ k := by positivity
    have hval : (m : ℝ) * 2 ^ (-(k : ℤ)) = m / 2 ^ k := by rw [zpow_neg, zpow_natCast, div_eq_mul_inv]
    rw [hval]
    rcases lt_or_gt_of_ne (hpow k) with hlt | hgt
    · refine .inr ?_
      have hle : (m : ℝ) + 1 ≤ 2 ^ k := by exact_mod_cast hlt
      have hinv : 1 + 1 / 256 ≤ (2 : ℝ) ^ k / m := by
        have hm256 : (m : ℝ) ≤ 256 := by exact_mod_cast hm.le
        rw [le_div_iff₀ (by linarith)]
        linarith
      have h2 := hbern hinv
      rw [div_pow] at h2 ⊢
      have hmp : (0 : ℝ) < (m : ℝ) ^ 256 := by positivity
      rw [le_div_iff₀ hmp] at h2
      rw [div_le_div_iff₀ (by positivity) two_pos]
      linarith
    · refine .inl (hbern ?_)
      have hle : (2 : ℝ) ^ k + 1 ≤ m := by exact_mod_cast hgt
      have hk256 : (2 : ℝ) ^ k ≤ 256 := by
        have hm256 : (m : ℝ) ≤ 256 := by exact_mod_cast hm.le
        linarith
      rw [le_div_iff₀ hk]
      linarith
  · refine .inl (hbern ?_)
    have h2 : (2 : ℝ) ≤ 2 ^ e := by
      calc (2 : ℝ) = 2 ^ (1 : ℤ) := (zpow_one 2).symm
        _ ≤ 2 ^ e := zpow_le_zpow_right₀ one_le_two (by omega)
    nlinarith

/-- Between the places n and n + 1 of 2^-18, from 1024 on. -/
theorem stands_log2 {n : Nat} (hn : 1024 ≤ n) {w : ℝ} (hlo : (n : ℝ) < 2 ^ 18 * w) (hhi : 2 ^ 18 * w < n + 1) (neg : Bool) :
    Stands (roundExp .bf16 ⟨neg, 2 * n + 1, 2 ^ 19⟩) ⟨neg, 2 * n + 1, 2 ^ 19⟩ w := by
  have hmag : Exact.mag ⟨neg, 2 * n + 1, 2 ^ 19⟩ = (n + 1 / 2) * 2 ^ (-18 : ℤ) := by
    rw [Exact.mag]; push_cast; norm_num; ring
  have hg : (2 : ℝ) ^ (-18 : ℤ) = 1 / 2 ^ 18 := by norm_num
  have hn' : (1024 : ℝ) ≤ n := by exact_mod_cast hn
  refine stands_of_grid (γ := -18) (m := n) (le_roundExp_bf16 (.inr ⟨by positivity, Nat.succ_pos _, ?_⟩)) ⟨?_, ?_⟩ ⟨?_, ?_⟩
  · rw [hmag]; norm_num; linarith
  · rw [hg]; linarith
  · rw [hg]; linarith
  · rw [hmag]; exact mul_lt_mul_of_pos_right (by linarith) (by positivity)
  · rw [hmag]; exact mul_lt_mul_of_pos_right (by linarith) (by positivity)

/-- The numerators that `isPow2` knows. -/
theorem isPow2_iff {n : Nat} : isPow2 n = true ↔ ∃ c, n = 2 ^ c := by
  unfold isPow2
  rw [Bool.and_eq_true, bne_iff_ne, beq_iff_eq]
  constructor
  · rintro ⟨-, h⟩
    exact ⟨_, h.symm⟩
  · rintro ⟨c, rfl⟩
    exact ⟨by positivity, by rw [Nat.log2_two_pow]⟩

/-- The integer logarithm of a power of eight bits that are no power of two places their logarithm strictly. -/
theorem log2_pow_place {m D : Nat} (hm0 : 0 < m) (hpow : ∀ c : Nat, m ≠ 2 ^ c) :
    (Nat.log2 (m ^ 2 ^ D) : ℝ) < (2 ^ D : ℕ) * Real.logb 2 m ∧ (2 ^ D : ℕ) * Real.logb 2 m < (Nat.log2 (m ^ 2 ^ D) : ℝ) + 1 := by
  have hm' : (0 : ℝ) < m := by exact_mod_cast hm0
  obtain ⟨b, hb⟩ : ∃ b, b = Nat.log2 (m ^ 2 ^ D) := ⟨_, rfl⟩
  have hpos : m ^ 2 ^ D ≠ 0 := (Nat.pow_pos hm0).ne'
  have hlo : 2 ^ b < m ^ 2 ^ D := by
    refine lt_of_le_of_ne (hb ▸ Nat.log2_self_le hpos) fun h => ?_
    obtain ⟨c, hc⟩ := dvd_of_pow_eq_two_pow h.symm
    refine hpow c (Nat.pow_left_injective (by positivity : 2 ^ D ≠ 0) ?_)
    show m ^ 2 ^ D = (2 ^ c) ^ 2 ^ D
    rw [← h, hc, ← pow_mul, Nat.mul_comm]
  have hhi : m ^ 2 ^ D < 2 ^ (b + 1) := hb ▸ Nat.lt_log2_self
  have hlo' : (2 : ℝ) ^ (b : ℤ) < (m : ℝ) ^ 2 ^ D := by rw [zpow_natCast]; exact_mod_cast hlo
  have hhi' : (m : ℝ) ^ 2 ^ D < (2 : ℝ) ^ ((b + 1 : ℕ) : ℤ) := by rw [zpow_natCast]; exact_mod_cast hhi
  have h1 := not_le.1 (mt (zpow_le_pow_iff_logb hm' b (2 ^ D)).2.2 (not_le.2 hlo'))
  have h2 := not_le.1 (mt (zpow_le_pow_iff_logb hm' _ (2 ^ D)).1.2 (not_le.2 hhi'))
  rw [← hb]
  rw [Int.cast_natCast] at h1 h2
  rw [Nat.cast_add_one] at h2
  exact ⟨h1, h2⟩

/-- The places of 2^-18 that `log2V` takes of eight bits, shifted, that are no power of two. -/
theorem log2_place {m : Nat} (hm0 : 0 < m) (hpow : ∀ c : Nat, m ≠ 2 ^ c) (e a : ℤ)
    (ha : a = (Nat.log2 (m ^ 2 ^ 18) : ℤ) + e * 2 ^ 18) :
    (a : ℝ) < 2 ^ 18 * Real.logb 2 (m * 2 ^ e) ∧ 2 ^ 18 * Real.logb 2 (m * 2 ^ e) < a + 1 := by
  have hm' : (m : ℝ) ≠ 0 := by exact_mod_cast hm0.ne'
  obtain ⟨h1, h2⟩ := log2_pow_place (D := 18) hm0 hpow
  have hlog : Real.logb 2 (m * 2 ^ e) = Real.logb 2 m + e := by
    rw [Real.logb_mul hm' (by positivity), logb_two_zpow]
  have ha' : (a : ℝ) = (Nat.log2 (m ^ 2 ^ 18) : ℝ) + e * 2 ^ 18 := by exact_mod_cast congrArg (Int.cast (R := ℝ)) ha
  rw [Nat.cast_pow, Nat.cast_ofNat] at h1 h2
  rw [hlog, ha', mul_add]
  constructor <;> linarith

/-- The rounded log₂ of a power of two is that of its integer exponent. -/
theorem roundsCut_log2_pow (rm : RMode) {P : ℚ} {l : ℤ} (hPl : (P : ℝ) = 2 ^ l) :
    RoundsCut .bf16 rm (fun q => (2 : Rat) ^ q.num ≤ P ^ q.den) (fun q => P ^ q.den ≤ (2 : Rat) ^ q.num)
      (roundF .bf16 rm (Exact.ofInt l)) := by
  have hP : 0 < P := by rw [← Rat.cast_pos (K := ℝ), hPl]; positivity
  have hlog : Real.logb 2 P = l := by rw [hPl, logb_two_zpow]
  by_cases hl : l = 0
  · have hlog0 : Real.logb 2 P = 0 := by rw [hlog, hl, Int.cast_zero]
    refine roundsCut_zero rfl (by rw [hl]; rfl) (fun q => ?_) (fun q => ?_)
    · rw [← hlog0]; exact (cut_logb hP q).1
    · rw [← hlog0]; exact (cut_logb hP q).2
  · refine roundsCut_log2 rm hP (e := Exact.ofInt l) one_pos (Int.natAbs_pos.2 hl) (Stands.self _ _) ?_
    rw [hlog, ← Exact.cast_rat, Exact.ofInt_rat, Rat.cast_intCast]

/-- The half-way point between two places of 2^-18 stands for a logarithm strictly between them, from 1024 of them on either side of 0. -/
theorem roundsCut_log2_places (rm : RMode) {P : ℚ} (hP : 0 < P) {a : ℤ} (hfar : a < -1024 ∨ 1024 ≤ a)
    (hlo : (a : ℝ) < 2 ^ 18 * Real.logb 2 P) (hhi : 2 ^ 18 * Real.logb 2 P < a + 1) :
    RoundsCut .bf16 rm (fun q => (2 : Rat) ^ q.num ≤ P ^ q.den) (fun q => P ^ q.den ≤ (2 : Rat) ^ q.num)
      (roundF .bf16 rm ⟨decide (2 * a + 1 < 0), (2 * a + 1).natAbs, 2 ^ 19⟩) := by
  rcases hfar with hneg | hpos
  · obtain ⟨n, rfl⟩ : ∃ n : ℕ, a = -(n + 1 : ℤ) := ⟨(-(a + 1)).toNat, by omega⟩
    rw [decide_eq_true (by omega), show (2 * -(n + 1 : ℤ) + 1).natAbs = 2 * n + 1 by omega]
    push_cast at hlo hhi
    exact roundsCut_log2 rm hP (by positivity) (Nat.succ_pos _) (stands_log2 (w := -Real.logb 2 P) (by omega) (by linarith) (by linarith) true)
      (neg_neg _)
  · obtain ⟨n, rfl⟩ := Int.eq_ofNat_of_zero_le (by omega : 0 ≤ a)
    rw [decide_eq_false (by omega), show (2 * (n : ℤ) + 1).natAbs = 2 * n + 1 by omega]
    exact roundsCut_log2 rm hP (by positivity) (Nat.succ_pos _) (stands_log2 (by omega) hlo hhi false) rfl

/-- log₂ x is rounded once (R182). -/
theorem log2V_cut (rm : RMode) {x : Nat} {p : Exact} (hx : fval .bf16 x = .fin p) (h : 0 < p.rat) :
    RoundsCut .bf16 rm (fun q => (2 : Rat) ^ q.num ≤ p.rat ^ q.den) (fun q => p.rat ^ q.den ≤ (2 : Rat) ^ q.num) (log2V rm (.fin p)) := by
  obtain ⟨m, i, j, hm, hi, hnum, hden⟩ := fval_bf16_parts hx
  obtain ⟨hneg, hnum0, hrat⟩ := p.pos_of_rat_pos h
  have hm0 : 0 < m := Nat.pos_of_ne_zero fun hz => hnum0.ne' (by rw [hnum, hz, Nat.zero_mul])
  have hval : (p.rat : ℝ) = m * 2 ^ ((i : ℤ) - j) := by
    rw [hrat, hnum, hden, zpow_sub₀ two_ne_zero, zpow_natCast, zpow_natCast]
    push_cast
    ring
  simp only [log2V, hneg, hnum0.ne', if_false, Bool.false_eq_true]
  by_cases hpow : isPow2 p.num = true
  · rw [if_pos hpow]
    obtain ⟨c, hc⟩ := isPow2_iff.1 hpow
    refine roundsCut_log2_pow rm ?_
    rw [hrat, hc, hden, Nat.log2_two_pow, Nat.log2_two_pow, zpow_sub₀ two_ne_zero, zpow_natCast, zpow_natCast]
    push_cast
    rfl
  · obtain ⟨hmant, hshift⟩ := log2_mantissa hm0 hm hi hnum
    have hpow' (c : Nat) : m ≠ 2 ^ c := fun hc => hpow (isPow2_iff.2 ⟨c + i, by rw [hnum, hc, pow_add]⟩)
    rw [if_neg hpow, hmant, hshift, hden, Nat.log2_two_pow]
    obtain ⟨a, ha⟩ : ∃ a : ℤ, a = (Nat.log2 (m ^ 2 ^ 18) : ℤ) + ((i : ℤ) - j) * 2 ^ 18 := ⟨_, rfl⟩
    rw [← ha]
    obtain ⟨hlo, hhi⟩ := log2_place hm0 hpow' _ a ha
    rw [← hval] at hlo hhi
    have hP : (0 : ℝ) < p.rat := by exact_mod_cast h
    refine roundsCut_log2_places rm h ?_ hlo hhi
    have hfar := far_from_one (e := (i : ℤ) - j) hm0 hm hpow'
    rw [← hval] at hfar
    rcases hfar with hbig | hsmall
    · right
      have h1 := (zpow_le_pow_iff_logb hP 1 256).1.1 (by rwa [zpow_one])
      push_cast at h1
      have : (1023 : ℝ) < a := by linarith
      have : (1023 : ℤ) < a := by exact_mod_cast this
      omega
    · left
      have h1 := (zpow_le_pow_iff_logb hP (-1) 256).2.1 (by rw [zpow_neg_one, ← one_div]; exact hsmall)
      push_cast at h1
      have : (a : ℝ) < -1024 := by linarith
      exact_mod_cast this

end Sys2Proof.Machine
end

-- ==== Conversion, comparison, selection, scaling and the BF16 functions ====
section
/-!
OBLIGATION. O22 (R41, R46, R53, R54, R181 to R187), from the lanes written, the values of present elements and the rounded functions.
-/

namespace Sys2Proof.Machine

/-! ### Selection (R186) -/

/-- A selection under a plain guard leaves, lane by lane, one of its operands (R186). -/
theorem vsel_leaves (s : State) (f : Fmt) (k : SelKind) (g pc : PReg) (d a b : VReg) {e : Nat → Elem × FlagSet}
    (h : ∀ i, e i = (if (selE f k (s.rp pc) i (lane f (s.rv a) i) (lane f (s.rv b) i)).1 then lane f (s.rv a) i else lane f (s.rv b) i,
      (selE f k (s.rp pc) i (lane f (s.rv a) i) (lane f (s.rv b) i)).2)) :
    ∃ t, exec (.vsel f k g d a b pc) s = .next t ∧ s.LanesWritten t f d (active f (s.rp g)) false e 8 :=
  vecWrite_plain s f g d none fun i => (h i).symm

theorem ite_present (f : Fmt) (x y z : Nat) : (if present f x then y else z) = if x = absentOf f then z else y := by
  by_cases h : x = absentOf f
  · rw [if_pos h, h, present_absent]; rfl
  · rw [if_neg h, present_of_ne h]; rfl

/-- A BF16 function under a plain guard: absent elements stay absent (R182). -/
theorem halfFunction_leaves (s : State) (g : PReg) (d a : VReg) (e : FVal → Elem × FlagSet) :
    ∃ t, s.vec1 .bf16 (.plain g) d a (other1 .bf16 fun x => e (fval .bf16 x)) = .next t
      ∧ s.LanesWritten t .bf16 d (active .bf16 (s.rp g)) false (fun i => if lane .bf16 (s.rv a) i = absentOf .bf16
        then (absentOf .bf16, 0) else e (fval .bf16 (lane .bf16 (s.rv a) i))) 8 :=
  vecWrite_plain s .bf16 g d (absentIndex .bf16 (s.rp g) [s.rv a]) fun _ => other1_eq _ _ _

/-! ### The functions' special values (R181, R182) -/

theorem Exact.neg_of_rat_neg {p : Exact} (h : p.rat < 0) : p.neg = true ∧ p.num ≠ 0 := by
  refine ⟨?_, fun h0 => ?_⟩
  · by_contra hc
    have : (0 : ℚ) ≤ p.rat := by
      rw [Exact.rat, if_neg hc]; positivity
    exact absurd h (not_lt.2 this)
  · rw [Exact.rat, h0] at h
    simp at h

theorem exp2V_zero (rm : RMode) {p : Exact} (h : p.num = 0) : exp2V rm (.fin p) = (0x3F80, 0) := by
  rw [exp2V, if_pos h]
  cases rm <;> decide

theorem sqrtV_zero {f : Fmt} (hf : f.isFloat = true) (rm : RMode) {p : Exact} (h : p.num = 0) :
    sqrtV f rm (.fin p) = (if p.neg then 2 ^ (fmtBits f - 1) else 0, 0) := by
  rw [sqrtV, if_pos h]
  exact (roundF_zero rm hf h).1

/-- The roots and the logarithm of a negative value are invalid (R181, R182). -/
theorem roots_of_neg (f : Fmt) (rm : RMode) {p : Exact} (h : p.rat < 0) :
    sqrtV f rm (.fin p) = nanOut f true ∧ log2V rm (.fin p) = nanOut .bf16 true ∧ rsqV rm (.fin p) = nanOut .bf16 true := by
  obtain ⟨hneg, hnum⟩ := Exact.neg_of_rat_neg h
  refine ⟨?_, ?_, ?_⟩
  · rw [sqrtV, if_neg hnum, if_pos hneg]
  · rw [log2V, if_neg hnum, if_pos hneg]
  · rw [rsqV, if_neg hnum, if_pos hneg]

/-- Settles O22: what each member leaves, the values of conversions, comparisons and scalings, and the functions rounded once. -/
theorem convertCompareSelectAndScale : Obligations.ConvertCompareSelectAndScale := by
  unfold Obligations.ConvertCompareSelectAndScale
  refine ⟨?members, ?conversions, ?comparisons, ?functions⟩
  case members =>
    intro s f src r part g pd pc d a b cnd
    refine ⟨fun hl _ => vcvt_narrowing s f src r part g d a hl.le, fun hl hp => ?_, fun hl _ => vcvt_widening s f src r part g d a hl,
      vcmp_leaves s f cnd g pd a b, vsel_leaves s f .pred g pc d a b fun _ => rfl, vsel_leaves s f .pres g pc d a b fun i => ?_,
      vsel_leaves s f .lt g pc d a b fun _ => rfl, vsel_leaves s f .gt g pc d a b fun _ => rfl,
      halfFunction_leaves s g d a _, halfFunction_leaves s g d a _,
      halfFunction_leaves s g d a _, halfFunction_leaves s g d a _,
      vecWrite_plain s f g d none fun _ => rfl, vecWrite_plain s f g d none fun _ => rfl, vecWrite_plain s f g d none fun _ => rfl,
      vpres_leaves s f g pd a⟩
    · subst hp; exact vcvt_same s f src r g d a hl
    · exact Prod.ext (ite_present f _ _ _).symm rfl
  case conversions =>
    intro dst src rm x v _ hx hlt hfl hint r top sat inexact
    obtain ⟨hr, hden⟩ := convE_present (dst := dst) (rm := rm) hx hlt hfl hint
    have hr : r = convV dst rm v := hr
    rw [hr]
    refine ⟨fun hf => ?_, fun hi => ?_, fun ht => ?_⟩
    · rw [convV_float hf]
      exact ⟨fun p hv => by rw [hv]; rfl, fun n hv => by rw [hv]; rfl, fun n hv => by rw [hv]; exact nanOut_eq dst n⟩
    · obtain ⟨hfin, hinf, hnan⟩ := convV_int hi rm
      exact ⟨fun p hv => hv ▸ hfin p (hden p hv), fun n hv => hv ▸ hinf n, fun n hv => hv ▸ hnan n⟩
    · subst ht
      refine ⟨fun n hv => by rw [hv]; rfl, fun n hv => by rw [hv]; rfl, fun p hv => ?_⟩
      rw [hv]
      obtain ⟨hup, hdown⟩ := toTS8_clamps rm (hden p hv)
      exact ⟨hup, hdown, toTS8_spec rm (hden p hv)⟩
  case comparisons =>
    intro f rm cnd x y hx hy hxl hyl outcome u top sat c
    refine ⟨fun hf => cmpE_int hf hx hy hxl hyl cnd, fun hf => ⟨fun p q => cmpE_fin hf hx hy cnd, fun p b => cmpE_fin_inf hf hx hy cnd,
      fun a q => cmpE_inf_fin hf hx hy cnd, fun a b => cmpE_inf hf hx hy cnd, cmpE_nan hf hx hy cnd⟩, fun s hs _ => ⟨fun hf p q hp hq => ?_, fun hf => ?_⟩⟩
    · exact ⟨p.mul q, Exact.mul_rat p q, Nat.mul_pos (fval_den_pos hp) (fval_den_pos hq), rfl, scaleE_float rm hx hs hf hp hq⟩
    · exact scaleE_int rm hx hs (by rcases hf with rfl | rfl | rfl <;> rfl) hxl
  case functions =>
    intro f rm x p hf _ v inf bad
    refine ⟨fun hv hpos => ⟨?_, fun hb => ⟨?_, ?_⟩⟩, fun hv hb => ⟨?_, fun h0 => ?_, fun h0 => ?_, fun hneg => ?_⟩,
      fun hv => ⟨fun hneg => ?_, fun h0 => ?_⟩, fun hv => ?_, fun hv => ?_, fun n hv => ?_⟩
    · rw [hv]; exact sqrtV_cut rm (fval_den_pos hv) hpos hf
    · rw [hv, hb]; exact rsqV_cut rm (fval_den_pos hv) hpos
    · subst hb; rw [hv]; exact log2V_cut rm hv hpos
    · subst hb
      obtain ⟨_, _, j, _, _, _, hj⟩ := fval_bf16_parts hv
      rw [hv]; exact exp2V_cut rm hj
    · subst hb; rw [hv]; exact rcpV_eq rm (fval_den_pos hv) h0
    · subst hb
      rw [hv]
      exact ⟨exp2V_zero rm h0, if_pos h0, if_pos h0, if_pos h0⟩
    · subst hb
      rw [hv]
      exact (roots_of_neg .bf16 rm hneg).2
    · rw [hv]; exact (roots_of_neg f rm hneg).1
    · rw [hv]; exact sqrtV_zero hf rm h0
    · rw [hv]
      exact ⟨rfl, by rintro rfl; exact ⟨rfl, rfl, rfl, rfl⟩⟩
    · rw [hv]
      exact ⟨rfl, by rintro rfl; exact ⟨rfl, rfl, rfl, rfl⟩⟩
    · rw [hv]
      refine ⟨nanOut_eq f n, ?_⟩
      rintro rfl
      exact ⟨nanOut_eq _ n, nanOut_eq _ n, nanOut_eq _ n, nanOut_eq _ n⟩

end Sys2Proof.Machine
end

-- ==== Integer operations, branches and jumps ====
section
/-!
SUPPORT. The two-operand integer operations and the branches (R104, R106; obligations O1 and O3): a value on n-bit numbers
narrowed at the end is the value that the table delivers.
-/

namespace Sys2Proof.Machine

theorem intS_eq (f : Nat → Int → Int → Int) (w : Bool) (x y : DWord) :
    intS f w x y = delivered w (f (opWidth w) (signedOf w x) (signedOf w y)) := by
  rw [intS, narrow_eq, readS_eq, readS_eq]

theorem intU_eq (f : Nat → Int → Int → Int) (w : Bool) (x y : DWord) :
    intU f w x y = delivered w (f (opWidth w) (unsignedOf w x) (unsignedOf w y)) := by
  rw [intU, narrow_eq, readU_eq, readU_eq]

theorem intM_eq (f : Nat → Int → Int → Int) (w : Bool) (x y : DWord) :
    intM f w x y = delivered w (f (opWidth w) (signedOf w x) (unsignedOf w y)) := by
  rw [intM, narrow_eq, readS_eq, readU_eq]

theorem intB_eq (f : DWord → DWord → DWord) (w : Bool) (x y : DWord) : intB f w x y = delivered w (f x y).toInt :=
  narrow_eq w _

/-- Division by a power of two rounds to minus infinity either way. -/
theorem ediv_two_pow_eq_fdiv (x : Int) (n : Nat) : x / 2 ^ n = x.fdiv (2 ^ n) :=
  (Int.fdiv_eq_ediv_of_nonneg x (by positivity)).symm

/-- Both forms of a row compute one function of their operands, and it is the one that delivers the row's v. -/
def IntRow.Computes (row : IntRow) (w : Bool) (d a b : SReg) (i : Word) : Prop :=
  ∃ f : DWord → DWord → DWord, (∀ s : State, exec row.reg s = s.putS d (f (s.rs a) (s.rs b)) 8)
    ∧ (∀ s : State, exec row.imm s = s.putS d (f (s.rs a) (i.signExtend 64)) 8) ∧ ∀ x y, f x y = delivered w (row.v x y)

theorem intRow_computes (w : Bool) (d a b : SReg) (i : Word) : ∀ row ∈ intRows w d a b i, row.Computes w d a b i := by
  simp only [intRows, List.forall_mem_cons, List.not_mem_nil, false_implies, implies_true, and_true]
  refine ⟨⟨intS addOp w, fun _ => rfl, fun _ => rfl, fun x y => intS_eq ..⟩, ⟨intS subOp w, fun _ => rfl, fun _ => rfl, fun x y => intS_eq ..⟩,
    ⟨intS mulOp w, fun _ => rfl, fun _ => rfl, fun x y => intS_eq ..⟩, ⟨intS mulhOp w, fun _ => rfl, fun _ => rfl, fun x y => ?mulh⟩,
    ⟨intU mulhnOp w, fun _ => rfl, fun _ => rfl, fun x y => ?mulhn⟩, ⟨intS divOp w, fun _ => rfl, fun _ => rfl, fun x y => intS_eq ..⟩,
    ⟨intU divnOp w, fun _ => rfl, fun _ => rfl, fun x y => ?divn⟩, ⟨intS remOp w, fun _ => rfl, fun _ => rfl, fun x y => intS_eq ..⟩,
    ⟨intU remnOp w, fun _ => rfl, fun _ => rfl, fun x y => ?remn⟩, ⟨intB andOp w, fun _ => rfl, fun _ => rfl, fun x y => intB_eq ..⟩,
    ⟨intB orOp w, fun _ => rfl, fun _ => rfl, fun x y => intB_eq ..⟩, ⟨intB xorOp w, fun _ => rfl, fun _ => rfl, fun x y => intB_eq ..⟩,
    ⟨intB andnOp w, fun _ => rfl, fun _ => rfl, fun x y => intB_eq ..⟩, ⟨intU shlOp w, fun _ => rfl, fun _ => rfl, fun x y => ?shl⟩,
    ⟨intU shrOp w, fun _ => rfl, fun _ => rfl, fun x y => ?shr⟩, ⟨intM sarOp w, fun _ => rfl, fun _ => rfl, fun x y => ?sar⟩,
    ⟨intS minOp w, fun _ => rfl, fun _ => rfl, fun x y => ?min⟩, ⟨intS maxOp w, fun _ => rfl, fun _ => rfl, fun x y => ?max⟩,
    ⟨intU minnOp w, fun _ => rfl, fun _ => rfl, fun x y => ?minn⟩, ⟨intU maxnOp w, fun _ => rfl, fun _ => rfl, fun x y => ?maxn⟩⟩
  case mulh => rw [intS_eq, mulhOp, ediv_two_pow_eq_fdiv]
  case mulhn => rw [intU_eq, mulhnOp, ediv_two_pow_eq_fdiv]
  case divn => simp only [intU_eq, divnOp, Int.tdiv_eq_ediv_of_nonneg (unsignedOf_nonneg w x)]
  case remn => simp only [intU_eq, remnOp, Int.tmod_eq_emod_of_nonneg (unsignedOf_nonneg w x)]
  case shl => rw [intU_eq, shlOp, shiftCount_eq]
  case shr => rw [intU_eq, shrOp, shiftCount_eq, ediv_two_pow_eq_fdiv]
  case sar => rw [intM_eq, sarOp, shiftCount_eq, ediv_two_pow_eq_fdiv]
  case min => simp only [intS_eq, minOp, min_def_lt]
  case max => simp only [intS_eq, maxOp, max_def_lt]
  case minn => simp only [intU_eq, minnOp, min_def_lt]
  case maxn => simp only [intU_eq, maxnOp, max_def_lt]

/-- Settles O1: a row's two forms write what its function gives, and that delivers its v. -/
theorem integerOperationsFollowTheirTable : Obligations.IntegerOperationsFollowTheirTable := by
  unfold Obligations.IntegerOperationsFollowTheirTable
  intro s w d a b i row hrow
  obtain ⟨f, hreg, himm, hv⟩ := intRow_computes w d a b i row hrow
  rw [hreg, himm, hv, hv]
  exact ⟨putS_eq .., putS_eq ..⟩

/-- A conditional branch goes to its target where its condition holds, and n bytes on where it does not (R106). -/
theorem branchIf_eq (s : State) (cnd : Cond) (w : Bool) (x y : DWord) (off : Word) (n : Nat) :
    (condTrue cnd w x y → s.branchIf (condHolds cnd w x y) off n = .next (s.atPc (laFrom s.core.pc (4 * off.toInt))))
    ∧ (¬condTrue cnd w x y → s.branchIf (condHolds cnd w x y) off n = .next (s.atPc (laFrom s.core.pc n))) := by
  constructor
  · intro h
    rw [State.branchIf, if_pos ((condHolds_eq ..).2 h), branchTarget_eq, setPc_eq]
  · intro h
    rw [State.branchIf, (condHolds_false ..).2 h, if_neg Bool.false_ne_true, done_eq]

/-- The link of JAL and JALR (R106). -/
theorem link_eq (s : State) (n : Nat) : s.link n = (laFrom s.core.pc n).zeroExtend 64 := by
  rw [State.link, laFrom_nat]

/-- Settles O3: branches by their condition, jumps by their target and link. -/
theorem branchesAndJumps : Obligations.BranchesAndJumps := by
  unfold Obligations.BranchesAndJumps
  intro s w cnd d a b y off i far link reg
  have hjal (t : LAddr) : (s.ws d (s.link 8)).setPc t = (link 8).atPc t := by rw [setPc_eq, link_eq]; rfl
  refine ⟨(branchIf_eq ..).1, (branchIf_eq ..).2, (branchIf_eq ..).1, (branchIf_eq ..).2, ?_, ?_, ?_, ?_⟩
  · exact congrArg (fun t => Host.Outcome.next (s.atPc t)) (branchTarget_eq s off)
  · exact congrArg Host.Outcome.next ((hjal _).trans (by rw [branchTarget_eq]))
  · exact congrArg (fun t => Host.Outcome.next (s.atPc t)) (regTarget_eq s a i)
  · exact congrArg Host.Outcome.next ((hjal _).trans (by rw [regTarget_eq]))

end Sys2Proof.Machine
end

-- ==== Regions and their commit ====
section
/-!
SUPPORT. REGION, and what a commit leaves (R93, R96, R137; obligation O4).
-/

namespace Sys2Proof.Machine

/-- REGION with the repetition buffer empty commits and opens (R93, R96). -/
theorem regionOp_free {s : State} (h : s.core.rep = none) (sm vm : Word) (n : Nat) :
    s.regionOp sm vm n = .next { s.commit s.focus with core := { (s.commit s.focus).core with
      pc := laFrom s.core.pc n
      region := ⟨laFrom s.core.pc n, sm, vm, s.core.regs, s.core.tsw, s.core.traps⟩ } } := by
  have hc : s.core.canCommit = true := by rw [Core.canCommit, h]; rfl
  rw [State.regionOp, if_pos hc, adv_eq]
  simp only [State.onCore, State.atPc, Core.openRegion, commit_core]
  rfl

/-- REGION waits for the repetition buffer (R96). -/
theorem regionOp_waits {s : State} (h : s.core.rep ≠ none) (sm vm : Word) (n : Nat) : s.regionOp sm vm n = .next s := by
  have hc : s.core.canCommit = false := by rw [Core.canCommit, Option.isNone_eq_false_iff, Option.isSome_iff_ne_none]; exact h
  rw [State.regionOp, hc, if_neg Bool.false_ne_true]

theorem dropReceived_zero (x : Nat) (q : List Received) : dropReceived x 0 q = q := by cases q <;> rfl

/-- Settles O4: REGION by the two lemmas above, the commit by the laws of its core and its frame. -/
theorem regionsAndCommit : Obligations.RegionsAndCommit := by
  unfold Obligations.RegionsAndCommit
  refine ⟨fun s sm vm => ⟨fun h => ⟨regionOp_free h sm 0 8, regionOp_free h sm vm 12⟩,
    fun h => ⟨regionOp_waits h sm 0 8, regionOp_waits h sm vm 12⟩, done_eq s 8⟩, ?_⟩
  intro s id c d
  have hd : d = c.afterCommit (s.ctxOn id) := commit_coreAt s id
  simp only [hd]
  exact ⟨rfl, rfl, rfl, rfl, rfl, rfl, rfl, rfl, rfl, rfl, rfl, rfl, rfl, rfl, commit_ram s id, commit_acts s id, commit_ctxs s id,
    fun _ => commit_coreAt_ne s, fun x n e q => ⟨dropReceived_zero x q, rfl⟩⟩

end Sys2Proof.Machine
end

-- ==== The end of a firing ====
section
/-!
SUPPORT. END and the grants that follow it (R107, R153, R154; obligation O6).
-/

namespace Sys2Proof.Machine

/-! ## Input ports -/

@[simp] theorem ActorRec.inPort_fin (r : ActorRec) (p : Fin 4) : r.inPort p = r.ins[p] := dif_pos p.isLt

@[simp] theorem ActorRec.setIn_fin (r : ActorRec) (p : Fin 4) (q : IPort) : r.setIn p q = { r with ins := r.ins.set p q } :=
  dif_pos p.isLt

theorem ActorRec.advance_ins (r : ActorRec) (p : Fin 4) :
    (r.ins[p].en = true → r.advance.ins[p].head
        = (r.ins[p].head + if r.ins[p].ca then r.ins[p].adv else r.ins[p].ratem1.toNat + 1) % (r.ins[p].slotsm1.toNat + 1)
      ∧ r.advance.ins[p].filled = r.ins[p].filled - if r.ins[p].ca then r.ins[p].adv else r.ins[p].ratem1.toNat + 1)
    ∧ (r.ins[p].en = false → r.advance.ins[p] = r.ins[p]) := by
  simp only [ActorRec.advance, Fin.getElem_fin, Vector.getElem_map]
  refine ⟨fun h => ?_, fun h => ?_⟩
  · rw [if_pos h]; exact ⟨rfl, rfl⟩
  · rw [h, if_neg Bool.false_ne_true]

/-- An advance leaves the requests that wait (R154). -/
theorem ActorRec.advance_asks (r : ActorRec) (p : Fin 4) : r.advance.ins[p].asks = r.ins[p].asks := by
  unfold ActorRec.advance
  simp only [Fin.getElem_fin, Vector.getElem_map]
  split <;> rfl

/-! ## Grants (R153, R154) -/

theorem freeCount_eq_zero (q : IPort) : q.freeCount = 0 ↔ q.slotsm1.toNat + 1 ≤ q.filled + q.rsv := by
  unfold IPort.freeCount IPort.slots
  omega

/-- A port grants nothing without a request, without a free slot, and while its actor is not in its slot. -/
theorem grant_nothing {s : State} {x : ActorId} {p : Fin 4} (h : (s.actor x).ins[p].asks = []
      ∨ (s.actor x).ins[p].slotsm1.toNat + 1 ≤ (s.actor x).ins[p].filled + (s.actor x).ins[p].rsv ∨ s.inSlot x = false) (n : Nat) :
    s.grant x p n = s := by
  cases n with
  | zero => rfl
  | succ n =>
    simp only [State.grant, ActorRec.inPort_fin]
    split
    next => rfl
    next ask rest hasks =>
      refine if_pos ?_
      rcases h with h | h | h
      · rw [h] at hasks; cases hasks
      · exact .inl ((freeCount_eq_zero _).2 h)
      · exact .inr (by rw [h]; rfl)

/-- A port with a free slot grants the oldest request, of a core of this device, and goes on with the next. -/
theorem grant_core {s : State} {x : ActorId} {p : Fin 4} {c : CoreId} {rest : List PortAsk} (hasks : (s.actor x).ins[p].asks = .core c :: rest)
    (hroom : (s.actor x).ins[p].filled + (s.actor x).ins[p].rsv < (s.actor x).ins[p].slotsm1.toNat + 1) (hin : s.inSlot x = true) (n : Nat) :
    s.grant x p (n + 1) = ((s.modActor x fun r => { r with ins := r.ins.set p.val { (s.actor x).ins[p].reserve with asks := rest } }).modCore c
      fun k => { k with tileQ := grantFirst x p (.granted (s.actor x).core x p (s.actor x).ins[p].next) k.tileQ }).grant x p n := by
  have hgo : ¬((s.actor x).ins[p].freeCount = 0 ∨ (!s.inSlot x) = true) := by
    rw [freeCount_eq_zero, hin]
    simpa using hroom
  rw [State.grant]
  simp only [ActorRec.inPort_fin, ActorRec.setIn_fin, hasks, if_neg hgo]
  rfl

/-- The first command of a queue that waits there holds the slot. -/
theorem grantFirst_append {x : ActorId} {p : Nat} (ph : TilePhase) {pre post : List TileCmd} {t : TileCmd}
    (hpre : ∀ e ∈ pre, e.phase ≠ .waiting x p) (ht : t.phase = .waiting x p) :
    grantFirst x p ph (pre ++ t :: post) = pre ++ { t with phase := ph } :: post := by
  induction pre with
  | nil => exact if_pos ht
  | cons e pre ih =>
    obtain ⟨he, hpre⟩ := List.forall_mem_cons.1 hpre
    exact (if_neg he).trans (congrArg _ (ih hpre))

/-- With no request at any port there is nothing to grant. -/
theorem grantAll_nothing {s : State} {x : ActorId} (h : ∀ p : Fin 4, (s.actor x).ins[p].asks = []) : s.grantAll x = s := by
  have hg (p : Nat) (hp : p < 4) : s.grant x p 17 = s := grant_nothing (p := ⟨p, hp⟩) (.inl (h ⟨p, hp⟩)) 17
  simp only [State.grantAll, List.foldl_cons, List.foldl_nil, hg 0 (by omega), hg 1 (by omega), hg 2 (by omega), hg 3 (by omega)]

/-! ## END (R107) -/

@[simp] theorem slotAt_setSlot_self (c : Core) (n : Nat) (x : Slot) : (c.setSlot n x).slotAt n = x := Sparse.get_set_self ..

/-- The firing has committed, its slot waits again, and its core is idle. -/
def State.endedSlot (s : State) (sl : Nat) (x : ActorId) : State :=
  let c := s.commit s.focus
  { c with core := { c.core.setSlot sl ⟨.waiting, some x, none⟩ with run := .idle } }

theorem endedSlot_core (s : State) (sl : Nat) (x : ActorId) : (s.endedSlot sl x).core
    = { (s.core.afterCommit (s.ctxOn s.focus)).setSlot sl ⟨.waiting, some x, none⟩ with run := .idle } := by
  change ({ (s.commit s.focus).core.setSlot sl ⟨.waiting, some x, none⟩ with run := .idle } : Core) = _
  rw [commit_core]

theorem endedSlot_actor (s : State) (sl : Nat) (x y : ActorId) : (s.endedSlot sl x).actor y = s.actor y := by
  unfold State.actor State.endedSlot
  rw [← commit_acts s s.focus]

/-- What END makes of the actor: one more firing, after its ports or its mailbox have moved on. -/
theorem exec_endF {s : State} {sl : Nat} {x : ActorId} (hrep : s.core.rep = none) (hrun : s.core.run = .firing sl)
    (hx : (s.core.slotAt sl).actor = some x) : exec .endF s = .next ((if s.core.tsw.sf then (s.endedSlot sl x).endSignal x
      else ((s.endedSlot sl x).modActor x ActorRec.advance).grantAll x).modActor x fun r => { r with firings := r.firings + 1 }) := by
  have hc : s.core.canCommit = true := by rw [Core.canCommit, hrep]; rfl
  have hs : (s.commit s.focus).core.slotAt sl = s.core.slotAt sl := by rw [commit_core]; rfl
  have hu : ((s.commit s.focus).onCore fun c => { c.setSlot sl ⟨.waiting, (c.slotAt sl).actor, none⟩ with run := .idle })
      = s.endedSlot sl x := by
    rw [State.onCore, hs, hx]; rfl
  change s.endOp = _
  rw [State.endOp, if_pos hc, hrun]
  simp only [State.endFiring, hx, hu]

/-- The mailbox one message further (R285). -/
def ActorRec.spendMail (r : ActorRec) : ActorRec :=
  { r with mhead := (r.mhead + 1) % 16, mcount := r.mcount - 1, mscopes := r.mscopes.drop 1 }

/-- END of a signal firing moves the mailbox on; besides, only a trap message leaves the context engine (R107, R364). -/
theorem endSignal_eq (s : State) (x : ActorId) : ∃ c, s.endSignal x = { s.modActor x ActorRec.spendMail with ctxs := c } := by
  unfold State.endSignal
  extract_lets r kind s1
  by_cases hk : kind = 0x06
  · exact ⟨_, if_pos hk⟩
  · exact ⟨_, if_neg hk⟩

/-- END where no request waits at the actor's ports: its core, its memory and its actor. -/
theorem exec_endF_quiet {s : State} {sl : Nat} {x : ActorId} (hrep : s.core.rep = none) (hrun : s.core.run = .firing sl)
    (hx : (s.core.slotAt sl).actor = some x) (hasks : ∀ p : Fin 4, (s.actor x).ins[p].asks = []) :
    ∃ t, exec .endF s = .next t ∧ t.core = (s.endedSlot sl x).core ∧ t.ram = s.ram
      ∧ t.actor x = { (if s.core.tsw.sf then ActorRec.spendMail else ActorRec.advance) (s.actor x) with
          firings := (s.actor x).firings + 1 } := by
  have hram : (s.endedSlot sl x).ram = s.ram := commit_ram s s.focus
  rw [exec_endF hrep hrun hx]
  refine ⟨_, rfl, ?_⟩
  rw [actor_modActor]
  cases s.core.tsw.sf with
  | true =>
    obtain ⟨c, hc⟩ := endSignal_eq (s.endedSlot sl x) x
    have hact : ((s.endedSlot sl x).endSignal x).actor x = (s.actor x).spendMail := by
      rw [hc, ← endedSlot_actor s sl x x]; exact actor_modActor ..
    rw [if_pos rfl, if_pos rfl, hact, hc]
    exact ⟨rfl, hram, rfl⟩
  | false =>
    have hno (p : Fin 4) : (((s.endedSlot sl x).modActor x ActorRec.advance).actor x).ins[p].asks = [] := by
      rw [actor_modActor, ActorRec.advance_asks, endedSlot_actor, hasks]
    rw [if_neg Bool.false_ne_true, if_neg Bool.false_ne_true, grantAll_nothing hno, actor_modActor, endedSlot_actor]
    exact ⟨rfl, hram, rfl⟩

/-- Settles O6: END as one equation, and a grant by its two cases. -/
theorem endOfAFiring : Obligations.EndOfAFiring := by
  unfold Obligations.EndOfAFiring
  refine ⟨fun s sl x hrep hrun hx _ hasks => ?_, fun s sl x hrep hrun hx hsf => ?_, fun s x p n => ⟨fun h => grant_nothing h n,
    fun c rest hasks hroom hin => ⟨grant_core hasks hroom hin n, fun ph pre post t => grantFirst_append ph⟩⟩⟩
  · obtain ⟨t, hend, hcore, hram, hact⟩ := exec_endF_quiet hrep hrun hx hasks
    rw [endedSlot_core] at hcore
    refine ⟨t, hend, ?_⟩
    rw [hcore, hram, hact]
    refine ⟨rfl, rfl, rfl, slotAt_setSlot_self (s.core.afterCommit (s.ctxOn s.focus)) sl ⟨.waiting, some x, none⟩, rfl, rfl, rfl, ?_, fun hsf => ?_, fun hsf => ?_⟩
    · cases s.core.tsw.sf <;> rfl
    · rw [hsf]
      exact ⟨rfl, fun p => (s.actor x).advance_ins p⟩
    · rw [hsf]
      exact ⟨rfl, rfl, rfl⟩
  · rw [exec_endF hrep hrun hx, hsf]
    rfl

end Sys2Proof.Machine
end

-- ==== Local loads and stores ====
section
/-!
SUPPORT. LDL and STL (R85, R113, R168, Table 03.14; obligation O9).
-/

namespace Sys2Proof.Machine

/-- What a load variant delivers of the bytes it read (Table 03.14). -/
theorem ldExt_eq (l : LdW) (bs : List Byte) : ldExt l bs = loadValue l (valueOf bs) := by
  unfold ldExt
  rw [dwOf, natOf_eq]
  cases l <;> simp [loadValue, sextLow, zextLow, dw, BitVec.setWidth_ofNat_of_le]

theorem getD_bytesOf {n j : Nat} (h : j < n) (v : Nat) : (bytesOf n v).getD j 0 = byteAt v j := by
  rw [bytesOf_eq]
  simp [h]

theorem storeWidth_le (k : StW) : storeWidth k ≤ 8 := by cases k <;> decide

/-- The scratchpad once the bytes of a value are stored: its bytes there, and every other byte as before. -/
theorem pad_padWrite {s t : State} {p n v : Nat} (ht : t.core.mem = padWrite s.core.mem p (bytesOf n v)) (hn : n ≤ 2 ^ 18) :
    (∀ j, j < n → t.pad (p + j) = byteAt v j)
    ∧ ∀ q, (∀ j, j < n → q % 2 ^ 18 ≠ (p + j) % 2 ^ 18) → t.pad q = s.pad q := by
  unfold State.pad
  rw [ht]
  refine ⟨fun j hj => ?_, fun q hq => ?_⟩
  · rw [padWrite_get_in _ _ _ (by rwa [bytesOf_length]) (by rwa [bytesOf_length]), getD_bytesOf hj]
  · exact padWrite_get_out _ _ _ (by rwa [bytesOf_length])

section

variable {s : State} {l : LdW} {k : StW} {d a b : SReg} {i : Word}

theorem exec_ldl : exec (.ldl l d a i) s = s.localAccess (s.rs a + i.signExtend 64) (loadWidth l) (loadWidth l) fun p =>
    .next (s.afterS d (loadValue l (valueOf (s.localBytes p (loadWidth l)))) 8) := by
  rw [← ldBytes_eq]
  simp only [← ldExt_eq]
  rfl

theorem exec_stl : exec (.stl k a b i) s = s.localAccess (s.rs a + i.signExtend 64) (storeWidth k) (storeWidth k) fun p =>
    .next ((s.onCore fun c => c.store p (bytesOf (storeWidth k) (s.rs b).toNat)).atPc (laFrom s.core.pc 8)) := by
  rw [← stBytes_eq]
  exact congrArg (s.localAccess (s.ea a i) (stBytes k) (stBytes k)) (funext fun _ => done_eq ..)

end

/-- Settles O9: both are a local access, whose outcomes the laws of accesses give. -/
theorem localLoadsAndStores : Obligations.LocalLoadsAndStores := by
  unfold Obligations.LocalLoadsAndStores
  intro s l k d a b i ea p
  rw [exec_ldl, exec_stl]
  refine ⟨fun hal hown => ?_, fun hal hown => ?_, fun hal => localAccess_misaligned hal _, fun hal => localAccess_misaligned hal _,
    fun hal hown => localAccess_notOwned hal hown _, fun hal hown => localAccess_notOwned hal hown _⟩
  · rw [localAccess_ok hal hown]
    exact ⟨⟨_, localBytes_mayRead s p (loadWidth l), rfl⟩, fun hquiet => by rw [localBytes_quiet hquiet, load_eq]⟩
  · rw [localAccess_ok hal hown]
    refine ⟨_, rfl, rfl, ?_⟩
    exact pad_padWrite rfl ((storeWidth_le k).trans (by norm_num))

end Sys2Proof.Machine
end

-- ==== The firing unit ====
section
/-!
SUPPORT. The firing unit: when a slot is ready, which one is chosen, and what a firing starts with (R88 to R92, R98, R101,
R163, R167, R298, R364; obligations O42 and O43).
-/

namespace Sys2Proof.Machine

/-! ## Readiness and rank (R89) -/

/-- Does every enabled port of an actor hold its rate? -/
def ActorRec.fed (r : ActorRec) : Prop := ∀ i : Fin 4, r.ins[i].en = true → r.ins[i].ratem1.toNat + 1 ≤ r.ins[i].filled

theorem ins_all_iff_fed (r : ActorRec) : (r.ins.all fun p => !p.en || decide (p.rate ≤ p.filled)) = true ↔ r.fed := by
  rw [Vector.all_eq_true, ActorRec.fed, Fin.forall_iff]
  exact forall₂_congr fun i hi => by simp [IPort.rate, ← Bool.not_eq_true, imp_iff_not_or]

/-- The rank of a WAITING slot that its context and no migration hold back. -/
theorem slotRank_waiting {s : State} {id : CoreId} {n : Nat} {x : ActorId} (hx : ((s.coreAt id).slotAt n).actor = some x)
    (hw : ((s.coreAt id).slotAt n).st = .waiting) (hh : s.holdsSlice id x.ctx = true)
    (hm : ∀ g, (s.actor x).mig = some g → g.started = false) :
    s.slotRank id n = if ((s.coreAt id).slotAt n).resume.isSome then some 3 else if 0 < (s.actor x).mcount then some 2
      else if (s.actor x).ins.all fun p => !p.en || decide (p.rate ≤ p.filled) then some 1 else none := by
  have hmoving : ((s.actor x).mig.map (·.started) == some true) = false := by
    cases hg : (s.actor x).mig with
    | none => rfl
    | some g => simp [hm g hg]
  simp [State.slotRank, hx, hw, hh, hmoving]

/-- Settles O43: the rank of such a slot, by its three conditions in order. -/
theorem readySlotsAndTheirRank : Obligations.ReadySlotsAndTheirRank := by
  unfold Obligations.ReadySlotsAndTheirRank
  intro s id n x sl fed hx hw hh hm
  rw [slotRank_waiting hx hw hh hm]
  have hno (h : sl.resume = none) : sl.resume.isSome = true → False := by simp [h]
  refine ⟨fun h => if_pos h, fun h hmail => ?_, fun h hmail hfed => ?_, fun h hmail hfed => ?_⟩
  · rw [if_neg (hno h), if_pos hmail]
  · rw [if_neg (hno h), if_neg (by omega), if_pos ((ins_all_iff_fed _).2 hfed)]
  · rw [if_neg (hno h), if_neg (by omega), if_neg fun hall => hfed ((ins_all_iff_fed _).1 hall)]

/-! ## The choice (R90) -/

/-- The better of what was best so far and one more slot: a later slot must have a greater key. -/
def betterSlot (key : Nat → Option Nat) (best : Option (Nat × Nat)) (n : Nat) : Option (Nat × Nat) :=
  match key n, best with
  | some k, some (b, m) => if b < k then some (k, n) else some (b, m)
  | some k, none => some (k, n)
  | none, b => b

/-- n is the first of the slots of a list with the greatest key, k. -/
def FirstBest (key : Nat → Option Nat) (l : List Nat) (k n : Nat) : Prop :=
  ∃ pre post, l = pre ++ n :: post ∧ key n = some k ∧ (∀ m ∈ pre, ∀ k', key m = some k' → k' < k)
    ∧ ∀ m ∈ post, ∀ k', key m = some k' → k' ≤ k

theorem FirstBest.le {key : Nat → Option Nat} {l : List Nat} {k n : Nat} (h : FirstBest key l k n) {m k' : Nat} (hm : m ∈ l)
    (hk : key m = some k') : k' ≤ k := by
  obtain ⟨pre, post, rfl, hn, hpre, hpost⟩ := h
  rcases List.mem_append.1 hm with hm | hm
  · exact (hpre m hm k' hk).le
  rcases List.mem_cons.1 hm with rfl | hm
  · exact (Option.some.inj (hk.symm.trans hn)).le
  · exact hpost m hm k' hk

theorem foldl_betterSlot (key : Nat → Option Nat) (l : List Nat) :
    (l.foldl (betterSlot key) none = none → ∀ m ∈ l, key m = none)
    ∧ ∀ k n, l.foldl (betterSlot key) none = some (k, n) → FirstBest key l k n := by
  induction l using List.reverseRecOn with
  | nil => exact ⟨fun _ => by simp, fun k n h => nomatch h⟩
  | append_singleton l a ih =>
    obtain ⟨ihn, ihs⟩ := ih
    rw [List.foldl_append, List.foldl_cons, List.foldl_nil]
    cases hb : l.foldl (betterSlot key) none with
    | none =>
      have hl := ihn hb
      cases ha : key a with
      | none =>
        refine ⟨fun _ m hm => ?_, fun k n h => ?_⟩
        · rcases List.mem_append.1 hm with hm | hm
          · exact hl m hm
          · rw [List.mem_singleton.1 hm, ha]
        · simp [betterSlot, ha] at h
      | some k0 =>
        simp only [betterSlot, ha, Option.some.injEq, Prod.mk.injEq]
        refine ⟨fun h => (nomatch h), ?_⟩
        rintro k n ⟨rfl, rfl⟩
        exact ⟨l, [], rfl, ha, fun m hm k' hk => by simp [hl m hm] at hk, by simp⟩
    | some b =>
      obtain ⟨b, m0⟩ := b
      have hl := ihs b m0 hb
      have keeps (h : ∀ k', key a = some k' → k' ≤ b) : FirstBest key (l ++ [a]) b m0 := by
        obtain ⟨pre, post, rfl, hn, hpre, hpost⟩ := hl
        refine ⟨pre, post ++ [a], by simp, hn, hpre, fun m hm => ?_⟩
        rcases List.mem_append.1 hm with hm | hm
        · exact hpost m hm
        · rw [List.mem_singleton.1 hm]; exact h
      cases ha : key a with
      | none =>
        simp only [betterSlot, ha, Option.some.injEq, Prod.mk.injEq]
        refine ⟨fun h => (nomatch h), ?_⟩
        rintro k n ⟨rfl, rfl⟩
        exact keeps fun k' hk => by simp [ha] at hk
      | some k0 =>
        by_cases hlt : b < k0
        · simp only [betterSlot, ha, if_pos hlt, Option.some.injEq, Prod.mk.injEq]
          refine ⟨fun h => (nomatch h), ?_⟩
          rintro k n ⟨rfl, rfl⟩
          exact ⟨l, [], rfl, ha, fun m hm k' hk => (hl.le hm hk).trans_lt hlt, by simp⟩
        · simp only [betterSlot, ha, if_neg hlt, Option.some.injEq, Prod.mk.injEq]
          refine ⟨fun h => (nomatch h), ?_⟩
          rintro k n ⟨rfl, rfl⟩
          exact keeps fun k' hk => by rw [← Option.some.inj (ha.symm.trans hk)]; omega

/-- The slots in the order in which the firing unit meets them: those above its pointer first. -/
def firingOrder (pointer : Nat) : List Nat := (List.range 64).map fun i => (pointer + 1 + i) % 64

/-- How far above the pointer a slot is met. -/
def slotsAbove (pointer m : Nat) : Nat := (m + 63 - pointer % 64) % 64

theorem chosenSlot_eq (s : State) (id : CoreId) :
    s.chosenSlot id = ((firingOrder (s.coreAt id).pointer).foldl (betterSlot (s.slotKey id)) none).map (·.2) := rfl

theorem firingOrder_at {pointer m : Nat} (h : m < 64) : (firingOrder pointer)[slotsAbove pointer m]? = some m := by
  have hi : slotsAbove pointer m < 64 := Nat.mod_lt _ (by omega)
  rw [firingOrder, List.getElem?_map, List.getElem?_range hi, Option.map_some, Option.some.injEq]
  unfold slotsAbove
  omega

theorem mem_firingOrder {pointer m : Nat} (h : m < 64) : m ∈ firingOrder pointer := List.mem_of_getElem? (firingOrder_at h)

/-- The place of a slot in the order is how far above the pointer it is. -/
theorem firingOrder_place {pointer i n : Nat} (h : (firingOrder pointer)[i]? = some n) : n < 64 ∧ slotsAbove pointer n = i := by
  simp only [firingOrder, List.getElem?_map, Option.map_eq_some_iff] at h
  obtain ⟨j, hj, rfl⟩ := h
  obtain ⟨hlen, rfl⟩ := List.getElem?_eq_some_iff.1 hj
  simp only [List.length_range, List.getElem_range] at hlen ⊢
  unfold slotsAbove
  omega

/-- No slot that the firing unit would meet earlier has a key as great. -/
theorem FirstBest.above {key : Nat → Option Nat} {pointer k n m k' : Nat} (h : FirstBest key (firingOrder pointer) k n) (hm : m < 64)
    (hk : key m = some k') : k' ≤ k ∧ (k' = k → slotsAbove pointer n ≤ slotsAbove pointer m) := by
  refine ⟨h.le (mem_firingOrder hm) hk, fun heq => Nat.le_of_not_lt fun hlt => ?_⟩
  obtain ⟨pre, post, hl, hn, hpre, hpost⟩ := h
  have hplace : slotsAbove pointer n = pre.length := (firingOrder_place (by simp [hl])).2
  have hmem : m ∈ pre := by
    have hat := firingOrder_at (pointer := pointer) hm
    rw [hl, List.getElem?_append_left (by omega)] at hat
    exact List.mem_of_getElem? hat
  exact absurd (hpre m hmem k' hk) (by omega)

theorem chosenSlot_some {s : State} {id : CoreId} {n : Nat} (h : s.chosenSlot id = some n) :
    ∃ k, FirstBest (s.slotKey id) (firingOrder (s.coreAt id).pointer) k n := by
  rw [chosenSlot_eq, Option.map_eq_some_iff] at h
  obtain ⟨⟨k, m⟩, hf, rfl⟩ := h
  exact ⟨k, (foldl_betterSlot ..).2 k m hf⟩

theorem FirstBest.key_and_lt {key : Nat → Option Nat} {pointer k n : Nat} (h : FirstBest key (firingOrder pointer) k n) :
    key n = some k ∧ n < 64 := by
  obtain ⟨pre, post, hl, hn, -⟩ := h
  exact ⟨hn, (firingOrder_place (pointer := pointer) (i := pre.length) (by simp [hl])).1⟩

theorem chosenSlot_none {s : State} {id : CoreId} (h : s.chosenSlot id = none) {m : Nat} (hm : m < 64) : s.slotKey id m = none :=
  (foldl_betterSlot ..).1 (Option.map_eq_none_iff.1 ((chosenSlot_eq s id).symm.trans h)) m (mem_firingOrder hm)

/-! ## FIRING_CHOICE (R90 to R92) -/

theorem exec_firingChoice_none {s : State} {id : CoreId} (h : s.chosenSlot id = none) : exec (.firingChoice id) s = .next s := by
  change execFiringChoice id s = _
  unfold execFiringChoice
  rw [h]
  exact ite_self _

section

variable {s : State} {id : CoreId} {n : Nat} {x : ActorId}

/-- A slot with a resume pending has the rank of one. -/
theorem resume_none_of_rank {k : Nat} (h : s.slotRank id n = some k) (hk : k ≠ 3) : ((s.coreAt id).slotAt n).resume = none := by
  by_contra hne
  have hs : ((s.coreAt id).slotAt n).resume.isSome = true := Option.isSome_iff_ne_none.2 hne
  simp only [State.slotRank, hs, if_true] at h
  split at h
  · cases h
  · split at h
    · cases h
    · exact hk (Option.some.inj h).symm

theorem exec_firingChoice_starts (hrun : (s.coreAt id).run = .idle) (hreg : id.regions = true) (hc : s.chosenSlot id = some n)
    (hx : ((s.coreAt id).slotAt n).actor = some x) (hr : ((s.coreAt id).slotAt n).resume = none) :
    exec (.firingChoice id) s = .next (s.startFiring id n x (s.slotRank id n == some 2)) := by
  change execFiringChoice id s = _
  unfold execFiringChoice
  simp [hrun, hreg, hc, hx, hr]

theorem exec_firingChoice_resumes {o q : Resume} (hrun : (s.coreAt id).run = .idle) (hreg : id.regions = true) (hc : s.chosenSlot id = some n)
    (hx : ((s.coreAt id).slotAt n).actor = some x) (hr : ((s.coreAt id).slotAt n).resume = some o)
    (hv : s.resumeVectors id x o = .ok q) : exec (.firingChoice id) s = .next (s.resumeFiring id n x q) := by
  change execFiringChoice id s = _
  unfold execFiringChoice
  simp [hrun, hreg, hc, hx, hr, hv]

end

/-! ## What an acquire changes (R29, R393) -/

theorem podAcquire_coreAt (s : State) (id : CoreId) (sc : Scope) :
    let k := (s.podAcquire id sc).coreAt id
    k = { s.coreAt id with since := k.since, seen := k.seen, podEpoch := k.podEpoch }
    ∧ (sc = .core → k = s.coreAt id) ∧ (sc ≠ .core → k.since = s.ram.oldNext ∧ k.seen = [])
    ∧ (sc = .pod ∨ sc = .system → k.podEpoch = s.fab.epoch + 1) := by
  cases sc <;> simp [State.podAcquire]

theorem podAcquire_rest (s : State) (id : CoreId) (sc : Scope) : ∃ a b e, s.podAcquire id sc = { s with
    core := a, others := b, fab := { s.fab with epoch := e } } := by
  cases sc
  case core => exact ⟨_, _, _, rfl⟩
  all_goals
    simp only [State.podAcquire, State.modCore, State.setCore]
    split <;> exact ⟨_, _, _, rfl⟩

theorem setCore_modActor (s : State) (id : CoreId) (c : Core) (x : ActorId) (f : ActorRec → ActorRec) :
    (s.modActor x f).setCore id c = (s.setCore id c).modActor x f := by
  unfold State.setCore
  rw [modActor_focus]
  split <;> rfl

/-- An acquire of a core and a change of an actor's record do not meet. -/
theorem podAcquire_modActor (s : State) (id : CoreId) (sc : Scope) (x : ActorId) (f : ActorRec → ActorRec) :
    (s.modActor x f).podAcquire id sc = (s.podAcquire id sc).modActor x f := by
  cases sc
  case core => rfl
  case die | device => exact setCore_modActor s id _ x f
  case pod | system => exact setCore_modActor (s.onFab fun f => { f with epoch := f.epoch + 1 }) id _ x f

/-! ## What a firing starts with (Table 03.7) -/

/-- The scope at which a firing acquires: its message's, or the widest of its tiles' (R167, R298). -/
def ActorRec.firingScope (r : ActorRec) (signal : Bool) : Scope :=
  if signal then r.mscopes.headD .core else scopeOf ((r.ins.toList.map IPort.acquires).foldl Nat.max 0)

/-- SENT of every output port returns to 0 (R163). -/
def ActorRec.unsent (r : ActorRec) : ActorRec := { r with outs := r.outs.map fun p => { p with sent := 0 } }

/-- The core of a firing that starts on it. -/
def State.firingCore (s : State) (n : Nat) (x : ActorId) (signal : Bool) (c : Core) : Core :=
  let r := s.actor x
  let msg := c.load (r.mailAddr r.mhead) 16
  let w0 := dwOf (msg.take 8)
  let trap := signal && bitsAt 0 8 w0 == 6
  let entry := if signal then r.entryS else r.entryD
  ({ c.setSlot n ⟨.running, some x, none⟩ with
    run := .firing n
    pointer := n
    pc := entry
    regs := entryRegs r c.regs signal
    tsw := { Tsw.reset with sf := signal, priv := if trap then 1 else 0, cpri := BitVec.ofNat 2 (s.ctxPri x.ctx) }
    traps := { c.traps with
      thnd := if r.tre then r.entryT else 0
      tcause := if trap then mkCause (bitsAt 32 32 w0) 0 (bitsAt 8 8 w0) else c.traps.tcause
      taddr := if trap then dwOf (msg.drop 8) else c.traps.taddr }
    selfn := s.nameOf x
    slotReg := BitVec.ofNat 6 n
    wait := none
    taken := 0 }).unhold.openRegion entry 0xFFFFFFFE 0

theorem startFiring_eq (s : State) (id : CoreId) (n : Nat) (x : ActorId) (signal : Bool) : s.startFiring id n x signal
    = ((s.podAcquire id ((s.actor x).firingScope signal)).modActor x ActorRec.unsent).modCore id (s.firingCore n x signal) := by
  rw [← podAcquire_modActor]
  rfl

theorem modCore_rest (s : State) (id : CoreId) (f : Core → Core) : ∃ a b, s.modCore id f = { s with core := a, others := b } :=
  ⟨_, _, setCore_rest s id (f (s.coreAt id))⟩

theorem startFiring_coreAt (s : State) (id : CoreId) (n : Nat) (x : ActorId) (signal : Bool) :
    (s.startFiring id n x signal).coreAt id
      = s.firingCore n x signal ((s.podAcquire id ((s.actor x).firingScope signal)).coreAt id) := by
  rw [startFiring_eq, coreAt_modCore, modActor_coreAt]

theorem startFiring_rest (s : State) (id : CoreId) (n : Nat) (x : ActorId) (signal : Bool) :
    (s.startFiring id n x signal).actor x = (s.actor x).unsent
    ∧ ∃ a b tab e, s.startFiring id n x signal
      = { s with core := a, others := b, acts := { s.acts with tab := tab }, fab := { s.fab with epoch := e } } := by
  obtain ⟨a, b, e, hu⟩ := podAcquire_rest s id ((s.actor x).firingScope signal)
  obtain ⟨a', b', ht⟩ := modCore_rest ((s.podAcquire id ((s.actor x).firingScope signal)).modActor x ActorRec.unsent) id
    (s.firingCore n x signal)
  rw [startFiring_eq, ht, hu]
  exact ⟨actor_modActor { s with core := a, others := b, fab := { s.fab with epoch := e } } x _, _, _, _, _, rfl⟩

theorem slotAddr_eq (p : IPort) (i : Nat) : p.slotAddr i = (512 * p.base.toNat + i * (64 * 2 ^ p.size.toNat)) % 2 ^ 18 := by
  rw [Nat.mul_comm 512]; rfl

theorem mailAddr_eq (r : ActorRec) (i : Nat) : r.mailAddr i = (512 * r.mbase + 64 * (i % 16)) % 2 ^ 18 := by
  rw [Nat.mul_comm 512, Nat.mul_comm 64]; rfl

/-! ## What a resumed firing has back (R92, R101) -/

theorem resumeFiring_coreAt (s : State) (id : CoreId) (n : Nat) (x : ActorId) (q : Resume) :
    let c := (s.resumeFiring id n x q).coreAt id
    s.resumeFiring id n x q = s.setCore id c ∧ c.run = .firing n ∧ c.slotAt n = ⟨.running, some x, none⟩ ∧ c.pc = q.rcd.entry
      ∧ c.regs = restoreRegs q.rcd (s.coreAt id).regs ∧ c.selfn = s.nameOf x ∧ c.region = q.rcd := by
  intro c
  have hc : c = _ := coreAt_modCore s id _
  refine ⟨by rw [hc]; rfl, ?_⟩
  rw [hc]
  exact ⟨rfl, slotAt_setSlot_self (s.coreAt id) n ⟨.running, some x, none⟩, rfl, rfl, rfl, rfl⟩

/-- Settles O42: the choice is the first best slot of the order, and a firing starts with the core `firingCore` says. -/
theorem firingChoiceAndStart : Obligations.FiringChoiceAndStart := by
  unfold Obligations.FiringChoiceAndStart
  intro s id n x signal c r far ring box head args entry regs msg w0 trap tsw traps sc k
  refine ⟨fun h => ?_, fun h m hm => chosenSlot_none h hm, fun hrun hreg hc hx => ⟨fun hrank => ?_, fun o q hr hv => ?_⟩,
    exec_firingChoice_none⟩
  · obtain ⟨key, hbest⟩ := chosenSlot_some h
    obtain ⟨hkey, hn⟩ := hbest.key_and_lt
    exact ⟨key, hkey, hn, fun m k' hm hk => hbest.above hm hk⟩
  · have hr := resume_none_of_rank hrank (by cases signal <;> decide)
    have hsig : (s.slotRank id n == some 2) = signal := by rw [hrank]; cases signal <;> rfl
    obtain ⟨hact, a, b, tab, e, ht⟩ := startFiring_rest s id n x signal
    obtain ⟨hk, hcore, hacq, hpod⟩ := podAcquire_coreAt s id sc
    refine ⟨_, exec_firingChoice_starts hrun hreg hc hx hr, ?_⟩
    rw [hsig]
    refine ⟨?_, hcore, hacq, hpod, hact, by rw [ht]⟩
    rw [startFiring_coreAt]
    have hk' : k = { c with since := k.since, seen := k.seen, podEpoch := k.podEpoch } := hk
    change s.firingCore n x signal k = _
    rw [hk', State.firingCore]
    simp only [entryRegs, slotAddr_eq, mailAddr_eq]
    cases signal <;> rfl
  · exact ⟨_, exec_firingChoice_resumes hrun hreg hc hx hr hv, resumeFiring_coreAt s id n x q⟩

end Sys2Proof.Machine
end

-- ==== Faults leave the focus ====
section
/-!
SUPPORT. A fatal outcome, and the deaths it brings, leave the core in focus as it was (R97, R100, R116, R290, R316): an event
of another core gives the focus back unchanged.
-/

namespace Sys2Proof.Machine

variable {s : State}

/-- What each step of a fold leaves, the fold leaves. -/
theorem foldl_leaves {α β : Type} (g : State → β) {f : State → α → State} (hf : ∀ t x, g (f t x) = g t) (l : List α) (t : State) :
    g (l.foldl f t) = g t := by
  induction l generalizing t with
  | nil => rfl
  | cons x l ih => exact (ih _).trans (hf t x)

theorem foldl_focus {α : Type} {f : State → α → State} (hf : ∀ t x, (f t x).focus = t.focus) (l : List α) :
    (l.foldl f s).focus = s.focus := foldl_leaves State.focus hf l s

theorem ite_focus {c : Prop} [Decidable c] {t u : State} : (if c then t else u).focus = if c then t.focus else u.focus :=
  apply_ite State.focus c t u

@[simp] theorem releaseReserved_focus (w : Issuer) (k : EntryKind) : (s.releaseReserved w k).focus = s.focus := by
  unfold State.releaseReserved
  have hfold (y : Nat → ActorId) (f : ActorRec → ActorRec) (l : List Nat) (t : State) :
      (l.foldl (fun t i => t.modActor (y i) f) t).focus = t.focus := foldl_focus (fun _ _ => modActor_focus ..) l
  repeat' split
  all_goals simp [hfold, State.modSuper, State.setSuper, State.onActs, State.enqueueReq, State.onFab]

@[simp] theorem disown_focus (id : CoreId) : (s.disown id).focus = s.focus := by
  unfold State.disown
  split <;> rfl

@[simp] theorem discardRegion_focus (id : CoreId) : (s.discardRegion id).focus = s.focus := by
  have hfold : ((s.coreAt id).openB.foldl (fun t e => t.releaseReserved e.who e.kind) (s.disown id)).focus = s.focus :=
    (foldl_focus (fun _ _ => releaseReserved_focus ..) _).trans (disown_focus id)
  unfold State.discardRegion
  split
  · exact (setCore_focusEq ..).trans hfold
  · exact (setCore_focusEq ..).trans hfold

@[simp] theorem askAgain_focus (x : ActorId) (p : Nat) (a : PortAsk) (e : FabricEnd) : (s.askAgain x p a e).focus = s.focus := by
  unfold State.askAgain
  split
  · exact modCore_focusEq ..
  · rfl

@[simp] theorem returnAsks_focus (x : ActorId) : (s.returnAsks x).focus = s.focus := foldl_focus (fun _ _ => askAgain_focus ..) _

@[simp] theorem freeIndexOf_focus (x : ActorId) : (s.freeIndexOf x).focus = s.focus := by
  unfold State.freeIndexOf
  split
  · rfl
  · exact returnAsks_focus x

@[simp] theorem takeBack_focus (x : ActorId) : (s.takeBack x).focus = s.focus :=
  foldl_focus (fun _ _ => foldl_focus (fun _ _ => (modActor_focus ..).trans (modCore_focusEq ..)) _) _

@[simp] theorem unwatch_focus (x : ActorId) (l : LinkEntry) : (s.unwatch x l).focus = s.focus := by
  unfold State.unwatch
  simp only [ite_focus, modActor_focus, State.enqueueReq, State.onFab, ite_self]

@[simp] theorem killOne_focus (x : ActorId) (reason : Nat) (quiet : Bool) : (s.killOne x reason quiet).focus = s.focus := by
  simp [State.killOne, ite_focus, foldl_focus, State.enqueueReq, State.onFab]

@[simp] theorem dropEvents_focus (x : ActorId) : (s.dropEvents x).focus = s.focus :=
  foldl_focus (fun t d => by simp only [ite_focus, freeIndexOf_focus, ite_self]) _

@[simp] theorem orphan_focus {die : State → ActorId → State} (hd : ∀ t y, (die t y).focus = t.focus) (x : ActorId) :
    (s.orphan x die).focus = s.focus := by
  refine (dropEvents_focus x).trans (foldl_focus (fun t k => ?_) _)
  simp only [ite_focus, freeIndexOf_focus, hd, ite_self]

@[simp] theorem killN_focus (n : Nat) (x : ActorId) (reason : Nat) (quiet : Bool) : (State.killN n s x reason quiet).focus = s.focus := by
  induction n generalizing s x reason quiet with
  | zero => exact killOne_focus x reason quiet
  | succ n ih =>
    unfold State.killN
    simp only [ite_focus, orphan_focus fun t y => ih y 1 true, killOne_focus, ite_self]

@[simp] theorem kill_focus (x : ActorId) (reason : Nat) : (s.kill x reason).focus = s.focus := killN_focus ..

@[simp] theorem forcedSave_focus (id : CoreId) : (s.forcedSave id).focus = s.focus :=
  (modCore_focusEq ..).trans (discardRegion_focus id)

@[simp] theorem reportFault_focus (id : CoreId) (x : ActorId) (t : Tsw) (code : Nat) : (s.reportFault id x t code).focus = s.focus := by
  unfold State.reportFault
  simp only [ite_focus, State.raiseTrap, ite_self]

@[simp] theorem fatal_focus (code reason : Nat) (taddr : DWord) : (s.fatal code reason taddr).focus = s.focus := by
  unfold State.fatal
  repeat' split
  all_goals simp [State.deviceReset, State.raiseTrap]

/-- An outcome that leaves the focus is the same once the focus is given back. -/
theorem refocused_next {t : State} (h : t.focus = s.focus) : Res.refocused (.next t) s.focus = .next t := by
  rw [← h]
  exact congrArg Host.Outcome.next (refocus_self t)

end Sys2Proof.Machine
end

-- ==== Tagged instructions ====
section
/-!
SUPPORT. Tagged instructions at home, waiting, and at another core (R98, R114, R115, R164; obligation O13).
-/

namespace Sys2Proof.Machine

variable {s : State} {i : Instr} {o : TagOp}

theorem clearWait_eq {c : Core} (h : c.wait = none) : { c with wait := none } = c := by rw [← h]

/-- The close before a closing instruction commits, and makes the instruction a region of its own (R98). -/
theorem closeRegion_eq (s : State) : s.closeRegion = { s.commit s.focus with core := { (s.commit s.focus).core with
    region := ⟨s.core.pc, 0xFFFFFFFE, s.core.region.vmask, s.core.regs, s.core.tsw, s.core.traps⟩ } } := by
  simp only [State.closeRegion, State.onCore, Core.openRegion, commit_core]
  rfl

theorem closeRegion_core (s : State) : s.closeRegion.core = { s.core.afterCommit (s.ctxOn s.focus) with
    region := ⟨s.core.pc, 0xFFFFFFFE, s.core.region.vmask, s.core.regs, s.core.tsw, s.core.traps⟩ } := by
  rw [closeRegion_eq, commit_core]

/-! ## At issue (R98, R114, R115) -/

/-- The state in which a tagged operation acts: a closing one has closed the region. -/
def State.tagEntered (s : State) (o : TagOp) : State := if o.kind.closes then s.closeRegion else s

theorem tagEntered_focus (s : State) (o : TagOp) : (s.tagEntered o).focus = s.focus := by
  unfold State.tagEntered
  split
  · exact closeRegion_focus s
  · rfl

theorem tagEntered_tag (s : State) (o : TagOp) (a : Nat) : (s.tagEntered o).core.tag a = s.core.tag a := by
  unfold State.tagEntered
  split
  · rw [closeRegion_core]; rfl
  · rfl

/-- An instruction waits in its core. -/
def State.waitingIn (s : State) (k : WaitKind) (i : Instr) : State := { s with core := { s.core with wait := some ⟨k, i⟩ } }

theorem not_held (h : o.kind.closes = true → s.core.rep = none) : ¬(o.kind.closes = true ∧ (!s.core.canCommit) = true) := by
  rintro ⟨hc, hn⟩
  rw [Core.canCommit, h hc] at hn
  exact absurd hn (by decide)

theorem tagIssue_self (ho : s.tagOp i = some o) (ht : o.tgt = none) (hal : la o.ea % 8 = 0) (hown : s.mayReach (la o.ea) 8 = true)
    (hrep : o.kind.closes = true → s.core.rep = none) :
    s.tagIssue i = if o.kind.ready (s.core.tag (la o.ea)) then .next ((s.tagEntered o).tagDone (s.tagEntered o).focus o)
      else .next ((s.tagEntered o).waitingIn .tagged i) := by
  unfold State.tagIssue
  simp only [ho, ht, hown, Bool.not_true, Bool.false_eq_true, if_false, if_neg (not_held hrep), hal, ne_eq, not_true_eq_false]
  rw [← tagEntered_tag s o]
  rfl

/-- A tagged instruction at its own core performs where its tag allows it. -/
theorem tagIssue_ready (i : Instr) (o : TagOp) (ho : s.tagOp i = some o) (ht : o.tgt = none) (hal : la o.ea % 8 = 0)
    (hown : s.mayReach (la o.ea) 8 = true) (hrep : o.kind.closes = true → s.core.rep = none)
    (hr : o.kind.ready (s.core.tag (la o.ea)) = true) : s.tagIssue i = .next ((s.tagEntered o).tagDone (s.tagEntered o).focus o) :=
  (tagIssue_self ho ht hal hown hrep).trans (if_pos hr)

/-- It waits where its tag does not allow it. -/
theorem tagIssue_waits (i : Instr) (o : TagOp) (ho : s.tagOp i = some o) (ht : o.tgt = none) (hal : la o.ea % 8 = 0)
    (hown : s.mayReach (la o.ea) 8 = true) (hrep : o.kind.closes = true → s.core.rep = none)
    (hr : o.kind.ready (s.core.tag (la o.ea)) = false) : s.tagIssue i = .next ((s.tagEntered o).waitingIn .tagged i) :=
  (tagIssue_self ho ht hal hown hrep).trans (if_neg (Bool.eq_false_iff.1 hr))

/-- A tagged instruction that names another core waits. -/
theorem tagIssue_other (i : Instr) (o : TagOp) {n : DWord} {other : CoreId} (ho : s.tagOp i = some o) (ht : o.tgt = some n) (hal : la o.ea % 8 = 0)
    (hn : s.nameCore s.focus n = .other other) (hrep : s.core.rep = none) :
    s.tagIssue i = .next ((s.tagEntered o).waitingIn (.remote false) i) := by
  unfold State.tagIssue
  simp only [ho, ht, hn, if_neg (not_held fun _ => hrep), hal, ne_eq, not_true_eq_false, if_false]
  rfl

/-! ## What it does (R98, R114) -/

theorem dw_toNat_eq_ite (b : Bool) : dw b.toNat = if b then 1 else 0 := by cases b <;> rfl

/-- An instruction of 8 bytes that closes: a new region opens after it. -/
def State.reopened (s : State) (vmask : Word) (pc : LAddr) : State :=
  { s with core := { s.core with pc := pc, wait := none, region := ⟨pc, 0xFFFFFFFE, vmask, s.core.regs, s.core.tsw, s.core.traps⟩ } }

/-- What a tagged operation reads at its own core. -/
def State.tagValue (s : State) (o : TagOp) : DWord :=
  if o.kind.loads then dwOf (s.localBytes (la o.ea) 8) else (o.perform s.core).2

theorem tagDone_self (s : State) (o : TagOp) :
    s.tagDone s.focus o = (({ s with core := (o.perform s.core).1 } : State).ws o.d (s.tagValue o)).finish o.kind.closes 8 := by
  unfold State.tagDone State.tagValue
  simp [coreAt_focus, setCore_focus]

/-- A tagged operation that closes no region completes as any instruction of 8 bytes. -/
theorem tagDone_open (hw : s.core.wait = none) (hc : o.kind.closes = false) :
    s.tagDone s.focus o = ({ s with core := (o.perform s.core).1 } : State).afterS o.d (s.tagValue o) 8 := by
  have hp : (o.perform s.core).1.wait = none := by
    obtain ⟨k, ea, tgt, data, d⟩ := o
    cases k <;> exact hw
  rw [tagDone_self, hc]
  simp only [State.finish, Bool.false_eq_true, if_false, State.onCore]
  rw [clearWait_eq (c := ((({ s with core := (o.perform s.core).1 } : State).ws o.d (s.tagValue o)).adv 8).core) hp]
  rfl

/-- A tagged operation that closes the region changes bytes and tags of its core, and the region after it is a new one. -/
theorem tagDone_closing {mem : Mem} {tags : Sparse Bool} (hc : o.kind.closes = true)
    (hp : (o.perform s.closeRegion.core).1 = { s.closeRegion.core with mem := mem, tags := tags }) :
    s.closeRegion.tagDone s.closeRegion.focus o = (({ s.commit s.focus with core := { (s.commit s.focus).core with mem := mem, tags := tags } } : State).afterS
      o.d (s.closeRegion.tagValue o) 0).reopened s.core.region.vmask (laFrom s.core.pc 8) := by
  rw [tagDone_self, hp, hc, show laFrom s.core.pc 8 = s.core.pc + BitVec.ofNat 18 8 from laFrom_nat _ 8]
  generalize s.closeRegion.tagValue o = v
  simp only [closeRegion_eq, commit_core]
  rfl

/-! ## At another core -/

theorem tagDone_other {home : CoreId} (h : home ≠ s.focus) : s.tagDone home o
    = (({ s with others := Sparse.put s.others home.key (o.perform (s.coreAt home)).1 } : State).ws o.d (o.perform (s.coreAt home)).2).finish
      o.kind.closes 8 := by
  have hb : (home == s.focus) = false := beq_eq_false_iff_ne.2 h
  simp only [State.tagDone, hb, Bool.and_false, Bool.false_eq_true, if_false, State.setCore, if_neg h]

theorem tagDone_focus (s : State) (home : CoreId) (o : TagOp) : (s.tagDone home o).focus = s.focus :=
  setCore_focusEq s home _

/-- What a tagged operation does at another core and at the one that executes; no third core changes. -/
theorem tagDone_does {home : CoreId} (hne : home ≠ s.focus) {h' : Core} {v : DWord} {closes : Bool}
    (hp : o.perform (s.coreAt home) = (h', v)) (hc : o.kind.closes = closes) :
    let t := s.tagDone home o
    let c := (s.afterS o.d v 8).core
    t.coreAt home = h' ∧ t.core = { c with
      wait := none
      region := if closes then ⟨c.pc, 0xFFFFFFFE, c.region.vmask, c.regs, c.tsw, c.traps⟩ else c.region }
    ∧ t = { s with core := t.core, others := t.others }
    ∧ ∀ y, y ≠ home → y.key ≠ home.key → y ≠ s.focus → t.coreAt y = s.coreAt y := by
  intro t c
  have ht : t = (({ s with others := Sparse.put s.others home.key h' } : State).ws o.d v).finish closes 8 := by
    rw [← hc, ← show (o.perform (s.coreAt home)).1 = h' from congrArg Prod.fst hp, ← show (o.perform (s.coreAt home)).2 = v from congrArg Prod.snd hp]
    exact tagDone_other hne
  have hfocus : t.focus = s.focus := tagDone_focus s home o
  have hothers : t.others = Sparse.put s.others home.key h' := by rw [ht]; rfl
  refine ⟨?_, ?_, ?_, fun y hy hyk hyf => ?_⟩
  · rw [State.coreAt, hfocus, if_neg hne, hothers, Sparse.get_put_self]
  · rw [ht]
    cases closes <;> rfl
  · rw [ht]; rfl
  · have hmesh : t.mesh = s.mesh := by rw [ht]; rfl
    rw [State.coreAt, hfocus, if_neg hyf, hothers, Sparse.get_put_ne _ _ _ hyk, hmesh, State.coreAt, if_neg hyf]

/-! ## The events -/

theorem exec_taggedWait_lost {a : Nat} (h : s.tagLost = some a) : exec (.taggedWaitComplete s.focus) s = .next (s.fatal 0x43 3 (dw a)) := by
  change execTaggedWaitComplete s.focus s = _
  simp only [execTaggedWaitComplete, refocus_self, h]
  exact refocused_next (fatal_focus ..)

theorem tagLost_of_tagWait {w : CoreId × TagOp} (h : s.tagWait = some w) : s.tagLost = none := by
  unfold State.tagWait at h
  split at h
  · cases h
  · exact Option.not_isSome_iff_eq_none.1 ‹_›

theorem exec_taggedWait_done {home : CoreId} (h : s.tagWait = some (home, o)) :
    exec (.taggedWaitComplete s.focus) s = .next (s.tagDone home o) := by
  change execTaggedWaitComplete s.focus s = _
  simp only [execTaggedWaitComplete, refocus_self, tagLost_of_tagWait h, h]
  exact refocused_next (tagDone_focus s home o)

theorem exec_taggedWait_waits (h : s.tagWait = none) (hl : s.tagLost = none) : exec (.taggedWaitComplete s.focus) s = .next s := by
  change execTaggedWaitComplete s.focus s = _
  simp only [execTaggedWaitComplete, refocus_self, hl, h]
  exact refocused_next rfl

/-- A remote tagged access reaches its target, where a window lets it in or all turn it away (R115, R127). -/
theorem exec_remoteTagged (hw : s.core.wait = some ⟨.remote false, i⟩) (ho : s.tagOp i = some o) (hne : s.tagHome o ≠ s.focus) :
    exec (.remoteAccessRequest s.focus) s = if s.admits (s.tagHome o) permT (s.lciOf s.focus) s.ctx (la o.ea) 8 then
        (if o.kind.ready ((s.coreAt (s.tagHome o)).tag (la o.ea)) then .next (s.tagDone (s.tagHome o) o) else .next (s.waitingIn (.remote true) i))
      else .next (s.fatal 0x44 4 0) := by
  change execRemoteAccessRequest s.focus s = _
  simp only [execRemoteAccessRequest, refocus_self, hw, ho, ne_eq, hne, not_false_eq_true, true_and]
  split
  · split
    · exact refocused_next (tagDone_focus ..)
    · exact refocused_next rfl
  · exact refocused_next (fatal_focus ..)

/-- Settles O13: at issue by `tagIssue_self` and `tagIssue_other`, what is done by `tagDone_open`, `tagDone_closing` and `tagDone_does`. -/
theorem taggedAccesses : Obligations.TaggedAccesses := by
  unfold Obligations.TaggedAccesses
  refine ⟨fun s d a b i full => ?_, fun s d a b c i x other => ?_, fun s i o hw ho hne => ?_, closeRegion_eq, fun s home o hne _ => ?_⟩
  · intro ea p word closed hal hown hwait
    have hword (u : State) : dwOf (u.localBytes p 8) = word (u.localBytes p 8) := congrArg dw (natOf_eq _)
    refine ⟨fun htag => ⟨⟨_, localBytes_mayRead s p 8, ?_⟩, fun hrep => ⟨_, localBytes_mayRead s.closeRegion p 8, ?_⟩⟩, fun htag hrep => ?_, ?_, ?_⟩
    · refine (tagIssue_ready (.ldfp none d a i) ⟨.ldfp, ea, none, 0, d⟩ rfl rfl hal hown (fun h => nomatch h) htag).trans ?_
      rw [← hword]
      exact congrArg Host.Outcome.next (tagDone_open hwait rfl)
    · refine (tagIssue_ready (.ldf none d a i) ⟨.ldf, ea, none, 0, d⟩ rfl rfl hal hown (fun _ => hrep) htag).trans ?_
      rw [← hword]
      exact congrArg Host.Outcome.next (tagDone_closing rfl rfl)
    · refine (tagIssue_ready (.ste a b i) ⟨.ste, ea, none, s.rs b, 0⟩ rfl rfl hal hown (fun _ => hrep) (congrArg Bool.not htag)).trans ?_
      exact congrArg Host.Outcome.next (tagDone_closing rfl rfl)
    · refine (tagIssue_ready (.tagw full none a i) ⟨.tagw full, ea, none, 0, 0⟩ rfl rfl hal hown (fun h => nomatch h) rfl).trans ?_
      exact congrArg Host.Outcome.next (tagDone_open hwait rfl)
    · refine (tagIssue_ready (.tagr none d a i) ⟨.tagr, ea, none, 0, d⟩ rfl rfl hal hown (fun h => nomatch h) rfl).trans ?_
      rw [← dw_toNat_eq_ite]
      exact congrArg Host.Outcome.next (tagDone_open hwait rfl)
  · intro ea p waiting hrep
    refine ⟨fun hal hown htag => ⟨?_, ?_⟩, fun hal hown htag => ?_, fun hal hn => ⟨?_, ?_, ?_, ?_⟩, fun hal hn => ?_,
      fun home o => exec_taggedWait_done, fun hl hw => exec_taggedWait_waits hw hl, fun a => exec_taggedWait_lost⟩
    · exact tagIssue_waits (.ldfp none d a i) ⟨.ldfp, ea, none, 0, d⟩ rfl rfl hal hown (fun h => nomatch h) htag
    · exact tagIssue_waits (.ldf none d a i) ⟨.ldf, ea, none, 0, d⟩ rfl rfl hal hown (fun _ => hrep) htag
    · exact tagIssue_waits (.ste a b i) ⟨.ste, ea, none, s.rs b, 0⟩ rfl rfl hal hown (fun _ => hrep) (congrArg Bool.not htag)
    · exact tagIssue_other (.ldfp (some x) d a i) ⟨.ldfp, ea, some (s.rs x), 0, d⟩ rfl rfl hal hn hrep
    · exact tagIssue_other (.ldf (some x) d a i) ⟨.ldf, ea, some (s.rs x), 0, d⟩ rfl rfl hal hn hrep
    · exact tagIssue_other (.tagw true (some x) a i) ⟨.tagw true, ea, some (s.rs x), 0, 0⟩ rfl rfl hal hn hrep
    · exact tagIssue_other (.tagr (some x) d a i) ⟨.tagr, ea, some (s.rs x), 0, d⟩ rfl rfl hal hn hrep
    · exact tagIssue_other (.steRem a b c) ⟨.ste, s.rs a, some (s.rs b), s.rs c, 0⟩ rfl rfl hal hn hrep
  · intro home ok
    rw [exec_remoteTagged hw ho hne]
    exact ⟨fun h hr => (if_pos h).trans (if_pos hr), fun h hr => (if_pos h).trans (if_neg (Bool.eq_false_iff.1 hr)),
      fun h => if_neg (Bool.eq_false_iff.1 h)⟩
  · intro p h t does
    obtain ⟨k, ea, tgt, data, d⟩ := o
    refine ⟨?_, ?_, ?_, ?_, ?_⟩
    · rintro rfl; exact tagDone_does hne rfl rfl
    · rintro rfl; exact tagDone_does hne rfl rfl
    · rintro rfl; exact tagDone_does hne rfl rfl
    · rintro full rfl; exact tagDone_does hne rfl rfl
    · rintro rfl
      exact tagDone_does hne (Prod.ext rfl (dw_toNat_eq_ite _)) rfl

end Sys2Proof.Machine
end

-- ==== Translation events ====
section
/-!
SUPPORT. Misses and their answers, pages that are not resident, page requests and PRQDONE (R332, R338, R344, R347 to R349; obligation
O39).
-/

namespace Sys2Proof.Machine

/-! ## Misses -/

section
variable {k : Core} {n : Nat} {m : Miss} {i : Instr}

theorem missings_of_wait {sent : Bool} (hr : k.rep = none) (hw : k.wait = some ⟨.miss n m sent, i⟩) : k.missings = [(m, sent)] := by
  simp [Core.missings, Core.waits, hr, hw, WaitKind.missOf]

theorem missSent_of_wait (hr : k.rep = none) (hw : k.wait = some ⟨.miss n m false, i⟩) :
    k.missSent m = { k with wait := some ⟨.miss m.id m true, i⟩ } := by
  obtain ⟨⟩ := k
  cases hr
  cases hw
  simp [Core.missSent, WaitKind.missOf]

theorem answered_of_wait {sent : Bool} (es : List TlbEntry) (ns : List (Miss × MissAnswer)) (hr : k.rep = none)
    (hw : k.wait = some ⟨.miss n m sent, i⟩) :
    k.answered m es ns = { k with wait := none, latched := k.latched ++ es, noted := k.noted ++ ns } := by
  obtain ⟨⟩ := k
  cases hr
  cases hw
  simp [Core.answered, WaitKind.missOf]

theorem missings_of_rep {r : Repetition} {sent : Bool} (hw : k.wait = none) (hr : k.rep = some r) (hrw : r.wait = some ⟨.miss n m sent, i⟩) :
    k.missings = [(m, sent)] := by
  simp [Core.missings, Core.waits, hr, hw, hrw, WaitKind.missOf]

theorem answered_of_rep {r : Repetition} {sent : Bool} (es : List TlbEntry) (ns : List (Miss × MissAnswer)) (hw : k.wait = none)
    (hr : k.rep = some r) (hrw : r.wait = some ⟨.miss n m sent, i⟩) :
    k.answered m es ns = { k with rep := some { r with wait := none, latched := r.latched ++ es, noted := r.noted ++ ns } } := by
  obtain ⟨⟩ := k
  cases hw
  cases hr
  simp [Core.answered, WaitKind.missOf, hrw]

end

section
variable {s : State} {id : CoreId} {m : Miss}

theorem exec_missResend {sent : Bool} (h : (s.coreAt id).missings.find? (fun x => !x.2) = some (m, sent)) : exec (.missResend id) s
    = if (s.sendMiss m).2 then .next ((s.sendMiss m).1.modCore id (Core.missSent m)) else .next s := by
  change execMissResend id s = _
  simp only [execMissResend, h]

/-! ## Answers -/

/-- Where no armed job holds the granule, no first write is owed. -/
theorem firstWrite_none {va x : Nat} (h : s.armedJob x va = none) (c : Composed) (kind : Access) : s.firstWrite x va c kind = .none := by
  simp only [State.firstWrite, h, ite_self]

variable (hp : (s.coreAt id).absentPage = none) (hm : s.messageOf id = some m)
include hp hm

section
variable (hin : (m, true) ∈ (s.coreAt id).missings) (hx : s.ctxState m.ctx ≠ 2)
include hin hx

/-- The answer to a miss that its core waits for is what its walk finds. -/
theorem exec_tlbMissAnswer_ok {c : Composed} (hw : (s.closeMiss m).walk id.die m.ctx m.va m.kind = .ok c)
    (hj : (s.closeMiss m).armedJob m.ctx m.va = none) : exec (.tlbMissAnswer id) s
      = .next ((s.closeMiss m).modCore id fun k =>
          (k.fillTlb s.tick ((s.closeMiss m).composedEntry m.ctx m.va c)).answered m [(s.closeMiss m).composedEntry m.ctx m.va c] []) := by
  change execTlbMissAnswer id s = _
  simp [execTlbMissAnswer, hp, hm, hin, hx, hw, firstWrite_none hj]

theorem exec_tlbMissAnswer_denied (hw : (s.closeMiss m).walk id.die m.ctx m.va m.kind = .denied) :
    exec (.tlbMissAnswer id) s = .next ((s.closeMiss m).modCore id (Core.answered m [] [(m, .ends 14)])) := by
  change execTlbMissAnswer id s = _
  simp [execTlbMissAnswer, hp, hm, hin, hx, hw]

theorem exec_tlbMissAnswer_poison {pa : Nat} (hw : (s.closeMiss m).walk id.die m.ctx m.va m.kind = .poison pa)
    (hpa : (s.closeMiss m).ram.poisoned pa = true) :
    exec (.tlbMissAnswer id) s = .next ((s.closeMiss m).modCore id (Core.answered m [] [(m, .ends 6)])) := by
  change execTlbMissAnswer id s = _
  simp [execTlbMissAnswer, hp, hm, hin, hx, hw, hpa]

theorem exec_tlbMissAnswer_absent {h a : Nat} {f : Bool} (hw : (s.closeMiss m).walk id.die m.ctx m.va m.kind = .notResident h a f) :
    exec (.tlbMissAnswer id) s = .next ((s.closeMiss m).modCore id (Core.answered m [] [(m, .absent h a f)])) := by
  change execTlbMissAnswer id s = _
  simp [execTlbMissAnswer, hp, hm, hin, hx, hw]

end

/-- The answer to a miss that its core waits for no longer only leaves the queue (log entry 114). -/
theorem exec_tlbMissAnswer_late (h : (m, true) ∉ (s.coreAt id).missings ∨ s.ctxState m.ctx = 2) :
    exec (.tlbMissAnswer id) s = .next (s.closeMiss m) := by
  have hc : s.ctxState m.ctx = 2 ∨ (!(s.coreAt id).missings.contains (m, true)) = true := by
    rcases h with h | h
    · exact .inr (by simp [h])
    · exact .inl h
  change execTlbMissAnswer id s = _
  simp only [execTlbMissAnswer, hp, hm, if_pos hc]

end


/-! ## Pages that are not resident (R332, R348) -/

section
variable {s : State}

theorem releaseReserved_wants (w : Issuer) (k : EntryKind) : (s.releaseReserved w k).ctxs.wants = s.ctxs.wants := by
  unfold State.releaseReserved
  have hfold (y : Nat → ActorId) (f : ActorRec → ActorRec) (l : List Nat) (t : State) :
      (l.foldl (fun t i => t.modActor (y i) f) t).ctxs = t.ctxs := foldl_leaves State.ctxs (fun _ _ => modActor_ctxs ..) l t
  repeat' split
  all_goals simp [hfold, State.modSuper, State.setSuper, State.onActs, State.enqueueReq, State.onFab]

theorem disown_ctxs (id : CoreId) : (s.disown id).ctxs = s.ctxs := by
  unfold State.disown
  split <;> rfl

theorem discardRegion_wants (id : CoreId) : (s.discardRegion id).ctxs.wants = s.ctxs.wants := by
  have hfold : ((s.coreAt id).openB.foldl (fun t e => t.releaseReserved e.who e.kind) (s.disown id)).ctxs.wants = s.ctxs.wants :=
    (foldl_leaves (·.ctxs.wants) (fun _ _ => releaseReserved_wants ..) _ _).trans (congrArg Ctxs.wants (disown_ctxs id))
  unfold State.discardRegion
  split
  · exact (congrArg Ctxs.wants (setCore_ctxs ..)).trans hfold
  · exact (congrArg Ctxs.wants (setCore_ctxs ..)).trans hfold

/-- An abort of a firing leaves the page requests, its core idle, and its slot in the state asked for (R97). -/
theorem abort_firing {id : CoreId} {sl : Nat} (hrun : (s.coreAt id).run = .firing sl) (st : SlotState) :
    (s.abort id st).ctxs.wants = s.ctxs.wants ∧ ((s.abort id st).coreAt id).run = .idle
      ∧ (((s.abort id st).coreAt id).slotAt sl).st = st := by
  simp only [State.abort, hrun]
  split
  · refine ⟨(congrArg Ctxs.wants (modCore_ctxs ..)).trans (discardRegion_wants id), ?_, ?_⟩
    · exact congrArg Core.run (coreAt_modCore ..)
    · exact (congrArg (fun c => (Core.slotAt c sl).st) (coreAt_modCore ..)).trans (congrArg Slot.st (slotAt_setSlot_self ..))
  · refine ⟨(congrArg Ctxs.wants (modCore_ctxs ..)).trans (discardRegion_wants id), congrArg Core.run (coreAt_modCore ..), ?_⟩
    exact (congrArg (fun c => (Core.slotAt c sl).st) (coreAt_modCore ..)).trans (congrArg Slot.st (slotAt_setSlot_self ..))

/-! ### The engine's writes of a save area -/

/-- The context engine, and what every core runs and holds in its slots, are as before. -/
def State.SameRuns (s t : State) : Prop :=
  t.ctxs = s.ctxs ∧ ∀ y, (t.coreAt y).run = (s.coreAt y).run ∧ (t.coreAt y).slots = (s.coreAt y).slots

theorem State.SameRuns.refl : s.SameRuns s := ⟨rfl, fun _ => ⟨rfl, rfl⟩⟩

theorem State.SameRuns.trans {t u : State} (h : s.SameRuns t) (h' : t.SameRuns u) : s.SameRuns u :=
  ⟨h'.1.trans h.1, fun y => ⟨(h'.2 y).1.trans (h.2 y).1, (h'.2 y).2.trans (h.2 y).2⟩⟩

theorem State.SameRuns.foldl {α : Type} {f : State → α → State} (hf : ∀ (t : State) x, t.SameRuns (f t x)) (l : List α) (t : State) :
    t.SameRuns (l.foldl f t) := by
  induction l generalizing t with
  | nil => exact .refl
  | cons x l ih => exact (hf t x).trans (ih _)

/-- What a change keeps of every entry, and of the default, it keeps of every read. -/
theorem Sparse.get_map {α β : Type} {f : Nat × α → α} {g : α → β} (hf : ∀ e, g (f e) = g e.2) (d : α) (m : Sparse α) (k : Nat) :
    g (Sparse.get d (m.map fun e => (e.1, f e)) k) = g (Sparse.get d m k) := by
  induction m with
  | nil => rfl
  | cons e m ih =>
    simp only [List.map_cons, Sparse.get]
    split
    · exact hf e
    · exact ih

theorem mapCores_coreAt {β : Type} {f : CoreId → Core → Core} (g : Core → β) (hf : ∀ y k, g (f y k) = g k) (y : CoreId) :
    g ((s.mapCores f).coreAt y) = g (s.coreAt y) := by
  unfold State.coreAt
  by_cases hy : y = s.focus
  · rw [if_pos hy, if_pos (show y = (s.mapCores f).focus from hy)]
    exact hf s.focus s.core
  · rw [if_neg hy, if_neg (show ¬ y = (s.mapCores f).focus from hy)]
    exact Sparse.get_map (fun e => hf (CoreId.ofKey e.1) e.2) ..

theorem mapCores_sameRuns {f : CoreId → Core → Core} (hrun : ∀ y k, (f y k).run = k.run) (hslots : ∀ y k, (f y k).slots = k.slots) :
    s.SameRuns (s.mapCores f) :=
  ⟨rfl, fun y => ⟨mapCores_coreAt Core.run hrun y, mapCores_coreAt Core.slots hslots y⟩⟩

theorem onRam_sameRuns (f : Ram → Ram) : s.SameRuns (s.onRam f) := ⟨rfl, fun _ => ⟨rfl, rfl⟩⟩

theorem onActs_sameRuns (f : Actors → Actors) : s.SameRuns (s.onActs f) := ⟨rfl, fun _ => ⟨rfl, rfl⟩⟩

theorem firstWrite_sameRuns {x va : Nat} {c : Composed} {kind : Access} {t : State} (h : s.firstWrite x va c kind = .taken t) :
    s.SameRuns t := by
  unfold State.firstWrite at h
  dsimp only at h
  split at h
  · cases h
  split at h
  · cases h
  split at h
  · cases h
  split at h
  · cases h
  · cases h
    exact ((onRam_sameRuns _).trans (onActs_sameRuns _)).trans (mapCores_sameRuns (fun _ _ => rfl) fun _ _ => rfl)

theorem intoOrder_sameRuns {die : Nat} {o : PortOp} {t : State} (h : s.intoOrder die o = some t) : s.SameRuns t := by
  unfold State.intoOrder at h
  split at h
  · cases h
  · cases h
    exact .refl

theorem engPut_sameRuns {die : Nat} {w : LateWrite} {t : State} (ht : s.engPut die w = some t) : s.SameRuns t := by
  unfold State.engPut at ht
  split at ht
  · cases ht
  · split at ht
    · rw [← Option.some.inj ht]
      split <;> exact .refl
    split at ht
    · rw [← Option.some.inj ht]
      split <;> exact .refl
    split at ht
    · rw [← Option.some.inj ht]
      exact .refl
    split at ht
    · cases ht
    · rw [← Option.some.inj ht]
      exact .refl
    · rename_i c _ _ _ _ _ _ _
      have hfirst : s.SameRuns (match s.firstWrite w.ctx w.va c .write with
          | .taken t => t
          | _ => s) := by
        split
        · exact firstWrite_sameRuns ‹_›
        · exact .refl
      dsimp only at ht
      split at ht
      · exact hfirst.trans (intoOrder_sameRuns ht)
      · rw [← Option.some.inj ht]
        exact hfirst
  · rw [← Option.some.inj ht]
    exact .refl

theorem engSend_sameRuns (die : Nat) (w : LateWrite) : s.SameRuns (s.engSend die w) := by
  unfold State.engSend
  dsimp only
  split
  · cases hs : s.engPut die w with
    | none => exact .refl
    | some t => exact engPut_sameRuns hs
  · exact .refl

theorem engWrite_sameRuns (die x n va : Nat) (bs : List Byte) : s.SameRuns (s.engWrite die x n va bs) := by
  induction n generalizing s va bs with
  | zero => exact .refl
  | succ n ih =>
    cases bs with
    | nil => exact .refl
    | cons b bs => exact (engSend_sameRuns ..).trans (ih ..)

theorem saveVectors_sameRuns (id : CoreId) (sl : Nat) : s.SameRuns (s.saveVectors id sl) := by
  unfold State.saveVectors
  dsimp only
  split
  · split
    · exact .refl
    · exact (State.SameRuns.foldl (fun _ _ => engWrite_sameRuns ..) _ _).trans (State.SameRuns.foldl (fun _ _ => engWrite_sameRuns ..) _ _)
  · exact .refl

/-- The page request of a firing in a slot of a core. -/
def State.wantFor (s : State) (id : CoreId) (sl : Nat) (m : Miss) (h a : Nat) (f : Bool) : PageWant :=
  let x := ((s.coreAt id).slotAt sl).actor
  ⟨⟨id, sl, x, (x.map fun y => (s.actor y).gen).getD 0⟩, m.ctx, h, a / 4096 * 4096, f, !f && m.kind != .read, false⟩

/-- A page that is not resident parks the firing that waits for it (R332, R348). -/
theorem exec_tlbMissAnswer_parks {id : CoreId} {m : Miss} {h a sl : Nat} {f : Bool} (hp : (s.coreAt id).absentPage = some (m, h, a, f))
    (hrun : (s.coreAt id).run = .firing sl) : ∃ t, exec (.tlbMissAnswer id) s = .next t ∧ (t.coreAt id).run = .idle
      ∧ ((t.coreAt id).slotAt sl).st = .parked ∧ t.ctxs.wants = s.ctxs.wants ++ [s.wantFor id sl m h a f] := by
  have hexec : exec (.tlbMissAnswer id) s = .next (((s.abort id .parked).saveVectors id sl).onCtxs fun x =>
      { x with wants := x.wants ++ [s.wantFor id sl m h a f] }) := by
    change execTlbMissAnswer id s = _
    simp only [execTlbMissAnswer, hp, State.notResident, hrun]
    rfl
  obtain ⟨hwants, hidle, hst⟩ := abort_firing (s := s) hrun .parked
  obtain ⟨hctxs, hcores⟩ := saveVectors_sameRuns (s := s.abort id .parked) id sl
  obtain ⟨hrun', hslots⟩ := hcores id
  refine ⟨_, hexec, hrun'.trans hidle, (congrArg (fun m => (Sparse.get Slot.none m sl).st) hslots).trans hst, ?_⟩
  simp only [State.onCtxs, hctxs, hwants]

end

/-! ## Page requests (R347, R348) -/

section
variable {s : State} {w : PageWant} {id : CoreId}

/-- The same page for the same handler, for a walk or for an access. -/
def PageWant.sameAs (w : PageWant) (e : PageReq) : Bool := e.handler == w.handler && e.addr == w.addr && e.walk == w.walk

theorem exec_pageRequest (h : s.ctxs.wants.find? (fun v => decide (v.who.core = id) && !v.returned) = some w) :
    exec (.pageRequest id) s = .next (s.offerRequest w) := by
  change execPageRequest id s = _
  simp only [execPageRequest, h]

theorem exec_pageRequestRetry (h : s.ctxs.wants.find? (fun v => decide (v.who.core = id) && v.returned) = some w) :
    exec (.pageRequestRetry id) s = .next (s.offerRequest w) := by
  change execPageRequestRetry id s = _
  simp only [execPageRequestRetry, h]

section
variable (hw : w.who.actor = none)
include hw

theorem offerRequest_joins (h : s.ctxs.prq.any w.sameAs = true) : s.offerRequest w
    = { s with ctxs := { s.ctxs with
        wants := s.ctxs.wants.filter (· != w)
        prq := s.ctxs.prq.map fun e =>
          if w.sameAs e && !e.waiters.contains w.who then { e with waiters := e.waiters ++ [w.who] } else e } } := by
  unfold PageWant.sameAs at h
  simp only [State.offerRequest, hw, h, if_true, Bool.false_eq_true, if_false]
  rfl

theorem offerRequest_returns (h : s.ctxs.prq.any w.sameAs = false) (ha : s.prqAdmit w = none) : s.offerRequest w
    = { s with ctxs := { s.ctxs with wants := s.ctxs.wants.filter (· != w) ++ [{ w with returned := true }] } } := by
  unfold PageWant.sameAs at h
  simp only [State.offerRequest, hw, h, ha, Bool.false_eq_true, if_false]
  rfl

theorem offerRequest_opens {shared : Bool} {i : Nat} (h : s.ctxs.prq.any w.sameAs = false) (ha : s.prqAdmit w = some shared)
    (hi : (List.range 1024).find? (fun i => !s.ctxs.prq.any fun e => e.id == i) = some i) : s.offerRequest w
    = { s with ctxs := { s.ctxs with
        wants := s.ctxs.wants.filter (· != w)
        prq := s.ctxs.prq ++ [⟨i, w.handler, w.addr, w.walk, w.write, s.partitionOf w.ctx, shared, w.ctx, [w.who], none⟩]
        traps := s.ctxs.traps ++ [⟨w.handler, 0x80, i + 2 ^ 10 * w.walk.toNat + 2 ^ 12 * w.write.toNat, dw w.addr, 0,
          s.lciOf w.who.core, none⟩] } } := by
  unfold PageWant.sameAs at h
  simp only [State.offerRequest, hw, h, ha, hi, Bool.false_eq_true, if_false]
  rfl

end

/-- The lowest free identifier of the page-request queue. -/
theorem freeRequest_lowest {i : Nat} (hi : i < 1024) (hfree : ∀ e ∈ s.ctxs.prq, e.id ≠ i)
    (hlow : ∀ j, j < i → ∃ e ∈ s.ctxs.prq, e.id = j) :
    (List.range 1024).find? (fun i => !s.ctxs.prq.any fun e => e.id == i) = some i := by
  rw [List.find?_range_eq_some]
  refine ⟨?_, List.mem_range.2 hi, fun j hj => ?_⟩
  · simpa using hfree
  · simpa using hlow j hj

/-! ## PRQDONE (R349) -/

section
variable {e : PageReq} {v : Waiter}

theorem wakeSlot_hub (h : v.slot = 64) : s.wakeSlot v = s.modCore v.core fun c => { c with wait := none } := by
  simp only [State.wakeSlot, h, if_true]

theorem wakeSlot_parked {x : ActorId} (h64 : v.slot ≠ 64) (hx : v.actor = some x) (hp : ((s.coreAt v.core).slotAt v.slot).st = .parked)
    (ha : ((s.coreAt v.core).slotAt v.slot).actor = some x) (hg : (s.actor x).gen = v.gen) :
    s.wakeSlot v = s.modCore v.core fun c => c.setSlot v.slot { (s.coreAt v.core).slotAt v.slot with st := .waiting } := by
  simp [State.wakeSlot, State.modCore, h64, hx, hp, ha, hg]

theorem wakeSlot_gone {x : ActorId} (h64 : v.slot ≠ 64) (hx : v.actor = some x) (hg : (s.actor x).gen ≠ v.gen) :
    s.wakeSlot v = s.modCore v.core fun c => c := by
  simp [State.wakeSlot, h64, hx, hg]

section
variable {x : ActorId} (hslot : v.slot < 64) (hx : v.actor = some x)
include hslot hx

theorem denySlot_stale (h : (s.actor x).gen ≠ v.gen ∨ s.inSlot x = true ∧ ((s.coreAt v.core).slotAt v.slot).st ≠ .parked) :
    s.denySlot e v = s := by
  have h65 : v.slot ≠ 65 := by omega
  have h64 : v.slot ≠ 64 := by omega
  simp only [State.denySlot, hx, if_neg h65, if_neg h64]
  refine if_pos (h.imp_right fun ⟨hin, hp⟩ => ?_)
  simpa [hin] using hp

theorem denySlot_away (hg : (s.actor x).gen = v.gen) (hin : s.inSlot x = false) : s.denySlot e v = s.kill x 14 := by
  have h65 : v.slot ≠ 65 := by omega
  have h64 : v.slot ≠ 64 := by omega
  simp [State.denySlot, hx, h65, h64, hg, hin]

/-- A denied actor that waits in its slot ends, and its fault may be reported to its handler (R116). -/
theorem denySlot_parked (hg : (s.actor x).gen = v.gen) (hp : ((s.coreAt v.core).slotAt v.slot).st = .parked) :
    s.denySlot e v = s.kill x 14 ∨ ∃ r : Resume, s.denySlot e v = (s.kill x 14).reportFault v.core x r.rcd.tsw 0x4E := by
  have h65 : v.slot ≠ 65 := by omega
  have h64 : v.slot ≠ 64 := by omega
  simp only [State.denySlot, hx, if_neg h65, if_neg h64]
  rw [if_neg (by simp [hg, hp])]
  split
  next r _ => exact .inr ⟨r, rfl⟩
  next => exact .inl rfl

end

theorem reportFault_actor (id : CoreId) (x y : ActorId) (t : Tsw) (code : Nat) : (s.reportFault id x t code).actor y = s.actor y := by
  unfold State.reportFault
  split
  · rfl
  · split <;> rfl

/-- An actor of this device that ends leaves with its reason (R290). -/
theorem kill_resident {x : ActorId} (hst : (s.actor x).st = .resident) (hdev : (s.actor x).dev = 0) (hsup : (s.super x).sup = false)
    (reason : Nat) : ((s.kill x reason).actor x).st = .leaving ∧ ((s.kill x reason).actor x).xreason = reason := by
  have hone : s.kill x reason = s.killOne x reason false := by simp [State.kill, State.killN, hsup]
  rw [hone]
  simp [State.killOne, hst, hdev]

/-! ### The fold over one waiter -/

theorem prqdone_none {issuer : Nat} {d : DWord} (h : s.ctxs.prq.find? (fun e => e.id == (d.extractLsb' 0 10).toNat) = none) :
    s.prqdone issuer d = s := by
  rw [extractLsb'_toNat_eq_bitsAt] at h
  simp only [State.prqdone, h]

/-- May the handler of a context complete an entry: the context its trap reached is its own or a descendant (R349)? -/
def State.mayComplete (s : State) (issuer : Nat) (e : PageReq) : Prop :=
  ∃ y, e.receiver = some y ∧ (y = issuer ∨ s.inSubtree issuer y = true)

section
variable {issuer : Nat} {d : DWord} (h : s.ctxs.prq.find? (fun e => e.id == (d.extractLsb' 0 10).toNat) = some e)
include h

theorem prqdone_refused (hm : ¬ s.mayComplete issuer e) : s.prqdone issuer d = s := by
  rw [extractLsb'_toNat_eq_bitsAt] at h
  simp only [State.prqdone, h]
  refine if_neg fun hc => hm ?_
  split at hc
  next y hy => exact ⟨y, hy, by simpa using hc⟩
  next => cases hc

theorem prqdone_performed (hm : s.mayComplete issuer e) (hw : e.waiters = [v]) : s.prqdone issuer d
    = (if d.getLsbD 10 then State.denySlot e else State.wakeSlot)
        { s with ctxs := { s.ctxs with prq := s.ctxs.prq.filter fun x => x.id != (d.extractLsb' 0 10).toNat } } v := by
  rw [extractLsb'_toNat_eq_bitsAt] at h ⊢
  obtain ⟨y, hy, hissuer⟩ := hm
  simp only [State.prqdone, h, hy]
  refine (if_pos (by simpa using hissuer)).trans ?_
  rw [hw]
  rfl

end

end

end

/-- Settles O39: the events of a miss and of a page request by what the queues hold, and PRQDONE by the waiter of its entry. -/
theorem translationEvents : Obligations.TranslationEvents := by
  unfold Obligations.TranslationEvents
  refine ⟨fun s id m w => ?_, fun s issuer d e v => ?_⟩
  · intro q c
    refine ⟨fun sent hfind => ⟨fun hroom => ?_, fun hfull => ?_⟩, fun k n i es ns => ⟨fun hr hw => ?_, fun r hw hr hrw => ?_⟩,
      fun hp hm => ?_, fun h a f sl x hp hrun hx => ?_, fun hid hact => ?_, rfl⟩
    · rw [exec_missResend hfind, sendMiss_room hroom]
      rfl
    · rw [exec_missResend hfind, sendMiss_full hfull]
      rfl
    · exact ⟨missings_of_wait hr hw, missSent_of_wait hr hw, answered_of_wait es ns hr hw⟩
    · exact ⟨missings_of_rep hw hr hrw, answered_of_rep es ns hw hr hrw⟩
    · intro u told
      refine ⟨exec_tlbMissAnswer_late hp hm, fun hin hx => ⟨fun x hwalk hjob => ?_, fun hwalk => ?_, fun pa hwalk hpa => ?_,
        fun h a f hwalk => ?_⟩⟩
      · exact exec_tlbMissAnswer_ok hp hm hin hx hwalk hjob
      · exact exec_tlbMissAnswer_denied hp hm hin hx hwalk
      · exact exec_tlbMissAnswer_poison hp hm hin hx hwalk hpa
      · exact exec_tlbMissAnswer_absent hp hm hin hx hwalk
    · obtain ⟨t, hexec, hidle, hpark, hwants⟩ := exec_tlbMissAnswer_parks hp hrun
      refine ⟨t, hexec, hidle, hpark, hwants.trans ?_⟩
      simp [State.wantFor, show ((s.coreAt id).slotAt sl).actor = some x from hx]
    · intro u same offered join
      have offers {t : State} (h : s.offerRequest w = t) : offered (.next t) :=
        ⟨fun hf => (exec_pageRequest hf).trans (congrArg _ h), fun hf => (exec_pageRequestRetry hf).trans (congrArg _ h)⟩
      refine ⟨fun h => offers (offerRequest_joins hact h), fun h ha => offers (offerRequest_returns hact h ha),
        fun shared i h ha hi hfree hlow => offers ?_⟩
      rw [offerRequest_opens hact h ha (freeRequest_lowest hi hfree hlow), hid]
  · intro id found may u sl
    refine ⟨prqdone_none, fun h hm => prqdone_refused h hm, fun h hm hw => ?_⟩
    have hdone := prqdone_performed h hm hw
    refine ⟨fun hd => ?_, fun hd x hslot hx => ?_⟩
    · rw [hd] at hdone
      refine ⟨fun h64 => hdone.trans (wakeSlot_hub h64), fun x hslot hx hp ha hg => ?_, fun x hslot hx hg => ?_⟩
      · exact hdone.trans (wakeSlot_parked (Nat.ne_of_lt hslot) hx hp ha hg)
      · exact hdone.trans (wakeSlot_gone (Nat.ne_of_lt hslot) hx hg)
    · rw [hd] at hdone
      refine ⟨fun hg => hdone.trans (denySlot_stale hslot hx (.inl hg)),
        fun hg hin hp => hdone.trans (denySlot_stale hslot hx (.inr ⟨hin, hp⟩)),
        fun hg hin => hdone.trans (denySlot_away hslot hx hg hin), fun hg hin hp => ⟨_, rfl, fun hst hdev hsup => ?_⟩⟩
      have hkill := kill_resident (s := u) hst hdev hsup 14
      rcases denySlot_parked (s := u) (e := e) hslot hx hg hp with hdeny | ⟨r, hdeny⟩
      · rw [hdone.trans hdeny]
        exact hkill
      · rw [hdone.trans hdeny, reportFault_actor]
        exact hkill

end Sys2Proof.Machine
end

-- ==== Engine events ====
section
/-!
SUPPORT. What the firing unit, the context engine and the fabric interface do completes (obligation O58): what the operations that close an
event leave of the part that its completion shows.
-/

namespace Sys2Proof.Machine

variable {s : State}

/-! ## What the context operations leave -/

section
variable (s) (id : CoreId) (x : Nat) (t : Nat → Bool)

@[simp] theorem startOn_ctxs : (s.startOn id x).ctxs = s.ctxs := modCore_ctxs ..
@[simp] theorem leaveStrands_ctxs : (s.leaveStrands id t).ctxs = s.ctxs := modCore_ctxs ..
@[simp] theorem scrubAbsent_ctxs : (s.scrubAbsent id t).ctxs = s.ctxs := modCore_ctxs ..

@[simp] theorem scrubCore_ctxs : (s.scrubCore id t).ctxs = s.ctxs := by
  cases id with
  | work p => exact modCore_ctxs ..
  | _ => rfl

@[simp] theorem syncRotations_ctxs : s.syncRotations.ctxs = s.ctxs := by
  refine foldl_leaves State.ctxs (fun u id => ?_) _ s
  simp only [apply_ite State.ctxs, modCore_ctxs, ite_self]

@[simp] theorem dropSend_ctxs (q : TileCmd) : (s.dropSend id q).ctxs = s.ctxs := by
  unfold State.dropSend
  repeat' split
  all_goals simp

@[simp] theorem dropWaiting_ctxs (bezelToo : Bool) : (s.dropWaiting id t bezelToo).ctxs = s.ctxs := by
  have hdrop (l : List TileCmd) : (l.foldl (fun u q => u.dropSend id q) s).ctxs = s.ctxs :=
    foldl_leaves State.ctxs (fun u q => dropSend_ctxs u id q) l s
  unfold State.dropWaiting
  split
  · exact (modCore_ctxs ..).trans (hdrop _)
  · exact (modCore_ctxs ..).trans (hdrop _)

theorem setCcbField_resizing (y i lo n v : Nat) : (s.setCcbField y i lo n v).ctxs.resizing = s.ctxs.resizing := by
  unfold State.setCcbField State.setCcbWord
  split <;> rfl

end

/-! ## Notices -/

theorem ringWrite_rest (id : CoreId) (i : Nat) (bs : List Byte) {u : State} (h : s.ringWrite id i bs = some u) :
    u.fab = s.fab ∧ u.ctxs.revoking = s.ctxs.revoking ∧ u.ctxs.resizing = s.ctxs.resizing := by
  unfold State.ringWrite at h
  dsimp only at h
  split at h
  · cases h
  · cases h
    simp [State.onCtxs]

/-- A notice leaves the fabric interface, and the revocations and resizes in progress. -/
theorem noticeTo_rest (w : Issuer) (subject : DWord) (code : Nat) (body : List Byte) : (s.noticeTo w subject code body).fab = s.fab
    ∧ (s.noticeTo w subject code body).ctxs.revoking = s.ctxs.revoking
    ∧ (s.noticeTo w subject code body).ctxs.resizing = s.ctxs.resizing := by
  have hring (id : CoreId) (bs : List Byte) : ((s.ringWrite id 1 bs).getD s).fab = s.fab
      ∧ ((s.ringWrite id 1 bs).getD s).ctxs.revoking = s.ctxs.revoking
      ∧ ((s.ringWrite id 1 bs).getD s).ctxs.resizing = s.ctxs.resizing := by
    cases h : s.ringWrite id 1 bs with
    | none => exact ⟨rfl, rfl, rfl⟩
    | some u => exact ringWrite_rest id 1 bs h
  unfold State.noticeTo
  split
  · split <;> exact ⟨rfl, rfl, rfl⟩
  · exact hring _ _

/-! ## The ends of a revocation and of a resize (R368, R380) -/

/-- The context starts of a rotation's cores leave the context engine. -/
theorem foldl_startOn_ctxs {P : State → CoreId → Prop} [∀ u id, Decidable (P u id)] (x : Nat) (l : List CoreId) (u : State) :
    (l.foldl (fun u id => if P u id then u.startOn id x else u) u).ctxs = u.ctxs :=
  foldl_leaves State.ctxs (fun u id => by simp only [apply_ite State.ctxs, startOn_ctxs, ite_self]) l u

/-- Of the revocations in progress, the one that has completed is gone. -/
theorem endRevoke_revoking (x : Nat) : ∃ l : List Revoke, (s.endRevoke x).ctxs.revoking = l.filter fun r => r.ctx != x := by
  have hnotice (l : List Issuer) (u : State) : (l.foldl (fun u w => u.ctxNotice w 10 x 0) u).ctxs.revoking = u.ctxs.revoking :=
    foldl_leaves (·.ctxs.revoking) (fun u w => (noticeTo_rest w _ _ _).2.1) l u
  have hstart (l : List CoreId) (u : State) : (l.foldl (fun u id => u.startOn id (s.ctxParent x)) u).ctxs = u.ctxs :=
    foldl_leaves State.ctxs (fun u id => startOn_ctxs u id _) l u
  exact ⟨_, (hnotice _ _).trans (congrArg Ctxs.revoking ((hstart _ _).trans (syncRotations_ctxs _)))⟩

theorem endResize_resizing (r : Resizing) : (s.endResize r).ctxs.resizing = s.ctxs.resizing.erase r := by
  have hleave (t : Nat → Bool) (l : List CoreId) (u : State) : (l.foldl (fun u id => u.leaveStrands id t) u).ctxs = u.ctxs :=
    foldl_leaves State.ctxs (fun u id => leaveStrands_ctxs u id t) l u
  have hscrub (t : Nat → Bool) (here : CoreId → Bool) (l : List CoreId) (u : State) : (l.foldl (fun u id =>
      if here id then ((u.dropWaiting id t true).scrubCore id t).scrubAbsent id t else u.scrubAbsent id t) u).ctxs = u.ctxs :=
    foldl_leaves State.ctxs (fun u id => by
      simp only [apply_ite State.ctxs, scrubAbsent_ctxs, scrubCore_ctxs, dropWaiting_ctxs, ite_self]) l u
  refine (noticeTo_rest ..).2.2.trans (congrArg Ctxs.resizing ((foldl_startOn_ctxs ..).trans (syncRotations_ctxs _)) |>.trans ?_)
  refine congrArg (List.erase · r) ((setCcbField_resizing ..).trans (congrArg Ctxs.resizing ?_))
  exact (hscrub ..).trans (hleave ..)

/-! ## Trap messages (R364) -/

theorem mailWrite_mcount (x : ActorId) (bs : List Byte) (sc : Scope) :
    ((s.mailWrite x bs sc).actor x).mcount = (s.actor x).mcount + 1 := by
  rw [State.mailWrite, actor_modActor]
  simp only [State.actor, modCore_acts]

/-- A single trap message, held for no handler yet, enters the mailbox its route leads to. -/
theorem exec_trapMessageDelivery {m : TrapMsg} {a : ActorId} (hm : s.ctxs.traps = [m]) (hh : m.holder = none) (hc : m.code ≠ 0x80)
    (hr : s.route 9 m.target = .actor a) : exec .trapMessageDelivery s = .next ((s.mailWrite a m.bytes .core).onCtxs fun c =>
      { c with traps := c.traps.map fun q => if q = m then { q with holder := some a.ctx } else q }) := by
  change execTrapMessageDelivery s = _
  simp [execTrapMessageDelivery, hm, State.nextTrap, State.deliverTrap, hh, hc, hr]

/-! ## Slices (R371 to R379) -/

section
variable {id : CoreId}

theorem exec_savePoint_ends (hp : (s.coreAt id).phase = .ending) (ha : (s.coreAt id).awaitsAtomic = false) :
    ∃ u, exec (.savePoint id) s = .next u ∧ (u.coreAt id).phase ≠ .ending := by
  have hsave (v : State) (forced : Bool) (bm : List Byte) : ((v.saveCore id forced bm).coreAt id).phase ≠ .ending := by
    rw [State.saveCore, coreAt_modCore]
    exact SlicePhase.noConfusion
  have hstart (v : State) : ((v.startHandler id).coreAt id).phase ≠ .ending := by
    rw [State.startHandler, coreAt_modCore]
    exact SlicePhase.noConfusion
  change ∃ u, execSavePoint id s = .next u ∧ _
  simp only [execSavePoint, hp, ha]
  split
  next h => cases h
  next =>
    split
    · exact ⟨_, rfl, hstart _⟩
    · exact ⟨_, rfl, hsave _ _ _⟩

theorem exec_preemptionBudgetExpiry_idle (hp : (s.coreAt id).phase = .handler) :
    ∃ u, exec (.preemptionBudgetExpiry id) s = .next u ∧ (u.coreAt id).run = .idle :=
  ⟨s.forcedSave id, if_pos hp, congrArg Core.run (coreAt_modCore ..)⟩

/-- A core whose context has no save starts as the scrub left it (R375). -/
theorem exec_scrub_fresh (hp : (s.coreAt id).phase = .restoring) (hs : ∀ e ∈ (s.coreAt id).saves, e.1 ≠ (s.coreAt id).ctx) :
    ∃ u, exec (.scrub id) s = .next u ∧ (u.coreAt id).phase = .running := by
  have hnone : (s.coreAt id).saves.find? (fun e => e.1 == (s.coreAt id).ctx) = none := by simpa using hs
  refine ⟨(s.modCore id fun c => { c with phase := .running }).startOn id (s.coreAt id).ctx, ?_, ?_⟩
  · change execScrub id s = _
    simp [execScrub, State.scrubReady, hp, State.restoreCore, hnone]
  · rw [State.startOn, coreAt_modCore, coreAt_modCore]

theorem exec_watchdog_ends (hp : (s.coreAt id).phase = .ending) :
    ∃ u, exec (.watchdog id) s = .next u ∧ (u.coreAt id).phase = .saving false [] true :=
  ⟨_, if_pos hp, congrArg Core.phase (coreAt_modCore ..)⟩

end

/-! ## The fabric interface (R395 to R407) -/

theorem bitsAt_setBits_self {lo n v : Nat} (h : lo + n ≤ 64) (hv : v < 2 ^ n) (x : DWord) : bitsAt lo n (setBits lo n v x) = v := by
  apply Nat.eq_of_testBit_eq
  intro i
  rw [testBit_bitsAt, getLsbD_setBits h]
  by_cases hi : i < n
  · rw [if_pos (by omega), Nat.add_sub_cancel_left]
    simp [hi]
  · have hv' : v < 2 ^ i := lt_of_lt_of_le hv (Nat.pow_le_pow_right (by decide) (Nat.not_lt.1 hi))
    simp [hi, Nat.testBit_lt_two_pow hv']

/-- A field above or below the one that is replaced. -/
theorem bitsAt_setBits_apart {lo n lo' n' v : Nat} (h : lo' + n' ≤ 64) (hap : lo + n ≤ lo' ∨ lo' + n' ≤ lo) (x : DWord) :
    bitsAt lo n (setBits lo' n' v x) = bitsAt lo n x := by
  apply bitsAt_congr
  intro i hlo hhi
  rw [getLsbD_setBits h, if_neg (by omega)]

theorem exec_linkReplay_counts (p : Nat) : ∃ u, exec (.linkReplay p) s = .next u
    ∧ bitsAt 48 16 (Sparse.get 0 u.fab.fbport p) = Nat.min (bitsAt 48 16 (Sparse.get 0 s.fab.fbport p) + 1) 65535 := by
  refine ⟨_, rfl, ?_⟩
  have hcount (v : DWord) : bitsAt 48 16 (setBits 48 16 (sat16 (bitsAt 48 16 v)) (setBits 32 16 (sat16 (bitsAt 32 16 v)) v))
      = sat16 (bitsAt 48 16 v) :=
    bitsAt_setBits_self (by decide) (lt_of_le_of_lt (Nat.min_le_right _ _) (by decide)) _
  have hretrain (c : Prop) [Decidable c] (v : DWord) :
      bitsAt 48 16 (if c then setBits 0 2 1 (setBits 2 4 0 v) else v) = bitsAt 48 16 v := by
    split
    · exact (bitsAt_setBits_apart (by decide) (by decide) _).trans (bitsAt_setBits_apart (by decide) (by decide) _)
    · rfl
  simp only [State.onFab, Sparse.get_set_self]
  exact (hretrain ..).trans (hcount _)

theorem exec_portRetrain_up {p lanes d : Nat} (hp : p < 24) (hv : bitsAt 0 2 (Sparse.get 0 s.fab.fbport p) ≠ 2) :
    ∃ u, exec (.portRetrain p true lanes d) s = .next u ∧ bitsAt 0 2 (Sparse.get 0 u.fab.fbport p) = 2 := by
  refine ⟨_, if_neg (by omega), ?_⟩
  simp only [if_true, State.onFab, Sparse.get_set_self]
  exact bitsAt_setBits_self (by decide) (by decide) _

theorem peerLost_fab (d : Nat) (x : ActorId) : (s.peerLost d x).fab = s.fab := by
  refine foldl_leaves State.fab (fun u l => ?_) _ _
  split <;> rfl

/-- The loss of a device to which nothing is out is marked in its domain entry (R398). -/
theorem deviceLost_marks {d : Nat} (ho : s.fab.outs = []) (hp : s.fab.pending = []) (hs : s.fab.strandUps = []) :
    (Sparse.get 0 (s.deviceLost d).fab.fbdom d).getLsbD 62 = true := by
  have hfab (l : List ActorId) (u : State) : (l.foldl (fun t x =>
      if (t.actor x).st.alive ∧ (t.actor x).dev = 0 then t.peerLost d x else t) u).fab = u.fab :=
    foldl_leaves State.fab (fun u x => by simp only [apply_ite State.fab, peerLost_fab, ite_self]) l u
  simp only [State.deviceLost, ho, hp, hs, State.roundsDown, List.filter_nil, List.foldl_nil, hfab, State.onFab, Sparse.get_set_self]
  rw [getLsbD_setBits (by decide), if_pos (by decide)]
  decide

theorem strandDeliver_fab (n : StrandNode) (k : Nat) (v : StrandVal) : (s.strandDeliver n k v).fab = s.fab :=
  foldl_leaves State.fab (fun _ _ => modCore_fab ..) _ _

section
variable {k : Nat} {v : StrandVal}

/-- A round's result on a device without children leaves the fabric interface. -/
theorem strandDown_leaf (hk : s.strandKids k = []) : (s.strandDown k v).fab = s.fab := by
  have hroots (l : List StrandNode) (u : State) : (l.foldl (fun t n => t.strandDeliver n k v) u).fab = u.fab :=
    foldl_leaves State.fab (fun _ n => strandDeliver_fab n k v) l u
  simp only [State.strandDown, hk, List.filter_nil, List.foldl_nil]
  exact hroots _ s

/-- The root of a strand, which has no children, combines the round once its own value has come (R403). -/
theorem exec_hubStrandCombine_leaf (hen : (s.fstrand k).getLsbD 51 = true) (hroot : (s.fstrand k).getLsbD 44 = true)
    (hk : s.strandKids k = []) (hx : s.ctxNamed (bitsAt 52 12 (s.fstrand k)) = true) (hr : s.fab.rounds = [(k, s.thisDev, v)]) :
    ∃ u, exec (.hubStrandCombine k) s = .next u ∧ u.fab.rounds = [] := by
  have hisroot : s.hubRoot k = true := by simp [State.hubRoot, bitAt, hroot]
  have hvalues : s.hubValues k = some [v] := by simp [State.hubValues, bitAt, hen, hx, hk, hr, hisroot]
  refine ⟨_, rfl, ?_⟩
  simp only [State.hubCombine, hvalues, Option.map_some, Option.getD_some, hisroot, hx, if_true]
  refine (congrArg Fabric.rounds (strandDown_leaf (by exact hk))).trans ?_
  simp [State.onFab, hr, hubRest]

end

theorem exec_fabricRequestArrival_refused {dev flow seq pidx pa n : Nat} {via : PageUse} (hseq : seq = (s.inFlow dev flow).expected)
    (ha : s.admitted dev pidx pa n false = none) : ∃ u, exec (.fabricRequestArrival dev flow seq pidx (.load pa n via)) s = .next u
      ∧ (u.inFlow dev flow).expected = (seq + 1) % 2 ^ 32 := by
  refine ⟨(s.expectNext dev flow).reply dev flow seq .refused, ?_, ?_⟩
  · change execFabricRequestArrival dev flow seq pidx (.load pa n via) s = _
    simp [execFabricRequestArrival, hseq, State.perform, State.memRequest, ha]
  · subst hseq
    simp [State.inFlow, State.reply, State.expectNext, State.onFab]

theorem noteArrival_outs (dev : Nat) (q : OutReq) : (s.noteArrival dev q).fab.outs = s.fab.outs := by
  have hmet (l : List Nat) : (l.foldl (fun t line => t.modCore q.who.core fun c => c.metLine dev line s.fab.count) s).fab = s.fab :=
    foldl_leaves State.fab (fun _ _ => modCore_fab ..) l s
  exact (congrArg Fabric.outs (hmet (metLines q.req)) :)

/-- The acknowledgement of a store for which no one waits only takes it from the unacknowledged requests (R396). -/
theorem exec_fabricReplyArrival_store {flow seq pa : Nat} {q : OutReq} {bs : List Byte} {via : PageUse}
    (hq : (s.outFlow flow).unacked.find? (fun q => q.seq == seq) = some q) (hw : q.wait = .none) (hr : q.req = .store pa bs via) :
    ∃ u, exec (.fabricReplyArrival flow seq .ack) s = .next u
      ∧ (u.outFlow flow).unacked = (s.outFlow flow).unacked.filter fun x => x.seq != seq := by
  refine ⟨(s.onFab fun b => { b with outs := Sparse.put b.outs flow { s.outFlow flow with
    unacked := (s.outFlow flow).unacked.filter fun x => x.seq != seq } }).noteArrival (flow % 64) q, ?_, ?_⟩
  · change execFabricReplyArrival flow seq .ack s = _
    simp [execFabricReplyArrival, hq, State.endRequest, hw, State.loneAnswer, hr, endReason]
  · simp [State.outFlow, noteArrival_outs, State.onFab]

theorem exec_endToEndResend_counts {flow : Nat} {q : OutReq} (hq : (s.outFlow flow).unacked = [q]) (ht : q.tries < s.nretry) :
    ∃ u, exec (.endToEndResend flow) s = .next u ∧ (u.outFlow flow).unacked = [{ q with tries := q.tries + 1 }] := by
  refine ⟨s.onFab fun b => { b with outs := Sparse.put b.outs flow { s.outFlow flow with
    unacked := (s.outFlow flow).unacked.map fun x => { x with tries := x.tries + 1 } } }, ?_, ?_⟩
  · change execEndToEndResend flow s = _
    simp [execEndToEndResend, hq, ht]
  · rw [hq]
    simp [State.outFlow, State.onFab]

theorem exec_locketStreamEnd_frees {t : Nat} {z : Stream} {how : StreamEnd} (hz : s.fab.streams.find? (fun x => x.ticket == t) = some z)
    (hover : z.over = some how) : ∃ u, exec (.locketStreamEnd t how) s = .next u
      ∧ u.fab.streams = s.fab.streams.filter fun x => x.ticket != t := by
  change ∃ u, execLocketStreamEnd t how s = .next u ∧ _
  simp only [execLocketStreamEnd, hz, hover, ne_eq, not_true_eq_false, if_false]
  exact ⟨_, rfl, congrArg Fabric.streams (noticeTo_rest ..).1⟩

theorem exec_directoryUpdateAcknowledged_takes {id : CoreId} {fw : Forward} (hf : s.acts.forwards = [fw]) (hid : fw.core = id) :
    ∃ u, exec (.directoryUpdateAcknowledged id) s = .next u ∧ u.acts.forwards = [] := by
  change ∃ u, execDirectoryUpdateAcknowledged id s = .next u ∧ _
  simp only [execDirectoryUpdateAcknowledged, hf, hid, List.find?_singleton, decide_true, if_true]
  refine ⟨_, rfl, ?_⟩
  split <;> simp [State.onActs, State.modActor, State.setActor, hf]

/-- Settles O58: each event of the firing unit, the context engine and the fabric interface where it may act. -/
theorem engineEventsComplete : Obligations.EngineEventsComplete := by
  unfold Obligations.EngineEventsComplete
  intro s id n x y p d k t dev flow seq pidx cl a m r q z how fw pa lanes via v bs c
  refine ⟨fun hrun hreg hc ha hres => ?_, fun hx hd => ?_, fun hr hstep => ?_, fun hm hh hc hr => ?_, fun hd => ?_, fun hrot hp => ?_,
    fun hp ha => exec_savePoint_ends hp ha, fun hp => exec_preemptionBudgetExpiry_idle hp, fun hp hs => exec_scrub_fresh hp hs,
    fun hp => exec_watchdog_ends hp, ?_, ⟨_, rfl, rfl⟩, ⟨_, _, rfl, rfl⟩, fun hz ho => exec_locketStreamEnd_frees hz ho,
    fun hs ha => exec_fabricRequestArrival_refused hs ha, fun hq hw hr => exec_fabricReplyArrival_store hq hw hr,
    fun hq ht => exec_endToEndResend_counts hq ht, exec_linkReplay_counts p, fun hp hv => exec_portRetrain_up hp hv,
    fun hm ho hp hs => ⟨_, if_pos hm, deviceLost_marks ho hp hs⟩, ⟨_, rfl, rfl⟩,
    fun hen hroot hk hx hr => exec_hubStrandCombine_leaf hen hroot hk hx hr,
    fun hf hid => exec_directoryUpdateAcknowledged_takes hf hid, ?_⟩
  · exact ⟨_, exec_firingChoice_starts hrun hreg hc ha hres, congrArg Core.run (startFiring_coreAt ..)⟩
  · obtain ⟨l, hl⟩ := endRevoke_revoking (s := s.dropTenants (s.subtree x)) x
    refine ⟨_, if_pos ⟨hx, hd⟩, fun r hr => ?_⟩
    rw [hl] at hr
    simpa using (List.mem_filter.1 hr).2
  · refine ⟨s.endResize r, ?_, endResize_resizing r⟩
    change execResize x s = _
    simp only [execResize, hr, hstep]
  · exact ⟨_, exec_trapMessageDelivery hm hh hc hr, mailWrite_mcount ..⟩
  · change ∃ u older, execContextFailed x s = .next u ∧ _
    simp only [execContextFailed, hd]
    exact ⟨_, _, rfl, rfl⟩
  · exact ⟨_, if_pos ⟨hrot, hp⟩, congrArg Core.phase (coreAt_modCore ..)⟩
  · exact ⟨_, rfl, congrArg Core.run (coreAt_modCore ..)⟩
  · exact ⟨_, rfl, fun e he => by simpa using (List.mem_filter.1 he).2⟩

end Sys2Proof.Machine
end

-- ==== Boot and the package ====
section
/-!
SUPPORT. The hub's start of a die, a missing END, resets, throttling and power (R145, R423 to R429; obligation O48).
-/

namespace Sys2Proof.Machine

variable {s : State} {die : Nat} {prog image : List Byte}

/-- The hub starts corner cores: boot mode has not ended, no recovery stops it, and Zaran runs on the root monitor core (R424, R425). -/
def State.bootsDies (s : State) : Prop := s.hub.boot = true ∧ s.hub.recovery = false ∧ (s.coreAt .root).run = .service

/-- The scalar registers of a boot program (Table 04.8). -/
def bootRegs (die : Nat) : Regs :=
  { Regs.reset with s := Vector.ofFn fun i : Fin 32 =>
      ([0, dw die, dw (0xC000010100 + 8 * die), 0x20000, 0x4000] : List DWord).getD i.val 0 }

/-- A corner core with its boot program and runtime image, as the hub starts it (R145). -/
def Core.booted (c : Core) (die : Nat) (prog image : List Byte) : Core :=
  { (c.store 0 prog).store 0x20000 image with
    run := .boot
    pc := 0
    xbound := BitVec.ofNat 18 (ceilDiv prog.length 512 * 512)
    ovh := 0
    beads := []
    bsum := c.bsum + wordSum 0x1000 image
    regs := bootRegs die
    tsw := { Tsw.reset with priv := 3 }
    wait := none
    rep := none
    region := ⟨0, 0xFFFFFFFE, 0, bootRegs die, { Tsw.reset with priv := 3 }, c.traps⟩ }

theorem exec_cornerCoreStart (h : s.bootsDies) (hd : die < 9) (hi : image.length = 0x4000) :
    exec (.cornerCoreStart die prog image) s
      = .next (s.modCore (.work (1024 * die)) fun c => c.booted die prog image) := by
  obtain ⟨hboot, hrec, hroot⟩ := h
  have hfull : (image ++ List.replicate (0x4000 - image.length) 0).take 0x4000 = image := by
    rw [← hi, Nat.sub_self, List.replicate_zero, List.append_nil, List.take_length]
  refine (if_neg (by simp [hboot, hrec, hroot, hd])).trans ?_
  rw [hfull]
  rfl

theorem exec_cornerCoreStart_none (h : ¬ s.bootsDies ∨ 9 ≤ die) : exec (.cornerCoreStart die prog image) s = .next s := by
  refine if_pos ?_
  by_contra hno
  simp only [not_or, Bool.not_eq_true', Bool.not_eq_false, Bool.not_eq_true, not_not, not_le] at hno
  obtain ⟨hboot, hrec, hroot, hdie⟩ := hno
  exact h.elim (fun hs => hs ⟨hboot, hrec, hroot⟩) (not_le.2 hdie)

theorem booted_reg (c : Core) (i : Fin 32) : (c.booted die prog image).regs.s[i]
    = ([0, dw die, dw (0xC000010100 + 8 * die), 0x20000, 0x4000] : List DWord).getD i.val 0 := by
  simp [Core.booted, bootRegs]

theorem booted_xbound (c : Core) :
    (c.booted die prog image).xbound.toNat % 2 ^ 18 = (512 * ((prog.length + 511) / 512)) % 2 ^ 18 := by
  simp [Core.booted, ceilDiv, Nat.mul_comm]

/-- The boot program lies at local address 0, below the runtime image. -/
theorem booted_program (c : Core) (hp : prog.length ≤ 0x20000) (hi : image.length = 0x4000) {j : Nat} (hj : j < prog.length) :
    Sparse.get 0 (c.booted die prog image).mem j = prog.getD j 0 := by
  have hbelow : Sparse.get 0 (padWrite (padWrite c.mem 0 prog) 0x20000 image) j = Sparse.get 0 (padWrite c.mem 0 prog) j :=
    padWrite_get_outside _ (by omega) (.inl (by omega))
  have hin := padWrite_get_in c.mem 0 prog hj (by omega)
  rw [Nat.zero_add, Nat.mod_eq_of_lt (by omega)] at hin
  exact hbelow.trans hin

/-- The runtime image lies at 0x20000. -/
theorem booted_image (c : Core) (hi : image.length = 0x4000) {j : Nat} (hj : j < 0x4000) :
    Sparse.get 0 (c.booted die prog image).mem (0x20000 + j) = image.getD j 0 := by
  have hin := padWrite_get_in (padWrite c.mem 0 prog) 0x20000 image (hi.symm ▸ hj) (by omega)
  rwa [Nat.mod_eq_of_lt (by omega)] at hin

/-- Every core of a device that resets is a reset core (R384). -/
theorem coreAt_deviceReset (s : State) (id : CoreId) : s.deviceReset.coreAt id = Core.reset s.mesh.fused id := by
  unfold State.coreAt
  split
  next h => rw [h]; rfl
  next => rfl

/-- What DEVICE_RESET makes of the hub: the boot ROM is the first digest of register 1 (R422, R424). -/
theorem deviceReset_extend_hub (s : State) : (s.deviceReset.extend 1 (Config.sm3 Config.bootRom)).hub
    = { State.reset.hub with
        flash := s.hub.flash
        ownerCert := s.hub.ownerCert
        meas := [(1, Config.sm3 (List.replicate 32 0 ++ Config.sm3 Config.bootRom))] } := rfl

/-- Settles O48: the corner core as the hub leaves it, and each event of the package as one equation. -/
theorem bootAndPackage : Obligations.BootAndPackage := by
  unfold Obligations.BootAndPackage
  intro s die steps prog image reset corner starts
  refine ⟨fun h hd hp hi => ?_, exec_cornerCoreStart_none, fun hb hrun => ?_, fun h => ?_, ?_, rfl, rfl, rfl, rfl, rfl, rfl⟩
  · refine ⟨_, exec_cornerCoreStart h hd hi, ?_⟩
    rw [coreAt_modCore]
    exact ⟨rfl, rfl, rfl, rfl, booted_reg _, booted_xbound _, fun j => booted_program _ hp hi, fun j => booted_image _ hi, rfl⟩
  · exact congrArg Host.Outcome.next (if_pos ⟨hb, hrun⟩)
  · refine congrArg Host.Outcome.next (if_neg ?_)
    rintro ⟨hb, hrun⟩
    rcases h with h | ⟨hboot, hstopped⟩
    · rw [h] at hb; cases hb
    · exact hrun.elim hboot hstopped
  · have hpriv := congrArg (·.tsw.priv) (coreAt_deviceReset s .root)
    refine ⟨_, rfl, ?_⟩
    rw [modCore_mesh, modCore_ram, modCore_acts, modCore_fab, modCore_hub, coreAt_modCore]
    exact ⟨rfl, rfl, rfl, rfl, deviceReset_extend_hub s, rfl, hpriv, rfl⟩

end Sys2Proof.Machine
end

-- ==== The death of an actor ====
section
/-!
SUPPORT. The steps of a death after its entries have drained (R290 steps 4 to 7, R292, R364): the signals of the links, the hand-over to
the supervisor and to the traps, and the slot that becomes free.
-/

namespace Sys2Proof.Machine

variable {s : State} {x : ActorId}

/-! ## The signals (R290 steps 4 and 5) -/

/-- A record but for its link entries. -/
def ActorRec.unlinked (r : ActorRec) : ActorRec := { r with links := [] }

/-- Two actor tables whose records differ in nothing but their link entries. -/
def SameButLinks (a b : Sparse ActorRec) : Prop :=
  ∀ k, (Sparse.get ActorRec.free a k).unlinked = (Sparse.get ActorRec.free b k).unlinked

theorem SameButLinks.trans {a b c : Sparse ActorRec} (hab : SameButLinks a b) (hbc : SameButLinks b c) : SameButLinks a c :=
  fun k => (hab k).trans (hbc k)

theorem modActor_dropLink_sameButLinks (s : State) (y : ActorId) (peer : DWord) (k : LinkKind) (tag : Option Word) :
    SameButLinks (s.modActor y fun q => q.dropLink peer k tag).acts.tab s.acts.tab := by
  intro j
  change (Sparse.get ActorRec.free (Sparse.put s.acts.tab y.key ((s.actor y).dropLink peer k tag)) j).unlinked = _
  by_cases hj : j = y.key
  · rw [hj, Sparse.get_put_self]; rfl
  · rw [Sparse.get_put_ne _ _ _ hj]

/-- What a death sends on account of a link-table entry: an exit signal to a link, a message of KIND 2 to a watcher (R290). -/
def State.deathMail (s : State) (x : ActorId) (l : LinkEntry) : Mail :=
  let r := s.actor x
  if l.kind = .link then .exit l.peer (s.nameOf x) r.xreason 0 none true r.core.key .device
  else .message l.peer 0x02 r.xreason (s.nameOf x) l.tag [] r.core.key .device

/-- A state after some of the signals of a death: mail on its way, and link entries of other actors gone. -/
def State.Signalled (s : State) (ms : List Mail) (t : State) : Prop :=
  ∃ tab, t = { s with acts := { s.acts with tab := tab, mail := s.acts.mail ++ ms } } ∧ SameButLinks tab s.acts.tab

theorem State.signalled_nil (s : State) : s.Signalled [] s := ⟨s.acts.tab, by rw [List.append_nil], fun _ => rfl⟩

theorem State.Signalled.actor {ms : List Mail} {t : State} (h : s.Signalled ms t) (y : ActorId) :
    (t.actor y).unlinked = (s.actor y).unlinked := by
  obtain ⟨tab, rfl, htab⟩ := h
  exact htab y.key

/-- The signals of a death are the same after some of them. -/
theorem State.Signalled.deathMail {ms : List Mail} {t : State} (h : s.Signalled ms t) (x : ActorId) (l : LinkEntry) :
    t.deathMail x l = s.deathMail x l := by
  have hr := h.actor x
  obtain ⟨tab, rfl, -⟩ := h
  have hgen := congrArg ActorRec.gen hr
  have hreason := congrArg ActorRec.xreason hr
  have hcore := congrArg ActorRec.core hr
  simp only [ActorRec.unlinked] at hgen hreason hcore
  simp only [State.deathMail, State.nameOf, hgen, hreason, hcore]
  rfl

/-- The signal of one entry: while the context is not resetting, its reason is the actor's own (R290, R401). -/
theorem signalEnd_signalled (hc : s.ctxState x.ctx ≠ 4) {l : LinkEntry} (hl : l.kind ≠ .watching) :
    s.Signalled [s.deathMail x l] (s.signalEnd x l) := by
  have hreason (p q : Prop) [Decidable p] [Decidable q] (r : Nat) : (if s.ctxState x.ctx = 4 ∧ p ∧ q then 10 else r) = r :=
    if_neg fun h => hc h.1
  cases hk : l.kind with
  | watching => exact absurd hk hl
  | link =>
    simp only [State.signalEnd, State.deathMail, hk, hreason, if_true]
    split
    · exact ⟨_, rfl, modActor_dropLink_sameButLinks s _ _ _ _⟩
    · exact ⟨_, rfl, fun _ => rfl⟩
  | watchedBy =>
    simp only [State.signalEnd, State.deathMail, hk, hreason, reduceCtorEq, if_false]
    split
    · exact ⟨_, rfl, modActor_dropLink_sameButLinks s _ _ _ _⟩
    · exact ⟨_, rfl, fun _ => rfl⟩

/-- The signals of several entries leave in their order. -/
theorem foldl_signalEnd_signalled (hc : s.ctxState x.ctx ≠ 4) {l : List LinkEntry} (hl : ∀ e ∈ l, e.kind ≠ .watching) {ms : List Mail}
    {t : State} (ht : s.Signalled ms t) :
    s.Signalled (ms ++ l.map (s.deathMail x)) (l.foldl (fun t e => t.signalEnd x e) t) := by
  induction l generalizing ms t with
  | nil => rwa [List.map_nil, List.append_nil]
  | cons e l ih =>
    have htc : t.ctxState x.ctx ≠ 4 := by obtain ⟨tab, rfl, -⟩ := ht; exact hc
    have hnext : s.Signalled (ms ++ [s.deathMail x e]) (t.signalEnd x e) := by
      have hone := signalEnd_signalled htc (hl e (List.mem_cons_self ..))
      rw [ht.deathMail] at hone
      obtain ⟨tab, rfl, htab⟩ := ht
      obtain ⟨tab', heq, htab'⟩ := hone
      exact ⟨tab', heq.trans (by simp only [List.append_assoc]), htab'.trans htab⟩
    have hrest := ih (fun e he => hl e (List.mem_cons_of_mem _ he)) hnext
    rwa [List.append_assoc] at hrest

/-- The signals of an actor's links and watchers. -/
theorem map_deathMail (s : State) (x : ActorId) (l : List LinkEntry) :
    (l.filter (·.kind == .link) ++ l.filter (·.kind == .watchedBy)).map (s.deathMail x)
      = (l.filter fun l => l.kind == .link).map (fun l =>
          Mail.exit l.peer (s.nameOf x) (s.actor x).xreason 0 none true (s.actor x).core.key .device)
        ++ (l.filter fun l => l.kind == .watchedBy).map fun l =>
          Mail.message l.peer 0x02 (s.actor x).xreason (s.nameOf x) l.tag [] (s.actor x).core.key .device := by
  rw [List.map_append]
  congr 1
  · refine List.map_congr_left fun e he => if_pos ?_
    simpa using (List.mem_filter.1 he).2
  · refine List.map_congr_left fun e he => if_neg ?_
    have hk : e.kind = .watchedBy := by simpa using (List.mem_filter.1 he).2
    rw [hk]
    exact LinkKind.noConfusion

/-! ## The hand-over (R290 step 6, R364) -/

/-- The deaths that a death hands to the restart engine: its own, if its actor has a supervisor that is not to absorb it. -/
def State.deathsOf (s : State) (x : ActorId) : List DeathEvent :=
  if (s.actor x).super != 0 && !(s.actor x).quiet then [⟨s.idOf (s.actor x).super, s.nameOf x, (s.actor x).xreason⟩] else []

/-- The traps of a context without the handler that has died. -/
def State.trapsWithout (s : State) (x : ActorId) : List TrapMsg :=
  if x.idx = 0 then s.ctxs.traps.map fun m => if m.holder = some x.ctx then { m with holder := none } else m else s.ctxs.traps

/-- Only the device of an actor's table hands its death over. -/
theorem deathsOf_own (s : State) (x : ActorId) : (if x.own then s.deathsOf x else [])
    = if x.own && (s.actor x).super != 0 && !(s.actor x).quiet then [⟨s.idOf (s.actor x).super, s.nameOf x, (s.actor x).xreason⟩] else [] := by
  cases x.own <;> rfl

theorem trapsWithout_own (s : State) (x : ActorId) : (if x.own then s.trapsWithout x else s.ctxs.traps)
    = if x.own = true ∧ x.idx = 0 then
        s.ctxs.traps.map fun m => if m.holder = some x.ctx then { m with holder := none } else m
      else s.ctxs.traps := by
  cases x.own with
  | true => simp only [State.trapsWithout, if_true, true_and]
  | false => rfl

/-- A state after a death is handed over. -/
def State.handedOver (s : State) (x : ActorId) : State := { s with
  acts := { s.acts with deaths := s.acts.deaths ++ s.deathsOf x }
  ctxs := { s.ctxs with traps := s.trapsWithout x } }

/-- The death of an actor that is no job's root is handed over, and nothing else happens. -/
theorem handDeath_eq (hj : s.jobOfRoot x = none) : s.handDeath x = s.handedOver x := by
  unfold State.handDeath
  extract_lets r me s0 s1
  have h0 : s0 = { s with ctxs := { s.ctxs with traps := s.trapsWithout x } } := by
    unfold s0 State.trapsWithout
    by_cases hi : x.idx = 0
    · rw [if_neg (not_not.2 hi), if_pos hi]; rfl
    · rw [if_pos hi, if_neg hi]
  have h1 : s1 = s.handedOver x := by
    unfold s1 State.handedOver State.deathsOf
    rw [h0]
    split
    · rfl
    · rw [List.append_nil]
  rw [h1, show (s.handedOver x).jobOfRoot x = none from hj]

/-- The record of an actor whose death has signalled: what becomes of it is the next step's to say (R290). -/
def ActorRec.signalled (again : Bool) (r : ActorRec) : ActorRec :=
  { r with links := [], linkRsv := 0, death := some .reclaim, st := if again then .restarting else r.st }

theorem ActorRec.signalled_unlinked (again : Bool) (r : ActorRec) : r.unlinked.signalled again = r.signalled again := rfl

/-- Is a restart of the actor to come already? -/
def State.comesAgain (s : State) (x : ActorId) : Bool := s.acts.restarts.any fun q => decide (s.idOf q.dead = x)

/-- The signals of a death have left, and its actor's record says so. -/
def State.afterSignals (s : State) (x : ActorId) : State :=
  let ofKind (k : LinkKind) : List LinkEntry := (s.actor x).links.filter fun l => l.kind == k
  ((ofKind .link ++ ofKind .watchedBy).foldl (fun t l => t.signalEnd x l) s).modActor x
    (ActorRec.signalled (s.comesAgain x))

theorem exec_deathSignals (hr : s.deathReady x = true) :
    exec (.deathSignals x) s = .next (if x.own then (s.afterSignals x).handDeath x else s.afterSignals x) := by
  change execDeathSignals x s = _
  rw [execDeathSignals, hr]
  rfl

/-- What leaving the signals changes: the table of actors and the mail on its way. -/
theorem afterSignals_eq (hc : s.ctxState x.ctx ≠ 4) : ∃ tab, s.afterSignals x = { s with acts := { s.acts with
      tab := tab
      mail := s.acts.mail ++ ((s.actor x).links.filter (·.kind == .link)
        ++ (s.actor x).links.filter (·.kind == .watchedBy)).map (s.deathMail x) } }
    ∧ (s.afterSignals x).actor x = (s.actor x).signalled (s.comesAgain x) := by
  have hkind : ∀ e ∈ (s.actor x).links.filter (·.kind == .link) ++ (s.actor x).links.filter (·.kind == .watchedBy),
      e.kind ≠ .watching := by
    intro e he hk
    simp [hk] at he
  have hsig := foldl_signalEnd_signalled hc hkind s.signalled_nil
  have hact := hsig.actor x
  obtain ⟨tab, hs, -⟩ := hsig
  refine ⟨(s.afterSignals x).acts.tab, ?_, ?_⟩
  · unfold State.afterSignals
    simp only [hs]
    rfl
  · unfold State.afterSignals
    rw [actor_modActor, ← ActorRec.signalled_unlinked, hact, ActorRec.signalled_unlinked]

/-- The hand-over of a death after its signals is that of the state before them. -/
theorem afterSignals_handed (hc : s.ctxState x.ctx ≠ 4) (hj : s.jobOfRoot x = none) :
    (s.afterSignals x).jobOfRoot x = none ∧ (s.afterSignals x).deathsOf x = s.deathsOf x
      ∧ (s.afterSignals x).trapsWithout x = s.trapsWithout x := by
  obtain ⟨tab, heq, hact⟩ := afterSignals_eq hc
  have hfab : (s.afterSignals x).fab = s.fab := by rw [heq]
  have hjobs : (s.afterSignals x).acts.jobs = s.acts.jobs := by rw [heq]
  have hctxs : (s.afterSignals x).ctxs = s.ctxs := by rw [heq]
  have hname : (s.afterSignals x).nameOf x = s.nameOf x := by
    simp only [State.nameOf, State.nameWith, State.thisDev, hact, hfab, ActorRec.signalled]
  have hid (n : DWord) : (s.afterSignals x).idOf n = s.idOf n := by rw [State.idOf, State.thisDev, hfab]; rfl
  refine ⟨?_, ?_, ?_⟩
  · rw [← hj, State.jobOfRoot, State.jobOfRoot, hjobs, hname]
  · rw [State.deathsOf, hact, hname, hid]
    rfl
  · rw [State.trapsWithout, State.trapsWithout, hctxs]

/-- DEATH_SIGNALS outside jobs and resets: what it changes, and what it leaves (R290 to R292, R364). -/
theorem exec_deathSignals_eq (hr : s.deathReady x = true) (hj : s.jobOfRoot x = none) (hc : s.ctxState x.ctx ≠ 4) :
    ∃ t, exec (.deathSignals x) s = .next t ∧ t.actor x = (s.actor x).signalled (s.comesAgain x) ∧ t = { s with
      acts := { s.acts with
        tab := t.acts.tab
        mail := s.acts.mail ++ ((s.actor x).links.filter (·.kind == .link)
          ++ (s.actor x).links.filter (·.kind == .watchedBy)).map (s.deathMail x)
        deaths := s.acts.deaths ++ if x.own then s.deathsOf x else [] }
      ctxs := { s.ctxs with traps := if x.own then s.trapsWithout x else s.ctxs.traps } } := by
  obtain ⟨tab, heq, hact⟩ := afterSignals_eq hc
  obtain ⟨hjob, hdeaths, htraps⟩ := afterSignals_handed hc hj
  refine ⟨_, exec_deathSignals hr, ?_⟩
  cases x.own with
  | true =>
    simp only [if_true, handDeath_eq hjob]
    refine ⟨hact, ?_⟩
    rw [State.handedOver, hdeaths, htraps, heq]
  | false =>
    simp only [Bool.false_eq_true, if_false, List.append_nil]
    refine ⟨hact, ?_⟩
    rw [heq]

end Sys2Proof.Machine
end

-- ==== The slot of a dead actor ====
section
/-!
SUPPORT. SLOT_RECLAIM (R126, R156, R290 step 7): the slot and its beads become free, and the requests that waited at the ports of the dead
actor go.
-/

namespace Sys2Proof.Machine

variable {s : State} {x : ActorId}

/-! ## Cores in their canonical map -/

/-- What does not tell two defaults apart reads the same under both. -/
theorem Sparse.get_default_congr {α β : Type} (g : α → β) {d e : α} (h : g d = g e) (m : Sparse α) (k : Nat) :
    g (Sparse.get d m k) = g (Sparse.get e m k) := by
  induction m with
  | nil => exact h
  | cons q m ih =>
    rw [Sparse.get, Sparse.get]
    split
    · rfl
    · exact ih

/-- What a change of one core keeps of it, and reset gives every core alike, it keeps of every core: even of one that is kept under the same
number. -/
theorem coreAt_modCore_leaves {β : Type} (g : Core → β) {f : Core → Core} (hf : ∀ c, g (f c) = g c)
    (hreset : ∀ l a b, g (Core.reset l a) = g (Core.reset l b)) (s : State) (id y : CoreId) :
    g ((s.modCore id f).coreAt y) = g (s.coreAt y) := by
  have hlisted (t : State) {c : CoreId} (h : c ≠ t.focus) : t.coreAt c = Sparse.get (Core.reset t.mesh.fused c) t.others c.key := if_neg h
  by_cases hy : y = id
  · rw [hy, coreAt_modCore, hf]
  by_cases hid : id = s.focus
  · have hyf : y ≠ s.focus := fun h => hy (h.trans hid.symm)
    rw [hid, modCore_focus, hlisted s hyf]
    exact congrArg g (if_neg hyf)
  rw [State.modCore, State.setCore, if_neg hid]
  by_cases hyf : y = s.focus
  · rw [hyf, coreAt_focus s]
    exact congrArg g (if_pos rfl)
  rw [hlisted s hyf, hlisted s hid]
  refine (congrArg g (if_neg hyf)).trans ?_
  by_cases hk : y.key = id.key
  · rw [hk, Sparse.get_put_self, hf]
    exact Sparse.get_default_congr g (hreset ..) _ _
  · rw [Sparse.get_put_ne _ _ _ hk]

/-- No number below the first has a value of its own. -/
theorem Sparse.get_below {α : Type} [DecidableEq α] (d : α) {lo : Nat} {m : Sparse α} (h : Sparse.wfFrom d lo m = true) {k : Nat} (hk : k < lo) :
    Sparse.get d m k = d := by
  induction m generalizing lo with
  | nil => rfl
  | cons e m ih =>
    obtain ⟨j, v⟩ := e
    simp only [Sparse.wfFrom, Bool.and_eq_true, decide_eq_true_eq] at h
    obtain ⟨⟨hlo, -⟩, hrest⟩ := h
    rw [Sparse.get, if_neg (by omega)]
    exact ih hrest (by omega)

theorem modCore_actor (s : State) (id : CoreId) (f : Core → Core) (x : ActorId) : (s.modCore id f).actor x = s.actor x := by
  rw [State.actor, modCore_acts]
  rfl

/-- The value at a number, of those values that stay, in a map in canonical form. -/
theorem Sparse.get_filter {α : Type} [DecidableEq α] (d : α) (p : α → Bool) {lo : Nat} {m : Sparse α} (h : Sparse.wfFrom d lo m = true)
    (k : Nat) : Sparse.get d (m.filter fun e => p e.2) k = if p (Sparse.get d m k) then Sparse.get d m k else d := by
  induction m generalizing lo with
  | nil => exact (ite_self d).symm
  | cons e m ih =>
    obtain ⟨j, v⟩ := e
    simp only [Sparse.wfFrom, Bool.and_eq_true, decide_eq_true_eq] at h
    obtain ⟨-, hrest⟩ := h
    rw [List.filter_cons]
    by_cases hj : j = k
    · have hnone : Sparse.get d (m.filter fun e => p e.2) k = d := by
        rw [ih hrest, Sparse.get_below d hrest (by omega), ite_self]
      rw [Sparse.get, if_pos hj]
      split
      · exact if_pos hj
      · exact hnone
    · rw [Sparse.get, if_neg hj, ← ih hrest]
      split
      · exact if_neg hj
      · rfl

/-! ## The slot (R126) -/

theorem freeSlot_slotAt (c : Core) (n : Nat) : (c.freeSlot n).slotAt n = Slot.none :=
  Sparse.get_set_self Slot.none c.slots n Slot.none

theorem freeSlot_bead (c : Core) (n : Nat) (h : Sparse.wfFrom .free 0 c.beads = true) (k : Nat) :
    (c.freeSlot n).bead k = match c.bead k with
      | .owned m => if m = n then .free else .owned m
      | .transit m => if m = n then .free else .transit m
      | b => b := by
  simp only [Core.bead, Core.freeSlot, Sparse.get_filter _ (fun b => b != .owned n && b != .transit n) h]
  split
  · rfl
  · cases Sparse.get .free c.beads k with
    | free => rfl
    | code => rfl
    | owned m => by_cases hm : m = n <;> simp [hm]
    | transit m => by_cases hm : m = n <;> simp [hm]

/-! ## The requests that waited (R156) -/

section
variable {β : Type} (g : Core → β) (hg : ∀ c q, g { c with tileQ := q } = g c) (hreset : ∀ l a b, g (Core.reset l a) = g (Core.reset l b))

include hg hreset

/-- A request that goes back changes nothing of a core but its tile queue. -/
theorem askAgain_leaves (s : State) (x : ActorId) (p : Nat) (a : PortAsk) (e : FabricEnd) (y : CoreId) :
    g ((s.askAgain x p a e).coreAt y) = g (s.coreAt y) := by
  cases a with
  | core c => exact coreAt_modCore_leaves g (fun _ => hg ..) hreset s c y
  | fabric => rfl

theorem returnAsks_leaves (s : State) (x : ActorId) (y : CoreId) : g ((s.returnAsks x).coreAt y) = g (s.coreAt y) :=
  foldl_leaves (fun t => g (t.coreAt y)) (fun t _ => askAgain_leaves g hg hreset t ..) _ (s.modActor x ActorRec.noAsks)

theorem redirectAsks_leaves (s : State) (x : ActorId) (dev : Nat) (y : CoreId) : g ((s.redirectAsks x dev).coreAt y) = g (s.coreAt y) := by
  refine foldl_leaves (fun t => g (t.coreAt y)) (fun t a => ?_) _ (s.modActor x ActorRec.noAsks)
  split
  · exact askAgain_leaves g hg hreset t ..
  · rfl

end

theorem askAgain_acts (s : State) (x : ActorId) (p : Nat) (a : PortAsk) (e : FabricEnd) : (s.askAgain x p a e).acts = s.acts := by
  cases a with
  | core c => exact modCore_acts ..
  | fabric => rfl

theorem returnAsks_acts (s : State) (x : ActorId) : (s.returnAsks x).acts = (s.modActor x ActorRec.noAsks).acts :=
  foldl_leaves State.acts (fun t _ => askAgain_acts t ..) _ _

theorem redirectAsks_acts (s : State) (x : ActorId) (dev : Nat) : (s.redirectAsks x dev).acts = (s.modActor x ActorRec.noAsks).acts := by
  refine foldl_leaves State.acts (fun t a => ?_) _ _
  split
  · exact askAgain_acts ..
  · rfl

/-- The requests that waited at the ports of a dead actor go back where its table is this device's, and go on to its home where it is not. -/
def State.asksGone (s : State) (x : ActorId) : State := if x.own then s.returnAsks x else s.redirectAsks x (s.homeOf x)

theorem asksGone_leaves {β : Type} (g : Core → β) (hg : ∀ c q, g { c with tileQ := q } = g c)
    (hreset : ∀ l a b, g (Core.reset l a) = g (Core.reset l b)) (s : State) (x : ActorId) (y : CoreId) :
    g ((s.asksGone x).coreAt y) = g (s.coreAt y) := by
  unfold State.asksGone
  split
  · exact returnAsks_leaves g hg hreset ..
  · exact redirectAsks_leaves g hg hreset ..

theorem asksGone_actor (s : State) (x : ActorId) : (s.asksGone x).actor x = (s.actor x).noAsks := by
  have hacts : (s.asksGone x).acts = (s.modActor x ActorRec.noAsks).acts := by
    unfold State.asksGone
    split
    · exact returnAsks_acts ..
    · exact redirectAsks_acts ..
  rw [State.actor, hacts]
  exact actor_modActor ..

/-! ## SLOT_RECLAIM (R290 step 7) -/

/-- A core after the slot of an incarnation is free: the commands of SENDs that waited for it alone are over. -/
def Core.vacated (c : Core) (n : Nat) (w : Issuer) : Core :=
  { c.freeSlot n with tileQ := c.tileQ.filter fun t => !(t.last && decide (t.who = w)) }

/-- The record of an index that is free again. -/
def ActorRec.reclaimed (r : ActorRec) : ActorRec := { r with death := none, quiet := false, st := .free }

/-- A state after the slot of a dead actor is free. -/
def State.vacated (s : State) (x : ActorId) : State :=
  (s.modCore (s.actor x).core fun c => c.vacated (s.actor x).slot (s.asIssuer x)).modActor x ActorRec.reclaimed

theorem vacated_actor (s : State) (x : ActorId) : (s.vacated x).actor x = (s.actor x).reclaimed := by
  rw [State.vacated, actor_modActor, modCore_actor]

theorem vacated_coreAt (s : State) (x : ActorId) :
    (s.vacated x).coreAt (s.actor x).core = ((s.coreAt (s.actor x).core).vacated (s.actor x).slot (s.asIssuer x)) :=
  coreAt_modCore ..

theorem exec_slotReclaim (hr : s.reclaimReady x = true) (hin : s.inSlot x = true) (hst : (s.actor x).st = .leaving)
    (hd : ∀ d ∈ s.acts.deaths, d.dead ≠ s.nameOf x) : exec (.slotReclaim x) s = .next (if x.own then ((s.vacated x).asksGone x).writeBack x
      else ((s.vacated x).asksGone x).enqueueReq (s.actor x).core.key (s.homeOf x) x.ctx .none (.died (s.nameOf x) (s.actor x).xreason)) := by
  have hpend : (s.acts.deaths.any fun d => decide (d.dead = s.nameOf x)) = false := by simpa using hd
  change execSlotReclaim x s = _
  rw [execSlotReclaim, hr, Bool.not_true, if_neg Bool.false_ne_true]
  extract_lets r pending s1 s2
  have h1 : s1 = s.modCore r.core fun c => c.vacated r.slot (s.asIssuer x) := by
    unfold s1
    rw [hin]
    rfl
  have hact : s1.actor x = r := by rw [h1, modCore_actor]
  have h2 : s2 = s.vacated x := by
    have hset : s.vacated x = (s.modCore r.core fun c => c.vacated r.slot (s.asIssuer x)).setActor x r.reclaimed := by
      rw [State.vacated, State.modActor, modCore_actor]
    rw [hset]
    unfold s2 pending
    rw [State.modActor, hact, h1, hst, hpend]
    rfl
  have hfree : (s2.actor x).st = .free := by rw [h2, vacated_actor]; rfl
  have hhome : (s.vacated x).homeOf x = s.homeOf x := by
    rw [State.homeOf, State.thisDev, State.vacated, modActor_fab, modCore_fab]
    rfl
  rw [if_pos hfree, h2, State.asksGone, hhome]
  cases x.own <;> rfl

/-- What the slot of a dead actor leaves where it stood, and that no scratchpad changes. -/
theorem asksGone_vacated (hb : Sparse.wfFrom .free 0 (s.coreAt (s.actor x).core).beads = true) :
    let u := (s.vacated x).asksGone x
    (u.actor x).st = .free ∧ (u.actor x).death = none
      ∧ (u.coreAt (s.actor x).core).slotAt (s.actor x).slot = Slot.none
      ∧ (∀ k, (u.coreAt (s.actor x).core).bead k = (match (s.coreAt (s.actor x).core).bead k with
          | .owned n => if n = (s.actor x).slot then .free else .owned n
          | .transit n => if n = (s.actor x).slot then .free else .transit n
          | b => b))
      ∧ (∀ p : Fin 4, (u.actor x).ins[p].asks = [])
      ∧ ∀ y, (u.coreAt y).mem = (s.coreAt y).mem := by
  intro u
  have hact : u.actor x = (s.actor x).reclaimed.noAsks := by rw [asksGone_actor, vacated_actor]
  rw [hact]
  refine ⟨rfl, rfl, ?_, fun k => ?_, fun p => ?_, fun y => ?_⟩
  · have hslot := asksGone_leaves (·.slotAt (s.actor x).slot) (fun _ _ => rfl) (fun _ _ _ => rfl) (s.vacated x) x (s.actor x).core
    rw [vacated_coreAt] at hslot
    exact hslot.trans (freeSlot_slotAt ..)
  · have hbead := asksGone_leaves (·.bead k) (fun _ _ => rfl) (fun _ _ _ => rfl) (s.vacated x) x (s.actor x).core
    rw [vacated_coreAt] at hbead
    exact hbead.trans (freeSlot_bead _ _ hb k)
  · simp [ActorRec.noAsks]
  · exact (asksGone_leaves Core.mem (fun _ _ => rfl) (fun _ _ _ => rfl) (s.vacated x) x y).trans
      (coreAt_modCore_leaves Core.mem (f := fun c => c.vacated (s.actor x).slot (s.asIssuer x)) (fun _ => rfl) (fun _ _ _ => rfl) s _ y)

end Sys2Proof.Machine
end

-- ==== Arrivals at an actor ====
section
/-!
SUPPORT. Exit signals, control messages, timers and replies as they meet an actor, and what a move leaves behind (R285, R289, R291, R297,
R299, R359); and O41.
-/

namespace Sys2Proof.Machine

variable {s : State} {x : ActorId}

/-! ## The mailbox (R285) -/

/-- A message in the next slot of a mailbox. -/
theorem mailWrite_eq (s : State) (x : ActorId) (bs : List Byte) (sc : Scope) :
    s.mailWrite x bs sc = (s.modCore (s.actor x).core fun c =>
        c.store ((512 * (s.actor x).mbase + 64 * (((s.actor x).mhead + (s.actor x).mcount) % 16)) % 2 ^ 18) bs).modActor x fun r =>
      { r with mcount := r.mcount + 1, mscopes := r.mscopes ++ [sc] } := by
  rw [State.mailWrite, mailAddr_eq]

/-- A message that arrives is discarded without a signal entry, written where there is room, and too much for a full mailbox. -/
theorem mailArrive_cases (s : State) (x : ActorId) (bs : List Byte) (sc : Scope) :
    let r := s.actor x
    let arrived : Res := .next (s.mailArrive x bs sc)
    (r.sge = false → arrived = .next s)
    ∧ (r.sge = true → r.mcount + r.mrsv < 16 → arrived = .next ((s.modCore r.core fun c =>
        c.store ((512 * r.mbase + 64 * ((r.mhead + r.mcount) % 16)) % 2 ^ 18) bs).modActor x fun r =>
          { r with mcount := r.mcount + 1, mscopes := r.mscopes ++ [sc] }))
    ∧ (r.sge = true → 16 ≤ r.mcount + r.mrsv → arrived = .next (s.kill x 8)) := by
  intro r arrived
  rw [← mailWrite_eq]
  unfold arrived State.mailArrive
  refine ⟨fun h => congrArg _ (if_pos ?_), fun h hroom => congrArg _ ((if_neg ?_).trans (if_pos hroom)),
    fun h hfull => congrArg _ ((if_neg ?_).trans (if_neg (not_lt.2 hfull)))⟩
  all_goals simp [h, r]

/-! ## Mail whose turn it is (R291, R298) -/

section
variable {dst frm w1 : DWord} {kind reason src : Nat} {tag : Word} {timer : Option Nat} {link : Bool} {sc : Scope} {body : List Byte}

theorem exec_exitSignalArrival_gone (hm : s.nextMail true s.acts.mail [] = some (.exit dst frm reason tag timer link src sc))
    (hr : s.resolve dst = .gone) :
    exec .exitSignalArrival s = .next (s.takeMail (.exit dst frm reason tag timer link src sc)) := by
  change execExitSignalArrival s = _
  simp only [execExitSignalArrival, hm, Mail.dst, hr]

theorem exec_exitSignalArrival_here (hm : s.nextMail true s.acts.mail [] = some (.exit dst frm reason tag timer link src sc))
    (hr : s.resolve dst = .here x) : exec .exitSignalArrival s
      = .next ((s.takeMail (.exit dst frm reason tag timer link src sc)).exitArrive x frm reason tag timer sc) := by
  change execExitSignalArrival s = _
  simp only [execExitSignalArrival, hm, Mail.dst, hr]

theorem exec_controlMessageArrival_gone (hm : s.nextMail false s.acts.mail [] = some (.message dst kind reason w1 tag body src sc))
    (hr : s.resolve dst = .gone) :
    exec .controlMessageArrival s = .next (s.takeMail (.message dst kind reason w1 tag body src sc)) := by
  change execControlMessageArrival s = _
  simp only [execControlMessageArrival, hm, Mail.dst, hr]

theorem exec_controlMessageArrival_here (hm : s.nextMail false s.acts.mail [] = some (.message dst kind reason w1 tag body src sc))
    (hr : s.resolve dst = .here x) : exec .controlMessageArrival s
      = .next ((s.takeMail (.message dst kind reason w1 tag body src sc)).mailArrive x (mailBytes kind reason w1 tag body) sc) := by
  change execControlMessageArrival s = _
  simp only [execControlMessageArrival, hm, Mail.dst, hr]

/-- An exit signal becomes a message for an actor that traps exits; of the others it ends those it gives a reason (R291). -/
theorem exitArrive_cases (s : State) (x : ActorId) (frm : DWord) (reason : Nat) (tag : Word) (timer : Option Nat) (sc : Scope) :
    ((s.actor x).tx = false → s.exitArrive x frm reason tag timer sc = if reason = 0 then s else s.kill x reason)
    ∧ ((s.actor x).tx = true → s.exitArrive x frm reason tag timer sc
        = s.mailArrive x (mailBytes 0x01 reason frm tag (timer.elim [] fun k => bytesOf 8 k)) sc) := by
  unfold State.exitArrive
  refine ⟨fun h => if_neg (by rw [h]; exact Bool.false_ne_true), fun h => (if_pos h).trans ?_⟩
  cases timer <;> rfl

end

/-! ## Timers (R289) -/

section
variable {k : Bool}

/-- A timer is no part of a name. -/
theorem nameOf_setTimer (s : State) (x : ActorId) (k : Bool) (t : Timer) :
    (s.modActor x fun r => r.setTimer k t).nameOf x = s.nameOf x := by
  rw [State.nameOf, actor_modActor]
  rfl

theorem exec_timerExpiry (ha : ((s.actor x).timer k).arm = true) (hl : (s.actor x).st ≠ .leaving) (hm : (s.actor x).st ≠ .migrating)
    (hd : (s.actor x).dev = 0) (hin : s.inSlot x = true) : exec (.timerExpiry x k) s =
      let u := s.modActor x fun r => r.setTimer k Timer.none
      if ((s.actor x).timer k).kl then .next (u.kill x 9)
      else .next (u.post (.exit (s.nameOf x) (s.nameOf x) 9 ((s.actor x).timer k).tag (some k.toNat) false engineFlow .device)) := by
  change execTimerExpiry x k s = _
  rw [← nameOf_setTimer s x k Timer.none]
  exact if_neg (by simp [ha, hl, hm, hd, hin])

theorem exec_timerExpiry_none (h : ((s.actor x).timer k).arm = false ∨ (s.actor x).dev ≠ 0 ∨ s.inSlot x = false) :
    exec (.timerExpiry x k) s = .next s := by
  change execTimerExpiry x k s = _
  refine if_pos ?_
  rcases h with h | h | h <;> simp [h]

end

/-! ## Replies to CAPCALLs (R299) -/

section
variable {c : Capcall}

/-- The bytes of a reply that is the engine's own. -/
def Capcall.answer (c : Capcall) : List Byte := mailBytes 0x04 0 (dw c.index) c.tag (bytesOf 8 c.status ++ c.result)

/-- A state without a reply that has gone. -/
def State.answered (s : State) (c : Capcall) : State := { s with acts := { s.acts with capcalls := s.acts.capcalls.erase c } }

theorem exec_capcallReply_here (hf : s.acts.capcalls.find? s.replyReady = some c) (hres : c.reserved = true) (hfwd : c.forwarded = false)
    (hr : s.resolve c.caller = .here x) : exec .capcallReply s = .next ((s.answered c).replyWrite x c.answer .device) := by
  have hr' : (s.onActs fun a => { a with capcalls := a.capcalls.erase c }).resolve c.caller = .here x := hr
  change execCapcallReply s = _
  simp only [execCapcallReply, hf, hres, hfwd, hr']
  rfl

theorem exec_capcallReply_away {d : Nat} (hf : s.acts.capcalls.find? s.replyReady = some c) (hres : c.reserved = true)
    (hfwd : c.forwarded = false) (hr : s.resolve c.caller = .away d) : exec .capcallReply s
      = .next ((s.answered c).enqueueReq engineFlow d c.ctx .none (.message c.caller c.answer .device)) := by
  have hr' : (s.onActs fun a => { a with capcalls := a.capcalls.erase c }).resolve c.caller = .away d := hr
  change execCapcallReply s = _
  simp only [execCapcallReply, hf, hres, hfwd, hr']
  rfl

/-- A reservation that is spent. -/
def State.spent (s : State) (x : ActorId) : State := s.modActor x fun r => { r with mrsv := r.mrsv - 1 }

theorem replyWrite_cases (s : State) (x : ActorId) (bs : List Byte) (sc : Scope) :
    ((s.actor x).sge = true → s.replyWrite x bs sc = (s.spent x).mailWrite x bs sc)
    ∧ ((s.actor x).sge = false → s.replyWrite x bs sc = s.spent x) := by
  refine ⟨fun h => ?_, fun h => ?_⟩
  · exact if_pos h
  · refine if_neg ?_
    rw [h]
    exact Bool.false_ne_true

/-- The slot that a reply takes is the next one, whatever is reserved. -/
theorem mailWrite_spent (s : State) (x : ActorId) (bs : List Byte) (sc : Scope) :
    (s.spent x).mailWrite x bs sc = ((s.spent x).modCore (s.actor x).core fun c =>
        c.store ((512 * (s.actor x).mbase + 64 * (((s.actor x).mhead + (s.actor x).mcount) % 16)) % 2 ^ 18) bs).modActor x fun r =>
      { r with mcount := r.mcount + 1, mscopes := r.mscopes ++ [sc] } := by
  rw [mailWrite_eq, State.spent, actor_modActor]

theorem exec_capcallReply_none (hf : s.acts.capcalls.find? s.replyReady = none) : exec .capcallReply s = .next s := by
  change execCapcallReply s = _
  simp only [execCapcallReply, hf]

end

/-! ## Forwarding entries (R297) -/

theorem exec_forwardingRedirect_none {id : CoreId} (h : s.acts.forwards.all (fun f => decide (f.core ≠ id)) = true) :
    exec (.forwardingRedirect id) s = .next s := by
  change execForwardingRedirect id s = _
  have hnone : s.acts.forwards.filter (fun f => decide (f.core = id)) = [] := by
    simpa [List.filter_eq_nil_iff] using h
  rw [execForwardingRedirect, hnone]
  rfl

theorem exec_forwardingRedirect_one {f : Forward} (hf : s.acts.forwards = [f]) :
    exec (.forwardingRedirect f.core) s = .next (s.grantAll f.actor) := by
  change execForwardingRedirect f.core s = _
  simp [execForwardingRedirect, hf]

theorem exec_directoryUpdateAcknowledged {f : Forward} (hf : s.acts.forwards = [f]) :
    exec (.directoryUpdateAcknowledged f.core) s =
      let u : State := { s with acts := { s.acts with forwards := [] } }
      .next (if f.actor.own = false ∧ (s.actor f.actor).dev ≠ 0 then u.modActor f.actor fun r => { r with st := .free, dev := 0 } else u) := by
  change execDirectoryUpdateAcknowledged f.core s = _
  simp [execDirectoryUpdateAcknowledged, hf, State.onActs]

/-! ## The statement -/

/-- Settles O41: each step of a death by its own equation, and each arrival by the cases of what it meets. -/
theorem arrivalsAndDeath : Obligations.ArrivalsAndDeath := by
  unfold Obligations.ArrivalsAndDeath
  refine ⟨fun s x => ?_, fun s x k id cl => ?_⟩
  · intro r signals
    refine ⟨fun hr hj hc => ?_, fun h => ?_, fun hr hin hst hd hb => ?_, fun h => ?_⟩
    · obtain ⟨t, hexec, hact, ht⟩ := exec_deathSignals_eq hr hj hc
      refine ⟨t, hexec, ?_⟩
      rw [hact]
      refine ⟨rfl, rfl, rfl, ?_, ?_, ?_, ?_⟩
      · rw [ht, map_deathMail]
      · rw [ht, deathsOf_own]
      · rw [ht, trapsWithout_own]
      · rw [ht]
    · change execDeathSignals x s = _
      rw [execDeathSignals, h]
      rfl
    · exact ⟨_, exec_slotReclaim hr hin hst hd, asksGone_vacated hb⟩
    · change execSlotReclaim x s = _
      rw [execSlotReclaim, h]
      rfl
  · intro r taken received
    refine ⟨fun dst frm reason tag timer link src sc hm => ⟨exec_exitSignalArrival_gone hm, fun hr => ?_⟩,
      fun dst kind reason w1 tag body src sc hm => ⟨exec_controlMessageArrival_gone hm, fun hr => ?_⟩,
      fun ha hl hmig hd hin => ?_, exec_timerExpiry_none, fun c hf hres hfwd => ?_, exec_capcallReply_none,
      exec_forwardingRedirect_none, fun f hf hid => ?_, rfl⟩
    · obtain ⟨hends, htraps⟩ := exitArrive_cases (s.takeMail (.exit dst frm reason tag timer link src sc)) x frm reason tag timer sc
      rw [exec_exitSignalArrival_here hm hr]
      refine ⟨fun h h0 => congrArg _ ((hends h).trans (if_pos h0)), fun h h0 => congrArg _ ((hends h).trans (if_neg h0)), fun h => ?_⟩
      rw [htraps h]
      exact mailArrive_cases (s.takeMail _) x _ sc
    · rw [exec_controlMessageArrival_here hm hr]
      exact mailArrive_cases (s.takeMail _) x _ sc
    · rw [exec_timerExpiry ha hl hmig hd hin]
      exact ⟨fun hk => if_pos hk, fun hk => if_neg (hk.trans_ne Bool.false_ne_true)⟩
    · obtain ⟨hwrite, hdrop⟩ := replyWrite_cases (s.answered c) x c.answer .device
      rw [mailWrite_spent] at hwrite
      exact ⟨fun hr hg => (exec_capcallReply_here hf hres hfwd hr).trans (congrArg _ (hwrite hg)),
        fun hr hg => (exec_capcallReply_here hf hres hfwd hr).trans (congrArg _ (hdrop hg)),
        fun d hr => exec_capcallReply_away hf hres hfwd hr⟩
    · subst hid
      rw [exec_forwardingRedirect_one hf, exec_directoryUpdateAcknowledged hf]
      refine ⟨rfl, fun h => congrArg _ (if_neg ?_), fun ho hd => congrArg _ (if_pos ⟨ho, hd⟩)⟩
      rintro ⟨ho, hd⟩
      exact h.elim (fun h => Bool.false_ne_true (ho.symm.trans h)) hd

end Sys2Proof.Machine
end
